-- ==== Sys2Proof/Word.lean ====
section
/-! DEFINITION. The word types of the architecture: 64-bit scalar words (R22, R55), 32-bit instruction
words (R34) and the 7-bit register numbers of R35. -/

namespace Sys2Proof

/-- A scalar register or a word of memory (R22). -/
abbrev Word := BitVec 64

/-- An instruction word (R34). -/
abbrev IWord := BitVec 32

/-- A 7-bit register number or a 7-bit field in its place (R35). -/
abbrev Reg := BitVec 7

/-- A byte of any memory (R22). -/
abbrev Byte := BitVec 8

end Sys2Proof
end

