-- ==== Sys2Proof/Syntax.lean ====
section
/-! DEFINITION. The instructions and steps of the device: one constructor per row of the opcode table.
The instruction words of R44 to R52 come first, then the indivisible steps that the table lists beside them
(landings, turnaround groups, phase changes, dispatcher, debug, host and port steps), each naming the unit it
concerns; the rows without any field, instructions and steps alike, stand last. Register fields keep the names
of R35. -/

namespace Sys2Proof

/-- The fields of a vector word (R35): D, A, B, the end-of-run bit E and the form code FC. -/
structure VWord where
  d : Reg
  a : Reg
  b : Reg
  e : Bool
  fc : BitVec 3
  deriving DecidableEq, Repr

/-- One instruction, or one step of the device that no instruction word encodes. `core` numbers 0 to 1023
are compute cores (R9); 1024 + k stands for system core k (R16). `f64` selects opcode 11h over 10h, `w32`
selects opcode 2Dh over 2Ch. -/
inductive Instr where
  | add (d a b : Reg)  -- ADD, R99
  | sub (d a b : Reg)  -- SUB, R99
  | and (d a b : Reg)  -- AND, R99
  | or (d a b : Reg)  -- OR, R99
  | xor (d a b : Reg)  -- XOR, R99
  | shl (d a b : Reg)  -- SHL, R99
  | shr (d a b : Reg)  -- SHR, R99
  | sar (d a b : Reg)  -- SAR, R99
  | min (d a b : Reg)  -- MIN, R99
  | max (d a b : Reg)  -- MAX, R99
  | minn (d a b : Reg)  -- MINN, R99
  | maxn (d a b : Reg)  -- MAXN, R99
  | sel (d a b : Reg)  -- SEL, R99
  | mul (d a b : Reg)  -- MUL, R99
  | mulh (d a b : Reg)  -- MULH, R99
  | mulhn (d a b : Reg)  -- MULHN, R99
  | div (d a b : Reg)  -- DIV, R99
  | divn (d a b : Reg)  -- DIVN, R99
  | rem (d a b : Reg)  -- REM, R99
  | remn (d a b : Reg)  -- REMN, R99
  | cmpeq (d a b : Reg)  -- CMPEQ, R99
  | cmpne (d a b : Reg)  -- CMPNE, R99
  | cmplt (d a b : Reg)  -- CMPLT, R99
  | cmpltn (d a b : Reg)  -- CMPLTN, R99
  | cmple (d a b : Reg)  -- CMPLE, R99
  | cmplen (d a b : Reg)  -- CMPLEN, R99
  | clz (d a : Reg)  -- CLZ, R100
  | ctz (d a : Reg)  -- CTZ, R100
  | popc (d a : Reg)  -- POPC, R100
  | bext (d a b : Reg)  -- BEXT, R100
  | bins (d a b : Reg)  -- BINS, R100
  | brev (d a : Reg)  -- BREV, R100
  | addi (d a : Reg) (i : BitVec 11)  -- ADDI, R101
  | andi (d a : Reg) (i : BitVec 11)  -- ANDI, R101
  | ori (d a : Reg) (i : BitVec 11)  -- ORI, R101
  | xori (d a : Reg) (i : BitVec 11)  -- XORI, R101
  | shli (d a : Reg) (i : BitVec 11)  -- SHLI, R101
  | shri (d a : Reg) (i : BitVec 11)  -- SHRI, R101
  | sari (d a : Reg) (i : BitVec 11)  -- SARI, R101
  | li (d : Reg) (i : BitVec 18)  -- LI, R102
  | lis (d : Reg) (i : BitVec 18)  -- LIS, R102
  | mfs (d : Reg) (n : BitVec 11)  -- MFS, R67
  | mts (d : Reg) (n : BitVec 11)  -- MTS, R67
  | win (i : BitVec 11)  -- WIN, R55
  | fadd (f64 : Bool) (d a b : Reg)  -- FADD, R104
  | fsub (f64 : Bool) (d a b : Reg)  -- FSUB, R104
  | fmul (f64 : Bool) (d a b : Reg)  -- FMUL, R104
  | fdiv (f64 : Bool) (d a b : Reg)  -- FDIV, R104
  | fsqrt (f64 : Bool) (d a : Reg)  -- FSQRT, R104
  | fmin (f64 : Bool) (d a b : Reg)  -- FMIN, R104
  | fmax (f64 : Bool) (d a b : Reg)  -- FMAX, R104
  | fcmpeq (f64 : Bool) (d a b : Reg)  -- FCMPEQ, R104
  | fcmplt (f64 : Bool) (d a b : Reg)  -- FCMPLT, R104
  | fcmple (f64 : Bool) (d a b : Reg)  -- FCMPLE, R104
  | fcvtif (f64 : Bool) (d a : Reg)  -- FCVTIF, R104
  | fcvtfi (f64 : Bool) (d a : Reg)  -- FCVTFI, R104
  | fma (f64 : Bool) (d a b : Reg)  -- FMA, R104
  | padd (d a b : Reg) (w : BitVec 4)  -- PADD, R107
  | psub (d a b : Reg) (w : BitVec 4)  -- PSUB, R107
  | pdiff (d a b : Reg) (w : BitVec 4)  -- PDIFF, R107
  | paln (d a b : Reg) (w : BitVec 4)  -- PALN, R107
  | pcls (d a : Reg) (w : BitVec 4)  -- PCLS, R107
  | br (i : BitVec 18)  -- BR, R109
  | bz (d : Reg) (o : BitVec 18)  -- BZ, R109
  | bnz (d : Reg) (o : BitVec 18)  -- BNZ, R109
  | call (d : Reg) (o : BitVec 18)  -- CALL, R109
  | jr (d a : Reg)  -- JR, R109
  | loop (d : Reg) (o : BitVec 18)  -- LOOP, R113
  | guardNz (a : Reg)  -- GUARD_NZ, R116
  | guardZ (a : Reg)  -- GUARD_Z, R116
  | setl (d a b : Reg)  -- SETL, R121
  | vpart (a : Reg)  -- VPART, R120
  | msel (b : Reg)  -- MSEL, R123
  | span (i : BitVec 11)  -- SPAN, R117
  | ld (d a b : Reg) (w : BitVec 4)  -- LD, R131
  | ldn (d a b : Reg) (w : BitVec 4)  -- LDN, R131
  | st (d a b : Reg) (w : BitVec 4)  -- ST, R131
  | ldo (d a : Reg) (i : BitVec 11)  -- LDO, R132
  | sto (d a : Reg) (i : BitVec 11)  -- STO, R132
  | vld (d a b : Reg)  -- VLD, R135
  | vst (d a b : Reg)  -- VST, R135
  | vldx (d a b : Reg)  -- VLDX, R135
  | vstx (d a b : Reg)  -- VSTX, R135
  | vldt (d a b : Reg)  -- VLDT, R140
  | vstt (d a b : Reg)  -- VSTT, R140
  | vldb (d a b : Reg)  -- VLDB, R136
  | vstb (d a b : Reg)  -- VSTB, R136
  | qpop (d a q : Reg)  -- QPOP, R147
  | qpush (d a q : Reg)  -- QPUSH, R147
  | qwait (a q : Reg)  -- QWAIT, R146
  | qstat (d q : Reg)  -- QSTAT, R149
  | ltset (d a : Reg)  -- LTSET, R141
  | ltget (d a : Reg)  -- LTGET, R141
  | turn (lvl : BitVec 3) (paths : BitVec 4) (a b : Reg)  -- TURN, R158
  | turnt (lvl : BitVec 3) (paths : BitVec 4) (a : Reg)  -- TURNT, R158
  | tstat (d a : Reg)  -- TSTAT, R169
  | aadd (w32 : Bool) (fl : BitVec 2) (dr : BitVec 5) (a b : Reg)  -- AADD, R275
  | aand (w32 : Bool) (fl : BitVec 2) (dr : BitVec 5) (a b : Reg)  -- AAND, R275
  | aor (w32 : Bool) (fl : BitVec 2) (dr : BitVec 5) (a b : Reg)  -- AOR, R275
  | axor (w32 : Bool) (fl : BitVec 2) (dr : BitVec 5) (a b : Reg)  -- AXOR, R275
  | amin (w32 : Bool) (fl : BitVec 2) (dr : BitVec 5) (a b : Reg)  -- AMIN, R275
  | amax (w32 : Bool) (fl : BitVec 2) (dr : BitVec 5) (a b : Reg)  -- AMAX, R275
  | aminn (w32 : Bool) (fl : BitVec 2) (dr : BitVec 5) (a b : Reg)  -- AMINN, R275
  | amaxn (w32 : Bool) (fl : BitVec 2) (dr : BitVec 5) (a b : Reg)  -- AMAXN, R275
  | axchg (w32 : Bool) (fl : BitVec 2) (dr : BitVec 5) (a b : Reg)  -- AXCHG, R275
  | acas (w32 : Bool) (fl : BitVec 2) (dr : BitVec 5) (a b : Reg)  -- ACAS, R275
  | afadd (w32 : Bool) (fl : BitVec 2) (dr : BitVec 5) (a b : Reg)  -- AFADD, R275
  | ald (w32 : Bool) (fl : BitVec 2) (dr : BitVec 5) (a : Reg)  -- ALD, R275
  | ast (w32 : Bool) (fl : BitVec 2) (a b : Reg)  -- AST, R275
  | mshape (d a : Reg)  -- MSHAPE, R207
  | mldw (a : Reg)  -- MLDW, R208
  | mldws (a : Reg)  -- MLDWS, R210
  | mfwd (a : Reg)  -- MFWD, R213
  | mbwd (a : Reg)  -- MBWD, R213
  | mgrd (a b : Reg)  -- MGRD, R213
  | mdrain (a b : Reg)  -- MDRAIN, R217
  | mzero (b : Reg)  -- MZERO, R220
  | mamax (d : Reg)  -- MAMAX, R221
  | mstat (d : Reg)  -- MSTAT, R223
  | xfer (d a : Reg)  -- XFER, R247
  | halo (d a : Reg)  -- HALO, R247
  | xred (d a : Reg)  -- XRED, R247
  | xcast (d a : Reg)  -- XCAST, R247
  | xfar (d a : Reg)  -- XFAR, R247
  | xstat (b : Reg)  -- XSTAT, R248
  | cbarr (a b : Reg)  -- CBARR, R237
  | cbwait (b : Reg)  -- CBWAIT, R237
  | ptest (d : Reg)  -- PTEST, R236
  | trap (b : Reg)  -- TRAP, R303
  | tlbi (a b : Reg)  -- TLBI, R303
  | wfe (d : Reg)  -- WFE, R303
  | spawn (d a : Reg)  -- SPAWN, R303
  | slkill (d a b : Reg)  -- SLKILL, R303
  | resume (a b : Reg)  -- RESUME, R303
  | brk (b : Reg)  -- BRK, R318
  | smpl (b : Reg)  -- SMPL, R318
  | dmark (a : Reg)  -- DMARK, R318
  | vadd (w : VWord)  -- VADD, R181
  | vsub (w : VWord)  -- VSUB, R181
  | vmul (w : VWord)  -- VMUL, R181
  | vfma (w : VWord)  -- VFMA, R181
  | vfms (w : VWord)  -- VFMS, R181
  | vfnma (w : VWord)  -- VFNMA, R181
  | vdiv (w : VWord)  -- VDIV, R181
  | vsqrt (w : VWord)  -- VSQRT, R181
  | vrsqrt (w : VWord)  -- VRSQRT, R181
  | vrcp (w : VWord)  -- VRCP, R181
  | vmin (w : VWord)  -- VMIN, R181
  | vmax (w : VWord)  -- VMAX, R181
  | vabs (w : VWord)  -- VABS, R181
  | vneg (w : VWord)  -- VNEG, R181
  | vexp2 (w : VWord)  -- VEXP2, R181
  | vlog2 (w : VWord)  -- VLOG2, R181
  | vand (w : VWord)  -- VAND, R183
  | vor (w : VWord)  -- VOR, R183
  | vxor (w : VWord)  -- VXOR, R183
  | vshl (w : VWord)  -- VSHL, R183
  | vshr (w : VWord)  -- VSHR, R183
  | vsar (w : VWord)  -- VSAR, R183
  | vadds (w : VWord)  -- VADDS, R182
  | vsubs (w : VWord)  -- VSUBS, R182
  | vmulh (w : VWord)  -- VMULH, R182
  | vpopc (w : VWord)  -- VPOPC, R183
  | vceq (w : VWord)  -- VCEQ, R184
  | vcne (w : VWord)  -- VCNE, R184
  | vclt (w : VWord)  -- VCLT, R184
  | vcle (w : VWord)  -- VCLE, R184
  | vclass (w : VWord)  -- VCLASS, R185
  | vsel (w : VWord)  -- VSEL, R186
  | vmov (w : VWord)  -- VMOV, R187
  | vbcst (w : VWord)  -- VBCST, R187
  | vcvt (w : VWord)  -- VCVT, R188
  | vtag (w : VWord)  -- VTAG, R187
  | vround (w : VWord)  -- VROUND, R189
  | vscale (w : VWord)  -- VSCALE, R190
  | vqnt (w : VWord)  -- VQNT, R191
  | vdqnt (w : VWord)  -- VDQNT, R192
  | vrsum (w : VWord)  -- VRSUM, R193
  | vrmax (w : VWord)  -- VRMAX, R193
  | vrmin (w : VWord)  -- VRMIN, R193
  | vror (w : VWord)  -- VROR, R183
  | vperm (w : VWord)  -- VPERM, R194
  | vslup (w : VWord)  -- VSLUP, R194
  | vsldn (w : VWord)  -- VSLDN, R194
  | viota (w : VWord)  -- VIOTA, R194
  | vroll (w : VWord)  -- VROLL, R196
  | vmpop (w : VWord)  -- VMPOP, R195
  | vmfirst (w : VWord)  -- VMFIRST, R195
  | vzip (w : VWord)  -- VZIP, R194
  | vunzip (w : VWord)  -- VUNZIP, R194
  | vmand (w : VWord)  -- VMAND, R195
  | vmor (w : VWord)  -- VMOR, R195
  | vmxor (w : VWord)  -- VMXOR, R195
  | vmnot (w : VWord)  -- VMNOT, R195
  | resultLanding (core ctx : Nat)  -- RESULT_LANDING, R98
  | vectorConvoyStart (core ctx : Nat)  -- VECTOR_CONVOY_START, R173
  | vectorMemberStart (core ctx : Nat)  -- VECTOR_MEMBER_START, R173
  | vectorConvoyRetire (core ctx : Nat)  -- VECTOR_CONVOY_RETIRE, R173
  | exitComplete (core ctx : Nat)  -- EXIT_COMPLETE, R125
  | spanClose (core ctx : Nat)  -- SPAN_CLOSE, R118
  | spanOverrun (core ctx : Nat)  -- SPAN_OVERRUN, R118
  | turnStart (core ctx : Nat)  -- TURN_START, R160
  | turnGroupFlip (core ctx : Nat)  -- TURN_GROUP_FLIP, R160
  | turnComplete (core ctx : Nat)  -- TURN_COMPLETE, R160
  | matrixCommandStart (core : Nat)  -- MATRIX_COMMAND_START, R205
  | drainSectorWrite (core : Nat)  -- DRAIN_SECTOR_WRITE, R219
  | matrixCommandComplete (core : Nat)  -- MATRIX_COMMAND_COMPLETE, R214
  | parrTakesEffect (core ctx : Nat)  -- PARR_TAKES_EFFECT, R232
  | coreArrived (core : Nat)  -- CORE_ARRIVED, R234
  | cbArrivalEffect (core ctx bar : Nat)  -- CB_ARRIVAL_EFFECT, R237
  | cbGenerationComplete (core bar : Nat)  -- CB_GENERATION_COMPLETE, R237
  | descriptorStart (core slot : Nat)  -- DESCRIPTOR_START, R251
  | descriptorBeat (core slot : Nat)  -- DESCRIPTOR_BEAT, R257
  | descriptorLanded (core slot : Nat)  -- DESCRIPTOR_LANDED, R259
  | xfarHandoff (core slot : Nat)  -- XFAR_HANDOFF, R254
  | farSourceRead (core slot : Nat)  -- FAR_SOURCE_READ, R254
  | fillLand (core slot : Nat)  -- FILL_LAND, R145
  | queueDrainEntry (core queue : Nat)  -- QUEUE_DRAIN_ENTRY, R148
  | systemTrapEntry (sys : Nat)  -- SYSTEM_TRAP_ENTRY, R301
  | mboxSubWrite (v : BitVec 32)  -- MBOX_SUB_WRITE, R290
  | mboxCmpWrite (v : BitVec 32)  -- MBOX_CMP_WRITE, R290
  | graphSliceNode (walk : Nat)  -- GRAPH_SLICE_NODE, R294
  | graphCondNode (walk : Nat)  -- GRAPH_COND_NODE, R294
  | graphLoopNode (walk : Nat)  -- GRAPH_LOOP_NODE, R294
  | hctlHaltRequest (core ctx : Nat)  -- HCTL_HALT_REQUEST, R312
  | hctlRelease (core ctx : Nat)  -- HCTL_RELEASE, R315
  | haltLanding (core ctx : Nat)  -- HALT_LANDING, R312
  | svdataRead (core : Nat)  -- SVDATA_READ, R316
  | svdataWrite (core : Nat) (v : Word)  -- SVDATA_WRITE, R317
  | registerWrite (bar off : Nat) (v : Word)  -- REGISTER_WRITE, R342
  | ecccntWrite (v : Word)  -- ECCCNT_WRITE, R342
  | hostWindowRead (off len : Nat)  -- HOST_WINDOW_READ, R343
  | hostWindowWrite (off len : Nat) (v : Nat)  -- HOST_WINDOW_WRITE, R343
  | scUnknownCommand (v : Word)  -- SC_UNKNOWN_COMMAND, R357
  | slotTableWrite (port entry : Nat) (v : Word)  -- SLOT_TABLE_WRITE, R353
  | flitTransmit (port : Nat)  -- FLIT_TRANSMIT, R267
  | flitReceive (port : Nat) (flit : BitVec 640)  -- FLIT_RECEIVE, R351
  | powerWarn (power temp : Nat)  -- POWER_WARN, R354
  | powerTrip (power temp : Nat)  -- POWER_TRIP, R354
  | patrolScrub (sector : Nat)  -- PATROL_SCRUB, R347
  | notAnInstruction (w : IWord)  -- NOT_AN_INSTRUCTION, R53
  | nop  -- NOP, R124
  | exit  -- EXIT, R125
  | vrel  -- VREL, R122
  | lfence  -- LFENCE, R141
  | twait  -- TWAIT, R168
  | mswap  -- MSWAP, R211
  | mwait  -- MWAIT, R222
  | parr  -- PARR, R232
  | pwait  -- PWAIT, R233
  | yield  -- YIELD, R239
  | rft  -- RFT, R303
  | straggler  -- STRAGGLER, R240
  | phaseChange  -- PHASE_CHANGE, R235
  | budgetExhausted  -- BUDGET_EXHAUSTED, R296
  | preemption  -- PREEMPTION, R242
  | sliceStart  -- SLICE_START, R288
  | sliceResume  -- SLICE_RESUME, R305
  | sliceCompletion  -- SLICE_COMPLETION, R292
  | photonicWakeup  -- PHOTONIC_WAKEUP, R264
  | trapRecordEnqueue  -- TRAP_RECORD_ENQUEUE, R300
  | submitSlice  -- SUBMIT_SLICE, R287
  | submitGraph  -- SUBMIT_GRAPH, R293
  | submitKill  -- SUBMIT_KILL, R291
  | submitIgnored  -- SUBMIT_IGNORED, R291
  | recordWrite  -- RECORD_WRITE, R292
  | traceRecord  -- TRACE_RECORD, R321
  | tbwpWrite  -- TBWP_WRITE, R321
  | panicFreeze  -- PANIC_FREEZE, R323
  | moduleReset  -- MODULE_RESET, R342
  | powerGood  -- POWER_GOOD, R355
  | firmwareVerify  -- FIRMWARE_VERIFY, R356
  | memoryTraining  -- MEMORY_TRAINING, R355
  | portTraining  -- PORT_TRAINING, R352
  | scerathLoad  -- SCERATH_LOAD, R355
  | bootGo  -- BOOT_GO, R355
  | scReadPublicKey  -- SC_READ_PUBLIC_KEY, R357
  | scAttest  -- SC_ATTEST, R358
  | scReadSignatureIndex  -- SC_READ_SIGNATURE_INDEX, R357
  | scCommandDone  -- SC_COMMAND_DONE, R357
  | rotationBoundary  -- ROTATION_BOUNDARY, R353
  | slotBoundary  -- SLOT_BOUNDARY, R351
  deriving DecidableEq, Repr

end Sys2Proof
end

