-- ==== Sys2Proof/WellFormed.lean ====
section
/-! DEFINITION. Well-formed instructions: the field limits that decoding itself imposes (width code F of R52,
listed vector forms and zero unused fields of R37, R38 and R179), and the unit numbers of the other steps. -/

namespace Sys2Proof

/-- The fates R53 gives a word that is no instruction, by name. -/
inductive Reject where
  | reservedOpcode        -- ILLEGAL-OP
  | reservedSubfunction   -- ILLEGAL-OP
  | reservedWidth         -- ILLEGAL-OP
  | unusedField           -- ILLEGAL-OP
  | unlistedForm          -- ILLEGAL-OPERAND
  deriving DecidableEq, Repr

/-- The classes of operand form in the table of R179. -/
inductive VForms where
  | two          -- VV 000b to 011b, VS 100b and 101b, VI 110b and 111b
  | one          -- VV 000b or 010b, B = 0
  | code         -- VI 110b or 111b, B a code
  | codeWait     -- VI 110b, B a code
  | bcast        -- VV 000b or 010b with B = 0, VS 100b, VI 110b
  | reduce       -- VV 000b, B = 0
  | pair         -- VV 000b
  | perm         -- VV 000b, VS 100b, VI 110b
  | slide        -- VS 100b, VI 110b
  | iota         -- VI 110b, A = 0
  | roll         -- VV 000b to 011b, VS 100b and 101b
  deriving DecidableEq, Repr

/-- The form class of each vector opcode (R179); none for 75h and 7Ah to 7Fh. -/
def vforms : Nat → Option VForms
  | 0x46 => some .two
  | 0x47 => some .one | 0x48 => some .one | 0x49 => some .one
  | 0x4A => some .two | 0x4B => some .two
  | 0x4C => some .one | 0x4D => some .one | 0x4E => some .one | 0x4F => some .one
  | 0x59 => some .one
  | 0x5E => some .code
  | 0x60 => some .one
  | 0x61 => some .bcast
  | 0x62 => some .code
  | 0x63 => some .codeWait
  | 0x64 => some .code
  | 0x65 => some .two
  | 0x66 => some .codeWait
  | 0x67 => some .code
  | 0x68 => some .reduce | 0x69 => some .reduce | 0x6A => some .reduce
  | 0x6B => some .two
  | 0x6C => some .perm
  | 0x6D => some .slide | 0x6E => some .slide
  | 0x6F => some .iota
  | 0x70 => some .roll
  | 0x71 => some .reduce | 0x72 => some .reduce
  | 0x73 => some .pair | 0x74 => some .pair
  | 0x76 => some .pair | 0x77 => some .pair | 0x78 => some .pair
  | 0x79 => some .reduce
  | op => if (0x40 ≤ op && op < 0x46) || (0x50 ≤ op && op < 0x60) then some .two else none

/-- Whether FC is listed for the form class (R38, R179). -/
def VForms.lists (k : VForms) (fc : BitVec 3) : Bool :=
  let f := fc.toNat
  match k with
  | .two => true
  | .one => f == 0 || f == 2
  | .code => f == 6 || f == 7
  | .codeWait => f == 6
  | .bcast => f == 0 || f == 2 || f == 4 || f == 6
  | .reduce => f == 0
  | .pair => f == 0
  | .perm => f == 0 || f == 4 || f == 6
  | .slide => f == 4 || f == 6
  | .iota => f == 6
  | .roll => f < 6

/-- Whether every field that the form class leaves unused is zero (R37, R178). -/
def VForms.unusedZero (k : VForms) (w : VWord) : Bool :=
  match k with
  | .one | .reduce => w.b == 0
  | .bcast => w.b == 0 || 4 ≤ w.fc.toNat
  | .iota => w.a == 0
  | _ => true

/-- The checks of classes 2 and 4 of R54 that a vector word meets before its operands are looked at. -/
def vecCheckForm (op : Nat) (w : VWord) : Except Reject Unit :=
  match vforms op with
  | none => .error .reservedOpcode
  | some k =>
    if !k.unusedZero w then .error .unusedField
    else if !k.lists w.fc then .error .unlistedForm
    else .ok ()

/-- The vector opcode and fields of a vector instruction (R44). -/
def Instr.vec : Instr → Option (Nat × VWord)
  | .vadd w => some (0x40, w) | .vsub w => some (0x41, w) | .vmul w => some (0x42, w)
  | .vfma w => some (0x43, w) | .vfms w => some (0x44, w) | .vfnma w => some (0x45, w)
  | .vdiv w => some (0x46, w) | .vsqrt w => some (0x47, w) | .vrsqrt w => some (0x48, w)
  | .vrcp w => some (0x49, w) | .vmin w => some (0x4A, w) | .vmax w => some (0x4B, w)
  | .vabs w => some (0x4C, w) | .vneg w => some (0x4D, w) | .vexp2 w => some (0x4E, w)
  | .vlog2 w => some (0x4F, w) | .vand w => some (0x50, w) | .vor w => some (0x51, w)
  | .vxor w => some (0x52, w) | .vshl w => some (0x53, w) | .vshr w => some (0x54, w)
  | .vsar w => some (0x55, w) | .vadds w => some (0x56, w) | .vsubs w => some (0x57, w)
  | .vmulh w => some (0x58, w) | .vpopc w => some (0x59, w) | .vceq w => some (0x5A, w)
  | .vcne w => some (0x5B, w) | .vclt w => some (0x5C, w) | .vcle w => some (0x5D, w)
  | .vclass w => some (0x5E, w) | .vsel w => some (0x5F, w) | .vmov w => some (0x60, w)
  | .vbcst w => some (0x61, w) | .vcvt w => some (0x62, w) | .vtag w => some (0x63, w)
  | .vround w => some (0x64, w) | .vscale w => some (0x65, w) | .vqnt w => some (0x66, w)
  | .vdqnt w => some (0x67, w) | .vrsum w => some (0x68, w) | .vrmax w => some (0x69, w)
  | .vrmin w => some (0x6A, w) | .vror w => some (0x6B, w) | .vperm w => some (0x6C, w)
  | .vslup w => some (0x6D, w) | .vsldn w => some (0x6E, w) | .viota w => some (0x6F, w)
  | .vroll w => some (0x70, w) | .vmpop w => some (0x71, w) | .vmfirst w => some (0x72, w)
  | .vzip w => some (0x73, w) | .vunzip w => some (0x74, w) | .vmand w => some (0x76, w)
  | .vmor w => some (0x77, w) | .vmxor w => some (0x78, w) | .vmnot w => some (0x79, w)
  | _ => none

/-- The width code of an instruction that takes one (R52). -/
def Instr.width : Instr → Option (BitVec 4)
  | .padd _ _ _ w | .psub _ _ _ w | .pdiff _ _ _ w | .paln _ _ _ w | .pcls _ _ w
  | .ld _ _ _ w | .ldn _ _ _ w | .st _ _ _ w => some w
  | _ => none

/-- Whether the unit numbers of a step without an encoding name a unit of the device (R8, R10, R16, R237, R350). -/
def Instr.unitsOk : Instr → Bool
  | .resultLanding c x | .vectorConvoyStart c x | .vectorMemberStart c x | .vectorConvoyRetire c x
  | .exitComplete c x | .spanClose c x | .spanOverrun c x | .turnStart c x | .turnGroupFlip c x
  | .turnComplete c x | .parrTakesEffect c x | .hctlHaltRequest c x | .hctlRelease c x
  | .haltLanding c x => c < 1032 && x < 4
  | .matrixCommandStart c | .drainSectorWrite c | .matrixCommandComplete c | .coreArrived c
  | .svdataRead c | .svdataWrite c _ => c < 1024
  | .cbArrivalEffect c x b => c < 1032 && x < 4 && b < 4
  | .cbGenerationComplete c b => c < 1032 && b < 4
  | .descriptorStart c _ | .descriptorBeat c _ | .descriptorLanded c _ | .xfarHandoff c _
  | .farSourceRead c _ | .fillLand c _ => c < 1024
  | .queueDrainEntry c q => c < 1024 && q < 16
  | .systemTrapEntry k => k < 8
  | .slotTableWrite p k _ => p < 48 && k < 64
  | .flitTransmit p | .flitReceive p _ => p < 48
  | _ => true

/-- Well-formed: an instruction a word can encode, or a step that names units the device has. -/
def WellFormed (i : Instr) : Bool :=
  match i.vec with
  | some (op, w) => match vecCheckForm op w with
    | .ok _ => true
    | .error _ => false
  | none =>
    match i.width with
    | some w => w != 0xF
    | none => i.unitsOk

end Sys2Proof
end

