-- ==== Sys2Proof/Decode.lean ====
section
/-! DEFINITION. The decoder of instruction words (R34 to R53) and the encoder beside it. Decoding is total: a
word that is no instruction is rejected under the name of the reason. -/

namespace Sys2Proof

/-- A field that the instruction does not use must be zero (R37). -/
def zero (x : Reg) (k : Except Reject Instr) : Except Reject Instr :=
  if x = 0 then k else .error .unusedField

/-- The width code Fh is reserved (R52). -/
def widthOk (w : BitVec 4) (i : Instr) : Except Reject Instr :=
  if w = 0xF then .error .reservedWidth else .ok i

/-- Subfunctions of ALU (R46). -/
def decodeAlu (f : Nat) (d a b : Reg) : Except Reject Instr :=
  match f with
  | 0 => .ok (.add d a b)
  | 1 => .ok (.sub d a b)
  | 2 => .ok (.and d a b)
  | 3 => .ok (.or d a b)
  | 4 => .ok (.xor d a b)
  | 5 => .ok (.shl d a b)
  | 6 => .ok (.shr d a b)
  | 7 => .ok (.sar d a b)
  | 8 => .ok (.min d a b)
  | 9 => .ok (.max d a b)
  | 10 => .ok (.minn d a b)
  | 11 => .ok (.maxn d a b)
  | 12 => .ok (.sel d a b)
  | _ => .error .reservedSubfunction

/-- Subfunctions of MULDIV (R46). -/
def decodeMulDiv (f : Nat) (d a b : Reg) : Except Reject Instr :=
  match f with
  | 0 => .ok (.mul d a b)
  | 1 => .ok (.mulh d a b)
  | 2 => .ok (.mulhn d a b)
  | 3 => .ok (.div d a b)
  | 4 => .ok (.divn d a b)
  | 5 => .ok (.rem d a b)
  | 6 => .ok (.remn d a b)
  | _ => .error .reservedSubfunction

/-- Subfunctions of CMP (R46). -/
def decodeCmp (f : Nat) (d a b : Reg) : Except Reject Instr :=
  match f with
  | 0 => .ok (.cmpeq d a b)
  | 1 => .ok (.cmpne d a b)
  | 2 => .ok (.cmplt d a b)
  | 3 => .ok (.cmpltn d a b)
  | 4 => .ok (.cmple d a b)
  | 5 => .ok (.cmplen d a b)
  | _ => .error .reservedSubfunction

/-- Subfunctions of BIT (R46). -/
def decodeBit (f : Nat) (d a b : Reg) : Except Reject Instr :=
  match f with
  | 0 => zero b (.ok (.clz d a))
  | 1 => zero b (.ok (.ctz d a))
  | 2 => zero b (.ok (.popc d a))
  | 3 => .ok (.bext d a b)
  | 4 => .ok (.bins d a b)
  | 5 => zero b (.ok (.brev d a))
  | _ => .error .reservedSubfunction

/-- Subfunctions of FP32 and FP64 (R46). -/
def decodeFp (f64 : Bool) (f : Nat) (d a b : Reg) : Except Reject Instr :=
  match f with
  | 0 => .ok (.fadd f64 d a b)
  | 1 => .ok (.fsub f64 d a b)
  | 2 => .ok (.fmul f64 d a b)
  | 3 => .ok (.fdiv f64 d a b)
  | 4 => zero b (.ok (.fsqrt f64 d a))
  | 5 => .ok (.fmin f64 d a b)
  | 6 => .ok (.fmax f64 d a b)
  | 7 => .ok (.fcmpeq f64 d a b)
  | 8 => .ok (.fcmplt f64 d a b)
  | 9 => .ok (.fcmple f64 d a b)
  | 10 => zero b (.ok (.fcvtif f64 d a))
  | 11 => zero b (.ok (.fcvtfi f64 d a))
  | 12 => .ok (.fma f64 d a b)
  | _ => .error .reservedSubfunction

/-- Subfunctions of CTL (R47). -/
def decodeCtl (f : Nat) (d a b : Reg) : Except Reject Instr :=
  match f with
  | 0 => zero d (zero b (.ok (.guardNz a)))
  | 1 => zero d (zero b (.ok (.guardZ a)))
  | 2 => zero d (zero a (zero b (.ok .nop)))
  | 3 => zero d (zero a (zero b (.ok .exit)))
  | 4 => zero d (zero a (zero b (.ok .vrel)))
  | 5 => .ok (.setl d a b)
  | 6 => zero d (zero b (.ok (.vpart a)))
  | 7 => zero d (zero a (.ok (.msel b)))
  | _ => .error .reservedSubfunction

/-- Subfunctions of VMEM (R48). -/
def decodeVMem (f : Nat) (d a b : Reg) : Except Reject Instr :=
  match f with
  | 0 => .ok (.vld d a b)
  | 1 => .ok (.vst d a b)
  | 2 => .ok (.vldx d a b)
  | 3 => .ok (.vstx d a b)
  | 4 => .ok (.vldt d a b)
  | 5 => .ok (.vstt d a b)
  | 6 => .ok (.vldb d a b)
  | 7 => .ok (.vstb d a b)
  | _ => .error .reservedSubfunction

/-- Subfunctions of QUEUE (R48). -/
def decodeQueue (f : Nat) (d a b : Reg) : Except Reject Instr :=
  match f with
  | 0 => .ok (.qpop d a b)
  | 1 => .ok (.qpush d a b)
  | 2 => zero d (.ok (.qwait a b))
  | 3 => zero a (.ok (.qstat d b))
  | _ => .error .reservedSubfunction

/-- Subfunctions of LAYOUT (R48). -/
def decodeLayout (f : Nat) (d a b : Reg) : Except Reject Instr :=
  match f with
  | 0 => zero b (.ok (.ltset d a))
  | 1 => zero b (.ok (.ltget d a))
  | 2 => zero d (zero a (zero b (.ok .lfence)))
  | _ => .error .reservedSubfunction

/-- Subfunctions of TURN (R49). -/
def decodeTurn (f : Nat) (d a b : Reg) : Except Reject Instr :=
  match f with
  | 0 => .ok (.turn (d.extractLsb' 4 3) (d.extractLsb' 0 4) a b)
  | 1 => zero b (.ok (.turnt (d.extractLsb' 4 3) (d.extractLsb' 0 4) a))
  | 2 => zero d (zero a (zero b (.ok .twait)))
  | 3 => zero b (.ok (.tstat d a))
  | _ => .error .reservedSubfunction

/-- Subfunctions of ATOM64 and ATOM32 (R50, R274). -/
def decodeAtom (w32 : Bool) (f : Nat) (d a b : Reg) : Except Reject Instr :=
  match f with
  | 0 => .ok (.aadd w32 (d.extractLsb' 5 2) (d.extractLsb' 0 5) a b)
  | 1 => .ok (.aand w32 (d.extractLsb' 5 2) (d.extractLsb' 0 5) a b)
  | 2 => .ok (.aor w32 (d.extractLsb' 5 2) (d.extractLsb' 0 5) a b)
  | 3 => .ok (.axor w32 (d.extractLsb' 5 2) (d.extractLsb' 0 5) a b)
  | 4 => .ok (.amin w32 (d.extractLsb' 5 2) (d.extractLsb' 0 5) a b)
  | 5 => .ok (.amax w32 (d.extractLsb' 5 2) (d.extractLsb' 0 5) a b)
  | 6 => .ok (.aminn w32 (d.extractLsb' 5 2) (d.extractLsb' 0 5) a b)
  | 7 => .ok (.amaxn w32 (d.extractLsb' 5 2) (d.extractLsb' 0 5) a b)
  | 8 => .ok (.axchg w32 (d.extractLsb' 5 2) (d.extractLsb' 0 5) a b)
  | 9 => .ok (.acas w32 (d.extractLsb' 5 2) (d.extractLsb' 0 5) a b)
  | 10 => .ok (.afadd w32 (d.extractLsb' 5 2) (d.extractLsb' 0 5) a b)
  | 11 => zero b (.ok (.ald w32 (d.extractLsb' 5 2) (d.extractLsb' 0 5) a))
  | 12 => if d.extractLsb' 0 5 = 0 then .ok (.ast w32 (d.extractLsb' 5 2) a b) else .error .unusedField
  | _ => .error .reservedSubfunction

/-- Subfunctions of MATRIX (R51). -/
def decodeMatrix (f : Nat) (d a b : Reg) : Except Reject Instr :=
  match f with
  | 0 => zero b (.ok (.mshape d a))
  | 1 => zero d (zero b (.ok (.mldw a)))
  | 2 => zero d (zero b (.ok (.mldws a)))
  | 3 => zero d (zero a (zero b (.ok .mswap)))
  | 4 => zero d (zero b (.ok (.mfwd a)))
  | 5 => zero d (zero b (.ok (.mbwd a)))
  | 6 => zero d (.ok (.mgrd a b))
  | 7 => zero d (.ok (.mdrain a b))
  | 8 => zero d (zero a (.ok (.mzero b)))
  | 9 => zero a (zero b (.ok (.mamax d)))
  | 10 => zero d (zero a (zero b (.ok .mwait)))
  | 11 => zero a (zero b (.ok (.mstat d)))
  | _ => .error .reservedSubfunction

/-- Subfunctions of EXCH (R51, R248). -/
def decodeExch (f : Nat) (d a b : Reg) : Except Reject Instr :=
  match f with
  | 0 => zero b (.ok (.xfer d a))
  | 1 => zero b (.ok (.halo d a))
  | 2 => zero b (.ok (.xred d a))
  | 3 => zero b (.ok (.xcast d a))
  | 4 => zero b (.ok (.xfar d a))
  | 5 => zero d (zero a (.ok (.xstat b)))
  | _ => .error .reservedSubfunction

/-- Subfunctions of PHASE (R51). -/
def decodePhase (f : Nat) (d a b : Reg) : Except Reject Instr :=
  match f with
  | 0 => zero d (zero a (zero b (.ok .parr)))
  | 1 => zero d (zero a (zero b (.ok .pwait)))
  | 2 => zero d (.ok (.cbarr a b))
  | 3 => zero d (zero a (.ok (.cbwait b)))
  | 4 => zero d (zero a (zero b (.ok .yield)))
  | 5 => zero a (zero b (.ok (.ptest d)))
  | _ => .error .reservedSubfunction

/-- Subfunctions of SYS (R51). -/
def decodeSys (f : Nat) (d a b : Reg) : Except Reject Instr :=
  match f with
  | 0 => zero d (zero a (.ok (.trap b)))
  | 1 => zero d (zero a (zero b (.ok .rft)))
  | 2 => zero d (.ok (.tlbi a b))
  | 3 => zero a (zero b (.ok (.wfe d)))
  | 4 => zero b (.ok (.spawn d a))
  | 5 => .ok (.slkill d a b)
  | 6 => zero d (.ok (.resume a b))
  | _ => .error .reservedSubfunction

/-- Subfunctions of DBG (R51). -/
def decodeDbg (f : Nat) (d a b : Reg) : Except Reject Instr :=
  match f with
  | 0 => zero d (zero a (.ok (.brk b)))
  | 1 => zero d (zero a (.ok (.smpl b)))
  | 2 => zero d (zero b (.ok (.dmark a)))
  | _ => .error .reservedSubfunction

/-- The vector opcodes 40h to 79h (R44). -/
def vecOf (op : Nat) (w : VWord) : Option Instr :=
  match op with
  | 0x40 => some (.vadd w)
  | 0x41 => some (.vsub w)
  | 0x42 => some (.vmul w)
  | 0x43 => some (.vfma w)
  | 0x44 => some (.vfms w)
  | 0x45 => some (.vfnma w)
  | 0x46 => some (.vdiv w)
  | 0x47 => some (.vsqrt w)
  | 0x48 => some (.vrsqrt w)
  | 0x49 => some (.vrcp w)
  | 0x4A => some (.vmin w)
  | 0x4B => some (.vmax w)
  | 0x4C => some (.vabs w)
  | 0x4D => some (.vneg w)
  | 0x4E => some (.vexp2 w)
  | 0x4F => some (.vlog2 w)
  | 0x50 => some (.vand w)
  | 0x51 => some (.vor w)
  | 0x52 => some (.vxor w)
  | 0x53 => some (.vshl w)
  | 0x54 => some (.vshr w)
  | 0x55 => some (.vsar w)
  | 0x56 => some (.vadds w)
  | 0x57 => some (.vsubs w)
  | 0x58 => some (.vmulh w)
  | 0x59 => some (.vpopc w)
  | 0x5A => some (.vceq w)
  | 0x5B => some (.vcne w)
  | 0x5C => some (.vclt w)
  | 0x5D => some (.vcle w)
  | 0x5E => some (.vclass w)
  | 0x5F => some (.vsel w)
  | 0x60 => some (.vmov w)
  | 0x61 => some (.vbcst w)
  | 0x62 => some (.vcvt w)
  | 0x63 => some (.vtag w)
  | 0x64 => some (.vround w)
  | 0x65 => some (.vscale w)
  | 0x66 => some (.vqnt w)
  | 0x67 => some (.vdqnt w)
  | 0x68 => some (.vrsum w)
  | 0x69 => some (.vrmax w)
  | 0x6A => some (.vrmin w)
  | 0x6B => some (.vror w)
  | 0x6C => some (.vperm w)
  | 0x6D => some (.vslup w)
  | 0x6E => some (.vsldn w)
  | 0x6F => some (.viota w)
  | 0x70 => some (.vroll w)
  | 0x71 => some (.vmpop w)
  | 0x72 => some (.vmfirst w)
  | 0x73 => some (.vzip w)
  | 0x74 => some (.vunzip w)
  | 0x76 => some (.vmand w)
  | 0x77 => some (.vmor w)
  | 0x78 => some (.vmxor w)
  | 0x79 => some (.vmnot w)
  | _ => none

/-- A vector word: its unused fields and its form are checked against the operand-case table (R38, R179). -/
def decodeVec (op : Nat) (d a b : Reg) (f : BitVec 4) : Except Reject Instr :=
  let w : VWord := ⟨d, a, b, f.getLsbD 3, f.extractLsb' 0 3⟩
  match vecOf op w with
  | none => .error .reservedOpcode
  | some i =>
    match vecCheckForm op w with
    | .ok _ => .ok i
    | .error r => .error r

/-- The primary opcode grid (R44, R45); the fields of R35 are already taken apart. -/
def decodeFields (op : Nat) (d a b : Reg) (f : BitVec 4) : Except Reject Instr :=
  match op with
  | 0x01 => decodeAlu f.toNat d a b
  | 0x02 => decodeMulDiv f.toNat d a b
  | 0x03 => decodeCmp f.toNat d a b
  | 0x04 => decodeBit f.toNat d a b
  | 0x05 => .ok (.addi d a (b ++ f))
  | 0x06 => .ok (.andi d a (b ++ f))
  | 0x07 => .ok (.ori d a (b ++ f))
  | 0x08 => .ok (.xori d a (b ++ f))
  | 0x09 => .ok (.shli d a (b ++ f))
  | 0x0A => .ok (.shri d a (b ++ f))
  | 0x0B => .ok (.sari d a (b ++ f))
  | 0x0C => .ok (.li d (a ++ (b ++ f)))
  | 0x0D => .ok (.lis d (a ++ (b ++ f)))
  | 0x0E => zero a (.ok (.mfs d (b ++ f)))
  | 0x0F => zero a (.ok (.mts d (b ++ f)))
  | 0x10 => decodeFp false f.toNat d a b
  | 0x11 => decodeFp true f.toNat d a b
  | 0x12 => widthOk f (.padd d a b f)
  | 0x13 => widthOk f (.psub d a b f)
  | 0x14 => widthOk f (.pdiff d a b f)
  | 0x15 => widthOk f (.paln d a b f)
  | 0x16 => zero b (widthOk f (.pcls d a f))
  | 0x17 => zero a (zero d (.ok (.win (b ++ f))))
  | 0x18 => zero d (.ok (.br (a ++ (b ++ f))))
  | 0x19 => .ok (.bz d (a ++ (b ++ f)))
  | 0x1A => .ok (.bnz d (a ++ (b ++ f)))
  | 0x1B => .ok (.call d (a ++ (b ++ f)))
  | 0x1C => if f = 0 then zero b (.ok (.jr d a)) else .error .unusedField
  | 0x1D => .ok (.loop d (a ++ (b ++ f)))
  | 0x1E => decodeCtl f.toNat d a b
  | 0x1F => zero a (zero d (.ok (.span (b ++ f))))
  | 0x20 => widthOk f (.ld d a b f)
  | 0x21 => widthOk f (.ldn d a b f)
  | 0x22 => widthOk f (.st d a b f)
  | 0x23 => .ok (.ldo d a (b ++ f))
  | 0x24 => .ok (.sto d a (b ++ f))
  | 0x25 => decodeVMem f.toNat d a b
  | 0x26 => decodeQueue f.toNat d a b
  | 0x27 => decodeLayout f.toNat d a b
  | 0x28 => decodeTurn f.toNat d a b
  | 0x2C => decodeAtom false f.toNat d a b
  | 0x2D => decodeAtom true f.toNat d a b
  | 0x30 => decodeMatrix f.toNat d a b
  | 0x38 => decodeExch f.toNat d a b
  | 0x3C => decodePhase f.toNat d a b
  | 0x3D => decodeSys f.toNat d a b
  | 0x3E => decodeDbg f.toNat d a b
  | _ => decodeVec op d a b f

/-- The fields of R35: OP [31:25], D [24:18], A [17:11], B [10:4], F [3:0]. -/
def IWord.op (w : IWord) : BitVec 7 := w.extractLsb' 25 7
def IWord.d (w : IWord) : Reg := w.extractLsb' 18 7
def IWord.a (w : IWord) : Reg := w.extractLsb' 11 7
def IWord.b (w : IWord) : Reg := w.extractLsb' 4 7
def IWord.f (w : IWord) : BitVec 4 := w.extractLsb' 0 4

/-- Decode one 32-bit word. -/
def decode (w : IWord) : Except Reject Instr :=
  decodeFields (IWord.op w).toNat (IWord.d w) (IWord.a w) (IWord.b w) (IWord.f w)

/-- What the front end takes up for a word: the instruction, or the step that faults on it (R53). -/
def fetchInstr (w : IWord) : Instr :=
  match decode w with
  | .ok i => i
  | .error _ => .notAnInstruction w

/-- A word in R format (R35). -/
def packR (op : BitVec 7) (d a b : Reg) (f : BitVec 4) : Option IWord := some (op ++ (d ++ (a ++ (b ++ f))))
/-- A word in I format. -/
def packI (op : BitVec 7) (d a : Reg) (i : BitVec 11) : Option IWord := some (op ++ (d ++ (a ++ i)))
/-- A word in L or Bc format. -/
def packL (op : BitVec 7) (d : Reg) (i : BitVec 18) : Option IWord := some (op ++ (d ++ i))
/-- A word in V format. -/
def packV (op : BitVec 7) (w : VWord) : Option IWord :=
  some (op ++ (w.d ++ (w.a ++ (w.b ++ (BitVec.ofBool w.e ++ w.fc)))))

/-- The word of an instruction; none for a step that has no encoding. -/
def encode (i : Instr) : Option IWord :=
  match i with
  | .add d a b => packR 0x01 d a b 0
  | .sub d a b => packR 0x01 d a b 1
  | .and d a b => packR 0x01 d a b 2
  | .or d a b => packR 0x01 d a b 3
  | .xor d a b => packR 0x01 d a b 4
  | .shl d a b => packR 0x01 d a b 5
  | .shr d a b => packR 0x01 d a b 6
  | .sar d a b => packR 0x01 d a b 7
  | .min d a b => packR 0x01 d a b 8
  | .max d a b => packR 0x01 d a b 9
  | .minn d a b => packR 0x01 d a b 10
  | .maxn d a b => packR 0x01 d a b 11
  | .sel d a b => packR 0x01 d a b 12
  | .mul d a b => packR 0x02 d a b 0
  | .mulh d a b => packR 0x02 d a b 1
  | .mulhn d a b => packR 0x02 d a b 2
  | .div d a b => packR 0x02 d a b 3
  | .divn d a b => packR 0x02 d a b 4
  | .rem d a b => packR 0x02 d a b 5
  | .remn d a b => packR 0x02 d a b 6
  | .cmpeq d a b => packR 0x03 d a b 0
  | .cmpne d a b => packR 0x03 d a b 1
  | .cmplt d a b => packR 0x03 d a b 2
  | .cmpltn d a b => packR 0x03 d a b 3
  | .cmple d a b => packR 0x03 d a b 4
  | .cmplen d a b => packR 0x03 d a b 5
  | .clz d a => packR 0x04 d a 0 0
  | .ctz d a => packR 0x04 d a 0 1
  | .popc d a => packR 0x04 d a 0 2
  | .bext d a b => packR 0x04 d a b 3
  | .bins d a b => packR 0x04 d a b 4
  | .brev d a => packR 0x04 d a 0 5
  | .addi d a i => packI 0x05 d a i
  | .andi d a i => packI 0x06 d a i
  | .ori d a i => packI 0x07 d a i
  | .xori d a i => packI 0x08 d a i
  | .shli d a i => packI 0x09 d a i
  | .shri d a i => packI 0x0A d a i
  | .sari d a i => packI 0x0B d a i
  | .li d i => packL 0x0C d i
  | .lis d i => packL 0x0D d i
  | .mfs d n => packI 0x0E d 0 n
  | .mts d n => packI 0x0F d 0 n
  | .win i => packI 0x17 0 0 i
  | .fadd f64 d a b => packR (if f64 then 0x11 else 0x10) d a b 0
  | .fsub f64 d a b => packR (if f64 then 0x11 else 0x10) d a b 1
  | .fmul f64 d a b => packR (if f64 then 0x11 else 0x10) d a b 2
  | .fdiv f64 d a b => packR (if f64 then 0x11 else 0x10) d a b 3
  | .fsqrt f64 d a => packR (if f64 then 0x11 else 0x10) d a 0 4
  | .fmin f64 d a b => packR (if f64 then 0x11 else 0x10) d a b 5
  | .fmax f64 d a b => packR (if f64 then 0x11 else 0x10) d a b 6
  | .fcmpeq f64 d a b => packR (if f64 then 0x11 else 0x10) d a b 7
  | .fcmplt f64 d a b => packR (if f64 then 0x11 else 0x10) d a b 8
  | .fcmple f64 d a b => packR (if f64 then 0x11 else 0x10) d a b 9
  | .fcvtif f64 d a => packR (if f64 then 0x11 else 0x10) d a 0 10
  | .fcvtfi f64 d a => packR (if f64 then 0x11 else 0x10) d a 0 11
  | .fma f64 d a b => packR (if f64 then 0x11 else 0x10) d a b 12
  | .padd d a b w => packR 0x12 d a b w
  | .psub d a b w => packR 0x13 d a b w
  | .pdiff d a b w => packR 0x14 d a b w
  | .paln d a b w => packR 0x15 d a b w
  | .pcls d a w => packR 0x16 d a 0 w
  | .br i => packL 0x18 0 i
  | .bz d o => packL 0x19 d o
  | .bnz d o => packL 0x1A d o
  | .call d o => packL 0x1B d o
  | .jr d a => packR 0x1C d a 0 0
  | .loop d o => packL 0x1D d o
  | .guardNz a => packR 0x1E 0 a 0 0
  | .guardZ a => packR 0x1E 0 a 0 1
  | .nop => packR 0x1E 0 0 0 2
  | .exit => packR 0x1E 0 0 0 3
  | .vrel => packR 0x1E 0 0 0 4
  | .setl d a b => packR 0x1E d a b 5
  | .vpart a => packR 0x1E 0 a 0 6
  | .msel b => packR 0x1E 0 0 b 7
  | .span i => packI 0x1F 0 0 i
  | .ld d a b w => packR 0x20 d a b w
  | .ldn d a b w => packR 0x21 d a b w
  | .st d a b w => packR 0x22 d a b w
  | .ldo d a i => packI 0x23 d a i
  | .sto d a i => packI 0x24 d a i
  | .vld d a b => packR 0x25 d a b 0
  | .vst d a b => packR 0x25 d a b 1
  | .vldx d a b => packR 0x25 d a b 2
  | .vstx d a b => packR 0x25 d a b 3
  | .vldt d a b => packR 0x25 d a b 4
  | .vstt d a b => packR 0x25 d a b 5
  | .vldb d a b => packR 0x25 d a b 6
  | .vstb d a b => packR 0x25 d a b 7
  | .qpop d a q => packR 0x26 d a q 0
  | .qpush d a q => packR 0x26 d a q 1
  | .qwait a q => packR 0x26 0 a q 2
  | .qstat d q => packR 0x26 d 0 q 3
  | .ltset d a => packR 0x27 d a 0 0
  | .ltget d a => packR 0x27 d a 0 1
  | .lfence => packR 0x27 0 0 0 2
  | .turn lvl paths a b => packR 0x28 (lvl ++ paths) a b 0
  | .turnt lvl paths a => packR 0x28 (lvl ++ paths) a 0 1
  | .twait => packR 0x28 0 0 0 2
  | .tstat d a => packR 0x28 d a 0 3
  | .aadd w32 fl dr a b => packR (if w32 then 0x2D else 0x2C) (fl ++ dr) a b 0
  | .aand w32 fl dr a b => packR (if w32 then 0x2D else 0x2C) (fl ++ dr) a b 1
  | .aor w32 fl dr a b => packR (if w32 then 0x2D else 0x2C) (fl ++ dr) a b 2
  | .axor w32 fl dr a b => packR (if w32 then 0x2D else 0x2C) (fl ++ dr) a b 3
  | .amin w32 fl dr a b => packR (if w32 then 0x2D else 0x2C) (fl ++ dr) a b 4
  | .amax w32 fl dr a b => packR (if w32 then 0x2D else 0x2C) (fl ++ dr) a b 5
  | .aminn w32 fl dr a b => packR (if w32 then 0x2D else 0x2C) (fl ++ dr) a b 6
  | .amaxn w32 fl dr a b => packR (if w32 then 0x2D else 0x2C) (fl ++ dr) a b 7
  | .axchg w32 fl dr a b => packR (if w32 then 0x2D else 0x2C) (fl ++ dr) a b 8
  | .acas w32 fl dr a b => packR (if w32 then 0x2D else 0x2C) (fl ++ dr) a b 9
  | .afadd w32 fl dr a b => packR (if w32 then 0x2D else 0x2C) (fl ++ dr) a b 10
  | .ald w32 fl dr a => packR (if w32 then 0x2D else 0x2C) (fl ++ dr) a 0 11
  | .ast w32 fl a b => packR (if w32 then 0x2D else 0x2C) (fl ++ (0 : BitVec 5)) a b 12
  | .mshape d a => packR 0x30 d a 0 0
  | .mldw a => packR 0x30 0 a 0 1
  | .mldws a => packR 0x30 0 a 0 2
  | .mswap => packR 0x30 0 0 0 3
  | .mfwd a => packR 0x30 0 a 0 4
  | .mbwd a => packR 0x30 0 a 0 5
  | .mgrd a b => packR 0x30 0 a b 6
  | .mdrain a b => packR 0x30 0 a b 7
  | .mzero b => packR 0x30 0 0 b 8
  | .mamax d => packR 0x30 d 0 0 9
  | .mwait => packR 0x30 0 0 0 10
  | .mstat d => packR 0x30 d 0 0 11
  | .xfer d a => packR 0x38 d a 0 0
  | .halo d a => packR 0x38 d a 0 1
  | .xred d a => packR 0x38 d a 0 2
  | .xcast d a => packR 0x38 d a 0 3
  | .xfar d a => packR 0x38 d a 0 4
  | .xstat b => packR 0x38 0 0 b 5
  | .parr => packR 0x3C 0 0 0 0
  | .pwait => packR 0x3C 0 0 0 1
  | .cbarr a b => packR 0x3C 0 a b 2
  | .cbwait b => packR 0x3C 0 0 b 3
  | .yield => packR 0x3C 0 0 0 4
  | .ptest d => packR 0x3C d 0 0 5
  | .trap b => packR 0x3D 0 0 b 0
  | .rft => packR 0x3D 0 0 0 1
  | .tlbi a b => packR 0x3D 0 a b 2
  | .wfe d => packR 0x3D d 0 0 3
  | .spawn d a => packR 0x3D d a 0 4
  | .slkill d a b => packR 0x3D d a b 5
  | .resume a b => packR 0x3D 0 a b 6
  | .brk b => packR 0x3E 0 0 b 0
  | .smpl b => packR 0x3E 0 0 b 1
  | .dmark a => packR 0x3E 0 a 0 2
  | .vadd w => packV 0x40 w
  | .vsub w => packV 0x41 w
  | .vmul w => packV 0x42 w
  | .vfma w => packV 0x43 w
  | .vfms w => packV 0x44 w
  | .vfnma w => packV 0x45 w
  | .vdiv w => packV 0x46 w
  | .vsqrt w => packV 0x47 w
  | .vrsqrt w => packV 0x48 w
  | .vrcp w => packV 0x49 w
  | .vmin w => packV 0x4A w
  | .vmax w => packV 0x4B w
  | .vabs w => packV 0x4C w
  | .vneg w => packV 0x4D w
  | .vexp2 w => packV 0x4E w
  | .vlog2 w => packV 0x4F w
  | .vand w => packV 0x50 w
  | .vor w => packV 0x51 w
  | .vxor w => packV 0x52 w
  | .vshl w => packV 0x53 w
  | .vshr w => packV 0x54 w
  | .vsar w => packV 0x55 w
  | .vadds w => packV 0x56 w
  | .vsubs w => packV 0x57 w
  | .vmulh w => packV 0x58 w
  | .vpopc w => packV 0x59 w
  | .vceq w => packV 0x5A w
  | .vcne w => packV 0x5B w
  | .vclt w => packV 0x5C w
  | .vcle w => packV 0x5D w
  | .vclass w => packV 0x5E w
  | .vsel w => packV 0x5F w
  | .vmov w => packV 0x60 w
  | .vbcst w => packV 0x61 w
  | .vcvt w => packV 0x62 w
  | .vtag w => packV 0x63 w
  | .vround w => packV 0x64 w
  | .vscale w => packV 0x65 w
  | .vqnt w => packV 0x66 w
  | .vdqnt w => packV 0x67 w
  | .vrsum w => packV 0x68 w
  | .vrmax w => packV 0x69 w
  | .vrmin w => packV 0x6A w
  | .vror w => packV 0x6B w
  | .vperm w => packV 0x6C w
  | .vslup w => packV 0x6D w
  | .vsldn w => packV 0x6E w
  | .viota w => packV 0x6F w
  | .vroll w => packV 0x70 w
  | .vmpop w => packV 0x71 w
  | .vmfirst w => packV 0x72 w
  | .vzip w => packV 0x73 w
  | .vunzip w => packV 0x74 w
  | .vmand w => packV 0x76 w
  | .vmor w => packV 0x77 w
  | .vmxor w => packV 0x78 w
  | .vmnot w => packV 0x79 w
  | .resultLanding _ _ => none
  | .vectorConvoyStart _ _ => none
  | .vectorMemberStart _ _ => none
  | .vectorConvoyRetire _ _ => none
  | .exitComplete _ _ => none
  | .spanClose _ _ => none
  | .spanOverrun _ _ => none
  | .turnStart _ _ => none
  | .turnGroupFlip _ _ => none
  | .turnComplete _ _ => none
  | .matrixCommandStart _ => none
  | .drainSectorWrite _ => none
  | .matrixCommandComplete _ => none
  | .parrTakesEffect _ _ => none
  | .coreArrived _ => none
  | .straggler => none
  | .phaseChange => none
  | .budgetExhausted => none
  | .preemption => none
  | .sliceStart => none
  | .sliceResume => none
  | .sliceCompletion => none
  | .cbArrivalEffect _ _ _ => none
  | .cbGenerationComplete _ _ => none
  | .descriptorStart _ _ => none
  | .descriptorBeat _ _ => none
  | .descriptorLanded _ _ => none
  | .xfarHandoff _ _ => none
  | .farSourceRead _ _ => none
  | .fillLand _ _ => none
  | .queueDrainEntry _ _ => none
  | .photonicWakeup => none
  | .trapRecordEnqueue => none
  | .systemTrapEntry _ => none
  | .mboxSubWrite _ => none
  | .mboxCmpWrite _ => none
  | .submitSlice => none
  | .submitGraph => none
  | .submitKill => none
  | .submitIgnored => none
  | .graphSliceNode _ => none
  | .graphCondNode _ => none
  | .graphLoopNode _ => none
  | .recordWrite => none
  | .hctlHaltRequest _ _ => none
  | .hctlRelease _ _ => none
  | .haltLanding _ _ => none
  | .svdataRead _ => none
  | .svdataWrite _ _ => none
  | .traceRecord => none
  | .tbwpWrite => none
  | .panicFreeze => none
  | .registerWrite _ _ _ => none
  | .ecccntWrite _ => none
  | .hostWindowRead _ _ => none
  | .hostWindowWrite _ _ _ => none
  | .moduleReset => none
  | .powerGood => none
  | .firmwareVerify => none
  | .memoryTraining => none
  | .portTraining => none
  | .scerathLoad => none
  | .bootGo => none
  | .scReadPublicKey => none
  | .scAttest => none
  | .scReadSignatureIndex => none
  | .scUnknownCommand _ => none
  | .scCommandDone => none
  | .slotTableWrite _ _ _ => none
  | .rotationBoundary => none
  | .slotBoundary => none
  | .flitTransmit _ => none
  | .flitReceive _ _ => none
  | .powerWarn _ _ => none
  | .powerTrip _ _ => none
  | .patrolScrub _ => none
  | .notAnInstruction _ => none

/-- The instruction read from an instruction whose bits are w. Every instruction is one 32-bit word. -/
def decodeTableWord (nbits w : Nat) : Option Instr :=
  if nbits = 0 || nbits > 32 then none
  else
    match decode (BitVec.ofNat 32 (w % 2 ^ nbits)) with
    | .ok i => some i
    | .error _ => none

end Sys2Proof
end

