-- ==== Sys2Proof/Config.lean ====
section
/-! DEFINITION. What an implementation fixes, and the free values of the model: opaque constants without a body, so
nothing can be proved of them but what the spec states (log 9). -/

namespace Sys2Proof.Config

/-- Free choices between two things the spec allows, one for each draw (R142, R164, R226). -/
opaque freeBool : Nat → Bool
/-- Free numbers: cycles the spec does not fix (R162 SYSTEM, R254, R277, R360), one for each draw. -/
opaque freeNat : Nat → Nat
/-- Free 64-bit words: contents the spec leaves undefined (R226), one for each draw. -/
opaque freeWord : Nat → BitVec 64

/-- The stepping code in IDENT [7:0] is 00h (A0) or 01h (B0) (R70): whether it is B0. -/
opaque stepB0 : Bool
/-- Whether the security core accepts the images (R355 stage 1). -/
opaque firmwareOk : Bool
/-- Whether memory training succeeds (R355 stage 2). -/
opaque memoryOk : Bool
/-- Whether the receiver of a port locks (R352). -/
opaque portLocks : Nat → Bool
/-- Whether a dump drive with the needed format is present (R345). -/
opaque driveOk : Bool
/-- Whether power is good and the reference clock locks (R355 stage 0). -/
opaque powerOk : Bool
/-- The vendor identifier of the function (R341), which the spec does not give. -/
opaque vendorId : BitVec 16
/-- The words of the crash-kernel image, and of the Scerath image for each system core (R323, R355). -/
opaque crashKernel : Nat → BitVec 32
opaque scerathImage : Nat → Nat → BitVec 32
/-- One less than the flits that a send queue holds (R267), which the spec does not say. -/
opaque sendQueue : Nat
/-- Byte i of the module's public key of 68 bytes (R356, R357). -/
opaque publicKey : Nat → BitVec 8
/-- Byte i of the SHAKE256 digests of the Scerath and crash-kernel images (R358). -/
opaque scerathDigest : Nat → BitVec 8
opaque crashDigest : Nat → BitVec 8
/-- Byte i of the signature made with an index over a report of 128 bytes given as one number (R356, R358). -/
opaque signature : Nat → Nat → Nat → BitVec 8
/-- Which block of 2^16 bits in the upper half of DEVICE space is Scerath's mapping of the security mailbox (R357), whose
address the spec does not give. -/
opaque mailbox : BitVec 39
/-- Whether a physical sector is one that Scerath reserves for its own atomics (R272). -/
opaque scerathSector : Nat → Bool
/-- Where the arrival table of a STRAGGLER record lies (R298), which the spec does not say. -/
opaque arrivalTable : BitVec 64
/-- Where the dispatcher puts the race log, and its drop count in the word after it, with a RACE record (R298): which the
spec does not say. -/
opaque raceTable : BitVec 64
/-- The word of module memory or slice SRAM that is word 0 of the header of the n-th segment of the ready queue (R295),
which Scerath chooses. -/
opaque readyHeader : Nat → Nat
/-- The DEVICE address of the n-th segment of the ready queue, and of the entry with number n (R295), which Scerath
chooses. -/
opaque readySegment : Nat → BitVec 64
opaque readyPlace : Nat → BitVec 64
/-- Where the record of place n of the trap queue stands in DEVICE space (R301), which the spec does not say. -/
opaque trapRecordAddr : Nat → BitVec 64

end Sys2Proof.Config
end

