-- ==== Sys2Proof/Machine/State.lean ====
section
/-! DEFINITION. The state of the device: everything the spec gives the machine, as plain data. Registers, queues
and memories are sparse: a table that lists nothing reads as its reset value everywhere. Cores 0 to 1023 are the
compute cores (R9) and 1024 + k is system core k (R16). -/

namespace Sys2Proof.Machine

/-- Why the machine stops: an instruction or a step is offered where the spec gives it no occasion. Both are safe:
the scheduler never offers one, and nothing is claimed of such a state. -/
inductive Fault where
  /-- Raised by every instruction when the context in focus is not fetching (no slice runs, or the context is
  ABSENT, WAITING, EXITED, stopped or halted). Safe. -/
  | noContext
  /-- Raised by a step without an encoding whose occasion has not arisen (no turnaround is queued, no descriptor
  holds the slot, BOOT.STAGE is another). Safe. -/
  | notEnabled
  deriving DecidableEq, Repr

/-- Why the machine refuses an instruction. -/
inductive Refusal where
  /-- Raised by an arm of `exec` that has no meaning yet. Safe: nothing is claimed of it. -/
  | notModelled (mnemonic : String)
  deriving DecidableEq, Repr

/-! ## Tables and memory -/

/-- A table by number, listed in ascending order; what is not listed has the table's reset value. -/
abbrev SMap (α : Type) := List (Nat × α)

/-- Bytes by byte address (R22), strictly rising, none zero: an unlisted byte reads 0 (log 3). -/
abbrev Memory := List Host.Cell

/-- The operations of the atomics (R275). -/
inductive AtomOp where
  | add | and | or | xor | min | max | minn | maxn | xchg | cas | fadd | ld | st
  deriving DecidableEq, Repr

/-- An atomic on its way to its bank (R275 to R279): its operation with g[B] and g[DR], whether it acquires or releases, the
register and the cycle in which its result lands, and whether it has found what a release wrote. -/
structure AtomAct where
  op : AtomOp
  x : Nat
  cmp : Nat := 0
  acq : Bool := false
  rel : Bool := false
  reg : Nat := 0
  land : Nat := 0
  saw : Bool := false
  deriving DecidableEq, Repr

/-- A write on its way to the bank of a sector (R163): the cycle in which it is there, the bits of the sector that it
replaces and with what, the context and the cycle of its issue; or an atomic on those bits. -/
structure Patch where
  cycle : Nat
  off : Nat
  bits : Nat
  val : Nat
  ctx : Nat := 0
  issued : Nat := 0
  atom : Option AtomAct := none
  deriving DecidableEq, Repr

/-- What the unnamed-path rule of R164 needs of a sector: its content when it last went OUT, the paths and level of the
turnaround that made it IN and of those that have named it since (R153, R327, log 92), and the paths through which the new
content has been seen. -/
structure Hist where
  old : BitVec 512
  paths : BitVec 4 := 0
  level : Nat := 0
  also : List (BitVec 4 × Nat) := []
  seen : BitVec 4 := 0
  /-- the paths that have shown the new content to reads that fall after a flip still to come -/
  ahead : BitVec 4 := 0
  /-- a sector that is listed OUT stays IN before this cycle: the write that makes it OUT is on its way to the bank -/
  outAt : Nat := 0
  /-- what an unnamed path may still show of it until then -/
  older : BitVec 512 := 0
  /-- the writes on their way to the bank in the order of their cycles, and what was there before them all: the content, the
  syndromes of the sector's words that were not good, and the words that releases had marked (R279) -/
  late : List Patch := []
  base : BitVec 512 := 0
  marks : SMap (BitVec 8) := []
  rels : List Nat := []
  relSeens : List Nat := []
  /-- the lowest level that suffices for what has arrived in it, by the path it came on (R271) -/
  need : Nat := 0
  deriving DecidableEq, Repr

/-- One memory with its check state (R348, R349: syndrome of each stored word, FFh poisoned) and its facing (R155,
R165): sectors that are OUT, sectors with a pending flip, and the history of R164. -/
structure Space where
  bytes : Memory := []
  syn : SMap (BitVec 8) := []
  out : List Nat := []
  pend : List Nat := []
  hist : SMap Hist := []
  /-- single-bit errors that merges have corrected in place and reads on their way (R128, R342, R348) -/
  fixed : Nat := 0
  deriving DecidableEq, Repr

/-- A counter that runs with the cycles and can be held (R240, R243, R296). -/
structure Clock where
  run : Bool := false
  base : Nat := 0
  val : Nat := 0
  deriving DecidableEq, Repr

/-! ## Records (R297) -/

/-- The fields of a record, and the vector that signals it (R292). -/
structure Record where
  cause : Nat := 0
  rkind : Nat := 0
  sliceid : Nat := 0
  core : Nat := 0
  ctx : Nat := 0
  members : Nat := 0
  midx : Nat := 0
  inspan : Bool := false
  descv : Bool := false
  desc : Nat := 0
  head : Nat := 0
  elem : Option Nat := none
  spancyc : Nat := 0
  phc : Nat := 0
  addr : Nat := 0
  vcyc : Nat := 0
  start : Nat := 0
  hosttag : Nat := 0
  turncur : Nat := 0
  info : Nat := 0
  vec : Nat := 0
  /-- a trap record's place in the dispatcher's queue (R301) -/
  place : Nat := 0
  /-- the cycle in which it arose: the order of R300 needs it -/
  cycle : Nat := 0
  deriving DecidableEq, Repr

/-- A trace record of R320 (256 bits). -/
abbrev TraceRec := BitVec 256

/-! ## A context -/

/-- The states of R231. -/
inductive CtxSt where
  | absent | run | arrived | waiting | released | exited
  deriving DecidableEq, Repr

/-- Where a command, turnaround or descriptor came from, for the records about it. -/
structure Origin where
  core : Nat := 0
  ctx : Nat := 0
  head : Nat := 0
  members : Nat := 1
  midx : Nat := 0
  phc : Nat := 0
  /-- span cycle of the issue, when inside a span -/
  span : Option Nat := none
  deriving DecidableEq, Repr

/-- What a lost bank cycle puts off: nothing but a store's own write, the landing of a scalar result (register and
cycle, and for a load whether it is sign-extended), the element groups of a vector load (its destination group) and its convoy, or a matrix command. -/
inductive UseEnd where
  | plain | lands (reg cycle : Nat) (sign : Option Bool) | convoy (dst : Option Nat) | command
  deriving DecidableEq, Repr

/-- One sector access of an instruction, scheduled for a bank cycle (R126, R130): the sector, the cycle and how many it
holds the bank, its rank within the context (0 scalar, 1 vector and matrix, 2 queue, 3 the far engine), the instruction (its origin and the
cycle of its issue), and the bits that a store writes. -/
structure BankUse where
  sec : Nat
  cycle : Nat
  hold : Nat := 1
  rank : Nat := 0
  write : Bool := false
  parts : List (Nat × Nat) := []
  origin : Origin := {}
  issued : Nat := 0
  /-- place among the requests of its instruction -/
  seq : Nat := 0
  ends : UseEnd := .plain
  deriving DecidableEq, Repr

/-- A check of a load that falls in a later cycle (R167): the cycle, the bits read, the instruction with the span cycle of
the check, the element, whether the race detector has still to look at it, and a fault that goes behind it (its cause, 0 for
none, its address and its INFO). -/
structure FaceCheck where
  cycle : Nat
  a : Nat := 0
  n : Nat := 0
  origin : Origin := {}
  elem : Option Nat := none
  race : Bool := false
  /-- the cycle in which the load issued -/
  issued : Nat := 0
  cause : Nat := 0
  addr : Nat := 0
  info : Nat := 0
  deriving DecidableEq, Repr

/-- What the schedule of R173 to R176 needs of one vector member that has issued: its source groups as (base, slot
width, chained), the masks it reads, its destination group with its slot width, its destination mask and its scalar
destination, the element groups it processes, its slot width, latency and step factor, and for a VMEM member the
offset from its start at which each element group becomes valid and the one at which it has ended (R130). -/
structure VMember where
  srcs : List (Nat × Nat × Bool) := []
  masks : List Nat := []
  dst : Option (Nat × Nat) := none
  dstMask : Option Nat := none
  dstReg : Option (Nat × BitVec 64) := none
  groups : List Nat := []
  width : Nat := 32
  lat : Nat := 2
  f : Nat := 1
  /-- a VMEM or queue member: the element groups that it loads with their cycles from its start, and its end -/
  mem : Option (List (Nat × Nat) × Nat) := none
  /-- cycles from its start in which it still reads its source groups, where that outlasts its steps -/
  reads : Nat := 0
  /-- the sector requests of a VMEM or queue member, with their cycles counted from its start (R130) -/
  reqs : List BankUse := []
  deriving DecidableEq, Repr

/-- The convoy a word belongs to: head bit address, members, the index of the next member and whether its guard
failed (R41, R43); the vector words issued before the last (they are pushed with it, R39), then the members on the
schedule, their flags, and the statistics of a VMEM member (R319). -/
structure Cv where
  head : Nat
  n : Nat
  idx : Nat
  failed : Bool := false
  pend : List (Nat × VWord) := []
  vm : List VMember := []
  fl : BitVec 7 := 0
  stats : Option (List Nat) := none
  /-- where control goes after the convoy, when it issues again after the closure of its span (R150) -/
  back : Option Nat := none
  deriving DecidableEq, Repr

/-- The open sealed span: bit address of the SPAN word, first and last word inside it, and the cycle of s = 0,
the one after SPAN issued (R117). -/
structure SpanSt where
  word : Nat
  first : Nat
  last : Nat
  start : Nat
  deriving DecidableEq, Repr

/-- A scalar result that lands later (R98): cycle, physical register, value, the flags it ORs into FLG, and whether
a memory read brings it (R312). -/
structure Landing where
  cycle : Nat
  reg : Nat
  val : BitVec 64
  flags : BitVec 7 := 0
  load : Bool := false
  /-- started inside the open span (R118) -/
  inSpan : Bool := false
  deriving DecidableEq, Repr

/-- A loop-stack entry (R113): bit addresses of the first and last word of the body, and the counter. -/
structure LoopEnt where
  start : Nat
  stop : Nat
  count : Nat
  deriving DecidableEq, Repr

/-- A queued turnaround (R160): level, paths, bit address of the first sector, sectors, and what is done of it. -/
structure TurnRec where
  level : Nat
  paths : BitVec 4
  lo : Nat
  count : Nat
  issued : Nat
  /-- the earliest cycle of the start that the writes drained so far allow (R161) -/
  ready : Nat := 0
  exch : Bool
  start : Option Nat := none
  /-- X(L), fixed when the turnaround starts (R162) -/
  x : Nat := 0
  groups : Nat := 0
  deriving DecidableEq, Repr

/-- What a convoy has overwritten, under the numbers of vector registers and tags, masks and k registers, and the entries that
it has popped, as (queue, number): a fault before it retires puts it back (R31). -/
structure VUndo where
  v : SMap (BitVec 2048) := []
  tags : SMap (BitVec 6) := []
  m : SMap (BitVec 2048) := []
  k : SMap (BitVec 512) := []
  pops : List (Nat × Nat) := []
  deriving DecidableEq, Repr

/-- What the schedule of vector convoys has fixed so far (R173, R176): the cycles in which element groups are valid, the
reads that outlast their steps, the cycles in which masks and their bits are written, the cycle from which the lanes are free, and the
grant and the VSPAN that count them. -/
structure VSched where
  vvalid : SMap (List Nat) := []
  vread : SMap (Nat × Origin) := []
  mrdy : SMap Nat := []
  mland : SMap (List (Nat × Nat × Nat)) := []
  laneFree : Nat := 0
  grant : Nat := 0
  vspan : Nat := 1
  deriving DecidableEq, Repr

/-- The eight VMEM subfunctions (R48). -/
inductive VMOp where
  | ld | st | ldx | stx | ldt | stt | ldb | stb
  deriving DecidableEq, Repr

/-- What a vector convoy reads of its context beside vector registers, tags and masks, as it stands when the last word issues
(R39, R172 to R180). -/
structure VEnv where
  regs : SMap (BitVec 64) := []
  wb : Nat := 0
  vl : Nat := 0
  vspan : Nat := 1
  grant : Nat := 0
  vpart : Option Nat := none
  cmsel : Nat := 0
  rmode : BitVec 3 := 0
  seed : BitVec 64 := 0
  stepr : BitVec 64 := 0
  deriving DecidableEq, Repr

/-- What a convoy does to vector registers: the words of a run; the elements of a load, as (element, address) and as
(element, bits read), with its group, code, tag, slot width and width in memory; those of a QPOP; the elements that a store takes
from its group; the entries that a QPUSH fills from it. -/
inductive VWork where
  | none
  | run (l : List (Nat × VWord))
  | load (op : VMOp) (d code tag slot wm : Nat) (els vals : List (Nat × Nat))
  | pop (d code slot wm : Nat) (vals : List (Nat × Nat))
  | store (op : VMOp) (d code slot wm : Nat) (els : List (Nat × Nat))
  | push (d slot wm : Nat) (entries : List Nat)
  deriving DecidableEq, Repr

/-- A vector convoy in the dispatch queue or running (R172, R173): its member starts, its retirement and the
flags it will OR into FLG. -/
structure VConvoy where
  head : Nat
  members : Nat
  push : Nat
  starts : List Nat
  retire : Nat
  flags : BitVec 7
  started : Nat := 0
  /-- for a VMEM convoy: the sampled statistics of R319 as (STRIDE, BANKC, SECT, PAGES, XMISS, ACTN) -/
  vmem : Option (List Nat) := none
  /-- armed by SMPL with this tag (R318) -/
  tag : Option Nat := none
  span : Option Nat := none
  undo : VUndo := {}
  /-- what it does, should a load before it read again (R130, log 5) -/
  work : VWork := .none
  env : VEnv := {}
  /-- its members, where it was issued, and the schedule before it: a lost bank cycle puts it off with them (R130, R176) -/
  vm : List VMember := []
  origin : Origin := {}
  sched : VSched := {}
  deriving DecidableEq, Repr

/-- Where a halt request came from (R312). -/
inductive HaltSrc where
  | hctl | comparator (i : Nat) | brk | allstop
  deriving DecidableEq, Repr

/-- One context. The fields follow R55 to R71, R113, R117, R160, R172, R231, R300 and R310. -/
structure Ctx where
  st : CtxSt := .absent
  /-- bit address of the next convoy head, or of the next word while a convoy is in issue -/
  pc : Nat := 0
  /-- g1 to g15 under 1 to 15, P0 to P511 under 16 to 527 (R55); 0 when not listed -/
  regs : SMap (BitVec 64) := []
  /-- v0 to v127 (R58) and their tags (R63) -/
  v : SMap (BitVec 2048) := []
  tags : SMap (BitVec 6) := []
  /-- valid bits of R40: the cycle in which each element group of a register becomes valid -/
  vvalid : SMap (List Nat) := []
  /-- the cycle from which no VMEM or queue member reads a register any more, and the last such reader (R176) -/
  vread : SMap (Nat × Origin) := []
  /-- m0 to m7 (R60), all ones when not listed, and k0 to k15 (R61) -/
  m : SMap (BitVec 2048) := []
  k : SMap (BitVec 512) := []
  /-- cycle in which each mask register is ready, and the cycles in which bits of it are still to be written, as (first bit, bit
  after the last, cycle) (R176) -/
  mrdy : SMap Nat := []
  mland : SMap (List (Nat × Nat × Nat)) := []
  wb : Nat := 0
  vl : Nat := 0
  vspan : Nat := 1
  grant : Nat := 0
  vpart : Option Nat := none
  cmsel : Nat := 0
  flg : BitVec 7 := 0
  rmode : BitVec 3 := 0
  seed : BitVec 64 := 0
  stepr : BitVec 64 := 0
  loops : List LoopEnt := []
  turncur : Nat := 0
  turns : List TurnRec := []
  /-- cycle in which the previous turnaround completed -/
  turnAt : Nat := 0
  xacc : Nat := 0
  /-- acceptances that XACC does not show yet: the cycle from which it does, and their number (R247) -/
  xaccLate : List (Nat × Nat) := []
  /-- the context's view of PHC (R229) -/
  view : BitVec 64 := 0
  priv : Bool := false
  /-- TRAPCAUSE.PPRIV, INH, CAUSE; TRAPPC; TRAPINFO (R301) -/
  pprv : Bool := false
  inh : Bool := false
  cause : BitVec 8 := 0
  trappc : BitVec 64 := 0
  trapinfo : BitVec 64 := 0
  span : Option SpanSt := none
  land : List Landing := []
  /-- stores not known to be written: sector and the cycle of the write (R126, R130) -/
  writes : List (Nat × Nat) := []
  vq : List VConvoy := []
  /-- cycle from which the partition's member slots are free (R173, R175) -/
  laneFree : Nat := 0
  /-- cycle from which an iterative unit takes the next instruction (R98) -/
  unitFree : SMap Nat := []
  cv : Option Cv := none
  /-- earliest cycle of the next issue (R112) -/
  issueAt : Nat := 0
  /-- the cycle after the last issue, in which the next convoy is known (R118) -/
  ready : Nat := 0
  /-- flags that arrived in FLG in a cycle: an MTS to FLG inside a span in that cycle keeps them (R103, R329) -/
  flagsAt : Nat := 0
  flagsIn : BitVec 7 := 0
  /-- cycle in which the latest acquire lands (R278); word and cycle of the latest atomic (R277) -/
  acqAt : Nat := 0
  /-- cycle in which the instructions whose results no register takes have retired (R97, R232) -/
  doneAt : Nat := 0
  atomWord : Nat := 0
  atomAt : Option Nat := none
  /-- the PARR of this superstep has taken effect, the cycle from which it may, and its issue cycle (R232) -/
  parrEff : Bool := false
  parrAt : Nat := 0
  parrIssued : Nat := 0
  exiting : Bool := false
  /-- the convoy in issue waits for something else to happen -/
  stalled : Bool := false
  /-- that wait is a QWAIT (R146) -/
  qstall : Bool := false
  /-- stopped by a trap (R300) -/
  trapped : Bool := false
  halted : Bool := false
  haltReq : Option HaltSrc := none
  /-- frozen by a panic (R323) or left by an aborted slice (R314) -/
  aborted : Bool := false
  /-- frozen where it stood by a panic (R323, R324) -/
  frozen : Bool := false
  bkm : BitVec 4 := 0
  /-- comparators that have matched at this boundary or inside the open span (R310, R311) -/
  bkHeld : BitVec 4 := 0
  /-- the convoy at pc issues without a second comparator match (R315) -/
  bkPass : Bool := false
  /-- checks of loads that are still to come (R167) -/
  checks : List FaceCheck := []
  /-- traps raised inside a span wait for its closure (R119, R311): cause, ADDR, INFO -/
  heldTraps : List (Nat × Nat × Nat) := []
  /-- heads of QPUSH convoys that overflowed inside the open span; after its closure, where control goes once each of
  them has issued again (R119, R150) -/
  redo : List Nat := []
  /-- traps of a system core that wait to be taken: cause and TRAPINFO (R301) -/
  sysTraps : List (Nat × Nat) := []
  /-- the armed sample (R318), and one made inside the open span, which waits for its closure (R119) -/
  smpl : Option Nat := none
  heldSmpl : Option Nat := none
  vmemCount : Nat := 0
  /-- trace records held until the span closes (R319) -/
  heldTrace : List TraceRec := []
  deriving DecidableEq, Repr

/-! ## The matrix engine (R199 to R227) -/

/-- The commands of R205. -/
inductive MKind where
  | ldw | ldws | swap | fwd | bwd | grd | drain | zero
  deriving DecidableEq, Repr

/-- A tensor operand: the 256-bit layout entry it carries and its starting coordinates (R202). -/
structure MOperand where
  lte : BitVec 256 := 0
  coord : BitVec 64 := 0
  deriving DecidableEq, Repr

/-- A request of a command that reads: its stream cycle, its sector, its cycle as planned and its number (R215). -/
structure MReq where
  i : Nat
  sec : Nat
  due : Nat
  seq : Nat
  deriving DecidableEq, Repr

/-- A command in the engine's queue or running. -/
structure MCmd where
  kind : MKind
  origin : Origin
  issued : Nat
  inSpan : Bool := false
  a : MOperand := {}
  b : MOperand := {}
  gm : Nat := 64
  gn : Nat := 64
  gk : Nat := 64
  sp : Bool := false
  fmt : BitVec 7 := 0
  /-- drain: plane, rows and columns; zero: plane mask -/
  pl : Nat := 0
  rows : Nat := 0
  cols : Nat := 0
  start : Option Nat := none
  /-- cycle of completion, once known -/
  done : Option Nat := none
  /-- a swap has started since: the rows of this command use the old plane (R211) -/
  swapped : Bool := false
  /-- the requests still to be made, and the sectors read so far by stream cycle and number -/
  plan : List MReq := []
  got : SMap (BitVec 512) := []
  /-- cells that completion writes (load, stream), or the plane cells that a drain has read -/
  res : SMap (BitVec 64) := []
  /-- plane cells that a debugger has written since their row landed (R214, R317) -/
  kept : List Nat := []
  /-- drain: sectors already written, cycles lost, element groups already taken into AMAX, flags gathered -/
  wrote : Nat := 0
  slip : Nat := 0
  amaxed : Nat := 0
  flags : BitVec 7 := 0
  deriving DecidableEq, Repr

/-- The engine. Planes list their nonzero cells: weight cells in the layout of R304 under 64n + κ, accumulator
cells as FP32 under 64i + j. -/
structure Mat where
  wact : SMap (BitVec 64) := []
  wsh : SMap (BitVec 64) := []
  acc : SMap (BitVec 32) := []
  dw : SMap (BitVec 32) := []
  tact : BitVec 7 := 0
  tsh : BitVec 7 := 0
  spact : Bool := false
  spsh : Bool := false
  /-- tags and sparse flags in program order (R205, R223) -/
  ptact : BitVec 7 := 0
  ptsh : BitVec 7 := 0
  pspact : Bool := false
  pspsh : Bool := false
  gm : Nat := 64
  gn : Nat := 64
  gk : Nat := 64
  sp : Bool := false
  amax : BitVec 32 := 0
  /-- commands not started, oldest first, and commands running -/
  queue : List MCmd := []
  running : List MCmd := []
  /-- port free cycles: stream, load, drain -/
  stream : Nat := 0
  load : Nat := 0
  drain : Nat := 0
  /-- a fault left the planes undefined (R226), but for the words of the core block written since (R317) -/
  undef : Bool := false
  known : List Nat := []
  deriving DecidableEq, Repr

/-! ## Exchange and far traffic -/

/-- The kinds of R249. -/
inductive DKind where
  | xfer | halo | xred | xcast | xfar
  deriving DecidableEq, Repr

/-- The memory that holds a sector. -/
inductive Place where
  | loc (core : Nat) | phys | host | peer
  deriving DecidableEq, Repr

/-- What a timed descriptor still does (R255 to R257): in which exchange VCYC, whether it writes or reads, which
beat, and for XCAST the destination cluster. -/
structure Act where
  cycle : Nat
  write : Bool
  beat : Nat
  cluster : Nat := 0
  deriving DecidableEq, Repr

/-- An accepted descriptor in its slot (R247, R249). -/
structure Desc where
  kind : DKind
  /-- the 256 descriptor bits -/
  bits : Nat
  e : Nat
  origin : Origin
  /-- order of acceptance -/
  seq : Nat := 0
  accepted : Nat := 0
  /-- source and destination as pieces (memory, bit address, bits), translated at issue (R250) -/
  src : List (Place × Nat × Nat) := []
  dst : List (Place × Nat × Nat) := []
  /-- the addresses of the elements of a destination that a layout entry gives (R254) -/
  elems : List Nat := []
  started : Bool := false
  acts : List Act := []
  /-- beats read and not yet written -/
  buf : SMap Nat := []
  /-- exchange VCYC of the landing -/
  landAt : Nat := 0
  /-- earliest VCYC in which it loses a claim (R260) -/
  clash : Option Nat := none
  /-- cycle in which it landed; the slot is free in the next one (R259) -/
  landed : Option Nat := none
  deriving DecidableEq, Repr

/-- A fill held by the far engine (R254). -/
structure Fill where
  desc : Desc
  /-- the source as read, and the bits of it that a failed host request left poisoned, as (first, number) (R344) -/
  data : Option Nat := none
  bad : List (Nat × Nat) := []
  /-- entries already appended to the queue -/
  pos : Nat := 0
  /-- earliest cycle of its next step -/
  due : Nat := 0
  deriving DecidableEq, Repr

/-- A decoupling queue (R143 to R151). -/
structure Queue where
  dir : Nat := 0
  /-- LOCAL bit addresses of the ring's segments, head segment first -/
  segs : List Nat := []
  /-- entry index of the head within the head segment, 0 to 62 -/
  head : Nat := 0
  cov : Nat := 0
  avail : Nat := 0
  pushed : Nat := 0
  drained : Nat := 0
  /-- entries pushed before the current exchange superstep began -/
  due : Nat := 0
  dest : Nat := 0
  toll : Nat := 0
  /-- filling stopped by an overflow (R150) -/
  full : Bool := false
  /-- cycle of the next drain -/
  drainAt : Nat := 0
  deriving DecidableEq, Repr

/-- A context barrier (R237): mask of the generation, arrivals pending and in effect, for each pending arrival its
issue cycle and the cycle from which it may take effect, and the cycle of the last arrival in effect or EXIT. -/
structure Bar where
  mask : BitVec 4 := 0
  pending : BitVec 4 := 0
  effect : BitVec 4 := 0
  due : SMap (Nat × Nat) := []
  last : Nat := 0
  deriving DecidableEq, Repr

/-- The shadow state of a sector (R268). Agents: context stores, descriptors, scatter-add results. -/
structure Shadow where
  core : Nat
  ctx : Nat
  /-- 0 for the stores of the context, a descriptor's own number above 0 -/
  desc : Nat := 0
  sau : Bool := false
  phc : BitVec 64
  merge : Bool := false
  order : Nat := 0
  deriving DecidableEq, Repr

/-- One core. -/
structure Core where
  /-- index within the slice (R56) -/
  index : Nat := 0
  ctxs : SMap Ctx := []
  /-- scratchpad (R126), and the accesses for which its banks are taken -/
  loc : Space := {}
  banks : List BankUse := []
  /-- instruction store by word, and words that hold an uncorrectable error (R34, R111) -/
  ist : SMap (BitVec 32) := []
  istBad : List Nat := []
  /-- layout cache (R142): the index held in each of its 64 places, and the content that a rewritten entry had, which
  a use not ordered after the write may still see -/
  lcache : SMap Nat := []
  stale : SMap (List (BitVec 256)) := []
  queues : SMap Queue := []
  /-- LOCAL bit addresses of the unused segments of the pool (R150) -/
  pool : List Nat := []
  me : Mat := {}
  slots : SMap Desc := []
  fills : List Fill := []
  bars : SMap Bar := []
  vcyc : Clock := {}
  /-- a slice has started on the core since reset (R310) -/
  launched : Bool := false
  /-- the context that owns the matrix engine of the last slice on the core (R12, R316) -/
  meown : Nat := 0
  arrived : Bool := false
  arrivedAt : Nat := 0
  order : Nat := 0
  shadow : SMap Shadow := []
  /-- words of sync sectors whose value comes from a release or from an atomic after one (R279) -/
  relWords : List Nat := []
  /-- words of sync sectors that a release has come to without writing: a later write there follows it in the word's order -/
  relSeen : List Nat := []
  /-- pending system events of WFE (R303), used by system cores -/
  events : BitVec 2 := 0
  /-- this system core executes (log 10) -/
  sysRun : Bool := false
  bka : SMap (BitVec 64) := []
  svaddr : Nat := 0
  /-- the hourglass count that an aborted slice has left on the core (R304, R314, R316) -/
  hgLeft : Nat := 0
  /-- bits [6:4] of the arrival entry as a debugger has written them in this superstep (R241, R317) -/
  entrySet : Option Nat := none
  deriving DecidableEq, Repr

/-! ## The slice and the dispatcher -/

/-- A live-map entry (R286). -/
structure LiveEnt where
  image : Nat
  stride : Nat
  first : Nat
  count : Nat
  copyout : Bool
  deriving DecidableEq, Repr

/-- A queue-map entry (R286). -/
structure QEnt where
  dest : Nat
  dir : Nat
  segs : Nat
  toll : Nat
  deriving DecidableEq, Repr

/-- A launch record with its maps, as the dispatcher copied them (R285, R286, R360). -/
structure LaunchRec where
  addr : Nat := 0
  raw : BitVec 2048 := 0
  live : List LiveEnt := []
  sync : List Nat := []
  qmap : List QEnt := []
  /-- predicate sectors of the graph that queued it (R294) -/
  pred : List Nat := []
  deriving DecidableEq, Repr

/-- A ready-queue entry (R295). -/
structure Ready where
  /-- its place among the entries of the linked segments -/
  place : Nat := 0
  deadline : Nat
  saved : Bool
  lr : LaunchRec
  walk : Option Nat := none
  deriving DecidableEq, Repr

/-- The running slice. -/
structure SliceRun where
  lr : LaunchRec := {}
  cores : List Nat := []
  deadline : Nat := 0
  /-- cycles of budget used, and the trap that waits for an odd-to-even change (R296) -/
  budget : Nat := 0
  spent : Clock := {}
  budgetPend : Bool := false
  hg : Clock := {}
  hgOn : Bool := false
  hgExtended : Bool := false
  yreq : Bool := false
  /-- the coming change is chosen for pre-emption and waits for the fills; it has happened and the save follows (R242) -/
  chosen : Bool := false
  preempt : Bool := false
  /-- cycle in which the last core became ARRIVED, or a halt after it ended (R235) -/
  arrivedAt : Option Nat := none
  /-- the last phase change has happened; completion follows (R292) -/
  ending : Bool := false
  /-- physical memory bytes as the translations latched at the start or last change read them (R307) -/
  tables : Memory := []
  walk : Option Nat := none
  deriving DecidableEq, Repr

/-- A graph walk (R294): its nodes, predicate sectors, the current node, the loop stack as (node,
iterations done), LOOPMAX, whether it waits for a slice, and how that slice ended. -/
structure Walk where
  /-- the nodes, as the dispatcher read them when it took the graph -/
  code : List (BitVec 256) := []
  predBase : Nat
  predN : Nat
  hosttag : Nat
  vec : Nat
  node : Nat := 0
  last : Nat := 0
  loops : List (Nat × Nat) := []
  loopmax : Bool := false
  waiting : Bool := false
  /-- the slice the walk waits for has ended: whether it completed -/
  result : Option Bool := none
  deriving DecidableEq, Repr

/-- The dispatcher (R289 to R300). -/
structure Disp where
  taken : BitVec 32 := 0
  written : BitVec 32 := 0
  cmp : BitVec 32 := 0
  recs : BitVec 32 := 0
  ready : List Ready := []
  /-- linked segments of the ready queue (log 25) -/
  segs : Nat := 1
  walks : SMap Walk := []
  /-- records that wait for a completion slot (R292) -/
  waitRecs : List Record := []
  /-- trap queue of 64 records, and records that wait to enter it (R300) -/
  trapq : List Record := []
  trapWait : List Record := []
  /-- how many records of the trap queue system core 0 has been told of (R301) -/
  told : Nat := 0
  /-- the entries that each outbound queue of a pre-empted slice has drained, by SLICEID, core and queue: R148 counts them
  from the start of the slice, and the save area has no field for them (log 23) -/
  drains : SMap (SMap (SMap Nat)) := []
  /-- the words that R279 marks in the scratchpads of a pre-empted slice, by SLICEID and core, for which the save area has no
  field either -/
  rels : SMap (SMap (List Nat × List Nat)) := []
  /-- the arrival table of the last STRAGGLER, byte c for core c (R241, R298) -/
  arrivals : SMap (BitVec 8) := []
  /-- vectors signalled, newest last (R341) -/
  msix : List Nat := []
  /-- slices picked to start: the ready entry taken from the queue (R295) -/
  picked : Option Ready := none
  /-- cycle in which it starts, which is not fixed (R360) -/
  startAt : Nat := 0
  /-- a write to SUB made before the dispatcher started (R342) -/
  heldSub : Option (BitVec 32) := none
  deriving DecidableEq, Repr

/-! ## Reductions, groups and claims -/

/-- A pending result of a scatter-add unit (R93, R253, R281): physical bit address, operation and format, the group
that it belongs to, the address by which the descriptor names it, and the turn-on-land level. `sum` is the exact sum
in units of 2^-149 (R93), or the integer accumulator. -/
structure SauEnt where
  addr : Nat
  rop : Nat
  rfmt : BitVec 7
  group : Nat := 0
  name : Nat := 0
  toll : Option Nat := none
  sum : Int := 0
  pinf : Bool := false
  ninf : Bool := false
  nan : Bool := false
  allNegZero : Bool := true
  terms : Nat := 0
  spilled : Bool := false
  deriving DecidableEq, Repr

/-- The binding of a group identifier (R251): the bound fields, the physical pieces of the destination, and the
descriptor that bound it. -/
structure Group where
  kind : DKind
  fields : List Nat
  dst : List (Nat × Nat)
  origin : Origin
  e : Nat
  start : Nat
  deriving DecidableEq, Repr

/-- The resources of R260. -/
inductive Resource where
  | bank (core bank : Nat)
  | sliceBank (slice bank : Nat)
  | portOut (core : Nat)
  | portIn (core : Nat)
  | lane (toSlice : Bool) (slice cluster lane : Nat)
  | link (core dest : Nat)
  | mesh (core dest : Nat)
  deriving DecidableEq, Repr

/-- A flit on the chip: a beat of a descriptor by its place in the order of acceptance, or an entry that a queue drains. -/
inductive FlitName where
  | beat (seq beat : Nat) | entry (core queue n : Nat)
  deriving DecidableEq, Repr

/-- A flit on the chip whose CRC fails: the data and check bits of it that arrive wrong (R263). -/
structure BadFlit where
  flit : FlitName
  flips : BitVec 576
  deriving DecidableEq, Repr

/-! ## Host link, ports, power, security, debug -/

/-- BAR0 registers (R342). -/
structure Bar0 where
  sqbase : BitVec 64 := 0
  ringcfg : BitVec 64 := 0
  cqbase : BitVec 64 := 0
  modnum : BitVec 64 := 0
  dtadj : BitVec 64 := 0
  hwbase : BitVec 64 := 0
  sysroot : BitVec 64 := 0
  dumplba : BitVec 64 := 0
  stage : Nat := 0
  /-- the stage's work has failed and bring-up stops (R355) -/
  stopped : Bool := false
  err : BitVec 4 := 0
  /-- ECCCNT: what is counted outside the memories' own counts of merges, and those counts when it was last cleared -/
  corrected : BitVec 32 := 0
  poisoned : BitVec 32 := 0
  eccBase : Nat := 0
  deriving DecidableEq, Repr

/-- PWRSTAT (R354). -/
structure Power where
  on : Bool := false
  trip : Bool := false
  warn : Bool := false
  temp : Nat := 0
  power : Nat := 0
  deriving DecidableEq, Repr

/-- The security mailbox (R356, R357). -/
structure Sec where
  cmd : BitVec 64 := 0
  busy : Bool := false
  err : Nat := 0
  left : Nat := 1048576
  buf : Memory := []
  /-- result to write to SCBUF when the command ends, and its bytes -/
  result : Nat := 0
  resultLen : Nat := 0
  resultErr : Nat := 0
  /-- cycle in which the command ends, which the spec does not fix -/
  due : Nat := 0
  deriving DecidableEq, Repr

/-- A read request on its way to another module: the core and the number of its fill while that slice runs, the next sector
of the peer window that a response brings, and how many are still to come (R262, log 61). -/
structure PeerAsk where
  module : Nat
  fill : Option (Nat × Nat)
  sector : Nat
  left : Nat
  deriving DecidableEq, Repr

/-- The optical ports (R265 to R267, R350 to R353). -/
structure Ports where
  /-- slot-table entry k of port p under 64p + k, and the writes held to the rotation boundary -/
  table : SMap (BitVec 64) := []
  held : SMap (BitVec 64) := []
  dark : List Nat := []
  trained : Bool := false
  /-- send queue per destination module as (class, data with check bits), oldest first; transmit and receive sequence
  numbers per module -/
  sendq : SMap (List (Nat × BitVec 576)) := []
  txseq : SMap Nat := []
  rxseq : SMap Nat := []
  /-- modules whose last flit failed: later flits are held until the next slot (R267) -/
  failed : List Nat := []
  /-- flits handed out on a fibre, newest last: (port, flit) -/
  sent : List (Nat × BitVec 640) := []
  /-- messages delivered in order, newest last: (module, data with check bits) -/
  received : List (Nat × BitVec 576) := []
  /-- read requests whose responses have not all come, oldest first -/
  asks : List PeerAsk := []
  /-- cycles of the last rotation and slot boundaries -/
  rotated : Option Nat := none
  slotted : Option Nat := none
  deriving DecidableEq, Repr

/-- The debug unit (R310 to R324). -/
structure Debug where
  tbstop : Bool := false
  brkh : Bool := false
  allstop : Bool := false
  en : Bool := false
  tbbase : BitVec 64 := 0
  tbsize : BitVec 64 := 0
  tbwp : Nat := 0
  tbdrop : Nat := 0
  smpint : BitVec 32 := 0
  /-- trace records on their way to the buffer, oldest first -/
  waiting : List TraceRec := []
  /-- a panic: its record and its cycle (R323) -/
  panic : Option Record := none
  panicAt : Nat := 0
  frozen : Bool := false
  /-- what the last read of SVDATA returned -/
  svread : BitVec 64 := 0
  deriving DecidableEq, Repr

/-- The last host read of BAR4 (R343): data and the poisoned bit of its completion. -/
structure HostRead where
  data : Nat := 0
  ep : Bool := false
  ur : Bool := false
  deriving DecidableEq, Repr

/-- A race-log entry (R270). -/
abbrev RaceEnt := BitVec 128

/-! ## The device -/

structure State where
  /-- cycles (ns) since power good, and what DTADJ added (R68, R342) -/
  now : Nat := 0
  dtoff : BitVec 64 := 0
  /-- the core and context whose turn it is to issue (the model's own, log 1) -/
  focusCore : Nat := 0
  focusCtx : Nat := 0
  phc : BitVec 64 := 0
  /-- number of free values taken so far (the model's own, log 9) -/
  free : Nat := 0
  /-- inputs from outside with the cycle of their arrival, oldest first (log 2) -/
  inbox : List (Nat × Instr) := []
  cores : SMap Core := []
  slice : Option SliceRun := none
  disp : Disp := {}
  phys : Space := {}
  host : Space := {}
  peer : Space := {}
  nvme : Memory := []
  sau : List SauEnt := []
  groups : SMap Group := []
  /-- acceptance counter of descriptors -/
  descSeq : Nat := 0
  /-- the banks that beats of timed descriptors hold, with the cycles in which they do (R254, R260) -/
  taken : List (Resource × Nat) := []
  /-- flits that errors will strike: they come from outside, and no step adds one (R263, log 95) -/
  noise : List BadFlit := []
  photonic : Bool := false
  wakeAt : Option Nat := none
  shadow : SMap Shadow := []
  raceLog : List RaceEnt := []
  raceDrop : Nat := 0
  bar : Bar0 := {}
  power : Power := {}
  sec : Sec := {}
  ports : Ports := {}
  dbg : Debug := {}
  /-- system cores' translation tables as latched (R306, R355) -/
  sysTables : Memory := []
  /-- translations that a TLBI has marked: all, or the pages listed (R303) -/
  tlbiAll : Bool := false
  tlbi : List Nat := []
  hostRead : HostRead := {}
  /-- sectors that the patrol scrub has read, and the cycle from which its passes count (R347, log 81) -/
  scrubs : Nat := 0
  scrubFrom : Nat := 0
  deriving DecidableEq, Repr

/-- The device right after power-on reset: bring-up stage 0, no slice, memories listing nothing, every register at
the value of R68, R310, R342, R354 and R357, or 0 where the spec states none (log 4). -/
def State.reset : State := {}

end Sys2Proof.Machine
end

