-- ==== Sys2Proof/Machine/Bits.lean ====
section
/-! DEFINITION. Tables, sets and memories as plain lists: the lookups and updates every other file goes through.
Byte order and the numbering of bits (R22) are decided here alone. -/

namespace Sys2Proof.Machine

/-! ## Tables -/

/-- The entry of a table, or the value it has when nothing is listed. -/
def SMap.get {α : Type} (d : α) : SMap α → Nat → α
  | [], _ => d
  | (k, v) :: r, n => if k = n then v else SMap.get d r n

/-- The entry of a table, if listed. -/
def SMap.get? {α : Type} : SMap α → Nat → Option α
  | [], _ => none
  | (k, v) :: r, n => if k = n then some v else SMap.get? r n

/-- Put an entry in its place in ascending order. -/
def SMap.put {α : Type} : SMap α → Nat → α → SMap α
  | [], n, x => [(n, x)]
  | (k, v) :: r, n, x =>
    if n < k then (n, x) :: (k, v) :: r
    else if k = n then (n, x) :: r
    else (k, v) :: SMap.put r n x

/-- Take an entry out. -/
def SMap.del {α : Type} (m : SMap α) (n : Nat) : SMap α := m.filter fun p => p.1 != n

/-- Put an entry, or take it out where it is the value an unlisted entry has. -/
def SMap.set {α : Type} [DecidableEq α] (d : α) (m : SMap α) (n : Nat) (x : α) : SMap α :=
  if x = d then m.del n else m.put n x

/-- What one table holds where another holds something else. -/
def SMap.olds {α : Type} [DecidableEq α] (d : α) (m n : SMap α) : SMap α :=
  (((m ++ n).map (·.1)).eraseDups.filter fun i => SMap.get d m i != SMap.get d n i).map fun i => (i, SMap.get d m i)

/-- The entries of a table over those of another. -/
def SMap.over {α : Type} [DecidableEq α] (d : α) (m n : SMap α) : SMap α := n.foldl (fun t p => SMap.set d t p.1 p.2) m

/-- The entries of a table that another does not list. -/
def SMap.without {α : Type} (m n : SMap α) : SMap α := m.filter fun p => (SMap.get? n p.1).isNone

def SMap.mapVals {α : Type} (m : SMap α) (f : Nat → α → α) : SMap α := m.map fun p => (p.1, f p.1 p.2)

/-! ## Sets of numbers in ascending order -/

def NSet.add : List Nat → Nat → List Nat
  | [], n => [n]
  | k :: r, n => if n < k then n :: k :: r else if k = n then k :: r else k :: NSet.add r n

def NSet.del (l : List Nat) (n : Nat) : List Nat := l.filter (· != n)

/-- The numbers a, a+1, …, a+n−1. -/
def rangeFrom (a : Nat) : Nat → List Nat
  | 0 => []
  | n + 1 => a :: rangeFrom (a + 1) n

/-! ## Numbers -/

/-- Division rounded up. -/
def ceilDiv (a b : Nat) : Nat := (a + (b - 1)) / b

/-- A number of n bits read as two's complement. -/
def signed (n x : Nat) : Int :=
  let y := x % 2 ^ n
  if y < 2 ^ (n - 1) then (y : Int) else (y : Int) - (2 ^ n : Nat)

/-- An integer as n bits, two's complement. -/
def unsigned (n : Nat) (x : Int) : Nat := (x % ((2 ^ n : Nat) : Int)).toNat

/-- n bits as a word: sign-extended, or extended by zeros. -/
def extendWord (sign : Bool) (n x : Nat) : BitVec 64 := if sign then BitVec.ofInt 64 (signed n x) else BitVec.ofNat 64 x

/-- Bits hi..lo of a number. -/
def field (x hi lo : Nat) : Nat := (x >>> lo) % 2 ^ (hi + 1 - lo)

/-- Replace n bits at position p of x. -/
def setField (x p n v : Nat) : Nat :=
  let low := x % 2 ^ p
  let high := x >>> (p + n)
  (high <<< (p + n)) + ((v % 2 ^ n) <<< p) + low

/-! ## Bytes -/

/-- A byte of a memory; an unlisted byte reads 0 (log 3). -/
def Memory.byte : Memory → Nat → Byte
  | [], _ => 0
  | (k, v) :: r, a => if k = a then v else Memory.byte r a

/-- Put a byte in its place in ascending order. -/
def Memory.put : Memory → Nat → Byte → Memory
  | [], a, x => [(a, x)]
  | (k, v) :: r, a, x =>
    if a < k then (a, x) :: (k, v) :: r
    else if k = a then (a, x) :: r
    else (k, v) :: Memory.put r a x

/-- Take every entry of an address out. -/
def Memory.del (m : Memory) (a : Nat) : Memory := m.filter fun c => c.1 != a

/-- Write a byte; a zero byte is not listed. -/
def Memory.setByte (m : Memory) (a : Nat) (x : Byte) : Memory :=
  if x = 0 then m.del a else m.put a x

/-- Canonical form: addresses strictly rising above `lo`, no zero byte. -/
def Memory.wfFrom : Nat → Memory → Bool
  | _, [] => true
  | lo, (k, v) :: r => decide (lo ≤ k) && v != 0 && Memory.wfFrom (k + 1) r

/-- The canonical form of a memory. -/
def Memory.wf (m : Memory) : Bool := Memory.wfFrom 0 m

/-- n bytes from address a as one number, the first least significant (R22). -/
def Memory.bytes (m : Memory) (a : Nat) : Nat → Nat
  | 0 => 0
  | n + 1 => (m.byte a).toNat + 256 * Memory.bytes m (a + 1) n

/-- Store the n low bytes of x from address a. -/
def Memory.setBytes (m : Memory) (a : Nat) : Nat → Nat → Memory
  | 0, _ => m
  | n + 1, x => Memory.setBytes (m.setByte a (BitVec.ofNat 8 x)) (a + 1) n (x / 256)

/-- The bytes that n bits at bit address a touch: the first and how many. -/
def firstByte (a : Nat) : Nat := a / 8
def byteSpan (a n : Nat) : Nat := (a % 8 + n + 7) / 8

/-- The n bits at bit address a (R22). -/
def Memory.bits (m : Memory) (a n : Nat) : Nat :=
  (m.bytes (firstByte a) (byteSpan a n) >>> (a % 8)) % 2 ^ n

/-- Write the low n bits of x at bit address a; every other bit keeps its value (R23). -/
def Memory.setBits (m : Memory) (a n x : Nat) : Memory :=
  m.setBytes (firstByte a) (byteSpan a n) (setField (m.bytes (firstByte a) (byteSpan a n)) (a % 8) n x)

/-! ## Words, sectors and the check value -/

def wordBits : Nat := 64
def sectorBits : Nat := 512

/-- The sectors that n bits at bit address a touch. -/
def sectorsOf (a n : Nat) : List Nat :=
  if n = 0 then [] else rangeFrom (a / 512) ((a + n - 1) / 512 + 1 - a / 512)

/-- The words that n bits at bit address a touch. -/
def wordsOf (a n : Nat) : List Nat :=
  if n = 0 then [] else rangeFrom (a / 64) ((a + n - 1) / 64 + 1 - a / 64)

/-- The words that n bits at bit address a touch without covering. -/
def partialWords (a n : Nat) : List Nat :=
  (wordsOf a n).filter fun w => !(decide (a ≤ 64 * w) && decide (64 * w + 64 ≤ a + n))

/-- Number of one bits. -/
def popcount : Nat → Nat → Nat
  | 0, _ => 0
  | n + 1, x => x % 2 + popcount n (x / 2)

/-- c(j) of R348: the (j + 1)-th smallest 7-bit value with at least two bits set. -/
def checkCodes : List Nat := (rangeFrom 0 128).filter fun x => 2 ≤ popcount 7 x

/-- XOR of the code values of the one bits of x. -/
def checkLow : Nat → List Nat → Nat
  | _, [] => 0
  | x, c :: r => if x % 2 = 1 then Nat.xor c (checkLow (x / 2) r) else checkLow (x / 2) r

/-- The check byte of a word (R348). -/
def checkByte (x : Nat) : Nat :=
  let low := checkLow x (checkCodes.take 64)
  low + 128 * ((popcount 64 x + popcount 7 low) % 2)

/-- What a syndrome says of a word (R348): fine, a data bit to flip, a check bit, or uncorrectable. -/
inductive Check where
  | good | dataBit (j : Nat) | checkBit | poisoned
  deriving DecidableEq, Repr

/-- The position of a code value. -/
def codeIndex : Nat → List Nat → Nat → Option Nat
  | _, [], _ => none
  | c, x :: r, j => if x = c then some j else codeIndex c r (j + 1)

/-- Decoding of the syndrome (R348). -/
def decodeSyndrome (s : BitVec 8) : Check :=
  let n := s.toNat
  if n = 0 then .good
  else if n = 255 then .poisoned
  else if n < 128 then .poisoned
  else
    let c := n - 128
    if popcount 7 c ≤ 1 then .checkBit
    else match codeIndex c (checkCodes.take 64) 0 with
      | some j => .dataBit j
      | none => .poisoned

namespace Space

/-- What the stored check byte of a word says. -/
def check (m : Space) (w : Nat) : Check := decodeSyndrome (SMap.get 0 m.syn w)

/-- A word decodes as poisoned or cannot be corrected (R348, R349). -/
def bad (m : Space) (w : Nat) : Bool := m.check w == .poisoned

/-- A word as a read takes it, a single-bit error corrected (R348). -/
def word (m : Space) (w : Nat) : Nat :=
  let x := m.bytes.bytes (8 * w) 8
  match m.check w with
  | .dataBit j => Nat.xor x (2 ^ j)
  | _ => x

/-- n bits at a bit address as a read takes them. With every check good these are the stored bits. -/
def readBits (m : Space) (a n : Nat) : Nat :=
  let ws := wordsOf a n
  if ws.all (fun w => SMap.get 0 m.syn w == 0) then m.bytes.bits a n
  else
    let joined := ws.foldr (fun w acc => m.word w + 2 ^ 64 * acc) 0
    (joined >>> (a % 64)) % 2 ^ n

/-- The contents as a table walk takes them: a single-bit error corrected, and a word that cannot be read 0, which is no
valid entry (R307, R348, log 84). -/
def walked (m : Space) : Memory :=
  m.syn.foldl (fun b p => match m.check p.1 with
    | .dataBit j => b.setBytes (8 * p.1) 8 (Nat.xor (b.bytes (8 * p.1) 8) (2 ^ j))
    | .poisoned => b.setBytes (8 * p.1) 8 0
    | _ => b) m.bytes

/-- Whether a read of a word corrects a single-bit error (R348). -/
def fixes (m : Space) (w : Nat) : Bool := match m.check w with | .dataBit _ => true | .checkBit => true | _ => false

/-- A read of some words counts what it corrects; the memory keeps the error (R342, R348, log 46). -/
def countRead (m : Space) (ws : List Nat) : Space :=
  if m.syn.isEmpty then m else { m with fixed := m.fixed + (ws.filter m.fixes).length }

/-- Whether n bits at a bit address reach a poisoned word. -/
def anyBad (m : Space) (a n : Nat) : Option Nat := (wordsOf a n).find? (m.bad ·)

/-- Correct a single-bit error of a word in place. -/
def repair (m : Space) (w : Nat) : Space :=
  match m.check w with
  | .dataBit j =>
    { m with bytes := m.bytes.setBytes (8 * w) 8 (Nat.xor (m.bytes.bytes (8 * w) 8) (2 ^ j)), syn := m.syn.del w, fixed := m.fixed + 1 }
  | .checkBit => { m with syn := m.syn.del w, fixed := m.fixed + 1 }
  | _ => m

/-- Write n bits with fresh check values: a word covered in part is merged, corrected first where it needs it; a
word covered whole is replaced unread (R128, R280, R349). -/
def writeRaw (m : Space) (a n x : Nat) : Space :=
  let m := if m.syn.isEmpty then m else (partialWords a n).foldl repair m
  { m with bytes := m.bytes.setBits a n x
           syn := if m.syn.isEmpty then m.syn else m.syn.filter fun p => !(wordsOf a n).contains p.1 }

/-- Whether a word that cannot be read is not marked yet: where it is copied, that poisons it (R349). -/
def unmarked (m : Space) (w : Nat) : Bool := m.bad w && SMap.get 0 m.syn w != 0xFF

/-- Poison a word (R349). -/
def poison (m : Space) (w : Nat) : Space := { m with syn := m.syn.put w 0xFF }

def isOut (m : Space) (sec : Nat) : Bool := m.out.contains sec

/-- Whether a sector that is listed OUT is still IN in a cycle (R163). -/
def stillIn (m : Space) (sec t : Nat) : Bool :=
  match SMap.get? m.hist sec with | some h => decide (t < h.outAt) | none => false

/-- The 512 bits of a sector. -/
def content (m : Space) (sec : Nat) : BitVec 512 := BitVec.ofNat 512 (m.readBits (512 * sec) 512)
def isPend (m : Space) (sec : Nat) : Bool := m.pend.contains sec

end Space

namespace Space

/-- A write makes a sector OUT and cancels its pending flip; going from IN to OUT it leaves its content to the
unnamed-path rule (R155, R164, R165). -/
def goOut (m : Space) (sec : Nat) : Space :=
  if m.isOut sec then
    { m with pend := NSet.del m.pend sec
             hist := match SMap.get? m.hist sec with
               | some h => if h.outAt = 0 then m.hist else m.hist.put sec { h with outAt := 0 }
               | none => m.hist }
  else { m with out := NSet.add m.out sec, hist := m.hist.put sec { old := m.content sec } }

/-- Something has arrived in a sector, now OUT, on a path for which a level suffices (R271). -/
def arrive (m : Space) (sec level : Nat) : Space :=
  { m with hist := match SMap.get? m.hist sec with
      | some h => if h.need < level then m.hist.put sec { h with need := level } else m.hist
      | none => m.hist }

/-- A flip to IN by a turnaround of the named paths and level (R160, R164). -/
def goIn (m : Space) (sec : Nat) (paths : BitVec 4) (level : Nat) : Space :=
  { m with out := NSet.del m.out sec
           pend := NSet.del m.pend sec
           hist := match SMap.get? m.hist sec with
             | some h => m.hist.put sec { old := h.old, paths := paths, level := level, seen := h.ahead, need := h.need }
             | none => m.hist }

/-- Another turnaround names a sector that is IN, or will be at the phase change: what it names is added (R153, R164, R327, log
92). -/
def joinTurn (m : Space) (sec : Nat) (paths : BitVec 4) (level : Nat) : Space :=
  { m with hist := match SMap.get? m.hist sec with
      | some h => if h.also.contains (paths, level) then m.hist else m.hist.put sec { h with also := h.also ++ [(paths, level)] }
      | none => m.hist }

/-- Whether a sector is IN in a cycle, but for the flips that turnarounds owe it. -/
def isIn (m : Space) (sec t : Nat) : Bool := !m.isOut sec || m.stillIn sec t

/-- A turnaround in an exchange superstep marks an OUT sector pending (R165); a later one adds what it names. -/
def mark (m : Space) (sec : Nat) (paths : BitVec 4) (level : Nat) : Space :=
  if m.isPend sec then m.joinTurn sec paths level
  else
    { m with pend := NSet.add m.pend sec
             hist := match SMap.get? m.hist sec with
               | some h => m.hist.put sec { h with paths := paths, level := level, also := [], seen := 0 }
               | none => m.hist }

/-- At the phase change every pending sector becomes IN (R235). -/
def applyPending (m : Space) : Space :=
  { m with out := m.out.filter fun x => !m.pend.contains x, pend := [] }

/-- A store of n bits: the sectors go OUT, then the bits are written. -/
def store (m : Space) (a n x : Nat) : Space :=
  ((sectorsOf a n).foldl goOut m).writeRaw a n x

end Space

/-! ## Clocks -/

/-- The count of a clock in a cycle. -/
def Clock.read (c : Clock) (now : Nat) : Nat := if c.run then c.val + (now - c.base) else c.val
/-- Hold a clock. -/
def Clock.hold (c : Clock) (now : Nat) : Clock := { run := false, base := now, val := c.read now }
/-- Let a clock run on. -/
def Clock.go (c : Clock) (now : Nat) : Clock := if c.run then c else { run := true, base := now, val := c.val }
/-- A clock that starts at 0. -/
def Clock.start (now : Nat) : Clock := { run := true, base := now, val := 0 }

end Sys2Proof.Machine
end

