-- ==== Sys2Proof/Machine/Flags.lean ====
section
/-! DEFINITION. The sticky flags of FLG and the fields of RMODE (R69). Flags stand as in FLG: NX 0, UF 1, OF 2, DZ 3,
NV 4, NF 5, SAT 6. -/

namespace Sys2Proof.Machine

def flNX : BitVec 7 := 0x01
def flUF : BitVec 7 := 0x02
def flOF : BitVec 7 := 0x04
def flDZ : BitVec 7 := 0x08
def flNV : BitVec 7 := 0x10
def flNF : BitVec 7 := 0x20
def flSAT : BitVec 7 := 0x40

/-- A flag when a condition holds. -/
def flagIf (b : Bool) (f : BitVec 7) : BitVec 7 := if b then f else 0

/-- FLG as MFS reads it; reserved bits read 0. -/
def flgWord (f : BitVec 7) : Word := f.setWidth 64

/-- FLG after MTS: bits [6:0] are replaced (R69). -/
def flgOfWord (x : Word) : BitVec 7 := x.setWidth 7

/-- RMODE as MFS reads it, and after MTS. -/
def rmodeWord (r : BitVec 3) : Word := r.setWidth 64
def rmodeOfWord (x : Word) : BitVec 3 := x.setWidth 3

/-- The flags a reduction may set: NX, OF, NV and NF (R193). -/
def reductionFlags (f : BitVec 7) : BitVec 7 := f &&& (flNX ||| flOF ||| flNV ||| flNF)

end Sys2Proof.Machine
end

