-- ==== Sys2Proof/Machine/Float.lean ====
section
/-! DEFINITION. Floating point (R74 to R81, R87, R89): operands as exact dyadic values, every operation computed
exactly and rounded once, and the flags of R78. -/

namespace Sys2Proof.Machine

/-- The formats of R74. -/
inductive Fmt where
  | fp16 | bf16 | fp32 | fp64
  deriving DecidableEq, Repr

namespace Fmt
def ebits : Fmt → Nat | .fp16 => 5 | .bf16 => 8 | .fp32 => 8 | .fp64 => 11
def fbits : Fmt → Nat | .fp16 => 10 | .bf16 => 7 | .fp32 => 23 | .fp64 => 52
/-- Width of the format. -/
def width (f : Fmt) : Nat := f.ebits + f.fbits + 1
/-- The largest exponent field. -/
def emaxField (f : Fmt) : Nat := 2 ^ f.ebits - 1
def bias (f : Fmt) : Int := ((2 ^ (f.ebits - 1) - 1 : Nat) : Int)
/-- Exponent of the smallest normal. -/
def emin (f : Fmt) : Int := 1 - f.bias
/-- Exponent of the largest finite value's leading bit. -/
def emax (f : Fmt) : Int := f.bias
def nan (f : Fmt) : Nat := f.emaxField * 2 ^ f.fbits + 2 ^ (f.fbits - 1)
def inf (f : Fmt) (neg : Bool) : Nat := neg.toNat * 2 ^ (f.width - 1) + f.emaxField * 2 ^ f.fbits
def zero (f : Fmt) (neg : Bool) : Nat := neg.toNat * 2 ^ (f.width - 1)
def largest (f : Fmt) (neg : Bool) : Nat := f.inf neg - 1
def one (f : Fmt) : Nat := (2 ^ (f.ebits - 1) - 1) * 2 ^ f.fbits
end Fmt

/-- What a floating-point word means: m · 2^e with a sign, an infinity, or a NaN. -/
inductive FVal where
  | nan (signalling : Bool)
  | inf (neg : Bool)
  | fin (neg : Bool) (m : Nat) (e : Int)
  deriving DecidableEq, Repr

/-- A result with its flags. -/
abbrev FRes := Nat × BitVec 7

/-- The meaning of the bits of a format (R74). -/
def Fmt.unpack (f : Fmt) (x : Nat) : FVal :=
  let frac := x % 2 ^ f.fbits
  let ex := (x >>> f.fbits) % 2 ^ f.ebits
  let neg := (x >>> (f.width - 1)) % 2 == 1
  if ex = f.emaxField then
    (if frac = 0 then .inf neg else .nan (frac < 2 ^ (f.fbits - 1)))
  else if ex = 0 then .fin neg frac (f.emin - (f.fbits : Nat))
  else .fin neg (frac + 2 ^ f.fbits) ((ex : Int) - f.bias - (f.fbits : Nat))

/-- A subnormal word: exponent field 0 and a nonzero fraction. -/
def Fmt.isSub (f : Fmt) (x : Nat) : Bool :=
  (x >>> f.fbits) % 2 ^ f.ebits == 0 && x % 2 ^ f.fbits != 0

/-- An input under FTZ: a subnormal counts as zero of its sign (R75). -/
def Fmt.input (f : Fmt) (ftz : Bool) (x : Nat) : FVal :=
  match f.unpack x with
  | .fin neg m e => if ftz && f.isSub x then .fin neg 0 e else .fin neg m e
  | v => v

def FVal.isNan : FVal → Bool | .nan _ => true | _ => false
def FVal.isSnan : FVal → Bool | .nan s => s | _ => false
def FVal.isInf : FVal → Bool | .inf _ => true | _ => false
def FVal.isZero : FVal → Bool | .fin _ 0 _ => true | _ => false
def FVal.neg : FVal → Bool | .nan _ => false | .inf n => n | .fin n _ _ => n
/-- NF of an operand that is Inf or NaN, NV of a signalling NaN (R78). -/
def FVal.opFlags (v : FVal) : BitVec 7 := flagIf (v.isNan || v.isInf) flNF ||| flagIf v.isSnan flNV

/-- The rounding modes of RMODE.MODE (R69). -/
inductive RMode where
  | rne | rtz | rup | rdn
  deriving DecidableEq, Repr

def RMode.of (n : Nat) : RMode :=
  match n % 4 with | 0 => .rne | 1 => .rtz | 2 => .rup | _ => .rdn

/-- Rounding control: mode and FTZ. -/
structure RC where
  mode : RMode := .rne
  ftz : Bool := false
  deriving DecidableEq, Repr

/-- The rounding control that RMODE holds. -/
def RC.of (r : BitVec 3) : RC := { mode := RMode.of r.toNat, ftz := r.getLsbD 2 }

/-- m · 2^e (and a little more when `sticky`) as a multiple of 2^q, rounded, and whether that is inexact. -/
def roundAt (mode : RMode) (neg : Bool) (m : Nat) (e q : Int) (sticky : Bool) : Nat × Bool :=
  if q ≤ e then (m <<< (e - q).toNat, sticky)
  else
    let s := (q - e).toNat
    let n := m >>> s
    let rem := m % 2 ^ s
    let half := 2 ^ (s - 1)
    let inexact := rem != 0 || sticky
    let up := match mode with
      | .rne => decide (half < rem) || (rem == half && (sticky || n % 2 == 1))
      | .rtz => false
      | .rup => inexact && !neg
      | .rdn => inexact && neg
    (if up then n + 1 else n, inexact)

/-- Round m · 2^e (a nonzero magnitude, exceeded a little when `sticky`) to the format (R76). -/
def Fmt.round (f : Fmt) (rc : RC) (neg : Bool) (m : Nat) (e : Int) (sticky : Bool) : FRes :=
  let p : Int := (f.fbits + 1 : Nat)
  let lead : Int := (Nat.log2 m : Int) + e
  let q := lead - p + 1
  -- rounded with an unbounded exponent
  let (mu, iu) := roundAt rc.mode neg m e q sticky
  let leadU : Int := (Nat.log2 mu : Int) + q
  if f.emax < leadU then
    let toInf := match rc.mode with | .rne => true | .rtz => false | .rup => !neg | .rdn => neg
    (if toInf then f.inf neg else f.largest neg, flOF ||| flNX ||| flagIf toInf flNF)
  else if leadU < f.emin then
    -- tiny
    if rc.ftz then (f.zero neg, flUF ||| flNX)
    else
      let (md, inexact) := roundAt rc.mode neg m e (f.emin - p + 1) sticky
      (f.zero neg + md, flagIf inexact (flUF ||| flNX))
  else
    let ex : Nat := (leadU + f.bias).toNat
    let frac := (if mu = 2 ^ (f.fbits + 1) then 2 ^ f.fbits else mu) - 2 ^ f.fbits
    (f.zero neg + ex * 2 ^ f.fbits + frac, flagIf iu flNX)

/-- A dyadic value rounded to a format; a zero keeps its sign. -/
def Fmt.pack (f : Fmt) (rc : RC) (neg : Bool) (m : Nat) (e : Int) : FRes :=
  if m = 0 then (f.zero neg, 0) else f.round rc neg m e false

/-- The integer that a signed magnitude at 2^e is, in units of 2^u (u ≤ e). -/
def scaleTo (neg : Bool) (m : Nat) (e u : Int) : Int :=
  let x : Int := ((m <<< (e - u).toNat : Nat) : Int)
  if neg then -x else x

/-- Sum of two finite values rounded; an exact zero sum of opposite signs is +0, or −0 in RDN (R76). -/
def Fmt.addFin (f : Fmt) (rc : RC) (n1 : Bool) (m1 : Nat) (e1 : Int) (n2 : Bool) (m2 : Nat) (e2 : Int) : FRes :=
  if m1 = 0 && m2 = 0 then
    (f.zero (if n1 = n2 then n1 else rc.mode = .rdn), 0)
  else
    let u := min e1 e2
    let x := scaleTo n1 m1 e1 u + scaleTo n2 m2 e2 u
    if x = 0 then (f.zero (rc.mode = .rdn), 0)
    else f.round rc (x < 0) x.natAbs u false

/-- Flip the sign of a value. -/
def FVal.negate : FVal → FVal
  | .inf n => .inf (!n) | .fin n m e => .fin (!n) m e | v => v

/-- a + b of two values (R105). -/
def Fmt.addV (f : Fmt) (rc : RC) (a b : FVal) : FRes :=
  let fl := a.opFlags ||| b.opFlags
  match a, b with
  | .nan _, _ => (f.nan, fl)
  | _, .nan _ => (f.nan, fl)
  | .inf n, .inf k => if n = k then (f.inf n, fl) else (f.nan, fl ||| flNV)
  | .inf n, _ => (f.inf n, fl)
  | _, .inf n => (f.inf n, fl)
  | .fin n1 m1 e1, .fin n2 m2 e2 => f.addFin rc n1 m1 e1 n2 m2 e2

def Fmt.add (f : Fmt) (rc : RC) (x y : Nat) : FRes := f.addV rc (f.input rc.ftz x) (f.input rc.ftz y)
def Fmt.sub (f : Fmt) (rc : RC) (x y : Nat) : FRes := f.addV rc (f.input rc.ftz x) (f.input rc.ftz y).negate

def Fmt.mulV (f : Fmt) (rc : RC) (a b : FVal) : FRes :=
  let fl := a.opFlags ||| b.opFlags
  let neg := a.neg != b.neg
  match a, b with
  | .nan _, _ => (f.nan, fl)
  | _, .nan _ => (f.nan, fl)
  | .inf _, .inf _ => (f.inf neg, fl)
  | .inf _, .fin _ m _ => if m = 0 then (f.nan, fl ||| flNV) else (f.inf neg, fl)
  | .fin _ m _, .inf _ => if m = 0 then (f.nan, fl ||| flNV) else (f.inf neg, fl)
  | .fin _ m1 e1, .fin _ m2 e2 => f.pack rc neg (m1 * m2) (e1 + e2)

def Fmt.mul (f : Fmt) (rc : RC) (x y : Nat) : FRes := f.mulV rc (f.input rc.ftz x) (f.input rc.ftz y)

/-- a · b + c with one rounding; a product of 0 and Inf is invalid whatever c holds (R104, R181). -/
def Fmt.fmaV (f : Fmt) (rc : RC) (a b c : FVal) : FRes :=
  let fl := a.opFlags ||| b.opFlags ||| c.opFlags
  let neg := a.neg != b.neg
  let zeroInf := (a.isZero && b.isInf) || (a.isInf && b.isZero)
  if zeroInf then (f.nan, fl ||| flNV ||| flNF)
  else match a, b, c with
  | .nan _, _, _ => (f.nan, fl)
  | _, .nan _, _ => (f.nan, fl)
  | _, _, .nan _ => (f.nan, fl)
  | .fin _ m1 e1, .fin _ m2 e2, .fin n3 m3 e3 => f.addFin rc neg (m1 * m2) (e1 + e2) n3 m3 e3
  | .fin _ _ _, .fin _ _ _, .inf n => (f.inf n, fl)
  | _, _, .inf n => if n = neg then (f.inf n, fl) else (f.nan, fl ||| flNV)
  | _, _, _ => (f.inf neg, fl)

def Fmt.fma (f : Fmt) (rc : RC) (x y z : Nat) : FRes :=
  f.fmaV rc (f.input rc.ftz x) (f.input rc.ftz y) (f.input rc.ftz z)
def Fmt.fms (f : Fmt) (rc : RC) (x y z : Nat) : FRes :=
  f.fmaV rc (f.input rc.ftz x) (f.input rc.ftz y) (f.input rc.ftz z).negate
def Fmt.fnma (f : Fmt) (rc : RC) (x y z : Nat) : FRes :=
  f.fmaV rc (f.input rc.ftz x).negate (f.input rc.ftz y) (f.input rc.ftz z)

/-- m1·2^e1 / m2·2^e2 of nonzero magnitudes, correctly rounded (R81). -/
def Fmt.divFin (f : Fmt) (rc : RC) (neg : Bool) (m1 : Nat) (e1 : Int) (m2 : Nat) (e2 : Int) : FRes :=
  let k := f.fbits + 5 + Nat.log2 m2
  let n := m1 <<< k
  f.round rc neg (n / m2) (e1 - e2 - (k : Nat)) (n % m2 != 0)

def Fmt.divV (f : Fmt) (rc : RC) (a b : FVal) : FRes :=
  let fl := a.opFlags ||| b.opFlags
  let neg := a.neg != b.neg
  match a, b with
  | .nan _, _ => (f.nan, fl)
  | _, .nan _ => (f.nan, fl)
  | .inf _, .inf _ => (f.nan, fl ||| flNV)
  | .inf _, .fin _ _ _ => (f.inf neg, fl)
  | .fin _ _ _, .inf _ => (f.zero neg, fl)
  | .fin _ m1 e1, .fin _ m2 e2 =>
    if m2 = 0 then
      (if m1 = 0 then (f.nan, flNV ||| flNF) else (f.inf neg, flDZ ||| flNF))
    else if m1 = 0 then (f.zero neg, 0)
    else f.divFin rc neg m1 e1 m2 e2

def Fmt.div (f : Fmt) (rc : RC) (x y : Nat) : FRes := f.divV rc (f.input rc.ftz x) (f.input rc.ftz y)

/-- Newton's iteration for the integer square root, from above. -/
def isqrtGo (n : Nat) : Nat → Nat → Nat
  | 0, x => x
  | k + 1, x =>
    let y := (x + n / x) / 2
    if x ≤ y then x else isqrtGo n k y

/-- The largest r with r² ≤ n. -/
def isqrt (n : Nat) : Nat :=
  if n = 0 then 0 else isqrtGo n (Nat.log2 n + 2) (2 ^ (Nat.log2 n / 2 + 1))

/-- A magnitude m·2^e with an even exponent and at least 2^bits for m. -/
def evenScale (bits m : Nat) (e : Int) : Nat × Int :=
  let k := bits + (if (e - (bits : Nat)) % 2 = 0 then 0 else 1)
  (m <<< k, e - (k : Nat))

/-- VSQRT, FSQRT (R81). -/
def Fmt.sqrt (f : Fmt) (rc : RC) (x : Nat) : FRes :=
  let v := f.input rc.ftz x
  match v with
  | .nan _ => (f.nan, v.opFlags)
  | .inf neg => if neg then (f.nan, flNV ||| flNF) else (f.inf false, flNF)
  | .fin neg m e =>
    if m = 0 then (f.zero neg, 0)
    else if neg then (f.nan, flNV ||| flNF)
    else
      let (n, k) := evenScale (2 * f.fbits + 8) m e
      let r := isqrt n
      f.round rc false r (k / 2) (r * r != n)

/-- VRSQRT (R81). -/
def Fmt.rsqrt (f : Fmt) (rc : RC) (x : Nat) : FRes :=
  let v := f.input rc.ftz x
  match v with
  | .nan _ => (f.nan, v.opFlags)
  | .inf neg => if neg then (f.nan, flNV ||| flNF) else (f.zero false, flNF)
  | .fin neg m e =>
    if m = 0 then (f.inf neg, flDZ ||| flNF)
    else if neg then (f.nan, flNV ||| flNF)
    else
      let (n, k) := evenScale 0 m e
      let big := f.fbits + 5 + Nat.log2 n
      let q := 2 ^ (2 * big) / n
      let r := isqrt q
      f.round rc false r (-(k / 2) - (big : Nat)) (r * r * n != 2 ^ (2 * big))

/-- VRCP (R81). -/
def Fmt.rcp (f : Fmt) (rc : RC) (x : Nat) : FRes :=
  let v := f.input rc.ftz x
  match v with
  | .nan _ => (f.nan, v.opFlags)
  | .inf neg => (f.zero neg, flNF)
  | .fin neg m e => if m = 0 then (f.inf neg, flDZ ||| flNF) else f.divFin rc neg 1 0 m e

/-- Working precision of VEXP2 and bits of the fraction it takes up (log 13). -/
def exp2Prec : Nat := 256
def exp2Bits : Nat := 200

/-- Product of 2^(2^-i) over the one bits of the fraction, the highest first, as a fixed-point number not above the
true value; `c` is 2^(2^-i) for the bit in turn. -/
def exp2Go : Nat → Nat → Nat → Nat → Nat
  | 0, _, _, acc => acc
  | n + 1, fr, c, acc =>
    let acc := if (fr >>> n) % 2 = 1 then (acc * c) >>> exp2Prec else acc
    exp2Go n fr (isqrt (c <<< exp2Prec)) acc

/-- 2^f for a fraction of `exp2Bits` bits, with `exp2Prec` fraction bits. -/
def exp2Frac (fr : Nat) : Nat := exp2Go exp2Bits fr (isqrt (2 <<< (2 * exp2Prec))) (2 ^ exp2Prec)

/-- VEXP2: 2^x rounded once; an integer x is exact (R81). -/
def Fmt.exp2 (f : Fmt) (rc : RC) (x : Nat) : FRes :=
  let v := f.input rc.ftz x
  match v with
  | .nan _ => (f.nan, v.opFlags)
  | .inf neg => (if neg then f.zero false else f.inf false, flNF)
  | .fin neg m e =>
    if m = 0 then (f.one, 0)
    else if 0 ≤ e ∨ m % 2 ^ (-e).toNat = 0 then
      let n : Int := scaleTo neg (if 0 ≤ e then m <<< e.toNat else m >>> (-e).toNat) 0 0
      -- beyond any format's range the exponent alone decides
      f.round rc false 1 (max (-5000) (min 5000 n)) false
    else
      let k := (-e).toNat
      let t : Int := scaleTo neg m 0 0
      let n : Int := t / ((2 ^ k : Nat) : Int)
      let fr : Nat := (t % ((2 ^ k : Nat) : Int)).toNat
      let fr' := if k ≤ exp2Bits then fr <<< (exp2Bits - k) else fr >>> (k - exp2Bits)
      f.round rc false (exp2Frac fr' >>> 40) (max (-5000) (min 5000 n) - ((exp2Prec - 40 : Nat) : Int)) true

/-- Working precision and result bits of VLOG2 (log 13). -/
def log2Prec : Nat := 512
def log2Bits : Nat := 200

/-- Binary digits of log2 of y in [1, 2), by repeated squaring. -/
def log2Go : Nat → Nat → Nat → Nat
  | 0, _, acc => acc
  | n + 1, y, acc =>
    let y2 := (y * y) >>> log2Prec
    if 2 ^ (log2Prec + 1) ≤ y2 then log2Go n (y2 / 2) (2 * acc + 1) else log2Go n y2 (2 * acc)

/-- VLOG2: log2 x rounded once; exact for a power of two (R81). -/
def Fmt.log2 (f : Fmt) (rc : RC) (x : Nat) : FRes :=
  let v := f.input rc.ftz x
  match v with
  | .nan _ => (f.nan, v.opFlags)
  | .inf neg => if neg then (f.nan, flNV ||| flNF) else (f.inf false, flNF)
  | .fin neg m e =>
    if m = 0 then (f.inf true, flDZ ||| flNF)
    else if neg then (f.nan, flNV ||| flNF)
    else
      let l := Nat.log2 m
      let ex : Int := (l : Int) + e
      if m = 2 ^ l then f.pack rc (ex < 0) ex.natAbs 0
      else
        let fr := log2Go log2Bits (m <<< (log2Prec - l)) 0
        if 0 ≤ ex then f.round rc false (ex.natAbs * 2 ^ log2Bits + fr) (-((log2Bits : Nat) : Int)) true
        else f.round rc true (ex.natAbs * 2 ^ log2Bits - fr - 1) (-((log2Bits : Nat) : Int)) true

/-- Order of two values that are no NaN: a below b, −0 and +0 equal. -/
def FVal.lt (a b : FVal) : Bool :=
  match a, b with
  | .inf n, .inf k => n && !k
  | .inf n, _ => n
  | _, .inf n => !n
  | .fin n1 m1 e1, .fin n2 m2 e2 =>
    let u := min e1 e2
    decide (scaleTo n1 m1 e1 u < scaleTo n2 m2 e2 u)
  | _, _ => false

def FVal.eq (a b : FVal) : Bool := !a.isNan && !b.isNan && !a.lt b && !b.lt a

/-- Flags of a compare: NF for any Inf or NaN, NV for a signalling NaN (R79). -/
def cmpFlags (a b : FVal) : BitVec 7 := a.opFlags ||| b.opFlags

/-- The compares of R79: equal, less, less or equal; false of a NaN. -/
def Fmt.cmp (f : Fmt) (rc : RC) (rel : FVal → FVal → Bool) (x y : Nat) : Bool × BitVec 7 :=
  let a := f.input rc.ftz x
  let b := f.input rc.ftz y
  (!a.isNan && !b.isNan && rel a b, cmpFlags a b)

def FVal.le (a b : FVal) : Bool := a.lt b || a.eq b

/-- The word an input counts as: zero of its sign for a subnormal under FTZ (R75). -/
def Fmt.flush (f : Fmt) (ftz : Bool) (x : Nat) : Nat :=
  if ftz && f.isSub x then f.zero ((x >>> (f.width - 1)) % 2 == 1) else x % 2 ^ f.width

/-- FMIN, FMAX, VMIN, VMAX: a NaN operand gives the canonical NaN, and −0 is below +0 (R79). -/
def Fmt.minmax (f : Fmt) (rc : RC) (isMax : Bool) (x y : Nat) : FRes :=
  let a := f.input rc.ftz x
  let b := f.input rc.ftz y
  let fl := cmpFlags a b
  if a.isNan || b.isNan then (f.nan, fl)
  else
    let less := a.lt b || (!b.lt a && a.neg && !b.neg)
    (if less != isMax then f.flush rc.ftz x else f.flush rc.ftz y, fl)

/-- VABS and VNEG: a NaN becomes canonical, otherwise only the sign changes (R181). -/
def Fmt.signOp (f : Fmt) (sign : Bool → Bool) (x : Nat) : FRes :=
  let v := f.unpack x
  if v.isNan then (f.nan, v.opFlags)
  else (f.zero (sign ((x >>> (f.width - 1)) % 2 == 1)) + x % 2 ^ (f.width - 1), 0)

/-- Float to float (R80). Widening is exact, so one rounding serves both ways. -/
def Fmt.convert (src dst : Fmt) (rc : RC) (x : Nat) : FRes :=
  let v := src.input rc.ftz x
  match v with
  | .nan _ => (dst.nan, v.opFlags)
  | .inf neg => (dst.inf neg, flNF)
  | .fin neg m e => dst.pack rc neg m e

/-- Integer to float (R80). -/
def Fmt.ofInt (f : Fmt) (rc : RC) (x : Int) : FRes := f.pack rc (x < 0) x.natAbs 0

/-- A finite value rounded to an integer, and whether that is inexact. -/
def roundInt (mode : RMode) (neg : Bool) (m : Nat) (e : Int) : Int × Bool :=
  let (n, ix) := roundAt mode neg m e 0 false
  (if neg then -(n : Int) else n, ix)

/-- Float to integer in a range: rounded in RMODE, then clamped (R80). -/
def Fmt.toInt (f : Fmt) (rc : RC) (lo hi : Int) (x : Nat) : Int × BitVec 7 :=
  let v := f.input rc.ftz x
  match v with
  | .nan _ => (0, flNV ||| flNF)
  | .inf neg => (if neg then lo else hi, flNV ||| flSAT ||| flNF)
  | .fin neg m e =>
    let (n, ix) := roundInt rc.mode neg m e
    if n < lo then (lo, flNV ||| flSAT) else if hi < n then (hi, flNV ||| flSAT) else (n, flagIf ix flNX)

/-- VROUND (R189): to an integral value of the same format, only NX and the NaN flags. -/
def Fmt.roundIntegral (f : Fmt) (mode : RMode) (ftz : Bool) (x : Nat) : FRes :=
  let v := f.input ftz x
  match v with
  | .nan _ => (f.nan, v.opFlags)
  | .inf neg => (f.inf neg, flNF)
  | .fin neg m e =>
    if m = 0 then (f.zero neg, 0)
    else
      let (n, ix) := roundAt mode neg m e 0 false
      ((f.pack {} neg n 0).1, flagIf ix flNX)

/-- VSCALE (R190): a · 2^n rounded once. An exponent beyond every format's range is cut. -/
def Fmt.scale (f : Fmt) (rc : RC) (x : Nat) (n : Int) : FRes :=
  let v := f.input rc.ftz x
  match v with
  | .nan _ => (f.nan, v.opFlags)
  | .inf neg => (f.inf neg, flNF)
  | .fin neg m e => f.pack rc neg m (e + max (-10000) (min 10000 n))

/-- Addition that rounds RNE and keeps subnormals (R89). -/
def Fmt.addRne (f : Fmt) (x y : Nat) : FRes := f.add {} x y

end Sys2Proof.Machine
end

