-- ==== Sys2Proof/Machine/Late.lean ====
section
/-! DEFINITION. Writes on their way to the bank of a sector (R126, R130, R163): their order is that of the cycles in which
they are there, an atomic reads and writes its word in its place in that order (R276, R277), and a fault drops what has not
arrived (R31). -/

namespace Sys2Proof.Machine

/-- A number with some of its bits replaced. -/
def putBits (x off n v : Nat) : Nat := x - x / 2 ^ off % 2 ^ n * 2 ^ off + v % 2 ^ n * 2 ^ off

/-! ## What an atomic computes (R275) -/

/-- The new value of n bits and the flags, from the old value, g[B] and g[DR]. -/
def AtomOp.apply (op : AtomOp) (n old x c : Nat) : Nat × BitVec 7 :=
  match op with
  | .add => ((old + x) % 2 ^ n, 0)
  | .and => (old &&& x, 0)
  | .or => (old ||| x, 0)
  | .xor => (Nat.xor old x, 0)
  | .min => (if signed n old ≤ signed n x then old else x, 0)
  | .max => (if signed n old ≤ signed n x then x else old, 0)
  | .minn => (Nat.min old x, 0)
  | .maxn => (Nat.max old x, 0)
  | .xchg => (x, 0)
  | .cas => (if old = c then x else old, 0)
  | .fadd => (if n = 32 then Fmt.fp32 else Fmt.fp64).addRne old x
  | .ld => (old, 0)
  | .st => (x, 0)

/-- Every atomic but AST reads its word, and every one but ALD may write it; AFADD takes 7 cycles, the others 5 (R275,
R277). -/
def AtomOp.reads (op : AtomOp) : Bool := op != .st
def AtomOp.stores (op : AtomOp) : Bool := op != .ld
def AtomOp.latency (op : AtomOp) : Nat := if op = .fadd then 7 else 5

/-- Whether an atomic writes: an AST always, another where the value changes (R275). -/
def AtomOp.writes (op : AtomOp) (new old : Nat) : Bool := op.stores && (!op.reads || new != old)

/-! ## Arrival at the bank -/

/-- A sector as the writes on their way arrive in it: its content, and its words that releases have marked (R279). -/
structure SectorNow where
  x : Nat
  rels : List Nat
  relSeens : List Nat
  deriving DecidableEq, Repr

/-- What an atomic finds at its bank: the old value, its flags, and whether a release wrote what it reads. -/
structure Found where
  old : Nat := 0
  flags : BitVec 7 := 0
  saw : Bool := false
  deriving DecidableEq, Repr

/-- A write arrives. A release marks its word, and where it writes nothing the next write there follows it (R268, R279). -/
def Patch.arrive (p : Patch) (a : SectorNow) : SectorNow × Found :=
  match p.atom with
  | none => ({ a with x := putBits a.x p.off p.bits p.val }, {})
  | some t =>
    let old := a.x / 2 ^ p.off % 2 ^ p.bits
    let r := t.op.apply p.bits old t.x t.cmp
    let wrote := t.op.writes r.1 old
    let word := p.off / 64
    ({ x := if wrote then putBits a.x p.off p.bits r.1 else a.x
       rels := if wrote && (t.rel || a.relSeens.contains word) then NSet.add a.rels word else a.rels
       relSeens := if t.rel && !wrote then NSet.add a.relSeens word else a.relSeens },
     { old := old, flags := r.2, saw := t.acq && a.rels.contains word })

/-- Writes arrive one after another; each is given with what it found. -/
def arriveAll : List Patch → SectorNow → SectorNow × List (Patch × Found)
  | [], a => (a, [])
  | p :: r, a =>
    let q := p.arrive a
    let t := arriveAll r q.1
    (t.1, (p, q.2) :: t.2)

/-- A sector before the writes on their way to it. -/
def Hist.start (h : Hist) : SectorNow := { x := h.base.toNat, rels := h.rels, relSeens := h.relSeens }

/-- A sector before the writes that reach its bank in cycle t or later. -/
def Hist.upTo (h : Hist) (t : Nat) : SectorNow := (arriveAll (h.late.filter fun p => decide (p.cycle < t)) h.start).1

/-- Its content then. -/
def Hist.before (h : Hist) (t : Nat) : BitVec 512 := BitVec.ofNat 512 (h.upTo t).x

/-- Whether some write is to reach the bank in cycle t or later. -/
def Hist.waits (h : Hist) (t : Nat) : Bool := h.late.any fun p => decide (t ≤ p.cycle)

/-- A write joins those on their way, by its cycle. -/
def insertPatch (p : Patch) : List Patch → List Patch
  | [] => [p]
  | q :: r => if p.cycle < q.cycle then p :: q :: r else q :: insertPatch p r

/-- The bits of a sector that a write of n bits x at a replaces. -/
def patchOf (ctx now t a n x sec : Nat) : Patch :=
  let lo := Nat.max a (512 * sec)
  { cycle := t, off := lo - 512 * sec, bits := Nat.min (a + n) (512 * sec + 512) - lo, val := x / 2 ^ (lo - a), ctx := ctx, issued := now }

/-- Whether a write touches word w of its sector, and whether it replaces it whole. -/
def Patch.touches (p : Patch) (w : Nat) : Bool := decide (p.off < 64 * w + 64) && decide (64 * w < p.off + p.bits)
def Patch.covers (p : Patch) (w : Nat) : Bool := p.atom.isNone && decide (p.off ≤ 64 * w) && decide (64 * w + 64 ≤ p.off + p.bits)

namespace Space

/-- The history of a sector with one more write on its way to the bank; `rels` are the words that releases have marked. -/
def withLate (m : Space) (sec now : Nat) (rels : List Nat × List Nat) (h : Hist) (p : Patch) : Hist :=
  let late := insertPatch p (h.late.filter fun q => decide (now ≤ q.cycle))
  if h.waits now then
    let a := h.upTo now
    { h with late := late, base := BitVec.ofNat 512 a.x, rels := a.rels, relSeens := a.relSeens
             marks := h.marks.filter fun q => !(h.late.any fun x => decide (x.cycle < now) && x.touches (q.1 % 8)) }
  else { h with late := late, base := m.content sec, rels := rels.1, relSeens := rels.2, marks := m.syn.filter fun q => q.1 / 8 == sec }

/-- The same where the sector has a facing: it stays IN until the first write is there (R163). -/
def lateWrite (m : Space) (sec now : Nat) (p : Patch) : Hist :=
  let c := m.content sec
  let h := m.withLate sec now ([], []) ((SMap.get? m.hist sec).getD { old := c, paths := 15, level := 4 }) p
  if m.isOut sec then { h with outAt := Nat.min h.outAt p.cycle }
  else { h with old := c, older := h.old, outAt := p.cycle, ahead := 0, need := 0 }

/-- A store whose write reaches the bank in a later cycle: the sector is listed OUT at once, and stays IN until then
(R163). -/
def goOutAt (now : Nat) (p : Patch) (m : Space) (sec : Nat) : Space :=
  { m with out := NSet.add m.out sec, pend := NSet.del m.pend sec, hist := m.hist.put sec (m.lateWrite sec now p) }

/-- A write on its way to a sector outside facing. -/
def lateRaw (now : Nat) (rels : List Nat × List Nat) (p : Patch) (m : Space) (sec : Nat) : Space :=
  let h : Hist := (SMap.get? m.hist sec).getD { old := m.content sec, paths := 15, level := 4, seen := 15 }
  { m with hist := m.hist.put sec (m.withLate sec now rels h p) }

/-- The cycle of the first write that is still on its way to a sector. -/
def nextLate (m : Space) (sec now : Nat) : Option Nat :=
  match SMap.get? m.hist sec with
  | some h => (h.late.find? fun p => decide (now ≤ p.cycle)).map (·.cycle)
  | none => none

/-- Whether a write to a sector is still on its way in a cycle. -/
def waits (m : Space) (sec now : Nat) : Bool := match SMap.get? m.hist sec with | some h => h.waits now | none => false

/-- A write that is whole in this cycle, before those that are still on their way. -/
def goOutNow (now : Nat) (p : Patch) (m : Space) (sec : Nat) : Space :=
  if m.waits sec now then m.goOutAt now p sec else m.goOut sec

/-- Some writes to a sector take the bits that they have in x. -/
def writeBack (m : Space) (sec x : Nat) (l : List Patch) : Space :=
  { m with bytes := l.foldl (fun (b : Memory) p => b.setBits (512 * sec + p.off) p.bits (x / 2 ^ p.off)) m.bytes }

/-- A word has its old syndrome again, and with that of a data bit the bit is wrong again. -/
def remark (m : Space) (x : Nat) (q : Nat × BitVec 8) : Space :=
  { m with syn := m.syn.put q.1 q.2
           bytes := match decodeSyndrome q.2 with
             | .dataBit j => m.bytes.setBits (64 * q.1 + j) 1 (1 - x / 2 ^ (64 * (q.1 % 8) + j) % 2)
             | _ => m.bytes }

/-- The writes to a sector that have not reached its bank by a cycle are dropped: their bits are what they were, and a word
that no other write has touched has the syndrome that a dropped one would have replaced; a sector that one of them was to
make OUT stays IN (R31, R348, R349). -/
def dropSector (m : Space) (now sec : Nat) (h : Hist) : Space :=
  let (gone, kept) := h.late.partition fun p => decide (now < p.cycle)
  if gone.isEmpty then m
  else
    let x := (h.upTo (now + 1)).x
    let marks := h.marks.filter fun q => !kept.any (·.touches (q.1 % 8))
      && (gone.any (·.covers (q.1 % 8)) || (decodeSyndrome q.2 == .poisoned && gone.any (·.touches (q.1 % 8))))
    let m := marks.foldl (fun m q => m.remark x q) (m.writeBack sec x gone)
    if now < h.outAt then { m with out := NSet.del m.out sec, hist := m.hist.put sec { h with old := h.older, late := [], outAt := 0 } }
    else { m with hist := m.hist.put sec { h with late := [] } }

/-- The same of every sector. -/
def dropLate (m : Space) (now : Nat) : Space := m.hist.foldl (fun m q => m.dropSector now q.1 q.2) m

/-- A write that comes d cycles later; the result of an atomic with it. -/
def putOff (d : Nat) (p : Patch) : Patch :=
  { p with cycle := p.cycle + d, atom := p.atom.map fun (t : AtomAct) => { t with land := t.land + d } }

/-- A write of a context to a sector comes d cycles later than cycle t (R130). -/
def putOffWrite (m : Space) (sec ctx issued t d : Nat) : Space :=
  match SMap.get? m.hist sec with
  | none => m
  | some h =>
    let (moved, kept) := h.late.partition fun p => p.ctx == ctx && p.issued == issued && p.cycle == t
    if moved.isEmpty then m
    else
      let late := moved.foldl (fun l p => insertPatch (putOff d p) l) kept
      let first := (late.filter fun p => decide (h.outAt ≤ p.cycle)).headD { cycle := h.outAt, off := 0, bits := 0, val := 0 }
      { m with hist := m.hist.put sec { h with late := late, outAt := if h.outAt = t then first.cycle else h.outAt } }

/-- A flip of a sector that a write on its way reaches in cycle w or later: it is IN until then and ends OUT (R163). -/
def goInUntil (m : Space) (sec : Nat) (paths : BitVec 4) (level now w : Nat) : Space :=
  let h : Hist := (SMap.get? m.hist sec).getD { old := m.content sec }
  let c := if h.waits now then h.before now else m.content sec
  { m with hist := m.hist.put sec { h with old := c, older := h.old, paths := paths, level := level, also := []
                                           seen := h.ahead, ahead := 0, outAt := w } }

end Space

/-! ## Sets of words -/

/-- The words of a sector in a set of words, by their place in it, and a set with other words of it. -/
def wordsIn (l : List Nat) (sec : Nat) : List Nat := (l.filter fun w => w / 8 == sec).map (· % 8)
def wordsSet (l : List Nat) (sec : Nat) (ws : List Nat) : List Nat :=
  ws.foldl (fun l w => NSet.add l (8 * sec + w)) (l.filter fun w => w / 8 != sec)

/-- Atomics on their way among some writes, and how many of them have found what a release wrote. -/
def atomsOf (l : List Patch) : Bool := l.any fun p => p.atom.isSome
def sawsOf (l : List Patch) : Nat := (l.filter fun p => match p.atom with | some t => t.saw | none => false).length

end Sys2Proof.Machine
end

