-- ==== Sys2Proof/Machine/Translate.lean ====
section
/-! DEFINITION. Physical bit addresses and the tables that translate DEVICE space (R306, R307). -/

namespace Sys2Proof.Machine

/-- Bits of module memory (R306). -/
def moduleBits : Nat := 9 * 2 ^ 40

/-- Whether a physical bit address exists: below the end of module memory, or in one of the 64 slices. -/
def physOk (pa : Nat) : Bool :=
  if field pa 44 44 = 0 then decide (field pa 43 0 < moduleBits) else field pa 43 33 == 0

/-- Whether a physical bit address lies in slice SRAM. -/
def inSram (pa : Nat) : Bool := field pa 44 44 == 1

/-- A 64-bit entry of a translation table. -/
def tableEntry (tables : Memory) (table idx : Nat) : Nat := tables.bits (table + 64 * idx) 64

/-- One level of the walk: the page's physical address, the next table, or a failure. -/
inductive WalkStep where
  | page (pa : Nat) | table (pa : Nat) | bad
  deriving DecidableEq, Repr

/-- What an entry says, given whether a leaf may stand here with its page size, whether a table may follow, and
whether the access writes. -/
def readEntry (e : Nat) (page : Option Nat) (more write : Bool) : WalkStep :=
  let pa := field e 44 0
  if field e 63 63 = 0 || field e 60 45 != 0 then .bad
  else if field e 62 62 = 1 then
    match page with
    | none => .bad
    | some size =>
      if pa % size != 0 || !physOk pa || !physOk (pa + size - 1) || (write && field e 61 61 == 0) then .bad else .page pa
  else if !more || pa % 2 ^ 15 != 0 || !physOk pa then .bad
  else .table pa

/-- The physical bit address of a DEVICE virtual bit address, none where the translation fails. -/
def translate (tables : Memory) (root va : Nat) (write : Bool) : Option Nat :=
  match readEntry (tableEntry tables root (field va 56 42)) none true write with
  | .table t2 =>
    match readEntry (tableEntry tables t2 (field va 41 33)) (some (2 ^ 33)) true write with
    | .page p => some (p + va % 2 ^ 33)
    | .table t3 =>
      (match readEntry (tableEntry tables t3 (field va 32 24)) (some (2 ^ 24)) false write with
      | .page p => some (p + va % 2 ^ 24)
      | _ => none)
    | .bad => none
  | _ => none

/-- A range of virtual addresses cut at the small pages, as (address, bits) pieces. -/
def pieces : Nat → Nat → Nat → List (Nat × Nat)
  | 0, _, _ => []
  | fuel + 1, a, n =>
    if n = 0 then []
    else
      let k := Nat.min n (2 ^ 24 - a % 2 ^ 24)
      (a, k) :: pieces fuel (a + k) (n - k)

/-- The pieces of n bits at a. -/
def pagesOf (a n : Nat) : List (Nat × Nat) := pieces (n / 2 ^ 24 + 2) a n

end Sys2Proof.Machine
end

