-- ==== Sys2Proof/Machine/Ops.lean ====
section
/-! DEFINITION. The named operations every meaning goes through: the core and the context in focus, the scalar
register file, results and their landing, faults, traps and their records, and return from a trap. -/

namespace Sys2Proof.Machine

/-! ## Cores and contexts -/

/-- Core number of system core k (R16). -/
def sysCore (k : Nat) : Nat := 1024 + k

def State.core (s : State) (c : Nat) : Core := SMap.get {} s.cores c
def State.setCore (s : State) (c : Nat) (k : Core) : State := { s with cores := SMap.put s.cores c k }
def State.modCore (s : State) (c : Nat) (f : Core → Core) : State := s.setCore c (f (s.core c))

def Core.ctx (k : Core) (x : Nat) : Ctx := SMap.get {} k.ctxs x
def Core.setCtx (k : Core) (x : Nat) (c : Ctx) : Core := { k with ctxs := SMap.put k.ctxs x c }
def Core.modCtx (k : Core) (x : Nat) (f : Ctx → Ctx) : Core := k.setCtx x (f (k.ctx x))

def State.ctx (s : State) (c x : Nat) : Ctx := (s.core c).ctx x
def State.setCtx (s : State) (c x : Nat) (t : Ctx) : State := s.setCore c ((s.core c).setCtx x t)
def State.modCtx (s : State) (c x : Nat) (f : Ctx → Ctx) : State := s.setCtx c x (f (s.ctx c x))

/-- The context in focus: the one whose instruction executes. -/
def State.cur (s : State) : Ctx := s.ctx s.focusCore s.focusCtx
def State.setCur (s : State) (t : Ctx) : State := s.setCtx s.focusCore s.focusCtx t
def State.modCur (s : State) (f : Ctx → Ctx) : State := s.setCur (f s.cur)
def State.curCore (s : State) : Core := s.core s.focusCore
def State.setCurCore (s : State) (k : Core) : State := s.setCore s.focusCore k
def State.modCurCore (s : State) (f : Core → Core) : State := s.setCurCore (f s.curCore)

/-- Whether the core in focus is a system core. -/
def State.onSys (s : State) : Bool := 1024 ≤ s.focusCore

/-! ## Scalar registers (R55, R56) -/

/-- The place of a register number: anchors under 1 to 15, P0 to P511 under 16 to 527. -/
def physReg (wb n : Nat) : Nat := if n < 16 then n else 16 + (wb + n - 16) % 512

/-- g[n]; g0 reads zero. -/
def Ctx.reg (c : Ctx) (n : Reg) : Word :=
  if n = 0 then 0 else SMap.get 0 c.regs (physReg c.wb n.toNat)

/-- Write a register by its place. -/
def Ctx.setPhys (c : Ctx) (p : Nat) (v : Word) : Ctx := { c with regs := SMap.set 0 c.regs p v }

/-- g[n] := v; a write to g0 is discarded. -/
def Ctx.setReg (c : Ctx) (n : Reg) (v : Word) : Ctx :=
  if n = 0 then c else c.setPhys (physReg c.wb n.toNat) v

def State.reg (s : State) (n : Reg) : Word := s.cur.reg n
def State.setReg (s : State) (n : Reg) (v : Word) : State := s.setCur (s.cur.setReg n v)

/-- Register n + k in the sequence of register names. -/
def regPlus (n : Reg) (k : Nat) : Reg := n + BitVec.ofNat 7 k

/-- A result of latency 1 stands before any later issue can read it. Of an older result that would land in the same
cycle only the flags are left (R98, R105). A longer latency lands later. -/
def Ctx.result (c : Ctx) (now : Nat) (d : Reg) (v : Word) (lat : Nat) (fl : BitVec 7 := 0) (load : Bool := false) : Ctx :=
  if d = 0 then (if lat ≤ 1 then c else { c with doneAt := Nat.max c.doneAt (now + lat) })
  else
    let p := physReg c.wb d.toNat
    if lat ≤ 1 then
      { c with land := c.land.map (fun (l : Landing) => if l.reg = p ∧ l.cycle ≤ now + 1 then { l with reg := 0 } else l) }.setPhys p v
    else { c with land := c.land ++ [{ cycle := now + lat, reg := p, val := v, flags := fl, load := load, inSpan := c.span.isSome }] }

/-- Write the result of the instruction in focus; a result written to g0 is discarded with its flags (R97). -/
def State.result (s : State) (d : Reg) (v : Word) (lat : Nat) (fl : BitVec 7 := 0) (load : Bool := false) : State :=
  s.setCur (s.cur.result s.now d v lat fl load)

/-- The context once every result due by a cycle has landed: registers take their values in issue order, and flags
are ORed into FLG (R69, R98). -/
def Ctx.landDue (c : Ctx) (now : Nat) : Ctx :=
  let due := c.land.filter fun l => decide (l.cycle ≤ now)
  let c1 : Ctx := due.foldl (fun (k : Ctx) (l : Landing) =>
    let k : Ctx := if l.reg = 0 then k else k.setPhys l.reg l.val
    { k with flg := k.flg ||| l.flags }) c
  { c1 with land := c.land.filter fun l => !decide (l.cycle ≤ now) }

/-- XACC as a read in a cycle finds it: an acceptance shows from the cycle after it (R247). -/
def Ctx.xaccAt (c : Ctx) (now : Nat) : Nat :=
  c.xacc - c.xaccLate.foldl (fun n q => if now < q.1 then n + q.2 else n) 0

/-- Flags arrive in FLG in a cycle. -/
def Ctx.gather (c : Ctx) (now : Nat) (fl : BitVec 7) : Ctx :=
  { c with flagsAt := now, flagsIn := if c.flagsAt = now then c.flagsIn ||| fl else fl }

/-- Flags are sticky: arithmetic sets them and never clears them (R69). -/
def State.orFlags (s : State) (f : BitVec 7) : State := s.modCur fun c => { c with flg := c.flg ||| f }

/-! ## Free values (log 9) -/

/-- Take a free choice. -/
def State.drawBool (s : State) : Bool × State := (Config.freeBool s.free, { s with free := s.free + 1 })
def State.drawNat (s : State) : Nat × State := (Config.freeNat s.free, { s with free := s.free + 1 })
def State.drawWord (s : State) : Word × State := (Config.freeWord s.free, { s with free := s.free + 1 })

/-- A count of 32 bits that saturates. -/
def addSat (x : BitVec 32) (n : Nat) : BitVec 32 := BitVec.ofNat 32 (Nat.min (x.toNat + n) (2 ^ 32 - 1))

/-- The corrections that the memories of the device count. -/
def State.fixedCount (s : State) : Nat := s.cores.foldl (fun n p => n + p.2.loc.fixed) s.phys.fixed

/-- Poisonings are counted (R349). -/
def State.countPoison (s : State) (n : Nat) : State := { s with bar := { s.bar with poisoned := addSat s.bar.poisoned n } }

/-! ## Memories -/

def State.spaceAt (s : State) (p : Place) : Space :=
  match p with
  | .loc c => (s.core c).loc
  | .phys => s.phys
  | .host => s.host
  | .peer => s.peer

def State.setSpace (s : State) (p : Place) (m : Space) : State :=
  match p with
  | .loc c => s.modCore c fun k => { k with loc := m }
  | .phys => { s with phys := m }
  | .host => { s with host := m }
  | .peer => { s with peer := m }

def State.modSpace (s : State) (p : Place) (f : Space → Space) : State := s.setSpace p (f (s.spaceAt p))

/-- A read of a word that is found uncorrectable poisons it, which counts (R348, R349). -/
def State.markBad (s : State) (p : Place) (w : Nat) : State :=
  if (s.spaceAt p).unmarked w then (s.modSpace p fun m => m.poison w).countPoison 1 else s

/-- Words of a memory are read on the way elsewhere: single-bit errors are corrected, and words that are uncorrectable become
poisoned (R342, R348, R349, log 46). -/
def State.copied (s : State) (p : Place) (ws : List Nat) : State :=
  if (s.spaceAt p).syn.isEmpty then s
  else ws.foldl (fun s w => s.markBad p w) (s.modSpace p fun m => m.countRead ws)

/-! ## Time and phase -/

/-- DTIME (R68): nanoseconds since power good, after DTADJ. -/
def State.dtime (s : State) : Word := BitVec.ofNat 64 s.now + s.dtoff

/-- VCYC of a core, saturating (R243). -/
def State.vcycOf (s : State) (c : Nat) : Nat := Nat.min ((s.core c).vcyc.read s.now) (2 ^ 64 - 1)

/-- Whether the superstep is an exchange superstep (R17). -/
def State.exchange (s : State) : Bool := s.phc.toNat % 2 == 1

/-- The launch record of the running slice. -/
def State.lr (s : State) : LaunchRec := match s.slice with | some r => r.lr | none => {}

/-- A field of the launch record (R285). -/
def LaunchRec.fld (r : LaunchRec) (hi lo : Nat) : Nat := field r.raw.toNat hi lo
def LaunchRec.hosttag (r : LaunchRec) : Nat := r.fld 1023 992
def LaunchRec.msivec (r : LaunchRec) : Nat := r.fld 970 960
def LaunchRec.ttroot (r : LaunchRec) : Nat := r.fld 959 896
def LaunchRec.state (r : LaunchRec) : Nat := r.fld 895 832
def LaunchRec.poolbase (r : LaunchRec) : Nat := r.fld 790 768
def LaunchRec.qtab (r : LaunchRec) : Nat := r.fld 767 704
def LaunchRec.synctab (r : LaunchRec) : Nat := r.fld 703 640
def LaunchRec.poolsegs (r : LaunchRec) : Nat := r.fld 623 608
def LaunchRec.syncn (r : LaunchRec) : Nat := r.fld 607 592
def LaunchRec.liven (r : LaunchRec) : Nat := r.fld 591 576
def LaunchRec.livetab (r : LaunchRec) : Nat := r.fld 575 512
def LaunchRec.argaddr (r : LaunchRec) : Nat := r.fld 502 480
def LaunchRec.ltbase (r : LaunchRec) : Nat := r.fld 470 448
def LaunchRec.dlstep (r : LaunchRec) : Nat := r.fld 447 384
def LaunchRec.deadline (r : LaunchRec) : Nat := r.fld 383 320
def LaunchRec.budget (r : LaunchRec) : Nat := r.fld 319 256
def LaunchRec.hgl (r : LaunchRec) : Nat := r.fld 255 224
def LaunchRec.grant (r : LaunchRec) (x : Nat) : Nat := r.fld (199 + 8 * x) (192 + 8 * x)
def LaunchRec.codewords (r : LaunchRec) : Nat := r.fld 175 160
def LaunchRec.entry (r : LaunchRec) : Nat := r.fld 142 128
def LaunchRec.code (r : LaunchRec) : Nat := r.fld 127 64
def LaunchRec.ver (r : LaunchRec) : Nat := r.fld 63 56
def LaunchRec.tclass (r : LaunchRec) : Nat := r.fld 55 48
def LaunchRec.sliceid (r : LaunchRec) : Nat := r.fld 47 32
def LaunchRec.clmask (r : LaunchRec) : Nat := r.fld 31 16
def LaunchRec.fromsave (r : LaunchRec) : Bool := r.fld 15 15 == 1
def LaunchRec.hglpol (r : LaunchRec) : Bool := r.fld 14 14 == 1
def LaunchRec.racem (r : LaunchRec) : Nat := r.fld 13 12
def LaunchRec.meown (r : LaunchRec) : Nat := r.fld 11 10
def LaunchRec.ctxmask (r : LaunchRec) : Nat := r.fld 9 6
def LaunchRec.coreset (r : LaunchRec) (c : Nat) : Bool := r.raw.getLsbD (1024 + c)
/-- The participating cores in ascending order (R285). -/
def LaunchRec.cores (r : LaunchRec) : List Nat := (rangeFrom 0 1024).filter r.coreset

/-- BUDGET as MFS reads it (R296). -/
def SliceRun.budgetLeft (r : SliceRun) (now : Nat) : Nat :=
  if r.lr.budget = 0 then 2 ^ 64 - 1 else r.budget - r.spent.read now

/-- Whether some context of a core is halted. -/
def Core.anyHalted (k : Core) : Bool := k.ctxs.any fun p => p.2.halted
/-- Whether some context of the slice is halted (R313). -/
def State.sliceHalted (s : State) : Bool :=
  match s.slice with
  | none => false
  | some r => r.cores.any fun c => (s.core c).anyHalted

/-! ## Faults and stops -/

/-- An exception as the instruction raises it: cause, ADDR and INFO of R298, the failing element, the descriptor
(index and START) and a VCYC other than the core's own (R260). -/
structure Exc where
  cause : Nat
  addr : Nat := 0
  info : Nat := 0
  elem : Option Nat := none
  desc : Option (Nat × Nat) := none
  vcyc : Option Nat := none
  /-- the race-log entry of a RACE (R269) -/
  race : Option RaceEnt := none
  /-- the member at fault, when it is not the one in issue -/
  midx : Option Nat := none
  /-- the instruction at fault, when it is not the one in issue -/
  origin : Option Origin := none
  /-- of POISON the word that was read, in the scratchpad of the core at fault or in another memory (R349) -/
  word : Option Nat := none
  place : Option Place := none
  deriving DecidableEq, Repr

/-- Why an instruction does not take effect in this step: it raises a fault, it takes a trap in place of its
effect, or it waits until a cycle or until something else happens. -/
inductive Stop where
  | fault (e : Exc)
  | trap (cause addr info : Nat)
  | until (cycle : Nat)
  | event
  /-- a QWAIT that stalls (R146) -/
  | qwait
  /-- armed comparators match the convoy head (R311) -/
  | matched (bkm : BitVec 4)
  deriving DecidableEq, Repr

/-- What an instruction does to the state. -/
abbrev Body := State → Except Stop State

def Exc.op : Exc := { cause := 0x01 }
def Exc.operand : Exc := { cause := 0x02 }
def Exc.tag (found : Nat) : Exc := { cause := 0x03, info := found }
def Exc.alignment (addr width : Nat) : Exc := { cause := 0x04, addr := addr, info := width }
def Exc.space (addr : Nat) : Exc := { cause := 0x05, addr := addr }
def Exc.unturned (addr : Nat) : Exc := { cause := 0x07, addr := addr }
def Exc.sync (addr : Nat) : Exc := { cause := 0x08, addr := addr }
def Exc.timing (addr : Nat) : Exc := { cause := 0x0A, addr := addr }
def Exc.convoy : Exc := { cause := 0x0B }
def Exc.loopDepth : Exc := { cause := 0x0C }
def Exc.groupReuse (g : Nat) : Exc := { cause := 0x0D, info := g }
def Exc.translation (addr : Nat) : Exc := { cause := 0x0E, addr := addr }
def Exc.poison (addr : Nat) : Exc := { cause := 0x0F, addr := addr, word := some (addr / 64) }
def Exc.layout (idx : Nat) : Exc := { cause := 0x11, info := idx }
def Exc.bundle (row t : Nat) : Exc := { cause := 0x12, info := row + 256 * t }
def Exc.queue (q : Nat) : Exc := { cause := 0x13, info := q }

def fail {α : Type} (e : Exc) : Except Stop α := .error (.fault e)
def failIf (b : Bool) (e : Exc) : Except Stop Unit := if b then .error (.fault e) else .ok ()

/-! ## Records -/

/-- The 512 bits of a record (R297). -/
def Record.bits (r : Record) : Nat :=
  r.cause % 256 + 2 ^ 8 * (r.rkind % 256) + 2 ^ 16 * (r.sliceid % 65536) + 2 ^ 32 * (r.core % 1024)
  + 2 ^ 42 * (r.ctx % 4) + 2 ^ 44 * (r.members % 8) + 2 ^ 47 * (r.midx % 8) + 2 ^ 50 * r.inspan.toNat
  + 2 ^ 51 * r.descv.toNat + 2 ^ 52 * (r.desc % 64) + 2 ^ 64 * (r.head % 2 ^ 20)
  + 2 ^ 96 * (r.elem.getD 0 % 4096) + 2 ^ 108 * r.elem.isSome.toNat + 2 ^ 109 * (r.spancyc % 512)
  + 2 ^ 128 * (r.phc % 2 ^ 64) + 2 ^ 192 * (r.addr % 2 ^ 64) + 2 ^ 256 * (r.vcyc % 2 ^ 64)
  + 2 ^ 320 * (r.start % 2 ^ 32) + 2 ^ 352 * (r.hosttag % 2 ^ 32) + 2 ^ 384 * (r.turncur % 2 ^ 64)
  + 2 ^ 448 * (r.info % 2 ^ 64)

/-- The record of an event of the running slice, from where it arose (R297, R298). -/
def State.mkRecord (s : State) (o : Origin) (e : Exc) (rkind : Nat) : Record :=
  { cause := e.cause, rkind := rkind, sliceid := s.lr.sliceid, core := o.core, ctx := o.ctx
    members := o.members, midx := e.midx.getD o.midx, head := o.head
    inspan := o.span.isSome, spancyc := o.span.getD 0
    descv := e.desc.isSome, desc := (e.desc.getD (0, 0)).1, start := (e.desc.getD (0, 0)).2
    elem := e.elem, phc := o.phc, addr := e.addr
    vcyc := e.vcyc.getD (s.vcycOf o.core)
    hosttag := s.lr.hosttag, turncur := (s.ctx o.core o.ctx).turncur, info := e.info, vec := s.lr.msivec
    cycle := s.now }

/-- Order of records: by cycle, and in one cycle by core, then context (R300). -/
def Record.key (r : Record) : Nat := 4096 * r.cycle + 4 * r.core + r.ctx

/-- The first entry of a list with the least key. -/
def leastBy {α : Type} (key : α → Nat) : List α → Option α
  | [] => none
  | x :: r => match leastBy key r with
    | some y => if key y < key x then some y else some x
    | none => some x

/-- Span cycle of the context in focus, when a span is open (R117). -/
def State.spanCycle (s : State) : Option Nat := s.cur.span.map fun p => s.now - p.start

/-- Where the convoy in issue comes from: head, members, member index. -/
def State.origin (s : State) : Origin :=
  let c := s.cur
  let (head, n, idx) := match c.cv with | some v => (v.head, v.n, v.idx) | none => (c.pc, 1, 0)
  { core := s.focusCore, ctx := s.focusCtx, head := head, members := n, midx := idx
    phc := s.phc.toNat, span := s.spanCycle }

/-- A record for the host waits for the next completion slot, in order (R290, R292). -/
def State.sendRecord (s : State) (r : Record) : State :=
  { s with disp := { s.disp with waitRecs := s.disp.waitRecs ++ [r] } }

/-- Far traffic asks for the photonic layer in a compute superstep; it is ready 24 cycles later (R264). -/
def State.askWake (s : State) : State :=
  if s.photonic then s else { s with wakeAt := some (s.wakeAt.getD (s.now + 24)) }

/-- The event bits of WFE on the dispatcher's core (R303). -/
def State.sysEvent (s : State) (b : BitVec 2) : State :=
  s.modCore (sysCore 0) fun k => { k with events := k.events ||| b, ctxs := k.ctxs.mapVals fun _ c => { c with stalled := false } }

/-- Let every context that waits for something try again. -/
def State.wake (s : State) (c : Nat) : State :=
  s.modCore c fun k => { k with ctxs := k.ctxs.mapVals fun _ t => { t with stalled := false } }

/-! ## Tables of the dispatcher in DEVICE space (R241, R295, R298, R301) -/

/-- n bits written at a DEVICE address through the system translation, in the way `write` writes; a page that does not
translate takes nothing (log 60). -/
def State.putSystemBy (s : State) (write : Space → Nat → Nat → Nat → Space) (va n x : Nat) : State :=
  { s with phys := ((pagesOf va n).foldl (fun (acc : Space × Nat) p =>
      (match translate s.sysTables s.bar.sysroot.toNat (p.1 % 2 ^ 57) true with
      | some pa => write acc.1 pa p.2 ((x >>> acc.2) % 2 ^ p.2)
      | none => acc.1, acc.2 + p.2)) (s.phys, 0)).1 }

/-- The dispatcher writes n bits of its tables: every sector that it touches goes OUT (R155). -/
def State.putSystem (s : State) (va n x : Nat) : State := s.putSystemBy Space.store va n x

/-- The 256 bits of a ready-queue entry: deadline, SLICEID, SAVED, VALID and the record's address (R295). -/
def Ready.bits (b : Ready) (valid : Bool) : Nat :=
  b.deadline % 2 ^ 64 + 2 ^ 64 * (b.lr.sliceid % 65536) + 2 ^ 80 * b.saved.toNat + 2 ^ 81 * valid.toNat
  + 2 ^ 128 * (b.lr.addr % 2 ^ 64)

/-- A ready-queue entry as it stands in its place. -/
def State.putReady (s : State) (b : Ready) (valid : Bool) : State :=
  s.putSystem (Config.readyPlace b.place).toNat 256 (b.bits valid)

/-- The lowest place of the linked segments that holds no entry. -/
def Disp.freePlace (d : Disp) : Nat := ((rangeFrom 0 1024).find? fun n => !d.ready.any fun b => b.place == n).getD 0

/-- A slice enters the ready queue. -/
def State.pushReady (s : State) (b : Ready) : State :=
  let b := { b with place := s.disp.freePlace }
  { s with disp := { s.disp with ready := s.disp.ready ++ [b] } }.putReady b true

/-- The entries of a slice leave the ready queue. -/
def State.popReady (s : State) (sliceid : Nat) : State :=
  let gone := s.disp.ready.filter fun b => b.lr.sliceid == sliceid
  gone.foldl (fun s b => s.putReady b false)
    { s with disp := { s.disp with ready := s.disp.ready.filter fun b => b.lr.sliceid != sliceid } }

/-- A further segment of the ready queue is linked through word 0 of the last header (R295). -/
def State.linkReady (s : State) : State :=
  { s with phys := s.phys.store (64 * Config.readyHeader (s.disp.segs - 1)) 64 (Config.readySegment s.disp.segs).toNat
           disp := { s.disp with segs := s.disp.segs + 1 } }

/-! ## The picker (R295) -/

/-- Whether ready entry a goes before b: the smaller deadline, then the lower SLICEID. -/
def Ready.before (a b : Ready) : Bool :=
  a.deadline < b.deadline || (a.deadline == b.deadline && a.lr.sliceid < b.lr.sliceid)

/-- The entry the picker chooses. -/
def pickBest : List Ready → Option Ready
  | [] => none
  | a :: r =>
    match pickBest r with
    | none => some a
    | some b => if b.before a then some b else some a

/-- The dispatcher links a further segment where every linked one is full and fewer than 16 are linked (R291). -/
def State.roomReady (s : State) : State :=
  if 64 * s.disp.segs == s.disp.ready.length && s.disp.segs < 16 then s.linkReady else s

/-- Take the chosen entry out of the ready queue; it starts when loading is done (R360). -/
def State.pick (s : State) : State :=
  if s.slice.isSome || s.disp.picked.isSome then s
  else
    match pickBest s.disp.ready with
    | none => s
    | some b =>
      let (n, s) := s.drawNat
      let s := s.popReady b.lr.sliceid
      { s with disp := { s.disp with picked := some b, startAt := s.now + 1 + n } }

/-- A pre-empted slice joins the ready queue and the picker runs. With 1024 slices ready the picker first makes room: it
takes the best of them, or the pre-empted slice itself where that goes first (R239, R295). -/
def State.requeue (s : State) (b : Ready) : State :=
  if s.disp.ready.length < 1024 then (s.roomReady.pushReady b).pick
  else match pickBest s.disp.ready with
    | some x =>
      if x.before b then s.pick.pushReady b
      else let (n, s) := s.drawNat; { s with disp := { s.disp with picked := some b, startAt := s.now + 1 + n } }
    | none => s.pushReady b

/-- A slice that a graph queued has ended: its walk goes on (R294). -/
def State.walkEnds (s : State) (w : Option Nat) (completed : Bool) : State :=
  match w with
  | none => s
  | some k =>
    match SMap.get? s.disp.walks k with
    | none => s
    | some x => { s with disp := { s.disp with walks := s.disp.walks.put k { x with waiting := false, result := some completed } } }

/-! ## Vector convoys that have not retired (R31) -/

/-- What a convoy overwrites in a context. -/
def Ctx.undoTo (old new : Ctx) : VUndo :=
  { v := SMap.olds 0 old.v new.v, tags := SMap.olds 0 old.tags new.tags, m := SMap.olds (BitVec.allOnes 2048) old.m new.m, k := SMap.olds 0 old.k new.k }

/-- The registers as they were before a convoy. -/
def Ctx.undo (c : Ctx) (u : VUndo) : Ctx :=
  { c with v := SMap.over 0 c.v u.v, tags := SMap.over 0 c.tags u.tags, m := SMap.over (BitVec.allOnes 2048) c.m u.m, k := SMap.over 0 c.k u.k }

/-- What is left to put back for a convoy once a later one that has retired overwrote some of it. -/
def VUndo.after (u w : VUndo) : VUndo :=
  { u with v := u.v.without w.v, tags := u.tags.without w.tags, m := u.m.without w.m, k := u.k.without w.k }

/-! ## The order of the banks in a core (R130, R276) -/

/-- The result of an atomic takes the value that it has found. -/
def Ctx.found (c : Ctx) (t : AtomAct) (f : Found) : Ctx :=
  if t.op.reads then { c with land := c.land.map fun l =>
      if l.load && l.reg == t.reg && l.cycle == t.land then { l with val := BitVec.ofNat 64 f.old, flags := f.flags } else l }
  else c

/-- The words of a core that releases have marked, and its order count, follow what the atomics on a sector have found (R268,
R279). -/
def Core.reorder (k : Core) (sec : Nat) (a : SectorNow) (old new : List Patch) : Core :=
  if atomsOf old then
    { k with relWords := wordsSet k.relWords sec a.rels, relSeen := wordsSet k.relSeen sec a.relSeens, order := k.order + sawsOf new - sawsOf old }
  else k

/-- The writes and the atomics on their way to a sector take effect in the order of the banks: what the sector holds after
them all, and what each atomic finds. -/
def Core.settle (k : Core) (sec : Nat) : Core :=
  match SMap.get? k.loc.hist sec with
  | none => k
  | some h =>
    let r := arriveAll h.late h.start
    let late := r.2.map fun q => { q.1 with atom := q.1.atom.map fun (t : AtomAct) => { t with saw := q.2.saw } }
    let loc := k.loc.writeBack sec r.1.x late
    let k := ({ k with loc := { loc with hist := loc.hist.put sec { h with late := late } } } : Core).reorder sec r.1 h.late late
    r.2.foldl (fun (k : Core) q => match q.1.atom with | some t => k.modCtx q.1.ctx fun c => c.found t q.2 | none => k) k

/-- Whether an earlier write to a sector, or an atomic on it, still wants its bank. -/
def Core.writesDue (k : Core) (now sec : Nat) : Bool := k.banks.any fun u => u.write && u.sec == sec && decide (now < u.cycle + u.hold)

/-- The sectors of some new writes of which earlier ones are still on their way. -/
def Core.settleAll (k : Core) (now : Nat) (secs : List Nat) : Core := (secs.filter (k.writesDue now)).foldl Core.settle k

/-- The writes and atomics that have not reached their bank are dropped (R31). -/
def Core.dropLate (k : Core) (now : Nat) : Core :=
  let t := k.loc.hist.foldl (fun (t : Core) q =>
    t.reorder q.1 (q.2.upTo (now + 1)) q.2.late (q.2.late.filter fun p => decide (p.cycle ≤ now))) k
  { t with loc := k.loc.dropLate now }

/-! ## Rings of queues (R143) -/

/-- Entries a queue can hold. -/
def Queue.capacity (q : Queue) : Nat := 63 * q.segs.length

/-- LOCAL bit address of entry k counted from the head. -/
def Queue.entry (q : Queue) (k : Nat) : Nat :=
  let p := q.head + k
  q.segs.getD (p / 63 % Nat.max q.segs.length 1) 0 + 512 * (p % 63)

/-- Free n entries at the head; the ring turns when the head leaves a segment. -/
def Queue.advance (q : Queue) : Nat → Queue
  | 0 => q
  | n + 1 =>
    if q.head + 1 < 63 then Queue.advance { q with head := q.head + 1 } n
    else Queue.advance { q with head := 0, segs := q.segs.drop 1 ++ q.segs.take 1 } n

/-- Take n entries back before the head. -/
def Queue.retreat (q : Queue) : Nat → Queue
  | 0 => q
  | n + 1 =>
    if 0 < q.head then Queue.retreat { q with head := q.head - 1 } n
    else Queue.retreat { q with head := 62, segs := q.segs.drop (q.segs.length - 1) ++ q.segs.take (q.segs.length - 1) } n

/-- The entries that convoys of a core have popped and not retired with are back, covered (R31, R147). -/
def Core.unpop (k : Core) : Core :=
  (k.ctxs.flatMap fun p => p.2.vq.flatMap fun q => q.undo.pops).foldl (fun (k : Core) p =>
    match SMap.get? k.queues p.1 with
    | some q => { k with queues := k.queues.put p.1 { q.retreat p.2 with cov := q.cov + p.2, avail := Nat.min (q.avail + p.2) q.capacity } }
    | none => k) k

/-- Of an outbound queue the entries are left that come before the first which is not written yet (R31, R147). -/
def Core.unpush (k : Core) (now : Nat) : Core :=
  { k with queues := k.queues.mapVals fun _ q =>
      if q.dir != 2 then q
      else
        let n := ((rangeFrom 0 q.avail).find? fun e => k.banks.any fun u => u.write && u.sec == q.entry e / 512 && decide (now + 1 < u.cycle + u.hold)).getD q.avail
        { q with avail := n, pushed := q.pushed - (q.avail - n) } }

/-! ## Ending a slice -/

/-- What a fault or a kill does to a context: it never runs again, its work in flight is dropped (R31, R171, R314). -/
def Ctx.abort (c : Ctx) : Ctx :=
  if c.st = .absent then { c with aborted := true }
  else
    let t := c.vq.foldr (fun (q : VConvoy) t => t.undo q.undo) c
    { t with aborted := true, pc := match c.cv with | some v => v.head | none => c.pc
             turns := [], vq := [], checks := [], land := [], span := none, cv := none, stalled := false,
             qstall := false, haltReq := none, trapped := false, halted := false, exiting := false, heldTrace := [] }

/-- What a fault or a kill does to a core: writes that have not reached their bank, commands, descriptors, fills and pending
flips are dropped, and what queues have given and taken for convoys that have not retired; the planes
become undefined (R171, R226). -/
def Core.abort (k : Core) (now : Nat) : Core :=
  let k := ((k.unpush now).unpop).dropLate now
  { k with ctxs := (rangeFrom 0 4).map fun x => (x, (k.ctx x).abort)
           loc := { k.loc with pend := [] }
           me := { k.me with queue := [], running := [], undef := true, known := [] }
           slots := [], fills := [], bars := [], banks := [], arrived := false, vcyc := { k.vcyc with run := false } }

/-- The slice leaves the device: its work in flight, its pending flips, reductions, bindings and traps go
with it, and the dispatcher learns of it (R31, R299, R303). -/
def State.endSlice (s : State) (completed : Bool) : State :=
  match s.slice with
  | none => s
  | some r =>
    let s := { s with
      cores := s.cores.mapVals fun c k => if r.cores.contains c then (if completed then { k with arrived := false, vcyc := { k.vcyc with run := false } } else { k.abort s.now with hgLeft := r.hg.read s.now }) else k
      slice := none
      sau := [], groups := []
      ports := { s.ports with asks := s.ports.asks.map fun (q : PeerAsk) => { q with fill := none } }
      phys := { s.phys with pend := [] }, host := { s.host with pend := [] }, peer := { s.peer with pend := [] }
      disp := { s.disp with trapq := s.disp.trapq.filter fun (q : Record) => q.sliceid != r.lr.sliceid
                            trapWait := s.disp.trapWait.filter fun (q : Record) => q.sliceid != r.lr.sliceid
                            told := ((s.disp.trapq.take s.disp.told).filter fun (q : Record) => q.sliceid != r.lr.sliceid).length } }
    ((s.walkEnds r.walk completed).sysEvent 2).pick

/-- Append an entry to the race log; beyond 1024 it is dropped and counted (R270). -/
def State.logRace (s : State) (r : RaceEnt) : State :=
  if s.raceLog.length < 1024 then { s with raceLog := s.raceLog ++ [r] }
  else { s with raceDrop := Nat.min (s.raceDrop + 1) (2 ^ 32 - 1) }

/-- The race log and its drop count as system software reads them with a RACE record (R270, R298, log 63). -/
def State.putRaceLog (s : State) : State :=
  let log := s.raceLog.foldr (fun (e : RaceEnt) (x : Nat) => e.toNat + 2 ^ 128 * x) 0
  s.putSystem Config.raceTable.toNat (1024 * 128 + 64) (log + 2 ^ (1024 * 128) * s.raceDrop)

/-- SCSTAT (R357). -/
def Sec.stat (x : Sec) : Word := BitVec.ofNat 64 (x.busy.toNat + 2 ^ 8 * x.err + 2 ^ 16 * x.left)

/-- MISSED, bit 63 of INFO, of a slice that ends after its deadline (R295). -/
def State.missed (s : State) (r : SliceRun) : Nat := if r.deadline < s.dtime.toNat then 2 ^ 63 else 0

/-- At a panic every compute context receives a halt request and system cores 0 to 6 stop (R323). -/
def State.panicHalts (s : State) : State :=
  { s with cores := s.cores.mapVals fun c k =>
      if c < 1024 then { k with ctxs := k.ctxs.mapVals fun _ t =>
        if t.st = .absent || t.st = .exited || t.aborted || t.halted then t else { t with haltReq := some (t.haltReq.getD .hctl) } }
      else if c < 1031 then { k with sysRun := false } else k }

/-- A fault of a compute core ends the slice and sends its one record (R31, R299); a fault of a system core stops
that core and is a panic (R301, R323). The word that raises POISON is a poisoned one from then on (R348, R349). -/
def State.raiseFault (s : State) (o : Origin) (e : Exc) : State :=
  let o := e.origin.getD o
  let s := match e.word with | some w => s.markBad (e.place.getD (.loc o.core)) w | none => s
  if 1024 ≤ o.core then
    let s := s.modCore o.core fun k => { k with sysRun := false }
    if s.dbg.panic.isSome then s
    else { s with dbg := { s.dbg with panic := some { s.mkRecord o e 1 with core := o.core - 1024, sliceid := 0, hosttag := 0 }
                                      panicAt := s.now, frozen := false } }.panicHalts
  else
    match s.slice with
    | none => s
    | some r =>
      let rec0 := s.mkRecord o e 1
      let s := match e.race with | some x => (if s.lr.racem = 3 then s.logRace x else s).putRaceLog | none => s
      (s.sendRecord { rec0 with info := rec0.info ||| s.missed r }).endSlice false

/-- The outcome of a step whose work may raise a fault of the convoy it belongs to (R226). -/
def State.stepped (s : State) (o : Origin) (r : Except Stop State) : Host.Outcome State Fault Refusal :=
  match r with
  | .ok t => .next t
  | .error (.fault e) => .next (s.raiseFault o e)
  | .error _ => .fault .notEnabled

/-- A halt or a trap stops the turn queue at the end of a group: TURNCUR names the next sector that the turnaround at work
flips, if one is left (R170). -/
def Ctx.holdTurns (c : Ctx) : Ctx :=
  match c.turns with
  | u :: _ => if u.start.isSome && decide (32 * u.groups < u.count) then { c with turncur := u.lo + 512 * 32 * u.groups } else c
  | [] => c

/-- A trap of a compute core: the context stops and its record goes to the dispatcher's trap queue (R300). -/
def State.raiseTrap (s : State) (o : Origin) (cause addr info : Nat) (stops : Bool) : State :=
  let s := if stops then s.modCtx o.core o.ctx Ctx.holdTurns else s
  let r := { s.mkRecord o { cause := cause, addr := addr, info := info } 5 with vec := 0 }
  let s := { s with disp := { s.disp with trapWait := s.disp.trapWait ++ [r] } }
  if stops then s.modCtx o.core o.ctx fun c => { c with trapped := true } else s

/-- The DEVICE address of a place of the trap queue (R301): the spec gives none (log 15). -/
def trapRecordAddr (n : Nat) : Nat := (Config.trapRecordAddr n).toNat

/-- A system core takes a trap (R301): the next convoy's head, the mode before and the code are saved, and
execution continues at word 0 in privileged mode with traps inhibited. -/
def Ctx.takeTrap (c : Ctx) (cause info : Nat) : Ctx :=
  { c with trappc := BitVec.ofNat 64 c.pc, pprv := c.priv, inh := true, cause := BitVec.ofNat 8 cause
           trapinfo := BitVec.ofNat 64 info, priv := true, pc := 0, stalled := false, cv := none }

/-- Return from a trap (R303): PC := TRAPPC, MODE.PRIV := PPRIV, INH := 0. An address that cannot be fetched faults when
the convoy retires (R111). -/
def Ctx.returnTrap (c : Ctx) : Ctx :=
  { c with pc := c.trappc.toNat, priv := c.pprv, inh := false }

/-! ## Trace records (R320) -/

/-- Order of trace records: by cycle, and in one cycle by core, then context (R321). -/
def traceKey (r : TraceRec) : Nat := 4096 * field r.toNat 255 192 + 4 * field r.toNat 39 30 + field r.toNat 41 40

/-- A trace record on its way to the buffer; nothing is recorded while EN = 0 (R310, R321). -/
def State.trace (s : State) (r : TraceRec) : State :=
  if s.dbg.en then { s with dbg := { s.dbg with waiting := s.dbg.waiting ++ [r] } } else s

/-- The fields of a trace record, most significant first (R320). -/
def traceRec (dtime vcyc phcl actn cpe bankc sect pages xmiss stride members ctx core head tag kind : Nat) : TraceRec :=
  BitVec.ofNat 64 dtime ++ BitVec.ofNat 32 vcyc ++ BitVec.ofNat 16 phcl ++ BitVec.ofNat 16 actn ++ BitVec.ofNat 32 cpe
  ++ BitVec.ofNat 16 bankc ++ BitVec.ofNat 16 sect ++ BitVec.ofNat 8 pages ++ BitVec.ofNat 8 xmiss ++ BitVec.ofNat 3 stride
  ++ BitVec.ofNat 3 members ++ BitVec.ofNat 2 ctx ++ BitVec.ofNat 10 core ++ BitVec.ofNat 20 head ++ BitVec.ofNat 7 tag
  ++ BitVec.ofNat 3 kind

end Sys2Proof.Machine
end

