-- ==== Sys2Proof/Machine/Banks.lean ====
section
/-! DEFINITION. The 32 banks of a scratchpad (R126, R130): the accesses that instructions put on the schedule, and who
gets a bank that several of them want in one cycle. What a lost cycle puts off stands in Arbiter.lean. -/

namespace Sys2Proof.Machine

/-- Whether two accesses belong to one instruction, and whether the second comes no earlier in it. -/
def BankUse.same (u v : BankUse) : Bool :=
  u.origin.ctx == v.origin.ctx && u.origin.head == v.origin.head && u.origin.midx == v.origin.midx && u.issued == v.issued
def BankUse.leads (u v : BankUse) : Bool := u.same v && decide (u.seq ≤ v.seq)

/-- The cycle after the last one in which an access holds its bank. -/
def BankUse.stop (u : BankUse) : Nat := u.cycle + u.hold

/-- The first cycle in which everything that waits for the access may go on: a load's data has landed, a store is
written. -/
def BankUse.ended (u : BankUse) : Nat :=
  match u.ends with
  | .lands _ t _ => t
  | .convoy dst => u.stop + (if dst.isSome then 5 else 1)
  | _ => u.stop

/-- Rank of R130 among accesses that want one bank in the same cycle; `sp` tells which contexts have an open span. -/
def BankUse.before (sp : Nat → Bool) (u v : BankUse) : Bool :=
  if sp u.origin.ctx != sp v.origin.ctx then sp u.origin.ctx
  else if u.origin.ctx != v.origin.ctx then decide (u.origin.ctx < v.origin.ctx)
  else decide (u.rank < v.rank)

/-- Whether some bits of two lists of (bit address, number of bits) coincide. -/
def overlap (p q : List (Nat × Nat)) : Bool :=
  p.any fun x => q.any fun y => decide (x.1 < y.1 + y.2) && decide (y.1 < x.1 + x.2)

/-- R153: a store must not reach its bank before an earlier load of its context to the sector, nor before an earlier store
to the same bits. -/
def BankUse.mustFollow (u v : BankUse) : Bool :=
  u.write && u.origin.ctx == v.origin.ctx && !u.same v && u.sec == v.sec && (!v.write || overlap u.parts v.parts)

/-- Insert by rank behind those that do not rank after. -/
def insertUse (sp : Nat → Bool) (u : BankUse) : List BankUse → List BankUse
  | [] => [u]
  | v :: r => if u.before sp v then u :: v :: r else v :: insertUse sp u r

/-- The accesses that lose cycle c, of those due in it in the order of their rank: a bank is held or has been granted,
an earlier access of the instruction has lost, or R153 holds the store back. `all` are the reservations, oldest first. -/
def losersAt (c : Nat) (all : List BankUse) : (lost got due : List BankUse) → List BankUse
  | lost, _, [] => lost
  | lost, got, u :: r =>
    let busy (v : BankUse) : Bool := !u.same v && v.sec % 32 == u.sec % 32
    let older := all.takeWhile (· != u)
    if lost.any (·.leads u) || got.any busy || (all.any fun v => busy v && decide (v.cycle < c) && decide (c < v.stop))
        || (older.any fun v => u.mustFollow v && decide (c ≤ v.cycle)) then
      losersAt c all (u :: lost) got r
    else losersAt c all lost (u :: got) r

/-- Whether a context of a core has an open span. -/
def Core.inSpan (k : Core) (x : Nat) : Bool := (k.ctx x).span.isSome

/-- The turnarounds of a context that drain a store wait for it to be written (R161). -/
def Ctx.drainLater (c : Ctx) (u : BankUse) : Ctx :=
  { c with turns := c.turns.map fun t =>
      if t.start.isNone && decide (t.lo / 512 ≤ u.sec) && decide (u.sec < t.lo / 512 + t.count) && decide (u.issued < t.issued)
      then { t with ready := Nat.max t.ready u.stop } else t }

/-- A running command comes d cycles later, and with it its port (R215). -/
def Mat.later (e : Mat) (m : MCmd) (d : Nat) : Mat :=
  let e := { e with running := e.running.map fun (r : MCmd) =>
               if r.origin == m.origin && r.issued == m.issued then { r with done := r.done.map (· + d) } else r }
  if m.kind == .ldw || m.kind == .ldws then { e with load := e.load + d } else { e with stream := e.stream + d }

/-- The accesses of a core that still hold a bank after a cycle. -/
def Core.held (k : Core) (now : Nat) : List BankUse := k.banks.filter fun u => decide (now < u.stop)

/-- Put the accesses of an instruction on the schedule of the banks of a core. Who gets a bank that several want is decided
in the cycle itself (R130). -/
def State.claim (s : State) (core : Nat) (us : List BankUse) : Except Stop State :=
  if us.isEmpty then .ok s
  else .ok (s.setCore core { s.core core with banks := (s.core core).held s.now ++ us })

/-- Whether the bank of a sector is free in a cycle. -/
def Core.bankFree (k : Core) (sec t : Nat) : Bool :=
  k.banks.all fun v => v.sec % 32 != sec % 32 || decide (t < v.cycle) || decide (v.stop ≤ t)

/-- The first cycle from t on in which the bank of a sector is free, as far as it has been taken. -/
def Core.freeFrom (k : Core) (sec t : Nat) : Nat :=
  (k.banks.map (·.stop)).foldl (fun m x => if decide (t ≤ x) && k.bankFree sec x && (decide (x < m) || !k.bankFree sec m) then x else m) t

/-- The far engine takes the bank of a sector for a cycle that no other access wants (R130, R145). -/
def State.takeBank (s : State) (core sec : Nat) (write : Bool) : State :=
  s.modCore core fun k => { k with banks := k.held s.now ++ [{ sec := sec, cycle := s.now, rank := 3, write := write, issued := s.now }] }

/-- Whether no access of a core holds or will hold a bank after a cycle. -/
def Core.quiet (k : Core) (now : Nat) : Bool := k.banks.all fun u => decide (u.stop ≤ now)

/-- An access of the instruction in issue. -/
def State.use (s : State) (sec cycle hold : Nat) (write : Bool) (parts : List (Nat × Nat)) (ends : UseEnd) : BankUse :=
  { sec := sec, cycle := cycle, hold := hold, write := write, parts := parts, origin := s.origin, issued := s.now, ends := ends }

/-- The requests of a member that starts in cycle t, as accesses of the instruction in issue. -/
def State.usesFrom (s : State) (t : Nat) (m : VMember) : List BankUse :=
  m.reqs.map fun u => { u with cycle := t + u.cycle, origin := s.origin, issued := s.now, ends := .convoy (m.dst.map (·.1)) }

/-- Whether an access due now does not get its bank: another one holds it, or wants it now and ranks before (R130). -/
def Core.bankLost (k : Core) (u : BankUse) : Bool :=
  k.banks.any fun v => !u.same v && v.sec % 32 == u.sec % 32 && decide (u.cycle < v.stop)
    && (decide (v.cycle < u.cycle) || (v.cycle == u.cycle && !u.before k.inSpan v))

end Sys2Proof.Machine
end

