-- ==== Sys2Proof/Machine/Pip.lean ====
section
/-! DEFINITION. Pip blocks (R82 to R88), the fixed summation orders (R90, R91, R93) and the generator (R94, R95). -/

namespace Sys2Proof.Machine

/-! ## Pip formats -/

/-- The pip formats of R82. -/
inductive Pip where
  | p3 | p5 | p8
  deriving DecidableEq, Repr

namespace Pip
/-- Width of an element field, bits of the magnitude, size of a block. -/
def w : Pip → Nat | .p3 => 3 | .p5 => 5 | .p8 => 8
def k : Pip → Nat | .p3 => 2 | .p5 => 4 | .p8 => 7
def bs : Pip → Nat | .p3 => 64 | .p5 => 96 | .p8 => 144
/-- Size of a sparse bundle (R209). -/
def bundle : Pip → Nat | .p3 => 56 | .p5 => 72 | .p8 => 96
/-- The format of a memory format code or tag (R63, R65). -/
def ofCode (c : Nat) : Option Pip :=
  if c = 0x10 then some .p3 else if c = 0x11 then some .p5 else if c = 0x12 then some .p8 else none
end Pip

/-- An element: sign and magnitude. -/
abbrev PElem := Bool × Nat

/-- A block: exponent, the eight micro-exponents, the sixteen elements (R82). -/
structure PBlock where
  e : Nat
  mu : List Nat
  el : List PElem
  deriving DecidableEq, Repr

/-- The block that bits hold (R82). -/
def PBlock.ofBits (p : Pip) (x : Nat) : PBlock :=
  { e := field x 7 0
    mu := (rangeFrom 0 8).map fun i => field x (8 + i) (8 + i)
    el := (rangeFrom 0 16).map fun j =>
      (field x (16 + p.w * j + p.w - 1) (16 + p.w * j + p.w - 1) == 1, field x (16 + p.w * j + p.k - 1) (16 + p.w * j)) }

/-- A list of fields of one width as a number, the first least significant. -/
def joinFields (w : Nat) : List Nat → Nat
  | [] => 0
  | x :: r => x % 2 ^ w + 2 ^ w * joinFields w r

/-- The field an element takes in memory (R82). -/
def PElem.bits (p : Pip) (x : PElem) : Nat := x.2 % 2 ^ p.k + x.1.toNat * 2 ^ (p.w - 1)

/-- The bits of a block (R82). -/
def PBlock.bits (p : Pip) (b : PBlock) : Nat :=
  b.e % 256 + 2 ^ 8 * joinFields 1 b.mu + 2 ^ 16 * joinFields p.w (b.el.map (PElem.bits p))

/-- The exact meaning of an element: R83, and R84 for E = 255. -/
def pipValue (p : Pip) (e mu : Nat) (x : PElem) : FVal :=
  if e = 255 then (if x.2 = 0 then .inf x.1 else .nan false)
  else .fin x.1 x.2 ((e : Int) + (mu : Int) - 127 - ((p.k : Int) - 1))

/-- Dequantisation to FP32 or BF16 (R87); a NaN keeps the element's sign. -/
def pipDequant (p : Pip) (f : Fmt) (e mu : Nat) (x : PElem) : FRes :=
  match pipValue p e mu x with
  | .nan _ => (f.zero x.1 + f.nan, flNF)
  | .inf neg => (f.inf neg, flNF)
  | .fin neg m ex => f.pack {} neg m ex

/-- Whether |a| < |b| for finite magnitudes. -/
def magLt (a b : Nat × Int) : Bool :=
  let u := min a.2 b.2
  decide (a.1 <<< (a.2 - u).toNat < b.1 <<< (b.2 - u).toNat)

def magMax (a b : Nat × Int) : Nat × Int := if magLt a b then b else a

/-- The i-th pair's micro-exponent (R85). -/
def quantMu (p : Pip) (unit0 : Int) (a b : Nat × Int) : Nat :=
  let q := magMax a b
  if (roundAt .rne false q.1 q.2 unit0 false).1 ≤ 2 ^ p.k - 1 then 0 else 1

/-- One element at a unit (R85). -/
def quantElem (p : Pip) (unit : Int) (a : Nat × Int) : Nat × BitVec 7 :=
  let (v, ix) := roundAt .rne false a.1 a.2 unit false
  let sat := decide (2 ^ p.k ≤ v)
  let v' := if sat then 2 ^ p.k - 1 else v
  (v', flagIf sat flSAT ||| flagIf (v' == 0 && a.1 != 0) flUF ||| flagIf (ix || sat) flNX)

/-- Quantisation of sixteen inputs given as (sign bit, value) (R85); a signalling NaN among them sets NV (R77,
log 77). -/
def quantise (p : Pip) (xs : List (Bool × FVal)) : PBlock × BitVec 7 :=
  if xs.any (fun x => x.2.isNan || x.2.isInf) then
    ({ e := 255, mu := List.replicate 8 0, el := xs.map fun x => (x.1, if x.2.isInf then 0 else 1) },
      flNF ||| flagIf (xs.any fun x => x.2.isSnan) flNV)
  else
    let mags := xs.map fun x => match x.2 with | .fin _ m e => (m, e) | _ => (0, 0)
    let big := mags.foldl magMax (0, 0)
    if big.1 = 0 then ({ e := 0, mu := List.replicate 8 0, el := xs.map fun x => (x.1, 0) }, 0)
    else
      let le : Int := (Nat.log2 big.1 : Int) + big.2
      let e : Nat := (max 0 (min 254 (le + 126))).toNat
      let unit0 : Int := (e : Int) - 127 - ((p.k : Int) - 1)
      let mu := (rangeFrom 0 8).map fun i => quantMu p unit0 (mags.getD (2 * i) (0, 0)) (mags.getD (2 * i + 1) (0, 0))
      let qs := (rangeFrom 0 16).map fun j =>
        quantElem p (unit0 + (mu.getD (j / 2) 0 : Nat)) (mags.getD j (0, 0))
      ({ e := e, mu := mu, el := (xs.zip qs).map fun q => (q.1.1, q.2.1) },
        qs.foldl (fun f q => f ||| q.2) 0)

/-- The 16-bit slot of an element in a register (R88). -/
def pipSlot (x : PElem) (mu : Nat) : Nat := x.2 % 128 + 2 ^ 14 * (mu % 2) + 2 ^ 15 * x.1.toNat

/-- The element a slot holds, read with k magnitude bits (R88). -/
def slotElem (p : Pip) (x : Nat) : PElem := (field x 15 15 == 1, x % 2 ^ p.k)

/-! ## Fixed summation orders -/

/-- Adjacent pairs added RNE, the lower index on the left (R91). -/
def pairSums (f : Fmt) : List Nat → List Nat × BitVec 7
  | a :: b :: r =>
    let (x, fl) := f.addRne a b
    let (xs, fls) := pairSums f r
    (x :: xs, fl ||| fls)
  | l => (l, 0)

/-- The four levels of the tree over a block of sixteen (R91). -/
def treeSum (f : Fmt) (xs : List Nat) : FRes :=
  let (a, f1) := pairSums f xs
  let (b, f2) := pairSums f a
  let (c, f3) := pairSums f b
  let (d, f4) := pairSums f c
  (d.getD 0 0, f1 ||| f2 ||| f3 ||| f4)

/-- Block sums combined in ascending order (R91 step 3). -/
def chainSums (f : Fmt) (s : FRes) : List FRes → FRes
  | [] => s
  | b :: r =>
    let (x, fl) := f.addRne s.1 b.1
    chainSums f (x, s.2 ||| b.2 ||| fl) r

/-- The block sum of a pip block (R91): `act` says which elements are active. -/
def pipBlockSum (p : Pip) (e : Nat) (el : List (Bool × Nat × PElem)) : FRes :=
  let act := el.filter (·.1)
  if e = 255 then
    let nan := act.any fun x => x.2.2.2 != 0
    let pinf := act.any fun x => x.2.2.2 == 0 && !x.2.2.1
    let ninf := act.any fun x => x.2.2.2 == 0 && x.2.2.1
    if nan then (Fmt.fp32.nan, flNF)
    else if pinf && ninf then (Fmt.fp32.nan, flNF ||| flNV)
    else if pinf || ninf then (Fmt.fp32.inf ninf, flNF)
    else (0, 0)
  else
    let sum : Int := act.foldl (fun acc x => acc + (if x.2.2.1 then -1 else 1) * ((x.2.2.2 * 2 ^ x.2.1 : Nat) : Int)) 0
    if sum = 0 then
      -- the sum of −0 alone is −0; an inactive position contributes +0
      (Fmt.fp32.zero (act.length == 16 && act.all fun x => x.2.2.1 && x.2.2.2 == 0), 0)
    else
      Fmt.fp32.round {} (sum < 0) sum.natAbs ((e : Int) - 127 - ((p.k : Int) - 1)) false

/-- The exact product of two values, as value: 0 · Inf and NaN operands give NaN (R90). -/
def exactMul (a b : FVal) : FVal :=
  match a, b with
  | .nan _, _ => .nan false
  | _, .nan _ => .nan false
  | .inf n, .inf k => .inf (n != k)
  | .inf n, .fin k m _ => if m = 0 then .nan false else .inf (n != k)
  | .fin k m _, .inf n => if m = 0 then .nan false else .inf (n != k)
  | .fin n m1 e1, .fin k m2 e2 => .fin (n != k) (m1 * m2) (e1 + e2)

/-- Exact sum of finite values in units of 2^u, u not above any exponent. -/
def exactSum (u : Int) : List FVal → Int
  | [] => 0
  | .fin n m e :: r => scaleTo n m e u + exactSum u r
  | _ :: r => exactSum u r

def minExp : List FVal → Int
  | [] => 0
  | .fin _ _ e :: r => min e (minExp r)
  | _ :: r => minExp r

/-- The sum of one group of products, rounded once to FP32 (R90); a group that forms no product sums to +0 (log 85). -/
def groupSum (ps : List FVal) : Nat :=
  let f := Fmt.fp32
  if ps.any FVal.isNan || (ps.any (· == .inf false) && ps.any (· == .inf true)) then f.nan
  else if ps.any (· == .inf false) then f.inf false
  else if ps.any (· == .inf true) then f.inf true
  else
    let u := minExp ps
    let x := exactSum u ps
    if x = 0 then f.zero (!ps.isEmpty && ps.all fun v => v.neg)
    else (f.round {} (x < 0) x.natAbs u false).1

/-- Groups of sixteen index positions; a position without a product is `none`. -/
def groupsOf (fuel : Nat) (ps : List (Option FVal)) : List (List FVal) :=
  match fuel with
  | 0 => []
  | n + 1 => if ps.isEmpty then [] else (ps.take 16).filterMap id :: groupsOf n (ps.drop 16)

/-- gsum of R213: the rounded group sums added to the accumulator in ascending order (R90). -/
def gsum (acc : Nat) (ps : List (Option FVal)) : Nat :=
  (groupsOf 8 ps).foldl (fun a g => (Fmt.fp32.addRne a (groupSum g)).1) acc

/-! ## Scatter-add units (R93, R253) -/

/-- Largest number of terms of one address with an exact result. -/
def sauTermLimit : Nat := 2 ^ 42

/-- Add a term to a floating-point accumulator. -/
def SauEnt.addFloat (x : SauEnt) (v : FVal) : SauEnt :=
  let x := { x with terms := x.terms + 1 }
  match v with
  | .nan _ => { x with nan := true, allNegZero := false }
  | .inf n => { x with pinf := x.pinf || !n, ninf := x.ninf || n, allNegZero := false }
  | .fin n m e => { x with sum := x.sum + scaleTo n m e (-149), allNegZero := x.allNegZero && n && m == 0 }

/-- The result of a floating-point add reduction (table of R93). -/
def SauEnt.floatResult (x : SauEnt) : Nat :=
  let f := Fmt.fp32
  if sauTermLimit < x.terms || x.nan || (x.pinf && x.ninf) then f.nan
  else if x.pinf then f.inf false
  else if x.ninf then f.inf true
  else if x.sum = 0 then f.zero x.allNegZero
  else (f.round {} (x.sum < 0) x.sum.natAbs (-149) false).1

/-! ## The generator -/

structure Philox where
  x0 : BitVec 32
  x1 : BitVec 32
  x2 : BitVec 32
  x3 : BitVec 32
  deriving DecidableEq, Repr

/-- One round of R94: high and low halves of the two products. -/
def philoxRound (x : Philox) (ka kb : BitVec 32) : Philox :=
  let a := x.x0.toNat * 0xD2511F53
  let b := x.x2.toNat * 0xCD9E8D57
  { x0 := BitVec.ofNat 32 (b / 2 ^ 32) ^^^ x.x1 ^^^ ka
    x1 := BitVec.ofNat 32 b
    x2 := BitVec.ofNat 32 (a / 2 ^ 32) ^^^ x.x3 ^^^ kb
    x3 := BitVec.ofNat 32 a }

/-- n rounds, the key words stepped between them. -/
def philoxGo : Nat → Philox → BitVec 32 → BitVec 32 → Philox
  | 0, x, _, _ => x
  | n + 1, x, ka, kb => philoxGo n (philoxRound x ka kb) (ka + 0x9E3779B9) (kb + 0xBB67AE85)

/-- philox of R94: ten rounds. -/
def philox (x0 x1 x2 x3 ka kb : BitVec 32) : Philox := philoxGo 10 { x0, x1, x2, x3 } ka kb

/-- The output of one element under the dice key (R95). -/
def diceRoll (seed stepr : BitVec 64) (i j k stream : BitVec 32) : BitVec 32 :=
  let key := philox (stepr.extractLsb' 0 32) (stepr.extractLsb' 32 32) 0 0 (seed.extractLsb' 0 32) (seed.extractLsb' 32 32)
  (philox i j k stream key.x0 key.x1).x0

end Sys2Proof.Machine
end

