-- ==== Sys2Proof/Machine/Operands.lean ====
section
/-! DEFINITION. Operand forms: register tags and memory formats (R63 to R66), vector groups and their elements
(R58, R59), masks and scale registers (R60, R61), the B operand of a vector word (R178), and the checks of operands
and tags that the operand-case table gives each vector opcode (R177, R179). -/

namespace Sys2Proof.Machine

/-! ## Tags and memory formats -/

abbrev Tag := BitVec 6

/-- Slot width of a tag; none for NONE and the reserved codes (R63). -/
def slotWidth (t : Nat) : Option Nat :=
  match t with
  | 0x01 => some 8 | 0x02 => some 8 | 0x03 => some 8
  | 0x04 => some 16 | 0x05 => some 16 | 0x06 => some 32 | 0x07 => some 32 | 0x08 => some 64 | 0x09 => some 64
  | 0x0A => some 16 | 0x0B => some 16 | 0x0C => some 32 | 0x0D => some 64
  | 0x10 => some 16 | 0x11 => some 16 | 0x12 => some 16
  | 0x1C => some 256
  | _ => none

def isInt (t : Nat) : Bool := 2 ≤ t && t ≤ 9
def isFlt (t : Nat) : Bool := 0x0A ≤ t && t ≤ 0x0D
def isPip (t : Nat) : Bool := 0x10 ≤ t && t ≤ 0x12
def isB1 (t : Nat) : Bool := t == 1
def isCmd (t : Nat) : Bool := t == 0x1C
/-- Every assigned tag except NONE (ALL of R179). -/
def isAll (t : Nat) : Bool := isInt t || isFlt t || isPip t || isB1 t || isCmd t
/-- Signed integer tags I8, I16, I32, I64. -/
def isSignedTag (t : Nat) : Bool := t == 2 || t == 4 || t == 6 || t == 8

/-- The floating-point format of a tag. -/
def fmtOf (t : Nat) : Option Fmt :=
  match t with
  | 0x0A => some .fp16 | 0x0B => some .bf16 | 0x0C => some .fp32 | 0x0D => some .fp64 | _ => none

/-- Bits per element in memory of a format code (R65); none for NONE, reserved codes and the pip codes. -/
def memWidth (code : Nat) : Option Nat :=
  if code < 0x40 then
    (if code = 1 then some 1 else if isPip code then none else slotWidth code)
  else if code ≤ 0x49 then some (2 + (code - 0x40) / 2)
  else none

/-- Element width that the layout table uses, the pip codes included (R138, R203). -/
def lteWidth (code : Nat) : Option Nat :=
  match Pip.ofCode code with
  | some p => some (p.bs / 16)
  | none => memWidth code

/-- Register tag after a load of a format code (R65). -/
def loadTag (code : Nat) : Nat := if code < 0x40 then code else if code % 2 = 0 then 2 else 3

/-- Whether a load of a format code extends by sign. -/
def loadSigned (code : Nat) : Bool := if code < 0x40 then isSignedTag code else code % 2 == 0

/-! ## Vector registers, masks and scale registers -/

def Ctx.vreg (c : Ctx) (n : Nat) : BitVec 2048 := SMap.get 0 c.v n
def Ctx.setVreg (c : Ctx) (n : Nat) (x : BitVec 2048) : Ctx := { c with v := SMap.set 0 c.v n x }
def Ctx.tag (c : Ctx) (n : Nat) : Nat := (SMap.get 0 c.tags n).toNat
def Ctx.setTag (c : Ctx) (n t : Nat) : Ctx := { c with tags := SMap.set 0 c.tags n (BitVec.ofNat 6 t) }
/-- Tag every register of a group of n from base. -/
def Ctx.setTags (c : Ctx) (base t n : Nat) : Ctx := (rangeFrom base n).foldl (fun c r => c.setTag r t) c
def Ctx.mask (c : Ctx) (n : Nat) : BitVec 2048 := SMap.get (BitVec.allOnes 2048) c.m n
def Ctx.setMask (c : Ctx) (n : Nat) (x : BitVec 2048) : Ctx := { c with m := SMap.set (BitVec.allOnes 2048) c.m n x }
def Ctx.kreg (c : Ctx) (n : Nat) : BitVec 512 := SMap.get 0 c.k n
def Ctx.setKreg (c : Ctx) (n : Nat) (x : BitVec 512) : Ctx := { c with k := SMap.set 0 c.k n x }

/-- Slots of a register under the lane grant (R58, R59). -/
def Ctx.slots (c : Ctx) (s : Nat) : Nat := c.grant * 32 / s

/-- Element e of the group at base, of slot width s (R59). -/
def Ctx.elem (c : Ctx) (base s e : Nat) : Nat :=
  let q := c.slots s
  ((c.vreg (base + e / q)).toNat >>> (s * (e % q))) % 2 ^ s

/-- Write element e of the group at base. -/
def Ctx.setElem (c : Ctx) (base s e x : Nat) : Ctx :=
  let q := c.slots s
  c.setVreg (base + e / q) (BitVec.ofNat 2048 (setField (c.vreg (base + e / q)).toNat (s * (e % q)) s x))

/-- Bit e of a mask register. -/
def Ctx.maskBit (c : Ctx) (n e : Nat) : Bool := (c.mask n).getLsbD e

/-- Element e is active: below VL and selected by the current mask (R177). -/
def Ctx.active (c : Ctx) (e : Nat) : Bool := decide (e < c.vl) && c.maskBit c.cmsel e

/-- The active elements in ascending order. -/
def Ctx.activeElems (c : Ctx) : List Nat := (rangeFrom 0 c.vl).filter c.active

/-- The exponent byte of the block that holds element e of a pip group (R61, R136, R191). -/
def Ctx.kByte (c : Ctx) (base e : Nat) : Nat :=
  let q := c.slots 16
  let r := base + e / q
  field (c.kreg (r / 8)).toNat (8 * (8 * (r % 8) + e % q / 16) + 7) (8 * (8 * (r % 8) + e % q / 16))

def Ctx.setKByte (c : Ctx) (base e x : Nat) : Ctx :=
  let q := c.slots 16
  let r := base + e / q
  c.setKreg (r / 8) (BitVec.ofNat 512 (setField (c.kreg (r / 8)).toNat (8 * (8 * (r % 8) + e % q / 16)) 8 x))

/-! ## Groups (R59, R121) -/

/-- A group starts at a multiple of its span and ends at or before v127. -/
def Ctx.groupOk (c : Ctx) (base : Nat) : Bool := base % c.vspan == 0 && base + c.vspan ≤ 128

/-- The capacity of a group of slot width s covers VL. -/
def Ctx.capOk (c : Ctx) (s : Nat) : Bool := c.vl ≤ c.vspan * c.grant * 32 / s

/-- The tag of a group, or the first tag that differs (R64). -/
def Ctx.groupTag (c : Ctx) (base : Nat) : Except Nat Nat :=
  let t := c.tag base
  match (rangeFrom base c.vspan).find? (fun r => c.tag r != t) with
  | some r => .error (c.tag r)
  | none => .ok t

/-! ## The B operand (R178) -/

end Sys2Proof.Machine

namespace Sys2Proof

/-- The forms of R38. -/
inductive VForm where
  | vv | vs | vi
  deriving DecidableEq, Repr

/-- The form that FC selects (R38). -/
def VWord.form (w : VWord) : VForm :=
  let f := w.fc.toNat
  if f < 4 then .vv else if f < 6 then .vs else .vi

/-- Chaining on A and on B (R38). -/
def VWord.chainA (w : VWord) : Bool := match w.fc.toNat with | 2 => true | 3 => true | 5 => true | 7 => true | _ => false
def VWord.chainB (w : VWord) : Bool := match w.fc.toNat with | 1 => true | 3 => true | _ => false

/-- imm7 as a signed number (R39). -/
def VWord.imm (w : VWord) : Int := Machine.signed 7 w.b.toNat

end Sys2Proof

namespace Sys2Proof.Machine

/-- An integer converted exactly to a tag's slot: n sign-extended, or as a floating-point number (R178). -/
def immSlot (t : Nat) (n : Int) : Nat :=
  match fmtOf t with
  | some f => (f.ofInt {} n).1
  | none => unsigned ((slotWidth t).getD 8) n

/-- A slot as an instruction reads it: of B1 only bit 0 (R73). -/
def readSlot (t x : Nat) : Nat := if isB1 t then x % 2 else x

/-- Element e of the B operand, read as a value of a tag of slot width s. -/
def Ctx.bElem (c : Ctx) (w : VWord) (t s e : Nat) : Nat :=
  match w.form with
  | .vv => readSlot t (c.elem w.b.toNat s e)
  | .vs => (c.reg w.b).toNat % 2 ^ s
  | .vi => immSlot t w.imm % 2 ^ s

/-- A count, index or coordinate read from the whole operand (R178, R183, R194). -/
def Ctx.bCount (c : Ctx) (w : VWord) (s e : Nat) : Nat :=
  match w.form with
  | .vv => c.elem w.b.toNat s e
  | .vs => (c.reg w.b).toNat
  | .vi => unsigned 64 w.imm

/-! ## The operand-case table of R179 -/

/-- The kinds of row: how operands and destination are checked. -/
inductive VKind where
  | arith (ok : Nat → Bool) (readD : Bool)   -- sources of one tag, destination tag of A
  | one (ok : Nat → Bool)                    -- one source, destination tag of A
  | cmp | cls | sel | mov | bcst | cvt | vtag | round | scale | qnt | dqnt | rsum | rmm | perm | slide | iota | roll
  | pop | zip | maskOp | maskNot | shift

/-- The row of an opcode. -/
def vkind (op : Nat) : VKind :=
  match op with
  | 0x40 | 0x41 | 0x42 | 0x4A | 0x4B => .arith (fun t => isInt t || isFlt t) false
  | 0x43 | 0x44 | 0x45 => .arith (fun t => isInt t || isFlt t) true
  | 0x46 => .arith isFlt false
  | 0x47 | 0x48 | 0x49 | 0x4E | 0x4F => .one isFlt
  | 0x4C | 0x4D => .one (fun t => isInt t || isFlt t)
  | 0x50 | 0x51 | 0x52 => .arith (fun t => isInt t || isFlt t || isB1 t) false
  | 0x53 | 0x54 | 0x55 | 0x6B => .shift
  | 0x56 | 0x57 | 0x58 => .arith isInt false
  | 0x59 => .one isInt
  | 0x5A | 0x5B | 0x5C | 0x5D => .cmp
  | 0x5E => .cls
  | 0x5F => .sel
  | 0x60 => .mov
  | 0x61 => .bcst
  | 0x62 => .cvt
  | 0x63 => .vtag
  | 0x64 => .round
  | 0x65 => .scale
  | 0x66 => .qnt
  | 0x67 => .dqnt
  | 0x68 => .rsum
  | 0x69 | 0x6A => .rmm
  | 0x6C => .perm
  | 0x6D | 0x6E => .slide
  | 0x6F => .iota
  | 0x70 => .roll
  | 0x71 | 0x72 => .pop
  | 0x73 | 0x74 => .zip
  | 0x79 => .maskNot
  | _ => .maskOp

/-- Result tag of a reduction by VRSUM (R193). -/
def rsumTag (t : Nat) : Nat :=
  if isInt t then (if isSignedTag t then 8 else 9) else if t = 0x0D then 0x0D else 0x0C

/-- What a vector word reads, writes and checks under the tags the context holds: whether an operand breaks a
limit (class 4 of R54), the tag that does not fit (TAG-MISMATCH), the sources as (group, chained), the masks read,
and the destination group with its tag, the destination mask or the scalar destination. -/
structure VUse where
  operandBad : Bool := false
  tagBad : Option Nat := none
  srcs : List (Nat × Bool) := []
  masks : List Nat := []
  dst : Option (Nat × Nat) := none
  dstMask : Option Nat := none
  dstReg : Option Reg := none
  /-- slot width that sets the number of element groups (R175) -/
  width : Nat := 32
  deriving DecidableEq, Repr

/-- A tag that some operand group has, against what its row accepts: the first group that does not fit. -/
def firstBad : List (Except Nat Nat × (Nat → Bool)) → Option Nat
  | [] => none
  | (.error t, _) :: _ => some t
  | (.ok t, ok) :: r => if ok t then firstBad r else some t

/-- Capacity over the groups whose tag has a slot width. -/
def Ctx.capTag (c : Ctx) (base : Nat) : Bool :=
  match slotWidth (c.tag base) with | some s => c.capOk s | none => true

/-- The use that an opcode makes of its operands (R177 to R179). Mask members have width 8 (log 75). -/
def Ctx.vuse (c : Ctx) (op : Nat) (w : VWord) : VUse :=
  let d := w.d.toNat
  let a := w.a.toNat
  let b := w.b.toNat
  let ta := c.tag a
  let gA := c.groupTag a
  let gB := c.groupTag b
  let gD := c.groupTag d
  let vv := w.form == .vv
  let g0 := c.grant == 0
  let imm := w.imm
  let badGroup (l : List Nat) := g0 || l.any fun r => !c.groupOk r
  let badCap (l : List Nat) := l.any fun r => !c.capTag r
  let badWidth (t : Nat) := match slotWidth t with | some s => !c.capOk s | none => false
  let sA : List (Nat × Bool) := [(a, w.chainA)]
  let sB : List (Nat × Bool) := if vv then [(b, w.chainB)] else []
  let grpB := if vv then [b] else []
  let same := fun t => t == ta
  let wA := (slotWidth ta).getD 32
  let cur := [c.cmsel]
  match vkind op with
  | .arith ok readD =>
    { operandBad := badGroup ([a, d] ++ grpB) || badCap ([a] ++ grpB ++ (if readD then [d] else [])) || badWidth ta
      tagBad := firstBad ([(gA, ok)] ++ (if vv then [(gB, same)] else []) ++ (if readD then [(gD, same)] else []))
      srcs := sA ++ sB ++ (if readD then [(d, false)] else []), masks := cur, dst := some (d, ta), width := wA }
  | .shift =>
    { operandBad := badGroup ([a, d] ++ grpB) || badCap ([a] ++ grpB)
      tagBad := firstBad ([(gA, isInt)] ++ (if vv then [(gB, same)] else []))
      srcs := sA ++ sB, masks := cur, dst := some (d, ta), width := wA }
  | .one ok =>
    { operandBad := badGroup [a, d] || badCap [a]
      tagBad := firstBad [(gA, ok)], srcs := sA, masks := cur, dst := some (d, ta), width := wA }
  | .cmp =>
    { operandBad := badGroup ([a] ++ grpB) || badCap ([a] ++ grpB) || 7 < d
      tagBad := firstBad ([(gA, fun t => isInt t || isFlt t)] ++ (if vv then [(gB, same)] else []))
      srcs := sA ++ sB, masks := cur, dstMask := some d, width := wA }
  | .cls =>
    { operandBad := badGroup [a] || badCap [a] || 7 < d || imm < 0 || 7 < imm
      tagBad := firstBad [(gA, isFlt)], srcs := sA, masks := cur, dstMask := some d, width := wA }
  | .sel =>
    { operandBad := badGroup ([a, d] ++ grpB) || badCap ([a] ++ grpB)
      tagBad := firstBad ([(gA, if vv then isAll else fun t => isInt t || isFlt t)] ++ (if vv then [(gB, same)] else []))
      srcs := sA ++ sB, masks := cur, dst := some (d, ta), width := wA }
  | .mov =>
    { operandBad := badGroup [a, d] || badCap [a]
      tagBad := firstBad [(gA, fun t => t == 0 || isAll t)]
      srcs := sA, masks := if ta = 0 then [] else cur, dst := some (d, ta), width := wA }
  | .bcst =>
    if vv then
      { operandBad := badGroup [a, d] || badCap [a]
        tagBad := firstBad [(gA, isAll)], srcs := sA, masks := cur, dst := some (d, ta), width := wA }
    else
      { operandBad := badGroup [d] || !(isInt a || isFlt a || isB1 a) || badWidth a
        masks := cur, dst := some (d, a), width := (slotWidth a).getD 32 }
  | .cvt =>
    let t := imm.toNat
    { operandBad := badGroup [a, d] || badCap [a] || imm < 0 || !(isInt t || isFlt t || isB1 t) || badWidth t
      tagBad := firstBad [(gA, fun t => isInt t || isFlt t || isB1 t)]
      srcs := sA, masks := cur, dst := some (d, t), width := Nat.max wA ((slotWidth t).getD 8) }
  | .vtag =>
    let t := imm.toNat
    { operandBad := badGroup [a, d] || imm < 0 || !(t == 0 || isAll t)
      tagBad := firstBad [(gA, fun _ => true)], srcs := sA, dst := some (d, t), width := 32 }
  | .round =>
    { operandBad := badGroup [a, d] || badCap [a] || imm < 0 || 4 < imm
      tagBad := firstBad [(gA, isFlt)], srcs := sA, masks := cur, dst := some (d, ta), width := wA }
  | .scale =>
    let need := match ta with | 0x0A => 4 | 0x0B => 4 | 0x0C => 6 | _ => 8
    { operandBad := badGroup ([a, d] ++ grpB) || badCap ([a] ++ grpB)
      tagBad := firstBad ([(gA, isFlt)] ++ (if vv then [(gB, fun t => t == need)] else []))
      srcs := sA ++ sB, masks := cur, dst := some (d, ta), width := wA }
  | .qnt =>
    let t := imm.toNat
    { operandBad := badGroup [a, d] || badCap [a] || imm < 0 || !isPip t || c.vl % 16 != 0 || !c.capOk 16
      tagBad := firstBad [(gA, fun t => t == 0x0A || t == 0x0B || t == 0x0C)]
      srcs := [(a, false)], masks := cur, dst := some (d, t), width := 16 }
  | .dqnt =>
    let t := imm.toNat
    { operandBad := badGroup [a, d] || badCap [a] || !(imm == 0x0B || imm == 0x0C) || badWidth t
      tagBad := firstBad [(gA, isPip)]
      srcs := sA, masks := cur, dst := some (d, t), width := (slotWidth t).getD 32 }
  | .rsum =>
    { operandBad := badGroup [a, d] || badCap [a]
      tagBad := firstBad [(gA, fun t => isInt t || isFlt t || isPip t)]
      srcs := sA, masks := cur, dst := some (d, rsumTag ta), width := wA }
  | .rmm =>
    { operandBad := badGroup [a, d] || badCap [a]
      tagBad := firstBad [(gA, fun t => isInt t || isFlt t)]
      srcs := sA, masks := cur, dst := some (d, ta), width := wA }
  | .perm =>
    { operandBad := badGroup ([a, d] ++ grpB) || badCap ([a] ++ grpB)
      tagBad := firstBad ([(gA, fun t => isAll t && !isPip t)] ++ (if vv then [(gB, isInt)] else []))
      srcs := sA ++ sB, masks := cur, dst := some (d, ta), width := wA }
  | .slide =>
    { operandBad := badGroup [a, d] || badCap [a]
      tagBad := firstBad [(gA, fun t => isAll t && !isPip t)]
      srcs := sA, masks := cur, dst := some (d, ta), width := wA }
  | .iota =>
    let t := imm.toNat
    { operandBad := badGroup [d] || imm < 0 || !isInt t || badWidth t
      masks := cur, dst := some (d, t), width := (slotWidth t).getD 32 }
  | .roll =>
    { operandBad := badGroup ([a, d] ++ grpB) || badCap ([a] ++ grpB) || !c.capOk 32
      tagBad := firstBad ([(gA, fun t => t == 8 || t == 9)] ++ (if vv then [(gB, fun t => t == 8 || t == 9)] else []))
      srcs := sA ++ sB, masks := cur, dst := some (d, 7), width := 32 }
  | .pop =>
    { operandBad := g0 || 7 < a, masks := c.cmsel :: [a], dstReg := some w.d, width := 8 }
  | .zip =>
    { operandBad := badGroup [a, b, d] || badCap [a, b]
      tagBad := firstBad [(gA, fun t => isAll t && !isPip t), (gB, same)]
      srcs := [(a, false), (b, false)], masks := cur, dst := some (d, ta), width := wA }
  | .maskOp => { operandBad := g0 || 7 < a || 7 < b || 7 < d, masks := [a, b], dstMask := some d, width := 8 }
  | .maskNot => { operandBad := g0 || 7 < a || 7 < d, masks := [a], dstMask := some d, width := 8 }

/-- Whether a vector word ignores VL and the mask: VTAG, and VMOV of a NONE source (R187). -/
def Ctx.wholeMove (c : Ctx) (op : Nat) (w : VWord) : Bool := op == 0x63 || (op == 0x60 && c.tag w.a.toNat == 0)

end Sys2Proof.Machine
end

