-- ==== Sys2Proof/Machine/Layout.lean ====
section
/-! DEFINITION. Layout entries and the tensors of matrix commands (R137 to R140, R202, R203, R209), and the sector
requests of an instruction in time (R126, R130, R219). -/

namespace Sys2Proof.Machine

/-! ## Layout entries (R137 to R140) and the tensors of matrix commands (R202, R203, R209) -/

def lteField (l : BitVec 256) (hi lo : Nat) : Nat := field l.toNat hi lo
def lteBase (l : BitVec 256) : Nat := lteField l 63 0
def lteFmt (l : BitVec 256) : Nat := lteField l 248 242
def ltePerm (l : BitVec 256) : Nat := lteField l 253 249
def lteSize (l : BitVec 256) (i : Nat) : Nat := lteField l (79 + 16 * i) (64 + 16 * i)
def lteStride (l : BitVec 256) (i : Nat) : Nat := lteField l (165 + 38 * (i - 1)) (128 + 38 * (i - 1))

/-- The formats of the matrix engine (R204). -/
def engineFmt (f : Nat) : Bool := f == 0x0A || f == 0x0B || f == 0x0C || isPip f

/-- Whether FMT of a tensor is none that the engine or the command takes, or a pip row is not whole blocks (R203, R204). -/
def tensorBad (ok : Nat → Bool) (cols : Nat) (l : BitVec 256) : Bool := !ok (lteFmt l) || (isPip (lteFmt l) && cols % 16 != 0)

/-- Whether the entry itself raises LAYOUT: a reserved bit, or a permutation over an unaligned base (R139). -/
def lteBad (l : BitVec 256) : Bool :=
  lteField l 255 254 != 0 || (ltePerm l != 0 && lteBase l % 512 != 0)

/-- ltaddr of R139. -/
def ltAddr (l : BitVec 256) (wm c0 c1 c2 c3 : Nat) : Nat :=
  let off := c0 * wm + c1 * lteStride l 1 + c2 * lteStride l 2 + c3 * lteStride l 3
  let off := if ltePerm l = 0 then off else Nat.xor off (c1 * ltePerm l % 32 * 512)
  (lteBase l + off) % 2 ^ 64

/-- Coordinate i of a packed word (R140). -/
def coordOf (w : Word) (i : Nat) : Nat := field w.toNat (16 * i + 15) (16 * i)

/-- Size of a sparse bundle of a format (R209). -/
def bundleBits (fmt : Nat) : Nat := match Pip.ofCode fmt with | some p => p.bundle | none => 144

/-- Width of a unit of an operand in memory, and how many positions it covers: an element, a pip block or a bundle. -/
def unitShape (fmt : Nat) (bundles : Bool) : Nat × Nat :=
  if bundles then (bundleBits fmt, 16)
  else match Pip.ofCode fmt with
    | some p => (p.bs, 16)
    | none => ((memWidth fmt).getD 32, 1)

/-- The units of row `row` of an operand of `cols` positions, as (bit address, width). -/
def MOperand.rowUnits (o : MOperand) (fmt : Nat) (bundles : Bool) (cols row : Nat) : List (Nat × Nat) :=
  let (width, per) := unitShape fmt bundles
  let wm := if bundles then width else width / per
  let step := if bundles then 1 else per
  (rangeFrom 0 (cols / per)).map fun t =>
    (ltAddr o.lte wm (coordOf o.coord 0 + step * t) (coordOf o.coord 1 + row) (coordOf o.coord 2) (coordOf o.coord 3), width)

/-- The operands a command reads: operand, rows, positions and whether it holds bundles (R208, R210, R212). -/
def MCmd.reads (m : MCmd) : List (MOperand × Nat × Nat × Bool) :=
  match m.kind with
  | .ldw => [(m.a, m.gn, m.gk, false)]
  | .ldws => [(m.a, m.gn, m.gk, true)]
  | .fwd => [(m.a, m.gm, m.gk, false)]
  | .bwd => [(m.a, m.gm, m.gn, false)]
  | .grd => [(m.a, m.gm, m.gk, false), (m.b, m.gm, m.gn, false)]
  | _ => []

/-- The sectors a command reads. -/
def MCmd.readSectors (m : MCmd) : List Nat :=
  (m.reads.flatMap fun q => (rangeFrom 0 q.2.1).flatMap fun r =>
    (q.1.rowUnits m.fmt.toNat q.2.2.2 q.2.2.1 r).flatMap fun u => sectorsOf u.1 u.2).eraseDups

/-- The sectors that a drain writes, with their rows, in the order of its requests: rows ascending, and within a row
sectors ascending (R219). -/
def MCmd.drainSectors (m : MCmd) : List (Nat × Nat) :=
  (rangeFrom 0 m.rows).flatMap fun r =>
    (((m.a.rowUnits m.fmt.toNat false m.cols r).flatMap fun u => sectorsOf u.1 u.2).foldl NSet.add []).map fun q => (r, q)

/-- Positions of a list with their index. -/
def enumFrom : Nat → List Nat → List (Nat × Nat)
  | _, [] => []
  | k, x :: r => (k, x) :: enumFrom (k + 1) r

/-! ## Requests of a command that reads (R208, R214, R215) -/

/-- The accumulator plane a command writes: 0 for ACC, 1 for DW (R213). -/
def MKind.plane (k : MKind) : Option Nat := match k with | .fwd => some 0 | .bwd => some 0 | .grd => some 1 | _ => none

/-- Whether a command uses the load port or the stream port. -/
def MKind.isLoad (k : MKind) : Bool := k == .ldw || k == .ldws
def MKind.isStream (k : MKind) : Bool := k.plane.isSome

/-- Rows per four cycles of a streamed format (R214). -/
def streamRate (fmt : Nat) : Nat :=
  match fmt with | 0x0C => 1 | 0x12 => 8 | 0x11 => 16 | 0x10 => 32 | _ => 4

/-- Stream length S (R214). -/
def MCmd.streamLen (m : MCmd) : Nat := ceilDiv (4 * m.gm) (streamRate m.fmt.toNat)

/-- Cycle offset at which sector k of a row is requested (R208, R215). Of an FP32 row the last cycle takes whatever sectors are
left (log 100). -/
def MCmd.rowCycle (m : MCmd) (row k : Nat) : Nat :=
  if m.kind.isLoad then row
  else if m.fmt = 0x0C then 4 * row + Nat.min k 3
  else 4 * row / streamRate m.fmt.toNat

/-- The sectors of a row of an operand, in the order of their requests. -/
def MCmd.rowSectors (m : MCmd) (q : MOperand × Nat × Nat × Bool) (row : Nat) : List Nat :=
  ((q.1.rowUnits m.fmt.toNat q.2.2.2 q.2.2.1 row).flatMap fun u => sectorsOf u.1 u.2).eraseDups

/-- The units that a command needs of the rows that enter in stream cycle i. -/
def MCmd.unitsAt (m : MCmd) (i : Nat) : List (Nat × Nat) :=
  m.reads.flatMap fun q => ((rangeFrom 0 q.2.1).filter fun row => decide (m.rowCycle row 0 ≤ i) && decide (i ≤ m.rowCycle row 3)).flatMap
    fun row => q.1.rowUnits m.fmt.toNat q.2.2.2 q.2.2.1 row

/-- The sector requests of a command with the stream cycle of each (R215). -/
def MCmd.requests (m : MCmd) : List (Nat × Nat) :=
  m.reads.flatMap fun q => (rangeFrom 0 q.2.1).flatMap fun row =>
    (enumFrom 0 (m.rowSectors q row)).map fun p => (m.rowCycle row p.1, p.2)

/-- The requests of one stream cycle from cycle c on: up to 8 a cycle, to distinct banks (R215). -/
def packReqs : Nat → List Nat → List Nat → List (Nat × Nat)
  | _, _, [] => []
  | c, used, sec :: r =>
    if used.length < 8 && !used.contains (sec % 32) then (sec, c) :: packReqs c (sec % 32 :: used) r
    else (sec, c + 1) :: packReqs (c + 1) [sec % 32] r

/-- The requests of the n stream cycles of a command that starts in cycle `start`, and the cycles that they take beyond
the n: requests of one command that conflict lengthen it, inside a span too (R130, R215, log 98). -/
def MCmd.schedule (m : MCmd) (start n : Nat) : List MReq × Nat :=
  let rs := m.requests
  (rangeFrom 0 n).foldl (fun (acc : List MReq × Nat) i =>
    let c := start + i + acc.2
    let l := packReqs c [] ((rs.filter fun p => p.1 == i).map (·.2)).eraseDups
    let l' := (enumFrom acc.1.length (l.map (·.1))).zip (l.map (·.2))
    (acc.1 ++ l'.map (fun q => { i := i, sec := q.1.2, due := q.2, seq := q.1.1 }), acc.2 + (l.foldl (fun (m : Nat) q => Nat.max m q.2) c - c))) ([], 0)

/-- The name of a sector that was read in a stream cycle. -/
def readKey (i sec : Nat) : Nat := 2 ^ 60 * i + sec

/-- The cycle of a request still to be made: as its bank is reserved, else as planned. -/
def Core.askCycle (k : Core) (m : MCmd) (r : MReq) : Nat :=
  match k.banks.find? fun u => u.ends == .command && u.seq == r.seq && u.issued == m.issued && u.origin == m.origin with
  | some u => u.cycle
  | none => r.due

/-! ## Requests of a vector memory instruction (R130) -/

/-- Where the requests stand: cycle, requests gone in it, banks held until a cycle, cycles lost to a held bank, and the
requests made (the latest first: sector, cycle, hold). -/
structure ReqState where
  cycle : Nat := 0
  count : Nat := 0
  held : List (Nat × Nat) := []
  lost : Nat := 0
  log : List (Nat × Nat × Nat) := []
  deriving DecidableEq, Repr

/-- The cycle of one request for a sector that holds its bank for `hold` cycles. -/
def ReqState.go (r : ReqState) (sec hold : Nat) : ReqState × Nat :=
  let r := if r.count = 4 then { r with cycle := r.cycle + 1, count := 0 } else r
  let bank := sec % 32
  let free := match r.held.find? (fun h => h.1 == bank) with | some h => h.2 | none => 0
  let r := if r.cycle < free then { r with lost := r.lost + (free - r.cycle), cycle := free, count := 0 } else r
  ({ r with count := r.count + 1, held := (bank, r.cycle + hold) :: r.held.filter (fun h => h.1 != bank)
            log := (sec, r.cycle, hold) :: r.log }, r.cycle)

/-- The request cycle of each element: consecutive elements in one sector share a request. Elements are given with
the sectors they touch and the cycles each holds its bank. -/
def reqCycles (r : ReqState) (lastSec : Option (Nat × Nat)) : List (Nat × List (Nat × Nat)) → List (Nat × Nat) × ReqState
  | [] => ([], r)
  | (e, secs) :: rest =>
    let (r', last, c) := secs.foldl (fun (acc : ReqState × Option (Nat × Nat) × Nat) q =>
      match acc.2.1 with
      | some (sec, cyc) => if sec = q.1 then (acc.1, acc.2.1, Nat.max acc.2.2 cyc)
          else let (r2, cyc2) := acc.1.go q.1 q.2; (r2, some (q.1, cyc2), Nat.max acc.2.2 cyc2)
      | none => let (r2, cyc2) := acc.1.go q.1 q.2; (r2, some (q.1, cyc2), Nat.max acc.2.2 cyc2)) (r, lastSec, 0)
    let (l, rf) := reqCycles r' last rest
    ((e, c) :: l, rf)

/-- Number the requests made, oldest first. -/
def numberReqs (rank : Nat) (write : Bool) (parts : Nat → List (Nat × Nat)) : Nat → List (Nat × Nat × Nat) → List BankUse
  | _, [] => []
  | k, (sec, cyc, hold) :: r =>
    { sec := sec, cycle := cyc, hold := hold, rank := rank, write := write, parts := if write then parts sec else [], seq := k }
      :: numberReqs rank write parts (k + 1) r

/-! ## Requests of a drain (R219) -/

/-- The sector writes of a drain in the order of its requests, as (row, sector, cycles it holds the bank): 2 where the row
begins or ends inside a word (R126, R219). -/
def MCmd.drainReqs (m : MCmd) : List (Nat × Nat × Nat) :=
  (rangeFrom 0 m.rows).flatMap fun row =>
    let us := m.a.rowUnits m.fmt.toNat false m.cols row
    let a := (us.headD (0, 0)).1
    let b := (us.getLastD (0, 0)).1 + (us.getLastD (0, 0)).2
    ((us.flatMap fun u => sectorsOf u.1 u.2).foldl NSet.add []).map fun sec =>
      (row, sec, if (a % 64 != 0 && a / 512 == sec) || (b % 64 != 0 && b / 512 == sec) then 2 else 1)

/-- Cycle offsets of the sector writes of a drain: row r from 6 + r on, up to 4 sectors in a cycle, whichever rows they are
of, to banks that are free of its own earlier writes (R219). -/
def drainOffsets : Option Nat → ReqState → List (Nat × Nat × Nat) → List Nat
  | _, _, [] => []
  | prev, q, (row, sec, hold) :: rest =>
    let q := if prev = some row || 6 + row ≤ q.cycle then q else { q with cycle := 6 + row, count := 0 }
    let (q, c) := q.go sec hold
    c :: drainOffsets (some row) q rest

/-- The writes that a running drain has still to make, as (sector, cycle), as far as no further cycle is lost. -/
def MCmd.writesLeft (m : MCmd) : List (Nat × Nat) :=
  ((m.drainReqs.zip (drainOffsets none {} m.drainReqs)).drop m.wrote).map fun q => (q.1.2.1, m.start.getD 0 + q.2 + m.slip)

/-- The cycle of the last sector write of a running drain, as far as no further cycle is lost. -/
def MCmd.lastWrite (m : MCmd) : Nat :=
  (m.drainReqs.zip (drainOffsets none {} m.drainReqs)).foldl (fun t q => Nat.max t (m.start.getD 0 + q.2 + m.slip + (q.1.2.2 - 1))) 0

end Sys2Proof.Machine
end

