-- ==== Sys2Proof/Machine/Access.lean ====
section
/-! DEFINITION. Accesses to a core's own scratchpad: the checks of R127, the reader paths of R164, the race detector
(R268 to R270), the holds that turnarounds and drains put on loads and stores (R163, R167, R224), and the layout
table with its cache (R137 to R142). -/

namespace Sys2Proof.Machine

/-! ## Where sync sectors and the queue pool lie (R143, R152) -/

/-- Space code of an address (R24). -/
def spaceOf (a : Nat) : Nat := field a 63 61

/-- LOCAL sync sectors of the slice, by sector number. -/
def State.localSync (s : State) : List Nat := (s.lr.sync.filter fun a => spaceOf a == 0).map fun a => a / 512

/-- Whether a LOCAL sector is a sync sector. -/
def State.isSync (s : State) (sec : Nat) : Bool := s.localSync.contains sec

/-- Whether a LOCAL bit lies in the segment pool. -/
def State.inPool (s : State) (a : Nat) : Bool :=
  decide (s.lr.poolbase ≤ a) && decide (a < s.lr.poolbase + s.lr.poolsegs * 2 ^ 15)

/-- The queue that owns the segment of a LOCAL address, 0 when none does. -/
def Core.queueAt (k : Core) (a : Nat) : Nat :=
  match k.queues.find? (fun p => p.2.segs.contains (a / 2 ^ 15 * 2 ^ 15)) with | some p => p.1 | none => 0

/-- Whether n bits at a touch a sync sector, or the pool. -/
def State.touchesSync (s : State) (a n : Nat) : Bool := (sectorsOf a n).any s.isSync
def State.touchesPool (s : State) (a n : Nat) : Bool := n != 0 && s.lr.poolsegs != 0 && (s.inPool a || s.inPool (a + n - 1) || (decide (a < s.lr.poolbase) && decide (s.lr.poolbase < a + n)))

/-- Steps 1 and 2 of R127: the address is LOCAL and inside its range, and touches neither a sync sector nor the pool; on a
system core those of the running slice count (log 11). -/
def State.checkPlace (s : State) (core a n : Nat) : Except Stop Unit := do
  failIf (2 ^ 23 < a % 2 ^ 64 + n || a ≠ a % 2 ^ 23) (Exc.space a)
  failIf (s.touchesSync a n) (Exc.sync a)
  failIf (s.touchesPool a n) (Exc.queue ((s.core core).queueAt a))

/-! ## Turnarounds in progress -/

/-- First sector of a turnaround after the groups that have flipped, and the sector after its last. -/
def TurnRec.next (t : TurnRec) : Nat := t.lo / 512 + 32 * t.groups
def TurnRec.stop (t : TurnRec) : Nat := t.lo / 512 + t.count

/-- Whether an unfinished turnaround has a sector (given by its address divided by 512) still to flip. -/
def TurnRec.pendingOn (t : TurnRec) (sec : Nat) : Bool := decide (t.next ≤ sec) && decide (sec < t.stop)

/-- X(L) below SYSTEM level (R162). -/
def turnX (level : Nat) : Nat := match level with | 0 => 0 | 1 => 24 | 2 => 80 | _ => 300

/-- X of a turnaround: free at SYSTEM level until it starts (R162). -/
def TurnRec.wait (t : TurnRec) : Option Nat :=
  if t.start.isSome then some t.x else if t.level = 4 then none else some (turnX t.level)

/-- The cycle in which a sector in the region of a turnaround that starts in cycle `st` flips (R160). -/
def TurnRec.flipAt (t : TurnRec) (st x sec : Nat) : Nat := st + x + 2 + (sec - t.lo / 512) / 32

/-- The turnarounds of a context in order with the cycles of their starts, as far as the schedule fixes them: `floor` is
the cycle from which the drains before a turnaround let it start (R160, R161). -/
def turnStarts (floor : TurnRec → Option Nat) : Nat → List TurnRec → List (TurnRec × Nat × Nat)
  | _, [] => []
  | at0, t :: r =>
    match t.wait, (match t.start with | some st => some st | none => (floor t).map fun y => Nat.max y (Nat.max t.ready at0)) with
    | some x, some st => (t, st, x) :: turnStarts floor (st + x + 2 + ceilDiv t.count 32) r
    | _, _ => []

/-! ## What commands still owe -/

/-- Whether a queued or running MDRAIN of the core will still write a sector (R224). -/
def Core.drainPending (k : Core) (sec : Nat) : Bool :=
  (k.me.queue ++ k.me.running).any fun m => m.kind == .drain && (m.drainSectors.drop m.wrote).any fun q => q.2 == sec

/-- Whether a queued or running MDRAIN that was issued before a turnaround will still write a sector that it flips
(R224). -/
def Core.drainBefore (k : Core) (u : TurnRec) (sec : Nat) : Bool :=
  (k.me.queue ++ k.me.running).any fun m =>
    m.kind == .drain && decide (m.issued < u.issued) && (m.drainSectors.drop m.wrote).any fun q => q.2 == sec

/-- Whether an unfinished turnaround of the context will flip a sector of the core: it is OUT, or a drain before the
turnaround will yet make it so. -/
def State.owesFlip (s : State) (core ctx sec : Nat) (u : TurnRec) : Bool :=
  let k := s.core core
  u.pendingOn sec && !u.exch && (k.loc.isOut sec || (ctx == s.lr.meown && k.drainBefore u sec))

/-- Whether some unfinished turnaround of the context will flip a sector of the core. -/
def State.willFlip (s : State) (core ctx sec : Nat) : Bool := (s.ctx core ctx).turns.any (s.owesFlip core ctx sec)

/-- The first cycle in which the drains issued before a turnaround let it start: none while one of them waits. -/
def Core.drainFloor (k : Core) (u : TurnRec) : Option Nat :=
  let hits (m : MCmd) : Bool := m.kind == .drain && decide (m.issued < u.issued) && (m.drainSectors.drop m.wrote).any fun q => u.pendingOn q.2
  if k.me.queue.any hits then none
  else some ((k.me.running.filter hits).foldl (fun t m => Nat.max t (m.lastWrite + 1)) 0)

/-- The turnarounds of a context with their starts, as far as the schedule fixes them. A halt or a trap stops them
(R170). -/
def State.startsOf (s : State) (core ctx : Nat) : List (TurnRec × Nat × Nat) :=
  let c := s.ctx core ctx
  if c.turns.isEmpty || c.trapped || c.halted || c.aborted then []
  else turnStarts (fun u => if ctx = s.lr.meown then (s.core core).drainFloor u else some 0) c.turnAt c.turns

/-- The cycle in which the last turnaround of a context completes, when the schedule fixes it (R160, R162). -/
def State.turnsEnd (s : State) (core ctx : Nat) : Option Nat :=
  let c := s.ctx core ctx
  let l := s.startsOf core ctx
  if l.length != c.turns.length then none
  else match l.getLast? with | some (t, st, x) => some (st + x + 2 + ceilDiv t.count 32) | none => some c.turnAt

/-- The flips of a sector that turnarounds of a context owe, as far as the schedule fixes them. -/
def State.flipsOf (s : State) (core ctx sec : Nat) : List (Nat × TurnRec) :=
  ((s.startsOf core ctx).filter fun q => s.owesFlip core ctx sec q.1).map fun q => (q.1.flipAt q.2.1 q.2.2 sec, q.1)

/-- Whether a write of some context reaches the bank of a sector in the cycles f to t. -/
def Core.writesIn (k : Core) (sec f t : Nat) : Bool :=
  k.ctxs.any fun p => p.2.writes.any fun q => q.1 == sec && decide (f ≤ q.2) && decide (q.2 ≤ t)

/-- The turnaround that has made a sector, now OUT, IN by cycle t: the last flip by then, with no write after it. -/
def State.flipBy (s : State) (core sec t : Nat) : Option TurnRec :=
  let k := s.core core
  let all := k.ctxs.flatMap fun p => s.flipsOf core p.1 sec
  let last := all.foldl (fun (best : Option (Nat × TurnRec)) q =>
    if t < q.1 then best else match best with | some b => if q.1 < b.1 then best else some q | none => some q) none
  match last with
  | some (f, u) => if k.writesIn sec f t then none else some u
  | none => none

/-- Whether a sector of a scratchpad is IN in cycle t (R160, R163). -/
def State.isInAt (s : State) (core sec t : Nat) : Bool :=
  (s.core core).loc.isIn sec t || (s.flipBy core sec t).isSome

/-- Whether a command will yet read a sector, in a cycle after t as far as that is known (R224). -/
def Core.commandReads (k : Core) (sec t : Nat) : Bool :=
  (k.me.queue.any fun m => m.readSectors.contains sec)
  || k.me.running.any fun m => m.plan.any fun r => r.sec == sec && decide (t < k.askCycle m r)

/-! ## Loads -/

/-- The first sector of n bits at a that a read in cycle t does not find IN (R127, R167). -/
def State.facingFails (s : State) (core a n t : Nat) : Option Nat :=
  (sectorsOf a n).find? fun sec => !s.isSync sec && !s.inPool (512 * sec) && !s.isInAt core sec t

/-- The fault of a read of n bits at a whose check falls in cycle t: UNTURNED-READ, else POISON (step 3 of R127). -/
def State.readFault (s : State) (core a n t : Nat) : Option Exc :=
  match s.facingFails core a n t with
  | some sec => some (Exc.unturned (512 * sec))
  | none => ((s.core core).loc.anyBad a n).map fun w => Exc.poison (64 * w)

/-- Outside a span a load waits for the flips that turnarounds of its own context owe its sectors (R167). -/
def State.checkTurned (s : State) (core ctx a n : Nat) : Except Stop Unit :=
  if (s.ctx core ctx).span.isNone
      && (sectorsOf a n).any fun sec => !s.isSync sec && !s.inPool (512 * sec) && s.willFlip core ctx sec then .error .event
  else .ok ()

/-- The check of n bits at a in cycle t, for the load in issue (R167). -/
def State.checkFor (s : State) (a n t : Nat) (elem : Option Nat) : FaceCheck :=
  { cycle := t, a := a, n := n, elem := elem, issued := s.now, origin := { s.origin with span := s.origin.span.map fun c => c + (t - s.now) } }

/-- Checks of the context in focus that are to come; those whose cycle has passed are forgotten. -/
def State.addChecks (s : State) (l : List FaceCheck) : State :=
  s.modCur fun c => { c with checks := (c.checks.filter fun k => decide (s.now ≤ k.cycle)) ++ l }

/-- The reader paths (R49). -/
inductive Path where
  | s | v | m | x
  deriving DecidableEq, Repr

def Path.bit : Path → Nat | .s => 0 | .v => 1 | .m => 2 | .x => 3

/-- Whether a turnaround of these paths and this level covers a read through a path at a needed level (R164). -/
def covers (paths : BitVec 4) (level : Nat) (p : Path) (need : Nat) : Bool := paths.getLsbD p.bit && decide (need ≤ level)

/-- Whether one of the turnarounds that have named a sector since it was OUT covers such a read (R153, R164, log 92). -/
def Hist.covered (h : Hist) (p : Path) (need : Nat) : Bool :=
  covers h.paths h.level p need || h.also.any fun q => covers q.1 q.2 p need

/-- How a read finds a sector: what it holds in that cycle where that is not what stands in memory, and the content that
it may show in its place (R164). -/
structure SectorView where
  now : Option (BitVec 512) := none
  old : Option (BitVec 512) := none
  deriving DecidableEq, Repr

/-- A sector as a read in cycle t through a path at a needed level finds it; `flip` is a turnaround that has made it IN
by then. -/
def Space.viewSector (m : Space) (p : Path) (need t sec : Nat) (flip : Option TurnRec) : SectorView :=
  match SMap.get? m.hist sec with
  | none => {}
  | some h =>
    let now := if h.waits (t + 1) then some (h.before (t + 1)) else none
    let need := Nat.max need h.need
    let last := !h.covered p need && !h.seen.getLsbD p.bit
    if !m.isOut sec then { old := if last then some h.old else none }
    else if t < h.outAt then { now := some (now.getD h.old), old := if last then some h.older else none }
    else match flip with
      | some u => { now := now, old := if !covers u.paths u.level p need && !h.ahead.getLsbD p.bit then some h.old else none }
      | none => { now := now }

/-- Mark that the new content of a sector has been seen through a path, by a read that counts on a flip to come or not. -/
def Space.sawNew (m : Space) (p : Path) (sec : Nat) (flip : Bool) : Space :=
  match SMap.get? m.hist sec with
  | none => m
  | some h =>
    let b := BitVec.ofNat 4 (2 ^ p.bit)
    { m with hist := m.hist.put sec (if flip then { h with ahead := h.ahead ||| b } else { h with seen := h.seen ||| b }) }

/-- A memory with other content in a sector. -/
def Space.patch (m : Space) (sec : Nat) (x : BitVec 512) : Space :=
  { m with bytes := m.bytes.setBits (512 * sec) 512 x.toNat, syn := m.syn.filter fun q => q.1 / 8 != sec }

/-- What a request for a sector in cycle t gives in place of what stands in memory: where the path has not been named, old or
new content for the whole sector, as a free choice draws (R164). Gives the memory with what has been seen, and the draws used. -/
def Space.ask (m : Space) (p : Path) (need t : Nat) (flip : Option TurnRec) (sec free : Nat) : Option (BitVec 512) × Space × Nat :=
  let v := m.viewSector p need t sec flip
  match v.old with
  | none => (v.now, m, free)
  | some x =>
    if Config.freeBool free then (some x, m, free + 1)
    else (v.now, m.sawNew p sec (m.isOut sec && !m.stillIn sec t), free + 1)

/-- A read of n bits in cycle t, which asks for each of its sectors once: the bits, the memory with what has been seen, and the
draws used (R164). A path that some turnaround has named since the sector went OUT stays named (log 92). -/
def Space.readVia (m : Space) (p : Path) (need t : Nat) (flip : Nat → Option TurnRec) (a n free : Nat) : Nat × Space × Nat :=
  if (sectorsOf a n).all fun sec => m.viewSector p need t sec (flip sec) == {} then (m.readBits a n, m.countRead (wordsOf a n), free)
  else
    let r := (sectorsOf a n).foldl (fun (acc : Space × Space × Nat) sec =>
      let q := acc.2.1.ask p need t (flip sec) sec acc.2.2
      ((match q.1 with | some x => acc.1.patch sec x | none => acc.1), q.2)) (m, m, free)
    (r.1.readBits a n, r.2.1.countRead (wordsOf a n), r.2.2)

/-- The flip by which a sector of a core's scratchpad, now OUT, is IN in cycle t. -/
def State.flipOf (s : State) (core t sec : Nat) : Option TurnRec :=
  if (s.core core).loc.isOut sec then s.flipBy core sec t else none

/-- Read n bits of a core's scratchpad through a path, in a cycle `t`. -/
def State.readLocal (s : State) (core : Nat) (p : Path) (a n t : Nat) : Nat × State :=
  let m := (s.core core).loc
  let r := m.readVia p 0 t (s.flipOf core t) a n s.free
  (r.1, { s.modCore core (fun k => { k with loc := r.2.1 }) with free := r.2.2 })

/-! ## The race detector (R268 to R270) -/

/-- Smallest unit that holds both agents. -/
def raceScope (c1 x1 c2 x2 : Nat) : Nat :=
  if c1 = c2 then (if x1 = x2 then 0 else 1) else if c1 / 64 = c2 / 64 then 2 else 3

/-- Whether an access after an earlier write of the superstep is a race (R269). -/
def State.isRace (s : State) (w : Shadow) (a : Shadow) (write : Bool) : Bool :=
  w.phc == s.phc
  && !(w.core == a.core && w.ctx == a.ctx && w.desc == a.desc && w.sau == a.sau)
  && !(write && w.merge && a.merge)
  && !(w.core == a.core && decide (w.order < (s.core w.core).order))

/-- The log entry of a race (R270). -/
def raceEntry (s : State) (sec head : Nat) (w a : Shadow) (write : Bool) : RaceEnt :=
  BitVec.ofNat 64 sec ++ s.phc.extractLsb' 0 16 ++ BitVec.ofNat 10 w.core ++ BitVec.ofNat 2 w.ctx ++ BitVec.ofNat 10 a.core
  ++ BitVec.ofNat 2 a.ctx ++ BitVec.ofNat 3 (raceScope w.core w.ctx a.core a.ctx) ++ BitVec.ofBool (!write)
  ++ BitVec.ofNat 20 head

/-- What a race does under RACEM: nothing, a log entry, or RACE (R269). -/
def State.race (s : State) (sec head : Nat) (w a : Shadow) (write : Bool) : Except Stop State :=
  let e := raceEntry s sec head w a write
  match s.lr.racem with
  | 0 => .ok s
  | 1 => .ok (s.logRace e)
  | _ => fail { cause := 0x10, addr := sec, info := s.raceLog.length, race := some e }

/-- The shadow entry a context or descriptor leaves. -/
def State.agent (s : State) (core ctx desc : Nat) (merge : Bool) : Shadow :=
  { core := core, ctx := ctx, desc := desc, phc := s.phc, merge := merge, order := (s.core core).order }

/-- Check one sector of a scratchpad against its last write, and record a write (R268, R269). -/
def State.raceLocal (s : State) (core sec head : Nat) (a : Shadow) (write : Bool) : Except Stop State := do
  if s.lr.racem = 0 || (!write && s.isSync sec) then .ok s
  else
    let s' ← match SMap.get? (s.core core).shadow sec with
      | some w => if s.isRace w a write then s.race (512 * sec) head w a write else .ok s
      | none => .ok s
    .ok (if write then s'.modCore core fun k => { k with shadow := k.shadow.put sec a } else s')

/-- The same over every sector of an access. -/
def State.raceSectors (s : State) (core head : Nat) (a : Shadow) (write : Bool) (secs : List Nat) : Except Stop State :=
  secs.foldlM (fun s sec => s.raceLocal core sec head a write) s

/-- Whether a check that is due now has something to do. -/
def State.checkDue (s : State) (core : Nat) (k : FaceCheck) : Bool :=
  k.race || k.cause != 0 || (s.readFault core k.a k.n s.now).isSome

/-- A check in its cycle: what the read finds then, the fault that has waited behind it, or the race detector (R127, R167,
R269). -/
def State.runCheck (s : State) (core ctx : Nat) (k : FaceCheck) : Except Stop State :=
  let s := s.modCtx core ctx fun c => { c with checks := c.checks.erase k }
  match s.readFault core k.a k.n s.now with
  | some e => fail { e with elem := k.elem }
  | none =>
    if k.cause = 0x0F then fail { Exc.poison k.addr with elem := k.elem }
    else if k.cause != 0 then fail { cause := k.cause, addr := k.addr, info := k.info, elem := k.elem }
    else if k.race then s.raceSectors core k.origin.head (s.agent core ctx 0 false) false (sectorsOf k.a k.n)
    else .ok s

/-! ## Stores -/

/-- Whether a store to a sector is held by an unfinished turnaround, whose flip comes first (R163). -/
def TurnRec.holds (u : TurnRec) (sec : Nat) : Bool := u.pendingOn sec && !u.exch

/-- Whether a store that reaches the bank of a sector in cycle t comes before a turnaround of its context has reached the
sector, or before a drain's write or a command's read of the sector (R153, R163, R224). -/
def State.comesEarly (s : State) (core ctx sec t : Nat) : Bool :=
  let k := s.core core
  let starts := s.startsOf core ctx
  ((s.ctx core ctx).turns.any fun u => u.holds sec && !starts.any fun q => q.1 == u && decide (u.flipAt q.2.1 q.2.2 sec ≤ t))
  || (ctx == s.lr.meown && ((k.me.queue.any fun m => m.kind == .drain && m.drainSectors.any fun q => q.2 == sec)
      || (k.me.running.any fun m => m.kind == .drain && m.writesLeft.any fun q => q.1 == sec && decide (t < q.2))
      || k.commandReads sec t))

/-- A store waits for a flip, a drain write or a command read that precedes it in program order; inside a span it
raises TIMING where it would come before one (R153, R163, R224). -/
def State.checkHold (s : State) (core ctx sec t : Nat) : Except Stop Unit :=
  let k := s.core core
  if (s.ctx core ctx).span.isSome then failIf (s.comesEarly core ctx sec t) (Exc.timing (512 * sec))
  else if ((s.ctx core ctx).turns.any (·.holds sec))
      || (ctx == s.lr.meown && (k.drainPending sec || k.commandReads sec 0)) then .error .event
  else .ok ()

/-- Steps 1, 2 and the read half of a merge for a store of n bits (R127, R128); `whole` are words that the instruction
replaces whole. -/
def State.checkWrite (s : State) (core ctx a n t : Nat) (whole : Nat → Bool) : Except Stop Unit := do
  s.checkPlace core a n
  (sectorsOf a n).forM fun sec => s.checkHold core ctx sec t
  match (partialWords a n).find? fun w => (s.core core).loc.bad w && !whole w with
  | some w => fail (Exc.poison (64 * w))
  | none => .ok ()

/-- Remember the cycle in which a store of a context writes some sectors; older writes are forgotten. -/
def Ctx.noteWrites (c : Ctx) (now : Nat) (l : List (Nat × Nat)) : Ctx :=
  { c with writes := c.writes.filter (fun q => decide (now ≤ q.2 + 1)) ++ l }

/-- The last cycle in which a store of the context writes some of the sectors lo to hi − 1. -/
def Ctx.lastWrite (c : Ctx) (lo hi : Nat) : Option Nat :=
  c.writes.foldl (fun m q => if lo ≤ q.1 && q.1 < hi then some (Nat.max (m.getD 0) q.2) else m) none

/-- Whether a store of the context to the sectors lo to hi − 1 is still unwritten at the start of a cycle. -/
def Ctx.unwritten (c : Ctx) (now lo hi : Nat) : Bool :=
  match c.lastWrite lo hi with | some t => decide (now ≤ t) | none => false

/-- Cycles that a store of n bits at a holds its bank: 2 where it merges (R126). -/
def bankHold (a n : Nat) : Nat := if (partialWords a n).isEmpty then 1 else 2

/-- A landing writes some bits of a memory, `more` cycles from now: the turnarounds of the core that drain it start no
earlier than the cycle after (R160, R161). -/
def State.noteLanding (s : State) (more core : Nat) (f : TurnRec → Bool) : State :=
  s.modCore core fun k => { k with ctxs := k.ctxs.mapVals fun _ c =>
    { c with turns := c.turns.map fun u => if u.start.isNone && f u then { u with ready := Nat.max u.ready (s.now + more + 1) } else u } }

/-- The layout-table entries that n bits at a overlap, with their content before a store to them (R142). -/
def State.staleEntries (s : State) (core a n : Nat) : List (Nat × BitVec 256) :=
  let base := s.lr.ltbase
  if n = 0 || a + n ≤ base || base + 2 ^ 18 ≤ a then []
  else
    let first := (Nat.max a base - base) / 256
    let last := (Nat.min (a + n) (base + 2 ^ 18) - 1 - base) / 256
    (rangeFrom first (last + 1 - first)).map fun i =>
      (i, BitVec.ofNat 256 ((s.core core).loc.readBits (base + 256 * i) 256))

/-- The contents of an entry that a use may still see, with one more (R142). -/
def keepStale (m : SMap (List (BitVec 256))) (p : Nat × BitVec 256) : SMap (List (BitVec 256)) :=
  let l := SMap.get [] m p.1
  if l.contains p.2 then m else m.put p.1 (l ++ [p.2])

/-- Write n bits to a core's scratchpad: each sector goes OUT as `out` says (a sync or pool sector has no facing), and an
entry of the layout table that is overwritten may still be seen by an unordered use. Where earlier writes to a sector are
still on their way, the order of the banks decides what stands (R130). -/
def State.storeWith (s : State) (out : Space → Nat → Space) (core a n x : Nat) : State :=
  let old := s.staleEntries core a n
  s.modCore core fun k =>
    ({ k with
      loc := (((sectorsOf a n).filter fun sec => !s.isSync sec && !s.inPool (512 * sec)).foldl out k.loc).writeRaw a n x
      stale := old.foldl keepStale k.stale } : Core).settleAll s.now (sectorsOf a n)

/-- A write that is whole in this cycle. -/
def State.storeLocal (s : State) (core a n x : Nat) : State :=
  s.storeWith (fun m sec => m.goOutNow s.now (patchOf s.focusCtx s.now s.now a n x sec) sec) core a n x

/-- A store that reaches the bank in cycle t (R163). -/
def State.storeFrom (s : State) (t core a n x : Nat) : State :=
  s.storeWith (fun m sec => m.goOutAt s.now (patchOf s.focusCtx s.now t a n x sec) sec) core a n x

/-! ## The layout table (R137 to R142) -/

/-- The entry that a use of index n sees (R142): the table's content, or, as a free choice draws, the content it had
before a write that no fence has ordered before the use. The index takes its place in the cache. -/
def State.useEntry (s : State) (core n : Nat) : BitVec 256 × State :=
  let k := s.core core
  let cur := BitVec.ofNat 256 (k.loc.readBits (s.lr.ltbase + 256 * n) 256)
  let s := s.modCore core fun k => { k with lcache := k.lcache.put (n % 64) n, loc := k.loc.countRead (wordsOf (s.lr.ltbase + 256 * n) 256) }
  match (SMap.get [] k.stale n).filter (· != cur) with
  | [] => (cur, s)
  | l => let (i, s) := s.drawNat; ((l ++ [cur]).getD (i % (l.length + 1)) cur, s)

/-- A layout entry that reaches a poisoned word raises POISON when it is used (R349). -/
def State.checkEntry (s : State) (core n : Nat) : Except Stop Unit :=
  match (s.core core).loc.anyBad (s.lr.ltbase + 256 * n) 256 with
  | some w => fail (Exc.poison (64 * w))
  | none => .ok ()

/-- Whether a use of index n would hit the cache (R142). -/
def Core.lcHit (k : Core) (n : Nat) : Bool := SMap.get? k.lcache (n % 64) == some n

/-- Invalidate the layout cache, and with it, for every context of the core, what an unordered use might still have seen (R142,
log 89). -/
def Core.lcFlush (k : Core) : Core := { k with lcache := [], stale := [] }

/-- The coordinates after e steps from a start, none when they pass SIZE3 (R140). -/
def walkCoord (l : BitVec 256) (start : Word) (e : Nat) : Option (Nat × Nat × Nat × Nat) :=
  let n0 := coordOf start 0 + e
  let s0 := lteSize l 0 + 1
  let n1 := coordOf start 1 + n0 / s0
  let s1 := lteSize l 1 + 1
  let n2 := coordOf start 2 + n1 / s1
  let s2 := lteSize l 2 + 1
  let n3 := coordOf start 3 + n2 / s2
  if lteSize l 3 < n3 then none else some (n0 % s0, n1 % s1, n2 % s2, n3)

/-- Whether a starting coordinate lies beyond its size (R140). -/
def startBeyond (l : BitVec 256) (start : Word) : Bool := (rangeFrom 0 4).any fun i => lteSize l i < coordOf start i

end Sys2Proof.Machine
end

