-- ==== Sys2Proof/Machine/Places.lean ====
section
/-! DEFINITION. Addresses beyond the own scratchpad (R24, R25): the fields of the spaces, translation of DEVICE space
(R306, R307), and the memory in which a sector stands. -/

namespace Sys2Proof.Machine

/-! ## Fields of the spaces (R24) -/

/-- The address after the last of the field that holds a; none where a bit that must be zero is set or the space is
reserved. -/
def fieldEnd (a : Nat) : Option Nat :=
  match spaceOf a with
  | 0 => if a < 2 ^ 23 then some (2 ^ 23) else none
  | 1 => if field a 60 29 = 0 then some ((a / 2 ^ 23 + 1) * 2 ^ 23) else none
  | 2 => if field a 60 57 = 0 then some (2 * 2 ^ 61 + 2 ^ 57) else none
  | 3 => some (4 * 2 ^ 61)
  | 4 => if field a 60 53 = 0 then some ((a / 2 ^ 41 + 1) * 2 ^ 41) else none
  | 5 => if field a 60 4 = 0 then some (a + 1) else none
  | _ => none

/-- Whether n bits at a stay within the field of a. -/
def inField (a n : Nat) : Bool :=
  match fieldEnd a with | some e => decide (a + n ≤ e) | none => false

/-- The core that a CLUSTER address of a core names. -/
def clusterCore (core a : Nat) : Nat := core / 64 * 64 + field a 28 23

/-- Cores of the running slice. -/
def State.inSlice (s : State) (core : Nat) : Bool :=
  match s.slice with | some r => r.cores.contains core | none => false

/-! ## Translation (R306, R307) -/

/-- The translation of the running slice, through the state latched for it (R307). -/
def State.xlate (s : State) (a : Nat) (write : Bool) : Option Nat :=
  match s.slice with
  | some r => translate r.tables r.lr.ttroot (a % 2 ^ 57) write
  | none => none

/-- The physical pieces of a DEVICE range, or the first virtual address that does not translate. -/
def State.physRange (s : State) (a n : Nat) (write : Bool) : Except Nat (List (Nat × Nat)) :=
  (pagesOf a n).foldlM (fun acc p =>
    match s.xlate p.1 write with
    | some pa => .ok (acc ++ [(pa, p.2)])
    | none => .error p.1) []

/-! ## Where addresses stand -/

/-- Where an address of a core of the running slice stands: the memory and the bit address within it. -/
def State.locate (s : State) (core a : Nat) : Option (Place × Nat) :=
  match spaceOf a with
  | 0 => some (.loc core, a % 2 ^ 23)
  | 1 => some (.loc (clusterCore core a), a % 2 ^ 23)
  | 2 => (s.xlate a false).map fun pa => (.phys, pa)
  | 3 => some (.host, a % 2 ^ 61)
  | 4 => some (.peer, a % 2 ^ 53)
  | _ => none

/-- The physical sync sectors of the slice, the graph's predicate sectors among them (R152, R284, R294). -/
def State.physSync (s : State) : List Nat :=
  ((s.lr.sync.filter fun a => spaceOf a == 2) ++ s.lr.pred).filterMap fun a => (s.xlate a false).map (· / 512)

/-- Whether a sector of a memory is a sync sector. -/
def State.syncAt (s : State) (p : Place) (sec : Nat) : Bool :=
  match p with
  | .loc _ => s.isSync sec
  | .phys => s.physSync.contains sec
  | _ => false

/-- Whether a sector stays outside facing: a sync sector or a queue segment (R155). -/
def State.exempt (s : State) (p : Place) (sec : Nat) : Bool :=
  s.syncAt p sec || match p with | .loc _ => s.inPool (512 * sec) | _ => false

/-- Whether some sector of a turnaround's region, as its core names it, lies in n bits at a of a memory. -/
def State.regionHits (s : State) (core : Nat) (u : TurnRec) (p : Place) (a n : Nat) : Bool :=
  (rangeFrom 0 u.count).any fun i =>
    match s.locate core (u.lo + 512 * i) with
    | some (q, b) => q == p && decide (b < a + n) && decide (a < b + 512)
    | none => false

/-- A landing of the core's exchange or far traffic has written n bits at a: its turnarounds that drain it start no
earlier than the next cycle (R161). -/
def State.drainedAt (s : State) (core : Nat) (p : Place) (a n : Nat) : State :=
  s.noteLanding 0 core fun u => u.exch && s.regionHits core u p a n

/-- Write n bits into a memory that holds them without a gap: every sector it touches goes OUT but those outside
facing (R155). -/
def State.storeAt (s : State) (p : Place) (a n x : Nat) : State :=
  match p with
  | .loc c => s.storeLocal c a n x
  | _ => s.modSpace p fun m => (((sectorsOf a n).filter fun sec => !s.exempt p sec).foldl Space.goOut m).writeRaw a n x

end Sys2Proof.Machine
end

