-- ==== Sys2Proof/Machine/Vector.lean ====
section
/-! DEFINITION. What each vector opcode does to the registers of its context (R181 to R196): one definition per
opcode, over the active elements, with the flags it raises. Checks are those of `Ctx.vuse`; timing is elsewhere. -/

namespace Sys2Proof.Machine

/-- What a vector word leaves: the context, its flags, and the scalar result where it has one. -/
structure VRes where
  c : Ctx
  fl : BitVec 7 := 0
  g : Option Word := none
  deriving DecidableEq, Repr

/-- The captured rounding control. -/
def Ctx.rc (c : Ctx) : RC := RC.of c.rmode

/-- Write a list of (element, value) into the group at base. -/
def Ctx.setElems (c : Ctx) (base s : Nat) (l : List (Nat × Nat)) : Ctx :=
  l.foldl (fun c p => c.setElem base s p.1 p.2) c

/-- For each element of a list, compute a value from the old context; write them all, tag the group. -/
def Ctx.mapElems (c : Ctx) (es : List Nat) (base s t : Nat) (f : Nat → FRes) : VRes :=
  let rs := es.map fun e => (e, f e)
  { c := (c.setElems base s (rs.map fun r => (r.1, r.2.1))).setTags base t c.vspan
    fl := rs.foldl (fun fl r => fl ||| r.2.2) 0 }

/-- Slot width of the tag of group A. -/
def Ctx.widthA (c : Ctx) (w : VWord) : Nat := (slotWidth (c.tag w.a.toNat)).getD 8

/-- Element e of group A at its own slot width. -/
def Ctx.aElem (c : Ctx) (w : VWord) (e : Nat) : Nat := readSlot (c.tag w.a.toNat) (c.elem w.a.toNat (c.widthA w) e)

/-- Element e of group B, which has the tag of group A (R194). -/
def Ctx.bSame (c : Ctx) (w : VWord) (e : Nat) : Nat := readSlot (c.tag w.a.toNat) (c.elem w.b.toNat (c.widthA w) e)

/-- A two-source operation of A's tag on the active elements. -/
def Ctx.vBin (c : Ctx) (w : VWord) (f : (t s : Nat) → RC → Nat → Nat → FRes) : VRes :=
  let t := c.tag w.a.toNat
  let s := c.widthA w
  c.mapElems c.activeElems w.d.toNat s t fun e => f t s c.rc (c.aElem w e) (c.bElem w t s e)

/-- A one-source operation of A's tag. -/
def Ctx.vUn (c : Ctx) (w : VWord) (f : (t s : Nat) → RC → Nat → FRes) : VRes :=
  let t := c.tag w.a.toNat
  let s := c.widthA w
  c.mapElems c.activeElems w.d.toNat s t fun e => f t s c.rc (c.aElem w e)

/-- A fused operation that also reads D. -/
def Ctx.vTri (c : Ctx) (w : VWord) (f : (t s : Nat) → RC → Nat → Nat → Nat → FRes) : VRes :=
  let t := c.tag w.a.toNat
  let s := c.widthA w
  c.mapElems c.activeElems w.d.toNat s t fun e =>
    f t s c.rc (c.aElem w e) (c.bElem w t s e) (c.elem w.d.toNat s e)

/-- By the kind of tag: an exact integer wrapped to the slot, or a floating-point operation. -/
def byTag (t s : Nat) (i : Int) (f : Fmt → FRes) : FRes :=
  match fmtOf t with
  | some k => f k
  | none => (unsigned s i, 0)

/-- A slot as the integer its tag says. -/
def slotInt (t s x : Nat) : Int := if isSignedTag t then signed s x else ((x % 2 ^ s : Nat) : Int)

/-! ## Arithmetic (R181, R182) -/

def vaddOf (c : Ctx) (w : VWord) : VRes := c.vBin w fun t s rc a b => byTag t s ((a : Int) + b) (·.add rc a b)
def vsubOf (c : Ctx) (w : VWord) : VRes := c.vBin w fun t s rc a b => byTag t s ((a : Int) - b) (·.sub rc a b)
def vmulOf (c : Ctx) (w : VWord) : VRes := c.vBin w fun t s rc a b => byTag t s ((a : Int) * b) (·.mul rc a b)
def vfmaOf (c : Ctx) (w : VWord) : VRes := c.vTri w fun t s rc a b d => byTag t s ((a : Int) * b + d) (·.fma rc a b d)
def vfmsOf (c : Ctx) (w : VWord) : VRes := c.vTri w fun t s rc a b d => byTag t s ((a : Int) * b - d) (·.fms rc a b d)
def vfnmaOf (c : Ctx) (w : VWord) : VRes := c.vTri w fun t s rc a b d => byTag t s ((d : Int) - a * b) (·.fnma rc a b d)
def vdivOf (c : Ctx) (w : VWord) : VRes := c.vBin w fun t s rc a b => byTag t s 0 (·.div rc a b)
def vsqrtOf (c : Ctx) (w : VWord) : VRes := c.vUn w fun t s rc a => byTag t s 0 (·.sqrt rc a)
def vrsqrtOf (c : Ctx) (w : VWord) : VRes := c.vUn w fun t s rc a => byTag t s 0 (·.rsqrt rc a)
def vrcpOf (c : Ctx) (w : VWord) : VRes := c.vUn w fun t s rc a => byTag t s 0 (·.rcp rc a)
def vexp2Of (c : Ctx) (w : VWord) : VRes := c.vUn w fun t s rc a => byTag t s 0 (·.exp2 rc a)
def vlog2Of (c : Ctx) (w : VWord) : VRes := c.vUn w fun t s rc a => byTag t s 0 (·.log2 rc a)

def vminOf (c : Ctx) (w : VWord) : VRes := c.vBin w fun t s rc a b =>
  byTag t s (if slotInt t s a ≤ slotInt t s b then a else b) (·.minmax rc false a b)
def vmaxOf (c : Ctx) (w : VWord) : VRes := c.vBin w fun t s rc a b =>
  byTag t s (if slotInt t s a ≤ slotInt t s b then b else a) (·.minmax rc true a b)
def vabsOf (c : Ctx) (w : VWord) : VRes := c.vUn w fun t s _ a =>
  byTag t s ((slotInt t s a).natAbs : Int) (·.signOp (fun _ => false) a)
def vnegOf (c : Ctx) (w : VWord) : VRes := c.vUn w fun t s _ a =>
  byTag t s (-(a : Int)) (·.signOp (fun n => !n) a)

/-- Clamp to the range of an integer tag; SAT when that changes the value (R73). -/
def clampTag (t s : Nat) (x : Int) : FRes :=
  let lo : Int := if isSignedTag t then -((2 ^ (s - 1) : Nat) : Int) else 0
  let hi : Int := if isSignedTag t then ((2 ^ (s - 1) : Nat) : Int) - 1 else ((2 ^ s : Nat) : Int) - 1
  if x < lo then (unsigned s lo, flSAT) else if hi < x then (unsigned s hi, flSAT) else (unsigned s x, 0)

def vaddsOf (c : Ctx) (w : VWord) : VRes := c.vBin w fun t s _ a b => clampTag t s (slotInt t s a + slotInt t s b)
def vsubsOf (c : Ctx) (w : VWord) : VRes := c.vBin w fun t s _ a b => clampTag t s (slotInt t s a - slotInt t s b)
def vmulhOf (c : Ctx) (w : VWord) : VRes := c.vBin w fun t s _ a b =>
  (unsigned s ((slotInt t s a * slotInt t s b) / ((2 ^ s : Nat) : Int)), 0)

/-! ## Logic, shifts, bit counts (R183) -/

/-- A bitwise operation; for B1 on bit 0 alone. -/
def bitwise (t s : Nat) (op : Nat → Nat → Nat) (a b : Nat) : FRes :=
  if isB1 t then (op (a % 2) (b % 2) % 2, 0) else (op a b % 2 ^ s, 0)

def vandOf (c : Ctx) (w : VWord) : VRes := c.vBin w fun t s _ a b => bitwise t s Nat.land a b
def vorOf (c : Ctx) (w : VWord) : VRes := c.vBin w fun t s _ a b => bitwise t s Nat.lor a b
def vxorOf (c : Ctx) (w : VWord) : VRes := c.vBin w fun t s _ a b => bitwise t s Nat.xor a b

/-- A shift or rotate by a count read from the B operand. -/
def Ctx.vShift (c : Ctx) (w : VWord) (f : (t s : Nat) → Nat → Nat → Nat) : VRes :=
  let t := c.tag w.a.toNat
  let s := c.widthA w
  c.mapElems c.activeElems w.d.toNat s t fun e => (f t s (c.aElem w e) (c.bCount w s e), 0)

def vshlOf (c : Ctx) (w : VWord) : VRes := c.vShift w fun _ s a n => if s ≤ n then 0 else (a <<< n) % 2 ^ s
def vshrOf (c : Ctx) (w : VWord) : VRes := c.vShift w fun _ s a n => if s ≤ n then 0 else a >>> n
def vsarOf (c : Ctx) (w : VWord) : VRes := c.vShift w fun _ s a n =>
  if s ≤ n then (if signed s a < 0 then 2 ^ s - 1 else 0) else unsigned s (signed s a / ((2 ^ n : Nat) : Int))
def vrorOf (c : Ctx) (w : VWord) : VRes := c.vShift w fun _ s a n =>
  let k := n % s
  (a >>> k + (a <<< (s - k))) % 2 ^ s
def vpopcOf (c : Ctx) (w : VWord) : VRes := c.vUn w fun _ s _ a => (popcount s a, 0)

/-! ## Compares, classes, selection (R184 to R186) -/

/-- Write bits of a mask: each element of the list gets its truth value. -/
def setBits (x : BitVec 2048) (l : List (Nat × Bool)) : BitVec 2048 :=
  BitVec.ofNat 2048 (l.foldl (fun n p => setField n p.1 1 p.2.toNat) x.toNat)

/-- A compare of the active elements into m[D]. -/
def Ctx.vCmp (c : Ctx) (w : VWord) (rel : (t s : Nat) → RC → Nat → Nat → Bool × BitVec 7) : VRes :=
  let t := c.tag w.a.toNat
  let s := c.widthA w
  let rs := c.activeElems.map fun e => (e, rel t s c.rc (c.aElem w e) (c.bElem w t s e))
  { c := c.setMask w.d.toNat (setBits (c.mask w.d.toNat) (rs.map fun r => (r.1, r.2.1)))
    fl := rs.foldl (fun fl r => fl ||| r.2.2) 0 }

/-- An integer relation or the floating-point compare of R79. -/
def relTag (t s : Nat) (i : Int → Int → Bool) (f : Fmt → Bool × BitVec 7) (a b : Nat) : Bool × BitVec 7 :=
  match fmtOf t with
  | some k => f k
  | none => (i (slotInt t s a) (slotInt t s b), 0)

def vceqOf (c : Ctx) (w : VWord) : VRes := c.vCmp w fun t s rc a b =>
  relTag t s (fun x y => x == y) (fun f => f.cmp rc FVal.eq a b) a b
def vcneOf (c : Ctx) (w : VWord) : VRes := c.vCmp w fun t s rc a b =>
  relTag t s (fun x y => x != y) (fun f => let r := f.cmp rc FVal.eq a b; (!r.1, r.2)) a b
def vcltOf (c : Ctx) (w : VWord) : VRes := c.vCmp w fun t s rc a b =>
  relTag t s (fun x y => decide (x < y)) (fun f => f.cmp rc FVal.lt a b) a b
def vcleOf (c : Ctx) (w : VWord) : VRes := c.vCmp w fun t s rc a b =>
  relTag t s (fun x y => decide (x ≤ y)) (fun f => f.cmp rc FVal.le a b) a b

/-- The classes of VCLASS, read from the stored bits (R185). -/
def classOf (f : Fmt) (code x : Nat) : Bool :=
  let v := f.unpack x
  match code with
  | 0 => v.isNan
  | 1 => v.isSnan
  | 2 => v.isInf
  | 3 => v.isZero
  | 4 => f.isSub x
  | 5 => !v.isNan && !v.isInf && !v.isZero && !f.isSub x
  | 6 => (x >>> (f.width - 1)) % 2 == 1
  | _ => !v.isNan && !v.isInf

def vclassOf (c : Ctx) (w : VWord) : VRes :=
  let f := (fmtOf (c.tag w.a.toNat)).getD .fp32
  { c := c.setMask w.d.toNat (setBits (c.mask w.d.toNat)
      (c.activeElems.map fun e => (e, classOf f w.imm.toNat (c.aElem w e)))) }

/-- Every element below VL. -/
def Ctx.allElems (c : Ctx) : List Nat := rangeFrom 0 c.vl

def vselOf (c : Ctx) (w : VWord) : VRes :=
  let t := c.tag w.a.toNat
  let s := c.widthA w
  c.mapElems c.allElems w.d.toNat s t fun e => (if c.maskBit c.cmsel e then c.aElem w e else c.bElem w t s e, 0)

/-! ## Moves, tags, conversion, scaling (R187 to R190) -/

/-- Copy every bit below the grant of every register of group A into group D. -/
def Ctx.copyGroup (c : Ctx) (d a : Nat) : Ctx :=
  (rangeFrom 0 c.vspan).foldl (fun k i =>
    k.setVreg (d + i) (BitVec.ofNat 2048 (setField (c.vreg (d + i)).toNat 0 (c.grant * 32) (c.vreg (a + i)).toNat))) c

def vmovOf (c : Ctx) (w : VWord) : VRes :=
  let t := c.tag w.a.toNat
  if t = 0 then { c := (c.copyGroup w.d.toNat w.a.toNat).setTags w.d.toNat 0 c.vspan }
  else c.vUn w fun _ _ _ a => (a, 0)

def vbcstOf (c : Ctx) (w : VWord) : VRes :=
  match w.form with
  | .vv => let a0 := c.aElem w 0; c.vUn w fun _ _ _ _ => (a0, 0)
  | _ =>
    let t := w.a.toNat
    let s := (slotWidth t).getD 8
    c.mapElems c.activeElems w.d.toNat s t fun e =>
      let x := c.bElem w t s e
      (if isB1 t then x % 2 else x, 0)

def vtagOf (c : Ctx) (w : VWord) : VRes :=
  { c := (c.copyGroup w.d.toNat w.a.toNat).setTags w.d.toNat w.imm.toNat c.vspan }

/-- Range of an integer tag. -/
def tagLo (t s : Nat) : Int := if isSignedTag t then -((2 ^ (s - 1) : Nat) : Int) else 0
def tagHi (t s : Nat) : Int := if isSignedTag t then ((2 ^ (s - 1) : Nat) : Int) - 1 else ((2 ^ s : Nat) : Int) - 1

/-- Conversion of one slot between tags (R80, R188). -/
def convertSlot (src dst : Nat) (rc : RC) (x : Nat) : FRes :=
  let ss := (slotWidth src).getD 8
  let sd := (slotWidth dst).getD 8
  match fmtOf src with
  | some f =>
    if isB1 dst then ((!(f.input rc.ftz x).isZero).toNat, 0)
    else
      match fmtOf dst with
      | some g => f.convert g rc x
      | none =>
        let r := f.toInt rc (tagLo dst sd) (tagHi dst sd) x
        (unsigned sd r.1, r.2)
  | none =>
    let v : Int := if isB1 src then ((x % 2 : Nat) : Int) else slotInt src ss x
    if isB1 dst then ((v != 0).toNat, 0)
    else
      match fmtOf dst with
      | some g => g.ofInt rc v
      | none => clampTag dst sd v

def vcvtOf (c : Ctx) (w : VWord) : VRes :=
  let t := c.tag w.a.toNat
  let d := w.imm.toNat
  c.mapElems c.activeElems w.d.toNat ((slotWidth d).getD 8) d fun e => convertSlot t d c.rc (c.aElem w e)

def vroundOf (c : Ctx) (w : VWord) : VRes :=
  c.vUn w fun t s rc a => byTag t s 0 fun f =>
    f.roundIntegral (if w.imm = 4 then rc.mode else RMode.of w.imm.toNat) rc.ftz a

def vscaleOf (c : Ctx) (w : VWord) : VRes :=
  let t := c.tag w.a.toNat
  let s := c.widthA w
  c.mapElems c.activeElems w.d.toNat s t fun e =>
    let n : Int := match w.form with
      | .vv => signed s (c.elem w.b.toNat s e)
      | .vs => signed 64 (c.reg w.b).toNat
      | .vi => w.imm
    byTag t s 0 fun f => f.scale c.rc (c.aElem w e) n

/-! ## Pip quantisation (R191, R192) -/

/-- A floating-point slot widened to an FP32 value with its sign bit, FTZ applied (R85). -/
def quantInput (f : Fmt) (ftz : Bool) (x : Nat) : Bool × FVal :=
  ((x >>> (f.width - 1)) % 2 == 1, f.input (ftz && f != .fp16) x)

/-- One block of a VQNT: slots, exponent byte and flags. -/
def vqntBlock (c k : Ctx) (w : VWord) (p : Pip) (b : Nat) : Ctx × BitVec 7 :=
  let f := (fmtOf (c.tag w.a.toNat)).getD .fp32
  let es := rangeFrom (16 * b) 16
  let (blk, fl) := quantise p (es.map fun e => quantInput f c.rc.ftz (c.aElem w e))
  let slots := (rangeFrom 0 16).map fun j => (16 * b + j, pipSlot (blk.el.getD j (false, 0)) (blk.mu.getD (j / 2) 0))
  ((k.setElems w.d.toNat 16 slots).setKByte w.d.toNat (16 * b) blk.e, fl)

def vqntOf (c : Ctx) (w : VWord) : VRes :=
  match Pip.ofCode w.imm.toNat with
  | none => { c := c }
  | some p =>
    let blocks := (rangeFrom 0 (c.vl / 16)).filter fun b => (rangeFrom (16 * b) 16).any c.active
    let r := blocks.foldl (fun (k : Ctx × BitVec 7) b => let x := vqntBlock c k.1 w p b; (x.1, k.2 ||| x.2)) (c, 0)
    { c := r.1.setTags w.d.toNat w.imm.toNat c.vspan, fl := r.2 }

/-- μ of the even element of a slot's pair (R88). -/
def Ctx.pairMu (c : Ctx) (base e : Nat) : Nat := field (c.elem base 16 (e - e % 2)) 14 14

def vdqntOf (c : Ctx) (w : VWord) : VRes :=
  match Pip.ofCode (c.tag w.a.toNat), fmtOf w.imm.toNat with
  | some p, some f =>
    c.mapElems c.activeElems w.d.toNat f.width w.imm.toNat fun e =>
      pipDequant p f (c.kByte w.a.toNat e) (c.pairMu w.a.toNat e) (slotElem p (c.elem w.a.toNat 16 e))
  | _, _ => { c := c }

/-! ## Reductions (R193) -/

/-- Write slot 0 of register D and tag the group. -/
def Ctx.setSlot0 (c : Ctx) (w : VWord) (t x : Nat) : Ctx :=
  (c.setElem w.d.toNat ((slotWidth t).getD 64) 0 x).setTags w.d.toNat t c.vspan

/-- The sums of the blocks of sixteen, for VRSUM on a floating-point tag widened to f (R91). -/
def Ctx.floatBlocks (c : Ctx) (w : VWord) (src f : Fmt) : List FRes :=
  (rangeFrom 0 (ceilDiv c.vl 16)).map fun b =>
    treeSum f ((rangeFrom (16 * b) 16).map fun e => if c.active e then (src.convert f {} (c.aElem w e)).1 else 0)

/-- Flags that reading the active elements sets: NV of a signalling NaN, NF of Inf and NaN. -/
def Ctx.readFlags (c : Ctx) (w : VWord) (f : Fmt) : BitVec 7 :=
  c.activeElems.foldl (fun fl e => fl ||| (f.unpack (c.aElem w e)).opFlags) 0

def Ctx.pipBlocks (c : Ctx) (w : VWord) (p : Pip) : List FRes :=
  (rangeFrom 0 (ceilDiv c.vl 16)).map fun b =>
    pipBlockSum p (c.kByte w.a.toNat (16 * b)) ((rangeFrom (16 * b) 16).map fun e =>
      (c.active e, c.pairMu w.a.toNat e, slotElem p (c.elem w.a.toNat 16 e)))

/-- The first block sum, then the others in order; nothing gives +0. -/
def sumBlocks (f : Fmt) : List FRes → FRes
  | [] => (0, 0)
  | b :: r => chainSums f b r

def vrsumOf (c : Ctx) (w : VWord) : VRes :=
  let t := c.tag w.a.toNat
  let s := c.widthA w
  let d := rsumTag t
  match Pip.ofCode t, fmtOf t with
  | some p, _ =>
    let r := sumBlocks .fp32 (c.pipBlocks w p)
    { c := c.setSlot0 w d r.1, fl := reductionFlags r.2 }
  | none, some f =>
    let g := if f = .fp64 then Fmt.fp64 else .fp32
    let r := sumBlocks g (c.floatBlocks w f g)
    { c := c.setSlot0 w d r.1, fl := reductionFlags (r.2 ||| c.readFlags w f) }
  | none, none =>
    let x : Int := c.activeElems.foldl (fun acc e => acc + slotInt t s (c.aElem w e)) 0
    { c := c.setSlot0 w d (unsigned 64 x) }

/-- Maximum or minimum of integer slots, from the identity of the tag. -/
def intBest (isMax : Bool) (t s : Nat) (xs : List Nat) : Nat :=
  unsigned s (xs.foldl (fun (acc : Int) x => if (decide (acc < slotInt t s x)) == isMax then slotInt t s x else acc)
    (if isMax then tagLo t s else tagHi t s))

/-- Maximum or minimum of floating-point slots (R79), from the infinity that is the identity. -/
def floatBest (f : Fmt) (rc : RC) (isMax : Bool) (xs : List Nat) : FRes :=
  let fl := xs.foldl (fun fl x => fl ||| (f.unpack x).opFlags) 0
  if xs.any (fun x => (f.unpack x).isNan) then (f.nan, fl)
  else match xs with
  | [] => (f.inf isMax, 0)
  | x :: r => (r.foldl (fun acc y => (f.minmax rc isMax acc y).1) (f.flush rc.ftz x), fl)

def vrmmOf (isMax : Bool) (c : Ctx) (w : VWord) : VRes :=
  let t := c.tag w.a.toNat
  let s := c.widthA w
  let xs := c.activeElems.map (c.aElem w)
  match fmtOf t with
  | some f => let r := floatBest f c.rc isMax xs; { c := c.setSlot0 w t r.1, fl := r.2 }
  | none => { c := c.setSlot0 w t (intBest isMax t s xs) }

def vrmaxOf (c : Ctx) (w : VWord) : VRes := vrmmOf true c w
def vrminOf (c : Ctx) (w : VWord) : VRes := vrmmOf false c w

/-! ## Permutes, slides, interleaves, indices (R194) -/

/-- Write the active destination elements for which a value is given. -/
def Ctx.permute (c : Ctx) (w : VWord) (f : Nat → Option Nat) : VRes :=
  let t := c.tag w.a.toNat
  { c := (c.setElems w.d.toNat (c.widthA w)
      (c.activeElems.filterMap fun e => (f e).map fun x => (e, x))).setTags w.d.toNat t c.vspan }

def vpermOf (c : Ctx) (w : VWord) : VRes := c.permute w fun e =>
  let j := match w.form with
    | .vv => c.elem w.b.toNat ((slotWidth (c.tag w.b.toNat)).getD 8) e
    | .vs => (c.reg w.b).toNat
    | .vi => w.b.toNat
  some (if j < c.vl then c.aElem w j else 0)

/-- The slide count: g[B], or imm7 read unsigned. -/
def Ctx.slideBy (c : Ctx) (w : VWord) : Nat := match w.form with | .vs => (c.reg w.b).toNat | _ => w.b.toNat

def vslupOf (c : Ctx) (w : VWord) : VRes := c.permute w fun e =>
  if c.slideBy w ≤ e then some (c.aElem w (e - c.slideBy w)) else none
def vsldnOf (c : Ctx) (w : VWord) : VRes := c.permute w fun e =>
  if e + c.slideBy w < c.vl then some (c.aElem w (e + c.slideBy w)) else none
def vzipOf (c : Ctx) (w : VWord) : VRes := c.permute w fun e =>
  some (if e % 2 = 0 then c.aElem w (e / 2) else c.bSame w (e / 2))
def vunzipOf (c : Ctx) (w : VWord) : VRes := c.permute w fun e =>
  let x := 2 * e
  some (if x < c.vl then c.aElem w x else c.bSame w (x - c.vl))
def viotaOf (c : Ctx) (w : VWord) : VRes :=
  let t := w.imm.toNat
  let s := (slotWidth t).getD 8
  c.mapElems c.activeElems w.d.toNat s t fun e => (e % 2 ^ s, 0)

/-! ## Masks (R195) -/

/-- Mask logic on every bit below VL; bits at or above VL keep their values. -/
def Ctx.maskLogic (c : Ctx) (w : VWord) (f : Bool → Bool → Bool) : VRes :=
  { c := c.setMask w.d.toNat (setBits (c.mask w.d.toNat)
      (c.allElems.map fun e => (e, f (c.maskBit w.a.toNat e) (c.maskBit w.b.toNat e)))) }

def vmandOf (c : Ctx) (w : VWord) : VRes := c.maskLogic w and
def vmorOf (c : Ctx) (w : VWord) : VRes := c.maskLogic w or
def vmxorOf (c : Ctx) (w : VWord) : VRes := c.maskLogic w xor
def vmnotOf (c : Ctx) (w : VWord) : VRes := c.maskLogic w fun x _ => !x

/-- The elements below VL whose bits in m[A] and in the current mask are both 1. -/
def Ctx.picked (c : Ctx) (w : VWord) : List Nat := c.activeElems.filter (c.maskBit w.a.toNat)

def vmpopOf (c : Ctx) (w : VWord) : VRes := { c := c, g := some (BitVec.ofNat 64 (c.picked w).length) }
def vmfirstOf (c : Ctx) (w : VWord) : VRes :=
  { c := c, g := some (match c.picked w with | [] => BitVec.allOnes 64 | e :: _ => BitVec.ofNat 64 e) }

/-! ## The generator (R196) -/

def vrollOf (c : Ctx) (w : VWord) : VRes :=
  c.mapElems c.activeElems w.d.toNat 32 7 fun e =>
    let a := BitVec.ofNat 64 (c.elem w.a.toNat 64 e)
    let b := match w.form with | .vv => BitVec.ofNat 64 (c.elem w.b.toNat 64 e) | _ => c.reg w.b
    ((diceRoll c.seed c.stepr (a.extractLsb' 0 32) (a.extractLsb' 32 32) (b.extractLsb' 0 32) (b.extractLsb' 32 32)).toNat, 0)

/-! ## The opcodes -/

/-- What a vector opcode does to a group with elements (R44). -/
def vecWork (op : Nat) (c : Ctx) (w : VWord) : VRes :=
  match op with
  | 0x40 => vaddOf c w | 0x41 => vsubOf c w | 0x42 => vmulOf c w
  | 0x43 => vfmaOf c w | 0x44 => vfmsOf c w | 0x45 => vfnmaOf c w
  | 0x46 => vdivOf c w | 0x47 => vsqrtOf c w | 0x48 => vrsqrtOf c w | 0x49 => vrcpOf c w
  | 0x4A => vminOf c w | 0x4B => vmaxOf c w | 0x4C => vabsOf c w | 0x4D => vnegOf c w
  | 0x4E => vexp2Of c w | 0x4F => vlog2Of c w
  | 0x50 => vandOf c w | 0x51 => vorOf c w | 0x52 => vxorOf c w
  | 0x53 => vshlOf c w | 0x54 => vshrOf c w | 0x55 => vsarOf c w
  | 0x56 => vaddsOf c w | 0x57 => vsubsOf c w | 0x58 => vmulhOf c w | 0x59 => vpopcOf c w
  | 0x5A => vceqOf c w | 0x5B => vcneOf c w | 0x5C => vcltOf c w | 0x5D => vcleOf c w
  | 0x5E => vclassOf c w | 0x5F => vselOf c w | 0x60 => vmovOf c w | 0x61 => vbcstOf c w
  | 0x62 => vcvtOf c w | 0x63 => vtagOf c w | 0x64 => vroundOf c w | 0x65 => vscaleOf c w
  | 0x66 => vqntOf c w | 0x67 => vdqntOf c w | 0x68 => vrsumOf c w
  | 0x69 => vrmaxOf c w | 0x6A => vrminOf c w | 0x6B => vrorOf c w
  | 0x6C => vpermOf c w | 0x6D => vslupOf c w | 0x6E => vsldnOf c w | 0x6F => viotaOf c w
  | 0x70 => vrollOf c w | 0x71 => vmpopOf c w | 0x72 => vmfirstOf c w
  | 0x73 => vzipOf c w | 0x74 => vunzipOf c w
  | 0x76 => vmandOf c w | 0x77 => vmorOf c w | 0x78 => vmxorOf c w | 0x79 => vmnotOf c w
  | _ => { c := c }

/-- A word that finds VL = 0 changes nothing, unless it ignores VL (R121, R187). -/
def Ctx.idle (c : Ctx) (op : Nat) (w : VWord) : Bool := c.vl == 0 && !c.wholeMove op w

/-- The effect of a vector opcode. -/
def vecEffect (op : Nat) (c : Ctx) (w : VWord) : VRes := if c.idle op w then { c := c } else vecWork op c w

end Sys2Proof.Machine
end

