-- ==== Sys2Proof/Machine/VecTiming.lean ====
section
/-! DEFINITION. The schedule of vector convoys (R172 to R176) and of the requests of a vector memory instruction
or a drain (R130, R219). Values do not depend on it (R175, R176); inside a span it decides TIMING. -/

namespace Sys2Proof.Machine

/-- Element groups of 256 bits in a register under the lane grant (R172). -/
def Ctx.perReg (c : Ctx) : Nat := c.grant / 8

/-- The cycle in which element group i of the group at base is valid; 0 when its valid bit is set (R40). -/
def Ctx.validAt (c : Ctx) (base i : Nat) : Nat :=
  let p := Nat.max c.perReg 1
  ((SMap.get [] c.vvalid (base + i / p)).getD (i % p) 0)

def setAt : List Nat → Nat → Nat → List Nat
  | [], 0, x => [x]
  | [], n + 1, x => 0 :: setAt [] n x
  | _ :: r, 0, x => x :: r
  | y :: r, n + 1, x => y :: setAt r n x

def Ctx.setValidAt (c : Ctx) (base i t : Nat) : Ctx :=
  let p := Nat.max c.perReg 1
  let r := base + i / p
  { c with vvalid := c.vvalid.put r (setAt (SMap.get [] c.vvalid r) (i % p) t) }

/-- Element groups that VL elements of slot width s span (R175). -/
def Ctx.groupsFor (c : Ctx) (s : Nat) : Nat := ceilDiv (c.vl * s) 256

/-- The element groups a member processes: outside a span those with an active element, inside a span and for a
member that ignores the mask all of them (R175). -/
def Ctx.processed (c : Ctx) (s : Nat) (ignoresMask : Bool) : List Nat :=
  let all := rangeFrom 0 (c.groupsFor s)
  if ignoresMask || c.span.isSome then all
  else all.filter fun i => (rangeFrom (i * 256 / s) (Nat.max 1 (256 / s))).any c.active

/-- Latency and step factor of an opcode on a tag (R175); a conversion goes by its source (log 76). -/
def vecLatency (op t : Nat) : Nat × Nat :=
  let flt := isFlt t
  let d := t == 0x0D
  if op = 0x66 then (6, 1)
  else if op = 0x70 then (12, 1)
  else if op = 0x6C || op = 0x6D || op = 0x6E || op = 0x73 || op = 0x74 then (4, 1)
  else if op = 0x46 || op = 0x47 || op = 0x48 || op = 0x49 || op = 0x4E || op = 0x4F then (if d then (24, 8) else (12, 4))
  else if op = 0x68 || op = 0x69 || op = 0x6A then (8, 1)
  else if op = 0x71 || op = 0x72 then (4, 1)
  else if op = 0x62 || op = 0x67 || op = 0x64 || op = 0x65 || op = 0x5E then (4, if d then 2 else 1)
  else if flt && (op ≤ 0x45 || op = 0x4A || op = 0x4B || op = 0x4C || op = 0x4D) then (4, if d then 2 else 1)
  else if op = 0x42 || op = 0x43 || op = 0x44 || op = 0x45 || op = 0x58 then (3, 1)
  else (2, 1)

/-- Opcodes that ignore the activity of elements: VSEL and the mask logic (R186, R195). -/
def ignoresMask (op : Nat) : Bool := op == 0x5F || op == 0x76 || op == 0x77 || op == 0x78 || op == 0x79

/-- What the schedule needs of an arithmetic member. -/
def Ctx.member (c : Ctx) (op : Nat) (w : VWord) (u : VUse) (g : Option Word) : VMember :=
  let whole := c.wholeMove op w
  let idle := c.idle op w
  let (lat, f) := if idle then (1, 1) else vecLatency op (c.tag w.a.toNat)
  { srcs := u.srcs.map fun r => (r.1, if whole then 256 else (slotWidth (c.tag r.1)).getD 32, r.2)
    masks := u.masks
    dst := if idle then none else u.dst.map fun r => (r.1, if whole then 256 else (slotWidth r.2).getD u.width)
    dstMask := if idle then none else u.dstMask
    dstReg := match g, u.dstReg with
      | some x, some r => if r = 0 then none else some (physReg c.wb r.toNat, x)
      | _, _ => none
    groups := if whole then rangeFrom 0 (c.vspan * c.grant / 8) else c.processed u.width (ignoresMask op)
    width := if whole then 256 else u.width
    lat := lat, f := f }

/-- Steps of a member (R175). -/
def Ctx.steps (c : Ctx) (m : VMember) : Nat := ceilDiv m.groups.length (Nat.max c.perReg 1)

/-- The element groups of a source of slot width ss that element group i of a member of slot width s reads. -/
def srcGroups (s ss i : Nat) : List Nat :=
  let lo := i * ss / s
  let hi := ((i + 1) * ss + s - 1) / s
  rangeFrom lo (Nat.max 1 (hi - lo))

/-- Whether a member writes only slot 0 of its destination, a reduction (R193). -/
def VMember.reduces (m : VMember) : Bool := m.lat == 8

/-- The element groups of the destination that a member writes, in order, with the cycle from its start in which each
becomes valid (R130, R175). -/
def Ctx.landings (c : Ctx) (m : VMember) : List (Nat × Nat) :=
  let p := Nat.max c.perReg 1
  match m.dst, m.mem with
  | none, _ => []
  | some _, some (offs, _) => offs
  | some r, none =>
    if m.reduces then [(0, c.steps m * m.f + m.lat)]
    else (enumFrom 0 m.groups).flatMap fun q => (srcGroups m.width r.2 q.2).map fun j => (j, m.lat + q.1 / p * m.f)

/-- The bits of its destination mask that a member writes, with the cycle from its start in which each run of them is written:
those of an element group at a time (R175). -/
def Ctx.maskLandings (c : Ctx) (m : VMember) : List (Nat × Nat × Nat) :=
  (enumFrom 0 m.groups).map fun q => (q.2 * 256 / m.width, (q.2 + 1) * 256 / m.width, m.lat + q.1 / Nat.max c.perReg 1 * m.f)

/-- The earliest start of a member that writes bits of a mask no earlier than the earlier writes of the same bits. -/
def Ctx.maskStart (c : Ctx) (m : VMember) : Nat :=
  match m.dstMask with
  | none => 0
  | some k => (SMap.get [] c.mland k).foldl (fun t x => (c.maskLandings m).foldl (fun t y =>
      if x.1 < y.2.1 && y.1 < x.2.1 then Nat.max t (x.2.2 - y.2.2) else t) t) 0

/-- The earliest start that the operands allow a member (R176): an unchained source is valid whole, a chained one in time
for each step, a mask, which has no valid bits, is written whole (log 93), and no element group and no bits of a mask are
written before an earlier write of them. -/
def Ctx.sourceStart (c : Ctx) (m : VMember) : Nat :=
  let p := Nat.max c.perReg 1
  let src := m.srcs.map fun r =>
    if r.2.2 then
      ((enumFrom 0 m.groups).map fun q => (srcGroups m.width r.2.1 q.2).foldl (fun acc i =>
        Nat.max acc (c.validAt r.1 i - q.1 / p * m.f)) 0).foldl Nat.max 0
    else (rangeFrom 0 (c.vspan * p)).foldl (fun acc i => Nat.max acc (c.validAt r.1 i)) 0
  let masks := m.masks.map fun k => SMap.get 0 c.mrdy k
  let dst := match m.dst with
    | some r => ((c.landings m).map fun q => c.validAt r.1 q.1 - q.2).foldl Nat.max 0
    | none => 0
  Nat.max (src.foldl Nat.max 0) (Nat.max (masks.foldl Nat.max 0) (Nat.max dst (c.maskStart m)))

/-- The earlier reader of the destination group that reads it longest, and the cycle after it (R176). -/
def Ctx.readerOf (c : Ctx) (m : VMember) : Option (Nat × Origin) :=
  match m.dst with
  | none => none
  | some r => (rangeFrom r.1 c.vspan).foldl (fun (best : Option (Nat × Origin)) x =>
      match SMap.get? c.vread x, best with
      | some q, some b => if b.1 < q.1 then some q else best
      | some q, none => some q
      | none, _ => best) none

/-- The earliest start of a member outside a span: its operands are ready, and every earlier member has read the groups
whose valid bits it clears (R176). -/
def Ctx.allowed (c : Ctx) (m : VMember) : Nat :=
  Nat.max (c.sourceStart m) (match c.readerOf m with | some q => q.1 | none => 0)

/-- The member and the convoy that raise TIMING where a member starts in cycle t inside a span: the member itself, whose
operand is not ready or which would write an element group too early, or an earlier reader of its destination (R176). -/
def Ctx.spanLate (c : Ctx) (m : VMember) (j t : Nat) : Option (Option Origin × Nat) :=
  if t < c.sourceStart m then some (none, j)
  else match c.readerOf m with
    | some q => if t < q.1 then some (some q.2, q.2.midx) else none
    | none => none

/-- The cycle in which each group of the destination becomes valid, and in which the member's last result has landed. -/
def Ctx.validCycles (c : Ctx) (m : VMember) (start : Nat) : List (Nat × Nat) × Nat :=
  let l := (c.landings m).map fun q => (q.1, start + q.2)
  match m.mem with
  | some (_, stop) => (l, start + stop)
  | none =>
    if m.reduces || m.dstReg.isSome then (l, start + c.steps m * m.f + m.lat)
    else
      let p := Nat.max c.perReg 1
      (l, (enumFrom 0 m.groups).foldl (fun acc q => Nat.max acc (start + m.lat + q.1 / p * m.f)) (start + 1))

/-- Put one member on the schedule: its start, then the valid bits of its destination (R173, R175), and how long it reads
its sources; of several that read a register the one that reads it longest counts (R176). -/
def Ctx.schedule (c : Ctx) (o : Origin) (m : VMember) (start : Nat) : Ctx × Nat :=
  let (vs, last) := c.validCycles m start
  let red := start + c.steps m * m.f + m.lat
  let c : Ctx :=
    if m.reads = 0 then c
    else { c with vread := (m.srcs.flatMap fun r => rangeFrom r.1 c.vspan).foldl (fun (t : SMap (Nat × Origin)) x =>
             if (SMap.get (0, o) t x).1 ≤ start + m.reads then t.put x (start + m.reads, o) else t) c.vread }
  let c1 : Ctx := match m.dst with
    | some (r : Nat × Nat) => vs.foldl (fun (k : Ctx) (q : Nat × Nat) => k.setValidAt r.1 q.1 q.2) c
    | none => c
  let c2 : Ctx := match m.dstMask with
    | some k => { c1 with
        mrdy := c1.mrdy.put k (Nat.max last (SMap.get 0 c1.mrdy k))
        mland := c1.mland.put k (((SMap.get [] c1.mland k).filter fun x => decide (start < x.2.2))
          ++ (c.maskLandings m).map fun x => (x.1, x.2.1, start + x.2.2)) }
    | none => c1
  let c3 : Ctx := match m.dstReg with
    | some (r, x) => { c2 with land := c2.land ++ [{ cycle := red, reg := r, val := x, inSpan := c2.span.isSome }] }
    | none => c2
  ({ c3 with laneFree := start + c.steps m * m.f }, last)

/-- Put the members of a convoy on the schedule in turn; and what raises TIMING inside a span. -/
def Ctx.scheduleAll (c : Ctx) (o : Origin) (t0 : Nat) :
    Nat → List VMember → List Nat → List Nat → Ctx × List Nat × List Nat × Option (Option Origin × Nat)
  | _, [], starts, lands => (c, starts, lands, none)
  | j, m :: r, starts, lands =>
    let base := Nat.max (t0 + j) c.laneFree
    let start := if c.span.isSome then base else Nat.max base (c.allowed m)
    match if c.span.isSome then c.spanLate m j start else none with
    | some l => (c, starts, lands, some l)
    | none =>
      let (c', last) := c.schedule o m start
      Ctx.scheduleAll c' o t0 (j + 1) r (starts ++ [start]) (lands ++ [last])

/-- The cycle t0 of a convoy whose last word issues in cycle `now` and whose first member is m (R173). -/
def Ctx.convoyStart (c : Ctx) (now : Nat) (m : VMember) : Nat :=
  let prev := match c.vq.getLast? with | some q => q.starts.getLast?.getD 0 | none => 0
  let t0 := Nat.max (now + 2) (Nat.max (prev + 1) c.laneFree)
  if c.span.isSome then t0 else Nat.max t0 (c.allowed m)

/-- The schedule as it stands. -/
def Ctx.sched (c : Ctx) : VSched :=
  { vvalid := c.vvalid, vread := c.vread, mrdy := c.mrdy, mland := c.mland, laneFree := c.laneFree, grant := c.grant, vspan := c.vspan }

/-- What a convoy that is pushed now reads beside vector registers, tags and masks. -/
def Ctx.env (c : Ctx) : VEnv :=
  { regs := c.regs, wb := c.wb, vl := c.vl, vspan := c.vspan, grant := c.grant, vpart := c.vpart, cmsel := c.cmsel, rmode := c.rmode
    seed := c.seed, stepr := c.stepr }

/-- The context as a convoy found it beside vector registers, tags and masks. -/
def Ctx.withEnv (c : Ctx) (e : VEnv) : Ctx :=
  { c with regs := e.regs, wb := e.wb, vl := e.vl, vspan := e.vspan, grant := e.grant, vpart := e.vpart, cmsel := e.cmsel, rmode := e.rmode
           seed := e.seed, stepr := e.stepr }

/-- Push the convoy whose last word issues in cycle `now` into the dispatch queue (R172, R173); what raises TIMING, if
anything does: another convoy, and the member. -/
def Ctx.push (c : Ctx) (work : VWork) (undo : VUndo) (o : Origin) (now : Nat) (v : Cv) (guard : Nat) : Ctx × Option (Option Origin × Nat) :=
  let t0 := c.convoyStart now (v.vm.headD {})
  let (c', starts, lands, late) := c.scheduleAll o t0 0 v.vm [] []
  let q : VConvoy := { head := v.head, members := v.n, push := now, starts := starts
                       retire := lands.foldl Nat.max (t0 + 1), flags := v.fl, vmem := v.stats
                       tag := if v.stats.isSome then c.smpl else none
                       span := c.span.map fun p => now - p.start, undo := undo, work := work, env := c.env, vm := v.vm, origin := o, sched := c.sched }
  ({ c' with vq := c'.vq ++ [q], smpl := if v.stats.isSome then none else c'.smpl }, late.map fun l => (l.1, if l.1.isSome then l.2 else l.2 + guard))

end Sys2Proof.Machine
end

