-- ==== Sys2Proof/Machine/VMem.lean ====
section
/-! DEFINITION. Vector loads and stores (R133 to R136, R140): their operand checks, their addresses, the access
itself and its requests. -/

namespace Sys2Proof.Machine

/-- The VMEM subfunctions that load. -/
def VMOp.isLoad : VMOp → Bool | .ld => true | .ldx => true | .ldt => true | .ldb => true | _ => false

/-- Operand limits that do not depend on a layout entry (R66, R133, R134, R136, R137). -/
def Ctx.vmemBad (c : Ctx) (op : VMOp) (d a b : Reg) : Bool :=
  let capOf (t : Nat) := match slotWidth t with | some s => c.capOk s | none => true
  c.grant == 0 || !c.groupOk d.toNat || match op with
  | .ld | .st => (memWidth b.toNat).isNone || !capOf (loadTag b.toNat)
  | .ldx | .stx => !c.groupOk b.toNat || !capOf (c.tag d.toNat) || !capOf (c.tag b.toNat)
  | .ldt | .stt => 1024 ≤ (c.reg a).toNat
  | .ldb | .stb => (Pip.ofCode b.toNat).isNone || c.vl % 16 != 0 || !c.capOk 16

/-- A source group must carry a tag the row accepts (R134). -/
def needTag (g : Except Nat Nat) (ok : Nat → Bool) : Except Stop Nat :=
  match g with
  | .ok t => if ok t then .ok t else fail (Exc.tag t)
  | .error t => fail (Exc.tag t)

/-- Put the failing element into a fault's record. -/
def atElem (e : Nat) (r : Except Stop Unit) : Except Stop Unit :=
  match r with
  | .error (.fault x) => .error (.fault { x with elem := some e })
  | r => r

/-- What an access needs to know: the elements with their bit addresses, the width in memory, the tag and slot width
in registers, the layout entry's cost before the first request, and STRIDE of R319. -/
structure VMAcc where
  els : List (Nat × Nat)
  wm : Nat
  tag : Nat
  slot : Nat
  lookup : Nat := 0
  stride : Nat := 0
  deriving DecidableEq, Repr

/-- A slot as an offset: sign-extended for I tags, zero-extended for N tags (R134). -/
def Ctx.offset (c : Ctx) (base t e : Nat) : Int :=
  let s := (slotWidth t).getD 32
  slotInt t s (c.elem base s e)

/-- Whether numbers form an arithmetic progression. -/
def isProgression : List Int → Bool
  | a :: b :: c :: r => (b - a == c - b) && isProgression (b :: c :: r)
  | _ => true

/-- Addresses of VLDT and VSTT: an active element past SIZE3 raises LAYOUT (R140). -/
def lteAddrs (l : BitVec 256) (idx wm : Nat) (start : Word) : List Nat → Except Stop (List (Nat × Nat))
  | [] => .ok []
  | e :: r => do
    match walkCoord l start e with
    | none => fail { Exc.layout idx with elem := some e }
    | some (c0, c1, c2, c3) => .ok ((e, ltAddr l wm c0 c1 c2 c3) :: (← lteAddrs l idx wm start r))

/-- The access of a VMEM word, with its tag checks (R134) and, for VLDT and VSTT, the checks of the entry that it
carries (R133); all elements are walked before one is checked (log 71). The state has the layout cache used. -/
def State.vmemAccess (s : State) (op : VMOp) (d a b : Reg) : Except Stop (VMAcc × State) := do
  let c := s.cur
  let es := c.activeElems
  let base := (c.reg a).toNat
  let gD := c.groupTag d.toNat
  match op with
  | .ld =>
    let wm := (memWidth b.toNat).getD 8
    let t := loadTag b.toNat
    .ok ({ els := es.map fun e => (e, (base + e * wm) % 2 ^ 64), wm := wm, tag := t, slot := (slotWidth t).getD 8 }, s)
  | .st =>
    let wm := (memWidth b.toNat).getD 8
    let t := loadTag b.toNat
    let _ ← needTag gD (fun x => x == t || x == 0)
    .ok ({ els := es.map fun e => (e, (base + e * wm) % 2 ^ 64), wm := wm, tag := t, slot := (slotWidth t).getD 8 }, s)
  | .ldx | .stx =>
    let t ← needTag gD (fun t => isB1 t || isInt t || isFlt t)
    let tb ← needTag (c.groupTag b.toNat) (fun t => 6 ≤ t && t ≤ 9)
    let wm := (memWidth t).getD 8
    let offs := es.map fun e => c.offset b.toNat tb e
    .ok ({ els := es.map fun e => (e, unsigned 64 ((base : Int) + c.offset b.toNat tb e)), wm := wm, tag := t
           slot := (slotWidth t).getD 8, stride := if isProgression offs then 1 else 2 }, s)
  | .ldt | .stt =>
    let idx := base
    let hit := s.curCore.lcHit idx
    s.checkEntry s.focusCore idx
    let (l, s) := s.useEntry s.focusCore idx
    match memWidth (lteFmt l) with
    | none => fail Exc.operand
    | some wm =>
      let t := loadTag (lteFmt l)
      let sl := (slotWidth t).getD 8
      failIf (!c.capOk sl) Exc.operand
      if op = .stt then
        let _ ← needTag gD (fun x => x == t || x == 0)
      failIf (lteBad l) (Exc.layout idx)
      failIf (startBeyond l (c.reg b)) (Exc.layout idx)
      failIf (spaceOf (lteBase l) != 0) (Exc.space (lteBase l))
      let els ← lteAddrs l idx wm (c.reg b) es
      .ok ({ els := els, wm := wm, tag := t, slot := sl, lookup := if hit then 2 else 8, stride := 3 }, s)
  | .ldb | .stb =>
    let p := (Pip.ofCode b.toNat).getD .p3
    if op = .stb then
      let _ ← needTag gD (fun t => t == b.toNat)
    let blocks := (rangeFrom 0 (c.vl / 16)).filter fun k => (rangeFrom (16 * k) 16).any c.active
    .ok ({ els := blocks.map fun k => (16 * k, (base + k * p.bs) % 2 ^ 64), wm := p.bs, tag := b.toNat, slot := 16, stride := 4 }, s)

/-- The bits of a word that the elements of a store replace, as a mask. -/
def wordMask (els : List (Nat × Nat)) (wm w : Nat) : Nat :=
  els.foldl (fun acc p =>
    let lo := Nat.max p.2 (64 * w)
    let n := Nat.min (p.2 + wm) (64 * w + 64) - lo
    if n = 0 then acc else acc ||| (2 ^ n - 1) * 2 ^ (lo - 64 * w)) 0

/-- Whether the elements of a request replace a word whole; each request counts by itself (log 72). -/
def wholeWord (els : List (Nat × Nat)) (wm w : Nat) : Bool := wordMask els wm w == 2 ^ 64 - 1

/-- Cycles that a request of a store with these elements holds the bank of its sector: 2 where it merges into some word
(R126). -/
def holdFor (els : List (Nat × Nat)) (wm sec : Nat) : Nat :=
  if (rangeFrom (8 * sec) 8).any (fun w => wordMask els wm w != 0 && !wholeWord els wm w) then 2 else 1

/-- The elements of the next request for a sector: those that follow one another in it (R130). -/
def runIn (wm sec : Nat) : List (Nat × Nat) → List (Nat × Nat)
  | [] => []
  | p :: r => if (sectorsOf p.2 wm).contains sec then p :: (if (sectorsOf p.2 wm).getLast? == some sec then runIn wm sec r else []) else []

/-- The requests that the elements make, in order, as (sector, elements); `last` is the sector of the request before. -/
def reqRuns (wm : Nat) : Option Nat → List (Nat × Nat) → List (Nat × List (Nat × Nat))
  | _, [] => []
  | last, p :: r =>
    let secs := sectorsOf p.2 wm
    ((if last.isSome && secs.head? == last then secs.drop 1 else secs).map fun sec => (sec, runIn wm sec (p :: r))) ++ reqRuns wm (match secs.getLast? with | some q => some q | none => last) r

/-- The elements with their sectors, and how long each request of a store holds its bank; `last` is the sector of the
request before, with its hold. -/
def holdRuns (wm : Nat) (store : Bool) : Option (Nat × Nat) → List (Nat × Nat) → List (Nat × List (Nat × Nat))
  | _, [] => []
  | last, p :: r =>
    let fresh (sec : Nat) : Nat × Nat := (sec, if store then holdFor (runIn wm sec (p :: r)) wm sec else 1)
    let secs := match sectorsOf p.2 wm, last with
      | [], _ => []
      | sec :: q, some (l, h) => (if l = sec then (sec, h) else fresh sec) :: q.map fresh
      | l, none => l.map fresh
    (p.1, secs) :: holdRuns wm store (match secs.getLast? with | some q => some q | none => last) r

/-- Request cycles of an access, from its start: for each element the cycle of its last sector (R130). -/
def VMAcc.requests (x : VMAcc) (store : Bool) : List (Nat × Nat) × ReqState :=
  reqCycles { cycle := x.lookup } none (holdRuns x.wm store none x.els)

/-- How long the request of a store that an element begins or joins holds its bank. -/
def VMAcc.holdOf (x : VMAcc) (a : Nat) : Nat :=
  match (reqRuns x.wm none x.els).find? fun q => q.1 == a / 512 && q.2.any fun p => p.2 == a with
  | some q => holdFor q.2 x.wm q.1
  | none => 1

/-- Whether every request of a store that reaches a word replaces it whole (R128). -/
def VMAcc.whole (x : VMAcc) (w : Nat) : Bool :=
  (reqRuns x.wm none x.els).all fun q => q.1 != w / 8 || wordMask q.2 x.wm w == 0 || wholeWord q.2 x.wm w

/-- A value as it lands in a slot (R135). -/
def extendTo (code wm slot x : Nat) : Nat :=
  if loadSigned code then unsigned slot (signed wm x) else x

/-- What the requests of a load have given so far: the memory, the draws used, the request made last with the content that it
gives in place of what stands in memory, and the cycles of the requests still to be made. -/
structure ReadState where
  mem : Space
  free : Nat
  last : Option (Nat × Option (BitVec 512)) := none
  cycles : List Nat
  deriving DecidableEq, Repr

/-- A sector that an element touches: the request made last, where that is for it, else the next one (R130, R164). -/
def State.askFor (s : State) (r : ReadState) (sec : Nat) : ReadState × Option (BitVec 512) :=
  match (match r.last with | some q => if q.1 = sec then some q.2 else none | none => none) with
  | some x => (r, x)
  | none =>
    let t := r.cycles.headD s.now
    let q := r.mem.ask .v 0 t (s.flipOf s.focusCore t sec) sec r.free
    ({ mem := q.2.1, free := q.2.2, last := some (sec, q.1), cycles := r.cycles.drop 1 }, q.1)

/-- Read the elements in ascending order through the V path: those of one request find one content of its sector (R130, R164).
Gives the values, the memory with what has been seen, and the draws used. -/
def State.readElems (s : State) (wm : Nat) : ReadState → List (Nat × Nat) → List (Nat × Nat) × Space × Nat
  | r, [] => ([], r.mem, r.free)
  | r, (e, a) :: l =>
    let q := (sectorsOf a wm).foldl (fun (acc : Space × ReadState) sec =>
      let x := s.askFor acc.2 sec
      ((match x.2 with | some y => acc.1.patch sec y | none => acc.1), x.1)) (s.curCore.loc, r)
    let t := s.readElems wm { q.2 with mem := q.2.mem.countRead (wordsOf a wm) } l
    ((e, q.1.readBits a wm) :: t.1, t.2)

/-- The elements of a load that starts in cycle t0, as read from the scratchpad of the core in focus. -/
def State.loadElems (s : State) (t0 : Nat) (x : VMAcc) : List (Nat × Nat) × State :=
  let r := s.readElems x.wm { mem := s.curCore.loc, free := s.free, cycles := (x.requests false).2.log.reverse.map fun q => t0 + q.2.1 } x.els
  (r.1, { s.modCurCore (fun k => { k with loc := r.2.1 }) with free := r.2.2 })

/-- Load the blocks of VLDB into slots and exponent bytes (R136). -/
def Ctx.loadBlocks (c : Ctx) (d : Nat) (p : Pip) (l : List (Nat × Nat)) : Ctx :=
  l.foldl (fun k q =>
    let blk := PBlock.ofBits p q.2
    let slots := ((rangeFrom 0 16).filter fun j => c.active (q.1 + j)).map fun j =>
      (q.1 + j, pipSlot (blk.el.getD j (false, 0)) (blk.mu.getD (j / 2) 0))
    (k.setElems d 16 slots).setKByte d q.1 blk.e) c

/-- The block that VSTB writes for elements e to e + 15 (R136). -/
def Ctx.storeBlock (c : Ctx) (d e : Nat) (p : Pip) : Nat :=
  PBlock.bits p
    { e := c.kByte d e
      mu := (rangeFrom 0 8).map fun i => field (c.elem d 16 (e + 2 * i)) 14 14
      el := (rangeFrom 0 16).map fun j => slotElem p (c.elem d 16 (e + j)) }

/-- A group as a load leaves it: slots, tag, and for VLDB exponent bytes; with VL = 0 nothing changes (R135, R136, R140). -/
def Ctx.loaded (c : Ctx) (op : VMOp) (d code tag slot wm : Nat) (vals : List (Nat × Nat)) : Ctx :=
  if c.vl = 0 then c
  else
    let t : Ctx := match op with
      | .ldb => c.loadBlocks d ((Pip.ofCode code).getD .p3) vals
      | .ldt => c.setElems d slot (vals.map fun q => (q.1, if isSignedTag tag then unsigned slot (signed wm q.2) else q.2))
      | _ => c.setElems d slot (vals.map fun q => (q.1, extendTo code wm slot q.2))
    t.setTags d tag c.vspan

/-- What a store writes for an element (R135, R136). -/
def Ctx.stored (c : Ctx) (op : VMOp) (d code slot e : Nat) : Nat :=
  if op = .stb then c.storeBlock d e ((Pip.ofCode code).getD .p3) else c.elem d slot e

/-- The element groups that a load fills with the cycle from its start in which each becomes valid (R130): the elements
are given by the bits of the group from which and up to which they reach, with the cycle of their last request. A group
that needs no sector keeps its valid bit (log 78). -/
def groupOffsets (groups : List Nat) (els : List (Nat × Nat × Nat)) : List (Nat × Nat) :=
  groups.filterMap fun i =>
    match els.filter fun q => decide (q.1 < (i + 1) * 256) && decide (i * 256 < q.2.1) with
    | [] => none
    | l => some (i, l.foldl (fun acc q => Nat.max acc (q.2.2 + 6)) 0)

/-- What a VMEM word leaves, with what the schedule and the sampling need of it. It takes the lanes for a step per element
group, with f = 1 (log 97). -/
def State.vmemMember (s : State) (op : VMOp) (x : VMAcc) (d b : Reg) : VMember × List Nat :=
  let c := s.cur
  let (cyc, rs) := x.requests (!op.isLoad)
  let groups := c.processed x.slot false
  let perElem := if op = .ldb || op = .stb then 16 else 1
  let offs := groupOffsets groups (cyc.map fun q => (q.1 * x.slot, (q.1 + perElem) * x.slot, q.2))
  let last := cyc.foldl (fun acc q => Nat.max acc q.2) 0
  let secs := (x.els.flatMap fun p => sectorsOf p.2 x.wm).eraseDups
  let pages := (secs.map fun q => q / 64).eraseDups
  ({ srcs := (if op.isLoad then [] else [(d.toNat, x.slot, false)]) ++
        (if op = .ldx || op = .stx then [(b.toNat, (slotWidth (c.tag b.toNat)).getD 32, false)] else [])
     masks := [c.cmsel]
     dst := if op.isLoad then some (d.toNat, x.slot) else none
     groups := groups, width := x.slot, lat := 6
     mem := some (if op.isLoad then offs else [], if x.els.isEmpty then 1 else if op.isLoad then last + 6 else last + 2)
     reads := if x.els.isEmpty then 0 else last + 1
     reqs := (numberReqs 1 (!op.isLoad) (fun _ => []) 0 rs.log.reverse).map fun u =>
       if u.write then { u with parts := (((reqRuns x.wm none x.els).getD u.seq (0, [])).2).map fun p => (p.2, x.wm) } else u },
   [x.stride, rs.lost, secs.length, Nat.min pages.length 255, if x.lookup = 8 then 1 else 0, c.activeElems.length])

/-- The checks of a load, element by element (R127): each is given with its address and the cycle of its request, in which
its facing is checked (R167). What fails now goes behind an earlier element that is not IN yet, as far as is known: `doubt`
is the cycle of the first such check. Gives the checks to come, and whether one is in doubt. -/
def State.vmemChecks (s : State) (elem : Nat → Nat) (wm : Nat) : Option Nat → List FaceCheck → List ((Nat × Nat) × Nat) →
    Except Stop (List FaceCheck × Bool)
  | doubt, l, [] => .ok (l, doubt.isSome)
  | doubt, l, ((e, a), t) :: r =>
    let k := s.checkFor a wm t (some (elem e))
    match s.checkPlace s.focusCore a wm, doubt with
    | .error (.fault x), some d => .ok (l ++ [{ k with cycle := Nat.max d t, n := 0, cause := x.cause, addr := x.addr, info := x.info }], true)
    | .error (.fault x), none => fail { x with elem := some (elem e) }
    | .error st, _ => .error st
    | .ok _, _ =>
      match s.checkTurned s.focusCore s.focusCtx a wm with
      | .error st => .error st
      | .ok _ =>
        if (s.facingFails s.focusCore a wm t).isSome then s.vmemChecks elem wm (doubt.getD t) (l ++ [k]) r
        else match s.curCore.loc.anyBad a wm, doubt with
          | some w, none => fail { Exc.poison (64 * w) with elem := some (elem e) }
          | some w, some _ => s.vmemChecks elem wm doubt (l ++ [{ k with cause := 0x0F, addr := 64 * w }]) r
          | none, _ =>
            let known := match l.getLast? with
              | some q => q.cycle == t && q.cause == 0 && sectorsOf q.a q.n == sectorsOf a wm
              | none => false
            s.vmemChecks elem wm doubt (if known then l else l ++ [k]) r

/-- The access itself: every active element is checked before any is written (R127, R135). A fault of a block names its
first active element (log 70). With the state it gives the member, its statistics, and what it does. -/
def State.vmemRun (s : State) (op : VMOp) (d a b : Reg) : Except Stop (State × VMember × List Nat × VWork) := do
  let (x, s) ← s.vmemAccess op d a b
  let c := s.cur
  let core := s.focusCore
  let ctx := s.focusCtx
  let (m, st) := s.vmemMember op x d b
  let t0 := c.convoyStart s.now m
  let (cyc, _) := x.requests (!op.isLoad)
  let elem (e : Nat) : Nat := if op = .ldb || op = .stb then ((rangeFrom e 16).find? c.active).getD e else e
  let timed := x.els.zip (cyc.map Prod.snd)
  let head := s.origin.head
  let agent := s.agent core ctx 0 false
  if op.isLoad then
    let (checks, doubt) ← s.vmemChecks elem x.wm none [] (timed.map fun q => (q.1, t0 + q.2))
    let s ← if doubt then .ok s else s.raceSectors core head agent false ((x.els.flatMap fun p => sectorsOf p.2 x.wm).eraseDups)
    let (vals, s) := s.loadElems t0 x
    let code := if op = .ldx then x.tag else b.toNat
    .ok ((s.setCur (c.loaded op d.toNat code x.tag x.slot x.wm vals)).addChecks (checks.map fun k => { k with race := doubt }), m, st,
      .load op d.toNat code x.tag x.slot x.wm x.els vals)
  else
    timed.forM fun q => atElem (elem q.1.1) (s.checkWrite core ctx q.1.2 x.wm (t0 + q.2) x.whole)
    let s ← s.raceSectors core head agent true ((x.els.flatMap fun p => sectorsOf p.2 x.wm).eraseDups)
    .ok (timed.foldl (fun s q => s.storeFrom (t0 + q.2 + (x.holdOf q.1.2 - 1)) core q.1.2 x.wm (c.stored op d.toNat b.toNat x.slot q.1.1)) s,
      m, st, .store op d.toNat b.toNat x.slot x.wm x.els)

end Sys2Proof.Machine
end

