-- ==== Sys2Proof/Machine/Checks.lean ====
section
/-! DEFINITION. What the front end must know of an instruction before it issues: the scalar registers it reads and
writes (R97, R98), the iterative unit it occupies, its class in the table of R230, and the operand limits whose
breach is ILLEGAL-OPERAND (class 4 of R54). -/

namespace Sys2Proof.Machine

/-! ## Registers -/

/-- The n registers from r on, by name. -/
def regRun (r : Reg) (n : Nat) : List Reg := (rangeFrom 0 n).map (regPlus r)

/-- The rows of the table of R230. -/
inductive PhClass where
  | spanVpart | setl | scalar | exit | vrel | vector | memory | qwait | atomic | matrix | mwait | turn | twait | exch
  | arrive | cbarr | pwait | trap | brk | sys
  deriving DecidableEq, Repr

end Sys2Proof.Machine

namespace Sys2Proof

open Machine

/-- The scalar registers an instruction reads or writes at its issue (R97). -/
def Instr.regs (i : Instr) : List Reg :=
  match i with
  | .add d a b | .sub d a b | .and d a b | .or d a b | .xor d a b | .shl d a b | .shr d a b | .sar d a b
  | .min d a b | .max d a b | .minn d a b | .maxn d a b | .sel d a b | .mul d a b | .mulh d a b | .mulhn d a b
  | .div d a b | .divn d a b | .rem d a b | .remn d a b | .cmpeq d a b | .cmpne d a b | .cmplt d a b
  | .cmpltn d a b | .cmple d a b | .cmplen d a b | .bext d a b | .bins d a b => [d, a, b]
  | .fadd _ d a b | .fsub _ d a b | .fmul _ d a b | .fdiv _ d a b | .fmin _ d a b | .fmax _ d a b
  | .fcmpeq _ d a b | .fcmplt _ d a b | .fcmple _ d a b | .fma _ d a b => [d, a, b]
  | .padd d a b _ | .psub d a b _ | .pdiff d a b _ | .paln d a b _ | .ld d a b _ | .ldn d a b _ | .st d a b _ => [d, a, b]
  | .clz d a | .ctz d a | .popc d a | .brev d a | .jr d a | .tstat d a | .mshape d a | .spawn d a => [d, a]
  | .fsqrt _ d a | .fcvtif _ d a | .fcvtfi _ d a => [d, a]
  | .pcls d a _ => [d, a]
  | .addi d a _ | .andi d a _ | .ori d a _ | .xori d a _ | .shli d a _ | .shri d a _ | .sari d a _
  | .ldo d a _ | .sto d a _ => [d, a]
  | .li d _ | .lis d _ | .mfs d _ | .mts d _ | .bz d _ | .bnz d _ | .call d _ | .loop d _ => [d]
  | .qstat d _ | .mamax d | .mstat d | .ptest d | .wfe d => [d]
  | .guardNz a | .guardZ a | .vpart a | .turnt _ _ a | .dmark a | .qwait a _ | .qpop _ a _ | .qpush _ a _
  | .cbarr a _ | .tlbi a _ => [a]
  | .setl d a _ => [d, a]
  | .turn _ _ a b => [a, b]
  | .vld _ a _ | .vst _ a _ | .vldx _ a _ | .vstx _ a _ | .vldb _ a _ | .vstb _ a _ => [a]
  | .vldt _ a b | .vstt _ a b => [a, b]
  | .ltset d a => d :: regRun a 4
  | .ltget d a => a :: regRun d 4
  | .aadd _ _ dr a b | .aand _ _ dr a b | .aor _ _ dr a b | .axor _ _ dr a b | .amin _ _ dr a b | .amax _ _ dr a b
  | .aminn _ _ dr a b | .amaxn _ _ dr a b | .axchg _ _ dr a b | .acas _ _ dr a b | .afadd _ _ dr a b =>
    [dr.setWidth 7, a, b]
  | .ald _ _ dr a => [dr.setWidth 7, a]
  | .ast _ _ a b => [a, b]
  | .mldw a | .mldws a | .mfwd a | .mbwd a => regRun a 2
  | .mgrd a b => regRun a 2 ++ regRun b 2
  | .mdrain a b => regRun a 2 ++ [b]
  | .xstat b => [b]
  | .slkill d a b => [d, a, b]
  | .resume a b => [a, b]
  | i => match i.vec with
    | some (op, w) => if op = 0x71 || op = 0x72 then [w.d] else if w.form == .vs then [w.b] else []
    | none => []

/-- The iterative unit an instruction occupies: the divider, or the FP divide and square-root unit (R98). -/
def Instr.unit (i : Instr) : Option Nat :=
  match i with
  | .div _ _ _ | .divn _ _ _ | .rem _ _ _ | .remn _ _ _ => some 0
  | .fdiv _ _ _ _ | .fsqrt _ _ _ => some 1
  | _ => none

/-- The class of an instruction. -/
def Instr.cls (i : Instr) : PhClass :=
  match i with
  | .span _ | .vpart _ => .spanVpart
  | .setl _ _ _ => .setl
  | .exit => .exit
  | .vrel => .vrel
  | .ld _ _ _ _ | .ldn _ _ _ _ | .st _ _ _ _ | .ldo _ _ _ | .sto _ _ _ => .memory
  | .vld _ _ _ | .vst _ _ _ | .vldx _ _ _ | .vstx _ _ _ | .vldt _ _ _ | .vstt _ _ _ | .vldb _ _ _ | .vstb _ _ _ => .memory
  | .qpop _ _ _ | .qpush _ _ _ | .qstat _ _ | .ltset _ _ | .ltget _ _ | .lfence => .memory
  | .qwait _ _ => .qwait
  | .aadd _ _ _ _ _ | .aand _ _ _ _ _ | .aor _ _ _ _ _ | .axor _ _ _ _ _ | .amin _ _ _ _ _ | .amax _ _ _ _ _
  | .aminn _ _ _ _ _ | .amaxn _ _ _ _ _ | .axchg _ _ _ _ _ | .acas _ _ _ _ _ | .afadd _ _ _ _ _ | .ald _ _ _ _
  | .ast _ _ _ _ => .atomic
  | .mshape _ _ | .mldw _ | .mldws _ | .mswap | .mfwd _ | .mbwd _ | .mgrd _ _ | .mdrain _ _ | .mzero _ | .mamax _
  | .mstat _ => .matrix
  | .mwait => .mwait
  | .turn _ _ _ _ | .turnt _ _ _ | .tstat _ _ => .turn
  | .twait => .twait
  | .xfer _ _ | .halo _ _ | .xred _ _ | .xcast _ _ | .xfar _ _ | .xstat _ => .exch
  | .parr | .cbwait _ | .yield => .arrive
  | .cbarr _ _ => .cbarr
  | .pwait => .pwait
  | .trap _ => .trap
  | .brk _ => .brk
  | .rft | .tlbi _ _ | .wfe _ | .spawn _ _ | .slkill _ _ _ | .resume _ _ => .sys
  | i => if i.vec.isSome then .vector else .scalar

/-- The VMEM subfunction of an instruction with its fields. -/
def Instr.vmem (i : Instr) : Option (VMOp × Reg × Reg × Reg) :=
  match i with
  | .vld d a b => some (.ld, d, a, b) | .vst d a b => some (.st, d, a, b)
  | .vldx d a b => some (.ldx, d, a, b) | .vstx d a b => some (.stx, d, a, b)
  | .vldt d a b => some (.ldt, d, a, b) | .vstt d a b => some (.stt, d, a, b)
  | .vldb d a b => some (.ldb, d, a, b) | .vstb d a b => some (.stb, d, a, b)
  | _ => none

end Sys2Proof

namespace Sys2Proof.Machine

/-- The latest cycle in which a result lands in one of some registers, when that is still to come (R98). -/
def Ctx.pendingOn (c : Ctx) (rs : List Reg) (now : Nat) : Option Nat :=
  let ps := (rs.filter (· != 0)).map fun r => physReg c.wb r.toNat
  let late := (c.land.filter fun l => ps.contains l.reg && decide (now < l.cycle)).map (·.cycle)
  match late with
  | [] => none
  | x :: r => some (r.foldl Nat.max x)

/-! ## Classes of R230 -/

/-- The column "Span" of R230, with R302. SETL is looked at on its own. -/
def PhClass.spanLegal (c : PhClass) : Bool :=
  match c with
  | .spanVpart | .exit | .vrel | .qwait | .mwait | .twait | .arrive | .pwait | .trap | .brk | .sys => false
  | _ => true

/-- The columns "Compute", "Exchange" and "Window" of R230. -/
def PhClass.phaseLegal (c : PhClass) (exchange window : Bool) : Bool :=
  match c with
  | .spanVpart | .setl | .scalar | .brk | .sys => true
  | .exit | .turn | .twait | .arrive | .cbarr | .trap => !window
  | .vrel | .vector | .memory | .qwait | .atomic | .matrix | .mwait => !window && !exchange
  | .exch => !window && exchange
  | .pwait => window

/-- Whether the context is between its PARR and the return of its PWAIT. -/
def Ctx.window (c : Ctx) : Bool := c.st == .arrived || c.st == .waiting || c.st == .released

/-- PHASE-ILLEGAL, on compute cores only. -/
def State.phaseIllegal (s : State) (i : Instr) : Bool :=
  !s.onSys && !i.cls.phaseLegal s.exchange s.cur.window

/-- State code of R298 for PHASE-ILLEGAL. -/
def CtxSt.code (c : CtxSt) : Nat :=
  match c with
  | .run => 0 | .arrived => 1 | .waiting => 2 | .released => 3 | .exited => 4 | .absent => 5

/-! ## Special registers by number (R68) -/

/-- Whether a number is a privileged register. -/
def srPrivileged (n : Nat) : Bool := 0x19 ≤ n && n ≤ 0x1B
/-- Whether the context may name privileged registers and use SYS subfunctions 1 to 6 (R51, R67). -/
def State.privileged (s : State) : Bool := s.onSys && s.cur.priv
def srReadable (n : Nat) (priv : Bool) : Bool := n ≤ 0x20 && (priv || !srPrivileged n)
def srWritable (n : Nat) (priv : Bool) : Bool :=
  n == 0x0A || (0x0E ≤ n && n ≤ 0x12) || (priv && srPrivileged n)

/-! ## Class 2 beyond decoding (R51, R53) -/

/-- ILLEGAL-OP of a decoded instruction: a privileged SYS word elsewhere, or TLBI kind 0 that names a register. -/
def State.illegalOp (s : State) (i : Instr) : Bool :=
  match i with
  | .notAnInstruction w => match decode w with
    | .error .unlistedForm => false
    | _ => true
  | .tlbi a b => !s.privileged || (b == 0 && a != 0)
  | .rft | .wfe _ | .spawn _ _ | .slkill _ _ _ | .resume _ _ => !s.privileged
  | _ => false

/-! ## Class 4 -/

/-- A SETL request that breaks the limits of R121. -/
def setlBad (r : Word) : Bool := 4 < field r.toNat 50 48 || field r.toNat 63 51 != 0
/-- A VPART request that breaks the limits of R120. -/
def vpartBad (r : Word) : Bool := 64 < r.toNat || r.toNat % 8 != 0
/-- An MSHAPE request that breaks the limits of R207. -/
def mshapeBad (r : Word) : Bool :=
  field r.toNat 63 25 != 0 || r.getLsbD 15 || r.getLsbD 7 || field r.toNat 6 0 == 0 || field r.toNat 14 8 == 0
  || field r.toNat 23 16 == 0 || (r.getLsbD 24 && decide (field r.toNat 23 16 < 16))
/-- A drain control word that breaks the limits of R216. -/
def drainBad (r : Word) : Bool :=
  field r.toNat 63 23 != 0 || r.getLsbD 15 || field r.toNat 7 1 != 0
  || 63 < field r.toNat 22 16 || 63 < field r.toNat 14 8

/-- The first register of an operand pair with a value above 1023 (R202). -/
def State.pairBad (s : State) (n : Reg) : Bool := 1024 ≤ (s.reg n).toNat

/-- A format that VLD accepts, in a register (R147). -/
def State.formatBad (s : State) (a : Reg) : Bool :=
  128 ≤ (s.reg a).toNat || (memWidth (s.reg a).toNat).isNone

/-- A CBARR mask that breaks R237: reserved bits, the issuing context missing, an ABSENT context named, a mask other
than the generation's, or an arrival still pending. -/
def State.cbarrBad (s : State) (m : Word) (b : Reg) : Bool :=
  let k := s.curCore
  let bar := SMap.get {} k.bars b.toNat
  let me := s.focusCtx
  16 ≤ m.toNat || !m.getLsbD me || (rangeFrom 0 4).any (fun x => m.getLsbD x && (k.ctx x).st == .absent)
  || (bar.mask != 0 && m.setWidth 4 != bar.mask) || bar.pending.getLsbD me || bar.effect.getLsbD me

/-- Limits that do not look at the value of a general register. `here` is the address of the word. -/
def State.badStatic (s : State) (i : Instr) (here : Nat) : Bool :=
  let c := s.cur
  let inSpan := c.span.isSome
  let spanBad := inSpan && (!i.cls.spanLegal || match i with
    | .setl _ _ _ => c.vpart.isSome
    | .loop _ o => match c.span with
      | some p => decide ((p.last : Int) < here + 32 * signed 18 o.toNat)
      | none => false
    | _ => false)
  let owner := !s.onSys && s.focusCtx == s.lr.meown
  spanBad || match i with
  | .notAnInstruction _ => true
  | .shli _ _ i | .shri _ _ i | .sari _ _ i => 64 ≤ i.toNat
  | .mfs _ n => !srReadable n.toNat s.privileged
  | .mts _ n => !srWritable n.toNat s.privileged
  | .loop _ o => signed 18 o.toNat < 1
  | .setl _ _ b => 3 < b.toNat
  | .msel b => 7 < b.toNat
  | .span n => n.toNat == 0 || 256 < n.toNat || 32767 < here / 32 + n.toNat
  | .ld _ _ _ w | .ldn _ _ _ w | .st _ _ _ w => 0xA ≤ w.toNat
  | .qpop _ _ q | .qpush _ _ q | .qwait _ q | .qstat _ q => 15 < q.toNat
  | .ltset _ a => a.toNat % 4 != 0
  | .ltget d _ => d.toNat % 4 != 0
  | .turn l _ _ _ | .turnt l _ _ => 4 < l.toNat
  | .aadd _ fl _ _ _ | .aand _ fl _ _ _ | .aor _ fl _ _ _ | .axor _ fl _ _ _ | .amin _ fl _ _ _ | .amax _ fl _ _ _
  | .aminn _ fl _ _ _ | .amaxn _ fl _ _ _ | .axchg _ fl _ _ _ | .acas _ fl _ _ _ | .afadd _ fl _ _ _ => fl == 3
  | .ald _ fl _ _ => 2 ≤ fl.toNat
  | .ast _ fl _ _ => fl == 3 || fl == 1
  | .mldw a | .mldws a | .mfwd a | .mbwd a => !owner || a.toNat % 2 == 1
  | .mgrd a b => !owner || a.toNat % 2 == 1 || b.toNat % 2 == 1
  | .mdrain a _ => !owner || a.toNat % 2 == 1
  | .mzero b => !owner || b.toNat == 0 || 3 < b.toNat
  | .mshape _ _ | .mswap | .mamax _ | .mwait | .mstat _ => !owner
  | .xfer d a | .halo d a | .xred d a | .xcast d a | .xfar d a =>
    7 < d.toNat || c.grant == 0 || !c.groupOk a.toNat || !c.capOk 256
  | .cbarr _ b | .cbwait b => 3 < b.toNat
  | .tlbi _ b => 1 < b.toNat
  | .rft => !c.inh
  | _ => false

/-- Limits on the values of general registers, and the limits of VMEM words (R133). -/
def State.badValue (s : State) (i : Instr) : Bool :=
  let c := s.cur
  match i with
  | .mts d n => n.toNat == 0x0A && (s.reg d).toNat % 16 != 0
  | .setl _ a _ => setlBad (s.reg a)
  | .vpart a => vpartBad (s.reg a)
  | .qpop d a _ | .qpush d a _ =>
    s.formatBad a || c.grant == 0 || !c.groupOk d.toNat || !c.capOk ((slotWidth (loadTag (s.reg a).toNat)).getD 8)
  | .qwait a _ => 65535 < (s.reg a).toNat
  | .ltset d _ => 1024 ≤ (s.reg d).toNat
  | .ltget _ a => 1024 ≤ (s.reg a).toNat
  | .turnt _ _ a => 1024 ≤ (s.reg a).toNat
  | .mshape _ a => mshapeBad (s.reg a)
  | .mldw a => s.pairBad a || s.curCore.me.sp
  | .mldws a => s.pairBad a || !s.curCore.me.sp
  | .mfwd a => s.pairBad a || s.curCore.me.pspact != s.curCore.me.sp
  | .mbwd a => s.pairBad a || s.curCore.me.pspact || s.curCore.me.sp
  | .mgrd a b => s.pairBad a || s.pairBad b || s.curCore.me.sp
  | .mdrain a b => s.pairBad a || drainBad (s.reg b)
  | .cbarr a b => s.cbarrBad (s.reg a) b
  | .slkill _ a b => 65536 ≤ (s.reg a).toNat || !((s.reg b).toNat ≤ 0x14 || (s.reg b).toNat == 0x24)
  | .resume a _ => field (s.reg a).toNat 15 13 != 0 || field (s.reg a).toNat 63 20 != 0
  | i => match i.vmem with
    | some (op, d, a, b) => c.vmemBad op d a b
    | none => false

end Sys2Proof.Machine
end

