-- ==== Sys2Proof/Machine/Issue.lean ====
section
/-! DEFINITION. The front end of a context (R41 to R43, R54, R111 to R119): forming a convoy, checking it as a whole,
the scoreboard, what a stop leaves, and retirement with the loop end check. Every instruction issues through
`issue`. -/

namespace Sys2Proof.Machine

/-! ## Forming a convoy (R41, R42) -/

/-- The word of the core in focus at a bit address of its store. -/
def State.fetchWord (s : State) (a : Nat) : IWord := SMap.get 0 s.curCore.ist (a / 32)

/-- Opcodes that the grid gives to vector instructions: 40h to 79h but for the reserved 75h (R44). -/
def vectorOpcode (op : Nat) : Bool := decide (0x40 ≤ op) && decide (op ≤ 0x79) && op != 0x75

/-- The E bit of a vector word; none for any other word. A word of a reserved opcode is no vector word (log 26). -/
def endBit (i : Instr) : Option Bool :=
  match i with
  | .notAnInstruction w => if vectorOpcode w.op.toNat then some (w.getLsbD 3) else none
  | i => i.vec.map fun p => p.2.e

/-- The run of vector words that begins with i at address a, at most `more` + 1 words; true for a run that breaks
R42. The word that breaks it belongs to what is checked (log 26). -/
def State.runFrom (s : State) : Nat → Nat → Instr → List Instr × Bool
  | more, a, i =>
    match endBit i with
    | none => ([i], false)
    | some true => ([i], false)
    | some false =>
      match more with
      | 0 => ([i], true)
      | more + 1 =>
        if a / 32 = 32767 then ([i], true)
        else
          let j := fetchInstr (s.fetchWord (a + 32))
          if (endBit j).isSome then
            let (l, b) := s.runFrom more (a + 32) j
            (i :: l, b)
          else ([i, j], true)

/-- Whether a word is a GUARD word, CTL with F = 0 or 1; one whose unused fields are not zero is one too (R41). -/
def isGuard (i : Instr) : Bool :=
  match i with
  | .guardNz _ => true
  | .guardZ _ => true
  | .notAnInstruction w => w.op.toNat == 0x1E && (w.f == 0 || w.f == 1)
  | _ => false

/-- Words that may not follow GUARD (R42). -/
def notGuarded (i : Instr) : Bool :=
  isGuard i || match i with | .span _ => true | .loop _ _ => true | .win _ => true | _ => false

/-- Words that may not share a convoy with the end word of a loop (R115). -/
def transfers (i : Instr) : Bool :=
  match i with
  | .br _ => true | .bz _ _ => true | .bnz _ _ => true | .call _ _ => true | .jr _ _ => true | .loop _ _ => true
  | .span _ => true | _ => false

/-- The convoy whose head i stands at address a: its words, and whether R42 forbids the sequence. -/
def State.form (s : State) (a : Nat) (i : Instr) : List Instr × Bool :=
  if isGuard i then
    if a / 32 = 32767 then ([i], true)
    else
      let j := fetchInstr (s.fetchWord (a + 32))
      if notGuarded j then ([i, j], true)
      else
        let (l, b) := s.runFrom 3 (a + 32) j
        (i :: l, b)
  else s.runFrom 3 a i

/-- How many words the convoy at an address of a context's core has. -/
def State.membersAt (s : State) (core ctx a : Nat) : Nat :=
  let t := { s with focusCore := core, focusCtx := ctx }
  (t.form a (fetchInstr (t.fetchWord a))).1.length

/-! ## A run of vector words as a whole -/

/-- What a run of vector words does: the context after it, flags, the first member that breaks an operand limit, the
first that finds a wrong tag, and the members for the schedule. -/
structure VWalk where
  c : Ctx
  fl : BitVec 7 := 0
  opBad : Option Nat := none
  tagBad : Option (Nat × Nat) := none
  ms : List VMember := []
  deriving DecidableEq, Repr

/-- Each member reads what the members before it leave (R43, R174). -/
def Ctx.vwalk (c : Ctx) : Nat → List (Nat × VWord) → VWalk
  | _, [] => { c := c }
  | j, (op, w) :: r =>
    let u := c.vuse op w
    let res := vecEffect op c w
    let t := Ctx.vwalk res.c (j + 1) r
    { c := t.c, fl := res.fl ||| t.fl
      opBad := if u.operandBad then some j else t.opBad
      tagBad := match u.tagBad with | some x => some (j, x) | none => t.tagBad
      ms := c.member op w u res.g :: t.ms }

/-- The vector words at the front of a list. -/
def vecPrefix : List Instr → List (Nat × VWord)
  | [] => []
  | i :: r => match i.vec with
    | some p => p :: vecPrefix r
    | none => []

/-! ## The checks of R54 -/

/-- Index of the first entry that meets a condition. -/
def firstAt {α : Type} (p : α → Bool) : Nat → List α → Option Nat
  | _, [] => none
  | k, x :: r => if p x then some k else firstAt p (k + 1) r

/-- CONVOY-FORM by loops and spans (R42, R115), for a convoy from head to last. -/
def Ctx.badPlace (c : Ctx) (head last : Nat) (ws : List Instr) : Bool :=
  c.loops.any (fun e => (head ≤ e.stop && e.stop ≤ last && ws.any transfers) || (e.start ≤ head && head ≤ e.stop && e.stop < last))
  || match c.span with
    | some p => p.first ≤ head && head ≤ p.last && p.last < last
    | none => false

/-- The state whose registers the k-th member of the convoy at the head will find: inside a span with what has landed by
its issue cycle, outside with every result for which it waits (R54, R98). -/
def State.foundBy (s : State) (k : Nat) : State :=
  let c := s.cur
  if c.land.isEmpty then s
  else s.setCur (c.landDue (match c.span with | some _ => s.now + k | none => c.land.foldl (fun t l => Nat.max t l.cycle) 0))

/-- Whether the guard at the head of a convoy fails (R116). -/
def State.guardFails (s : State) (ws : List Instr) : Bool :=
  match ws with
  | .guardNz a :: _ => s.reg a == 0
  | .guardZ a :: _ => s.reg a != 0
  | _ => false

/-! ## Where control goes (R109 to R116) -/

/-- here + S(off) · 32, modulo 2^64. -/
def branchTarget (here : Nat) (off : BitVec 18) : Nat := unsigned 64 ((here : Int) + off.toInt * 32)

/-- The loop entries that a branch from `here` to `target` leaves, innermost first (R114). -/
def leaveLoops (here target : Nat) : List LoopEnt → List LoopEnt
  | [] => []
  | e :: r =>
    if e.start ≤ here && here ≤ e.stop && !(e.start ≤ target && target ≤ e.stop) then leaveLoops here target r
    else e :: r

/-- The loop end check for a convoy from lo to hi (R114): the loop stack after it, and where control goes. A counter of 0,
which only a debugger or a save area can bring about, ends its loop (log 87). -/
def loopEnd (lo hi next : Nat) : List LoopEnt → List LoopEnt × Nat
  | [] => ([], next)
  | e :: r =>
    if lo ≤ e.stop && e.stop ≤ hi then
      if e.count - 1 ≠ 0 then ({ e with count := e.count - 1 } :: r, e.start)
      else loopEnd lo hi (e.stop + 32) r
    else (e :: r, next)

/-- The loop stack and where control goes after a convoy whose last word stands at `here` and names `pc` next: by the loop
end check (R114), or, after a QPUSH that issues again when its span has closed, to the next of these or back to the
boundary (R150). -/
def Cv.next (v : Cv) (here pc : Nat) (loops : List LoopEnt) : List LoopEnt × Nat :=
  match v.back with
  | some a => (loops, a)
  | none => loopEnd v.head here pc loops

/-- Whether a next address can be fetched (R111). -/
def fetchable (a : Nat) : Bool := a < 2 ^ 20 && a % 32 == 0

/-- Where control goes after the next convoy, when that is a QPUSH that issues again after the closure of its span (R150). -/
def Ctx.back (c : Ctx) : Option Nat := if c.span.isNone then c.redo.head? else none

/-- Where control goes after the convoy of words ws at the head, as far as it goes anywhere (R109 to R116): EXIT ends it, and
a sequence that R42 forbids leads on only where it lacks a member (R111). -/
def State.leadsTo (s : State) (head : Nat) (ws : List Instr) (bad : Bool) : Option Nat :=
  let k := ws.length - 1
  let here := head + 32 * k
  let t := s.foundBy k
  let c := s.cur
  let on (pc : Nat) (loops : List LoopEnt) : Option Nat := some (({ head := head, n := k + 1, idx := k, back := c.back } : Cv).next here pc loops).2
  let fall := on (here + 32) c.loops
  let leave (pc : Nat) : Option Nat := on pc (leaveLoops here pc c.loops)
  match ws.getLast? with
  | none => none
  | some i =>
    if bad then (if endBit i = some false || (isGuard i && k = 0) then some (here + 32) else none)
    else if s.guardFails ws then fall
    else match i with
      | .exit => none
      | .br o => leave (branchTarget here o)
      | .bz d o => if t.reg d = 0 then leave (branchTarget here o) else fall
      | .bnz d o => if t.reg d ≠ 0 then leave (branchTarget here o) else fall
      | .call _ o => on (branchTarget here o) c.loops
      | .jr d a => if d = 0 then leave (t.reg a).toNat else on (t.reg a).toNat c.loops
      | .loop d o => if t.reg d = 0 then on (here + (o.toInt.toNat + 1) * 32) c.loops else fall
      | .rft => if s.privileged && c.inh then on c.trappc.toNat c.loops else fall
      | _ => fall

/-- A fetch fault of a convoy (R111): a member that holds an uncorrectable error, or an address that the convoy leads to and
that cannot be fetched. -/
def State.fetchFault (s : State) (head : Nat) (ws : List Instr) (bad : Bool) : Option (Exc × Nat) :=
  match firstAt (fun k => s.curCore.istBad.contains (head / 32 + k)) 0 (rangeFrom 0 ws.length) with
  | some k => some ({ cause := 0x0F, addr := head + 32 * k }, k)
  | none => match s.leadsTo head ws bad with
    | some a => if fetchable a then none else some ({ cause := 0x01, addr := a }, ws.length - 1)
    | none => none

/-! ## The other checks of R54 -/

/-- A limit broken by the k-th member (class 4). A failed guard leaves out the checks of a matrix word's operands (R200);
every other check stands whatever the guard says (R54, R116, log 31). -/
def State.operandBad (s : State) (ws : List Instr) (k : Nat) (i : Instr) (here : Nat) : Bool :=
  s.badStatic i here || (!(i.cls == .matrix && s.guardFails ws) && (s.foundBy k).badValue i)

/-- The first member that breaks an operand limit (class 4). -/
def State.operandAt (s : State) (head : Nat) (ws : List Instr) : Option Nat :=
  let off := match ws with | i :: _ => if isGuard i then 1 else 0 | [] => 0
  let body := ws.drop off
  let run := vecPrefix body
  match run with
  | [] => firstAt (fun p => s.operandBad ws p.2 p.1 (head + 32 * p.2)) off (body.zip (rangeFrom off body.length))
  | _ =>
    match (s.cur.vwalk off run).opBad with
    | some k => some k
    | none => if run.length < body.length then some (off + run.length) else none

/-- Whether one of some layout entries, of which a word makes use one after another, meets its condition; one that reaches
a poisoned word does not (R349). -/
def State.entriesBad (s : State) : List (Reg × (BitVec 256 → Bool)) → Bool
  | [] => false
  | (a, bad) :: r =>
    let idx := (s.reg a).toNat
    match s.checkEntry s.focusCore idx with
    | .error _ => false
    | .ok _ =>
      let (l, t) := s.useEntry s.focusCore idx
      bad l || t.entriesBad r

/-- The layout entries that a word uses, each with what would make it break a limit of the word: a format, a capacity or a
length (R66, R133, R158, R203, R204). -/
def State.entryLimits (s : State) (i : Instr) : List (Reg × (BitVec 256 → Bool)) :=
  let e := s.curCore.me
  let vector (l : BitVec 256) : Bool :=
    (memWidth (lteFmt l)).isNone || !s.cur.capOk ((slotWidth (loadTag (lteFmt l))).getD 8)
  let plain (f : Nat) : Bool := engineFmt f && !isPip f
  match i with
  | .vldt _ a _ | .vstt _ a _ => [(a, vector)]
  | .turnt _ _ a => [(a, fun l => (lteWidth (lteFmt l)).isNone)]
  | .mldw a => [(a, tensorBad engineFmt e.gk)]
  | .mldws a => [(a, tensorBad (fun f => engineFmt f && f != 0x0C) 16)]
  | .mfwd a => [(a, tensorBad engineFmt e.gk)]
  | .mbwd a => [(a, tensorBad engineFmt e.gn)]
  | .mgrd a b => [(a, tensorBad plain e.gk), (b, tensorBad plain e.gn)]
  | .mdrain a b => [(a, tensorBad engineFmt (field (s.reg b).toNat 22 16 + 1))]
  | _ => []

/-- Whether the k-th member breaks a limit by a layout entry: a check of class 4 that is made with the convoy's others on
the entry that the word uses (R54, R133). Under a failed guard no word uses one, and the check is left out (log 31). -/
def State.entryBad (s : State) (ws : List Instr) (k : Nat) (i : Instr) : Bool :=
  !s.guardFails ws && (s.foundBy k).entriesBad ((s.foundBy k).entryLimits i)

/-- A convoy as its checks leave it: an exception with the member it names, or its number of words. CONVOY-FORM names
member 0 (log 67). -/
def State.checkConvoy (s : State) (head : Nat) (i : Instr) : Except (Exc × Nat × Nat) Nat :=
  let (ws, bad) := s.form head i
  let n := ws.length
  match s.fetchFault head ws bad with
  | some (e, k) => .error (e, n, k)
  | none =>
  match firstAt s.illegalOp 0 ws with
  | some k => .error (Exc.op, n, k)
  | none =>
  if bad || s.cur.badPlace head (head + 32 * (n - 1)) ws then .error (Exc.convoy, n, 0)
  else
  match s.operandAt head ws with
  | some k => .error (Exc.operand, n, k)
  | none =>
  if (ws.zip (rangeFrom 0 n)).any fun p => s.entryBad ws p.2 p.1 then .error (Exc.operand, n, n - 1)
  else
  match firstAt s.phaseIllegal 0 ws with
  | some k => .error ({ cause := 0x06, info := s.cur.st.code }, n, k)
  | none => .ok n

/-! ## Comparators and the scoreboard -/

/-- The armed comparators of the context in focus that name a head (R310, R311). -/
def State.matches (s : State) (head : Nat) : BitVec 4 :=
  if s.onSys || !s.dbg.en then 0
  else (rangeFrom 0 4).foldl (fun m i =>
    let b := SMap.get 0 s.curCore.bka (4 * s.focusCtx + i)
    if b.getLsbD 63 && field b.toNat 19 5 == head / 32 then m ||| BitVec.ofNat 4 (2 ^ i) else m) 0

/-- The instructions whose convoys wait for the result of an earlier acquire (R278). -/
def fenced (i : Instr) : Bool :=
  match i.cls with
  | .atomic => true
  | .memory => match i with | .qstat _ _ => false | _ => true
  | .turn => match i with | .tstat _ _ => false | _ => true
  | .matrix => match i with | .mshape _ _ => false | .mamax _ => false | .mstat _ => false | _ => true
  | _ => false

/-- Whether an acquire that has not landed holds the convoy that begins with the next word: the convoy holds some access
that the acquire orders, whatever its guard says (R278). -/
def State.acquireHolds (s : State) (i : Instr) : Bool :=
  decide (s.now < s.cur.acqAt) && s.cur.cv.isNone && (s.form s.cur.pc i).1.any fenced

/-- Outside a span the scoreboard holds an instruction until its registers have landed, its unit is free and an
earlier acquire has landed (R98, R119, R278). -/
def State.scoreboard (s : State) (i : Instr) : Except Stop Unit :=
  let c := s.cur
  if c.span.isSome then .ok ()
  else if s.acquireHolds i then .error (.until c.acqAt)
  else if i.vec.isSome then .ok ()
  else
    match c.pendingOn i.regs s.now with
    | some t => .error (.until t)
    | none =>
      let free := match i.unit with | some u => SMap.get 0 c.unitFree u | none => 0
      if s.now < free then .error (.until free) else .ok ()

/-- Inside a span nothing waits: TIMING (R98, R278). -/
def State.spanTiming (s : State) (i : Instr) : Except Stop Unit :=
  let c := s.cur
  if c.span.isNone then .ok ()
  else if s.acquireHolds i then fail (Exc.timing 0)
  else if i.vec.isSome then .ok ()
  else
    let free := match i.unit with | some u => SMap.get 0 c.unitFree u | none => 0
    if s.now < free then fail (Exc.timing 0) else .ok ()

/-! ## Whether a context fetches -/

/-- Whether the context in focus may issue now: its core runs, it is in a state that fetches, nothing stops it, and
no halt request waits at this boundary (R231, R300, R312). -/
def State.fetching (s : State) : Bool :=
  let c := s.cur
  (if s.onSys then s.curCore.sysRun
   else match s.slice with
     | some r => r.cores.contains s.focusCore && !r.ending && (!r.preempt || c.cv.isSome || c.span.isSome)
     | none => false)
  && (c.st == .run || c.st == .arrived || c.st == .released)
  && !c.trapped && !c.halted && !c.aborted && !c.exiting
  && (c.haltReq.isNone || c.cv.isSome || c.span.isSome)
  && decide (c.issueAt ≤ s.now)

/-- Whether the VCYC of a core advances (R243, R261, R313). -/
def State.vcycRuns (s : State) (core : Nat) : Bool :=
  let k := s.core core
  (match s.slice with | some r => r.cores.contains core && !r.ending | none => false)
  && !(k.ctxs.any fun p => p.2.qstall) && !k.anyHalted && !(s.exchange && s.sliceHalted)

/-- Hold or release the VCYC of a core. -/
def State.fixVcyc (s : State) (core : Nat) : State :=
  s.modCore core fun k => { k with vcyc := if s.vcycRuns core then k.vcyc.go s.now else k.vcyc.hold s.now }

/-! ## Taking up a word -/

/-- The context as it is while the word at `here` takes effect: pc past the word, the next issue a cycle later (R112);
from the last word of a convoy on comparators match again (R315). -/
def Ctx.advance (c : Ctx) (now here : Nat) (v : Cv) : Ctx :=
  { c with pc := here + 32, issueAt := now + 1, ready := now + 1, cv := some v, bkPass := c.bkPass && decide (v.idx + 1 < v.n), stalled := false
           qstall := false, bkHeld := if c.span.isNone then 0 else c.bkHeld
           redo := if c.cv.isNone && c.span.isNone then c.redo.drop 1 else c.redo }

/-- The lowest comparator of a set with the given ACT (R310). -/
def State.matchedWith (s : State) (m : BitVec 4) (act : Bool) : Option Nat :=
  (rangeFrom 0 4).find? fun i =>
    m.getLsbD i && (SMap.get 0 s.curCore.bka (4 * s.focusCtx + i)).getLsbD 62 == act

/-- Comparators matched inside a span: the trap and the halt wait for its closure (R311). -/
def State.holdBreak (s : State) (head : Nat) (m : BitVec 4) : State :=
  s.modCur fun c =>
    { c with bkHeld := c.bkHeld ||| m
             heldTraps := match s.matchedWith m true with
               | some i => c.heldTraps ++ [(0x20, head, 0x8000 + 256 * i)]
               | none => c.heldTraps
             haltReq := match s.matchedWith m false with
               | some i => some (c.haltReq.getD (.comparator i))
               | none => c.haltReq }

/-- Whether the next convoy lies outside the open span, whose closure comes first (R118). -/
def Ctx.leftSpan (c : Ctx) : Bool :=
  match c.span with | some p => decide (c.pc < p.first) || decide (p.last < c.pc) | none => false

/-- Take up the word at the pc: the convoy it belongs to and the state in which it takes effect, or why it does not
issue now, with the number of words of the convoy and the member at fault. -/
def State.front (s : State) (i : Instr) : Except (Stop × Nat × Nat) (Cv × State) := do
  let c := s.cur
  let go (v : Cv) : Cv × State :=
    let s1 := s.setCur (c.advance s.now c.pc v)
    (v, if c.qstall then s1.fixVcyc s.focusCore else s1)
  match c.cv with
  | some v =>
    if v.failed then .ok (go v)
    else
      match s.scoreboard i with
      | .error e => .error (e, v.n, v.idx)
      | .ok _ =>
        if s.badValue i then .error (.fault Exc.operand, v.n, v.idx)
        else match s.spanTiming i with
          | .error e => .error (e, v.n, v.idx)
          | .ok _ => .ok (go v)
  | none =>
    if c.leftSpan then .error (.event, 1, 0)
    else
      let m := if c.bkPass then 0 else s.matches c.pc
      if m != 0 && c.span.isNone then .error (.matched m, (s.form c.pc i).1.length, 0)
      else
        match s.scoreboard i with
        | .error e => .error (e, 1, 0)
        | .ok _ =>
          match s.checkConvoy c.pc i with
          | .error (x, n, k) => .error (.fault x, n, k)
          | .ok n =>
            match s.spanTiming i with
            | .error e => .error (e, n, 0)
            | .ok _ =>
              let r := go { head := c.pc, n := n, idx := 0, back := c.back }
              .ok (r.1, if m != 0 then r.2.holdBreak c.pc m else r.2)

/-! ## What a stop leaves -/

/-- The origin of a stop: the convoy at the pc or in issue. -/
def State.stopOrigin (s : State) (n midx : Nat) : Origin :=
  { s.origin with members := n, midx := midx }

/-- What matched comparators do at a boundary: BREAKPOINT first, then the halt request (R311, R314). -/
def State.breakAt (s : State) (m : BitVec 4) (o : Origin) : State :=
  let s := s.modCur fun c => { c with bkPass := true, bkm := m, bkHeld := m }
  let s := match s.matchedWith m true with
    | some i => s.raiseTrap o 0x20 o.head (0x8000 + 256 * i) true
    | none => s
  match s.matchedWith m false with
  | some i => s.modCur fun c => { c with haltReq := some (c.haltReq.getD (.comparator i)) }
  | none => s

/-- What a stop leaves: the slice aborted, the context stopped by a trap before the convoy, or the convoy waiting. -/
def State.stopWith (s : State) (st : Stop) (n midx : Nat) : State :=
  let o := s.stopOrigin n midx
  match st with
  | .fault e => s.raiseFault o e
  | .trap cause addr info =>
    let s := s.modCur fun c => { c with pc := o.head, cv := none, redo := (c.cv.bind (·.back)).toList ++ c.redo }
    if s.onSys then s.modCur fun c => { c with sysTraps := c.sysTraps ++ [(cause, info)], stalled := true }
    else s.raiseTrap o cause addr info true
  | .until t => s.modCur fun c => { c with issueAt := Nat.max t (s.now + 1) }
  | .event => s.modCur fun c => { c with stalled := true }
  | .qwait => (s.modCur fun c => { c with stalled := true, qstall := true }).fixVcyc s.focusCore
  | .matched m => s.breakAt m o

/-! ## Retirement -/

/-- The word at `here` has taken effect: the next member follows, or the convoy is done and the next address is known;
the address is the error where it cannot be fetched. -/
def State.retire (s : State) (v : Cv) (here : Nat) : Except Nat State :=
  let c := s.cur
  if v.idx + 1 < v.n then
    .ok (s.setCur { c with cv := some { (c.cv.getD v) with idx := v.idx + 1 } })
  else
    let (loops, pc) := v.next here c.pc c.loops
    if fetchable pc || c.exiting then .ok (s.setCur { c with cv := none, loops := loops, pc := pc })
    else .error pc

/-- Execute one instruction of the context in focus: take it up, let its body act (not when its guard has failed,
R116), and retire it. A stop leaves the state as it was before the word, with what the stop does (R31, R54). -/
def issue (i : Instr) (s : State) (body : Nat → Body) : Host.Outcome State Fault Refusal :=
  if !s.fetching then .fault .noContext
  else
    match s.front i with
    | .error (st, n, k) => .next (s.stopWith st n k)
    | .ok (v, s1) =>
      let here := s.cur.pc
      match if v.failed then .ok s1 else body here s1 with
      | .error st => .next (s.stopWith st v.n v.idx)
      | .ok s2 =>
        match s2.retire v here with
        | .error a => .next (s.stopWith (.fault { cause := 0x01, addr := a }) v.n v.idx)
        | .ok s3 => .next s3

end Sys2Proof.Machine
end

