-- ==== Sys2Proof/Machine/Scalar.lean ====
section
/-! DEFINITION. Scalar integer instructions (R96 to R102), scalar floating point (R104, R105) and bit-pointer arithmetic
(R106, R107). -/

namespace Sys2Proof.Machine

/-! ## The operations on words -/

def toWord (b : Bool) : Word := if b then 1 else 0

/-- Shifts by 64 or more (R99). -/
def wShl (a b : Word) : Word := if 64 ≤ b.toNat then 0 else a <<< b.toNat
def wShr (a b : Word) : Word := if 64 ≤ b.toNat then 0 else a >>> b.toNat
def wSar (a b : Word) : Word :=
  if 64 ≤ b.toNat then (if a.msb then BitVec.allOnes 64 else 0) else a.sshiftRight b.toNat

def wMin (a b : Word) : Word := if a.sle b then a else b
def wMax (a b : Word) : Word := if a.sle b then b else a
def wMinn (a b : Word) : Word := if a.ule b then a else b
def wMaxn (a b : Word) : Word := if a.ule b then b else a

/-- High halves of the 128-bit products. -/
def wMulh (a b : Word) : Word := (a.signExtend 128 * b.signExtend 128).extractLsb' 64 64
def wMulhn (a b : Word) : Word := (a.setWidth 128 * b.setWidth 128).extractLsb' 64 64

/-- Division truncates toward zero; by zero it gives all ones, and −2^63 / −1 gives −2^63 (R99). -/
def wDiv (a b : Word) : Word := if b = 0 then BitVec.allOnes 64 else BitVec.ofInt 64 (a.toInt.tdiv b.toInt)
def wDivn (a b : Word) : Word := if b = 0 then BitVec.allOnes 64 else a / b
/-- The remainder has the sign of the dividend; by zero it is the dividend. -/
def wRem (a b : Word) : Word := if b = 0 then a else BitVec.ofInt 64 (a.toInt.tmod b.toInt)
def wRemn (a b : Word) : Word := if b = 0 then a else a % b

/-- Leading zeros of the low n bits. -/
def clzGo : Nat → Word → Nat
  | 0, _ => 0
  | n + 1, a => if a.getLsbD n then 0 else 1 + clzGo n a
def wClz (a : Word) : Word := BitVec.ofNat 64 (clzGo 64 a)
/-- Trailing zeros from bit 64 − n on. -/
def ctzGo : Nat → Word → Nat
  | 0, _ => 0
  | n + 1, a => if a.getLsbD (63 - n) then 0 else 1 + ctzGo n a
def wCtz (a : Word) : Word := BitVec.ofNat 64 (ctzGo 64 a)
def wPopc (a : Word) : Word := BitVec.ofNat 64 (popcount 64 a.toNat)
def wBrev (a : Word) : Word := a.reverse

/-- The field descriptor of BEXT and BINS: lowest bit and width (R100). -/
def bitPos (b : Word) : Nat := field b.toNat 5 0
def bitLen (b : Word) : Nat := field b.toNat 13 8 + 1
/-- BEXT reads zeros beyond bit 63. -/
def wBext (a b : Word) : Word := (a >>> bitPos b) &&& BitVec.ofNat 64 (2 ^ bitLen b - 1)
/-- BINS drops the bits that do not fit. -/
def wBins (d a b : Word) : Word :=
  let m : Word := BitVec.ofNat 64 (2 ^ bitLen b - 1) <<< bitPos b
  (d &&& ~~~m) ||| ((a <<< bitPos b) &&& m)

/-- imm11 as a signed word. -/
def imm11 (i : BitVec 11) : Word := i.signExtend 64

/-! ## Results -/

/-- An instruction that computes one scalar result. -/
def scalarResult (i : Instr) (d : Reg) (lat : Nat) (f : State → Word) (s : State) : Host.Outcome State Fault Refusal :=
  issue i s fun _ s => .ok (s.result d (f s) lat)

/-- The same on an iterative unit, which is then busy for the latency (R98). -/
def iterResult (i : Instr) (unit : Nat) (d : Reg) (lat : Nat) (f : State → Word × BitVec 7) (s : State) :
    Host.Outcome State Fault Refusal :=
  issue i s fun _ s =>
    let r := f s
    .ok ((s.modCur fun c => { c with unitFree := c.unitFree.put unit (s.now + lat) }).result d r.1 lat r.2)

/-! ## ALU, MULDIV and CMP (R99) -/

/-- ADD: d := a + b (R99). -/
def execAdd (d a b : Reg) (s : State) : Host.Outcome State Fault Refusal :=
  scalarResult (.add d a b) d 1 (fun s => s.reg a + s.reg b) s

/-- SUB: d := a − b (R99). -/
def execSub (d a b : Reg) (s : State) : Host.Outcome State Fault Refusal :=
  scalarResult (.sub d a b) d 1 (fun s => s.reg a - s.reg b) s

/-- AND (R99). -/
def execAnd (d a b : Reg) (s : State) : Host.Outcome State Fault Refusal :=
  scalarResult (.and d a b) d 1 (fun s => s.reg a &&& s.reg b) s

/-- OR (R99). -/
def execOr (d a b : Reg) (s : State) : Host.Outcome State Fault Refusal :=
  scalarResult (.or d a b) d 1 (fun s => s.reg a ||| s.reg b) s

/-- XOR (R99). -/
def execXor (d a b : Reg) (s : State) : Host.Outcome State Fault Refusal :=
  scalarResult (.xor d a b) d 1 (fun s => s.reg a ^^^ s.reg b) s

/-- SHL (R99). -/
def execShl (d a b : Reg) (s : State) : Host.Outcome State Fault Refusal :=
  scalarResult (.shl d a b) d 1 (fun s => wShl (s.reg a) (s.reg b)) s

/-- SHR (R99). -/
def execShr (d a b : Reg) (s : State) : Host.Outcome State Fault Refusal :=
  scalarResult (.shr d a b) d 1 (fun s => wShr (s.reg a) (s.reg b)) s

/-- SAR (R99). -/
def execSar (d a b : Reg) (s : State) : Host.Outcome State Fault Refusal :=
  scalarResult (.sar d a b) d 1 (fun s => wSar (s.reg a) (s.reg b)) s

/-- MIN, signed (R99). -/
def execMin (d a b : Reg) (s : State) : Host.Outcome State Fault Refusal :=
  scalarResult (.min d a b) d 1 (fun s => wMin (s.reg a) (s.reg b)) s

/-- MAX, signed (R99). -/
def execMax (d a b : Reg) (s : State) : Host.Outcome State Fault Refusal :=
  scalarResult (.max d a b) d 1 (fun s => wMax (s.reg a) (s.reg b)) s

/-- MINN, unsigned (R99). -/
def execMinn (d a b : Reg) (s : State) : Host.Outcome State Fault Refusal :=
  scalarResult (.minn d a b) d 1 (fun s => wMinn (s.reg a) (s.reg b)) s

/-- MAXN, unsigned (R99). -/
def execMaxn (d a b : Reg) (s : State) : Host.Outcome State Fault Refusal :=
  scalarResult (.maxn d a b) d 1 (fun s => wMaxn (s.reg a) (s.reg b)) s

/-- SEL also reads g[D] (R99). -/
def execSel (d a b : Reg) (s : State) : Host.Outcome State Fault Refusal :=
  scalarResult (.sel d a b) d 1 (fun s => if s.reg d ≠ 0 then s.reg a else s.reg b) s

/-- MUL: the low 64 bits (R99). -/
def execMul (d a b : Reg) (s : State) : Host.Outcome State Fault Refusal :=
  scalarResult (.mul d a b) d 3 (fun s => s.reg a * s.reg b) s

/-- MULH: the high half, signed (R99). -/
def execMulh (d a b : Reg) (s : State) : Host.Outcome State Fault Refusal :=
  scalarResult (.mulh d a b) d 3 (fun s => wMulh (s.reg a) (s.reg b)) s

/-- MULHN: the high half, unsigned (R99). -/
def execMulhn (d a b : Reg) (s : State) : Host.Outcome State Fault Refusal :=
  scalarResult (.mulhn d a b) d 3 (fun s => wMulhn (s.reg a) (s.reg b)) s

/-- DIV, signed (R99). -/
def execDiv (d a b : Reg) (s : State) : Host.Outcome State Fault Refusal :=
  iterResult (.div d a b) 0 d 40 (fun s => (wDiv (s.reg a) (s.reg b), 0)) s

/-- DIVN, unsigned (R99). -/
def execDivn (d a b : Reg) (s : State) : Host.Outcome State Fault Refusal :=
  iterResult (.divn d a b) 0 d 40 (fun s => (wDivn (s.reg a) (s.reg b), 0)) s

/-- REM, signed (R99). -/
def execRem (d a b : Reg) (s : State) : Host.Outcome State Fault Refusal :=
  iterResult (.rem d a b) 0 d 40 (fun s => (wRem (s.reg a) (s.reg b), 0)) s

/-- REMN, unsigned (R99). -/
def execRemn (d a b : Reg) (s : State) : Host.Outcome State Fault Refusal :=
  iterResult (.remn d a b) 0 d 40 (fun s => (wRemn (s.reg a) (s.reg b), 0)) s

/-- CMPEQ: 1 or 0 (R99). -/
def execCmpeq (d a b : Reg) (s : State) : Host.Outcome State Fault Refusal :=
  scalarResult (.cmpeq d a b) d 1 (fun s => toWord (s.reg a == s.reg b)) s

/-- CMPNE: 1 or 0 (R99). -/
def execCmpne (d a b : Reg) (s : State) : Host.Outcome State Fault Refusal :=
  scalarResult (.cmpne d a b) d 1 (fun s => toWord (s.reg a != s.reg b)) s

/-- CMPLT, signed: 1 or 0 (R99). -/
def execCmplt (d a b : Reg) (s : State) : Host.Outcome State Fault Refusal :=
  scalarResult (.cmplt d a b) d 1 (fun s => toWord ((s.reg a).slt (s.reg b))) s

/-- CMPLTN, unsigned: 1 or 0 (R99). -/
def execCmpltn (d a b : Reg) (s : State) : Host.Outcome State Fault Refusal :=
  scalarResult (.cmpltn d a b) d 1 (fun s => toWord ((s.reg a).ult (s.reg b))) s

/-- CMPLE, signed: 1 or 0 (R99). -/
def execCmple (d a b : Reg) (s : State) : Host.Outcome State Fault Refusal :=
  scalarResult (.cmple d a b) d 1 (fun s => toWord ((s.reg a).sle (s.reg b))) s

/-- CMPLEN, unsigned: 1 or 0 (R99). -/
def execCmplen (d a b : Reg) (s : State) : Host.Outcome State Fault Refusal :=
  scalarResult (.cmplen d a b) d 1 (fun s => toWord ((s.reg a).ule (s.reg b))) s

/-! ## BIT (R100) -/

/-- CLZ: 64 for 0 (R100). -/
def execClz (d a : Reg) (s : State) : Host.Outcome State Fault Refusal :=
  scalarResult (.clz d a) d 1 (fun s => wClz (s.reg a)) s

/-- CTZ: 64 for 0 (R100). -/
def execCtz (d a : Reg) (s : State) : Host.Outcome State Fault Refusal :=
  scalarResult (.ctz d a) d 1 (fun s => wCtz (s.reg a)) s

/-- POPC (R100). -/
def execPopc (d a : Reg) (s : State) : Host.Outcome State Fault Refusal :=
  scalarResult (.popc d a) d 1 (fun s => wPopc (s.reg a)) s

/-- BEXT (R100). -/
def execBext (d a b : Reg) (s : State) : Host.Outcome State Fault Refusal :=
  scalarResult (.bext d a b) d 1 (fun s => wBext (s.reg a) (s.reg b)) s

/-- BINS also reads g[D] (R100). -/
def execBins (d a b : Reg) (s : State) : Host.Outcome State Fault Refusal :=
  scalarResult (.bins d a b) d 1 (fun s => wBins (s.reg d) (s.reg a) (s.reg b)) s

/-- BREV (R100). -/
def execBrev (d a : Reg) (s : State) : Host.Outcome State Fault Refusal :=
  scalarResult (.brev d a) d 1 (fun s => wBrev (s.reg a)) s

/-! ## Immediates (R101, R102) -/

/-- ADDI: imm11 is sign-extended (R101). -/
def execAddi (d a : Reg) (i : BitVec 11) (s : State) : Host.Outcome State Fault Refusal :=
  scalarResult (.addi d a i) d 1 (fun s => s.reg a + imm11 i) s

/-- ANDI: imm11 is sign-extended (R101). -/
def execAndi (d a : Reg) (i : BitVec 11) (s : State) : Host.Outcome State Fault Refusal :=
  scalarResult (.andi d a i) d 1 (fun s => s.reg a &&& imm11 i) s

/-- ORI: imm11 is sign-extended (R101). -/
def execOri (d a : Reg) (i : BitVec 11) (s : State) : Host.Outcome State Fault Refusal :=
  scalarResult (.ori d a i) d 1 (fun s => s.reg a ||| imm11 i) s

/-- XORI: imm11 is sign-extended (R101). -/
def execXori (d a : Reg) (i : BitVec 11) (s : State) : Host.Outcome State Fault Refusal :=
  scalarResult (.xori d a i) d 1 (fun s => s.reg a ^^^ imm11 i) s

/-- SHLI by 0 to 63 (R101). -/
def execShli (d a : Reg) (i : BitVec 11) (s : State) : Host.Outcome State Fault Refusal :=
  scalarResult (.shli d a i) d 1 (fun s => wShl (s.reg a) (i.setWidth 64)) s

/-- SHRI by 0 to 63 (R101). -/
def execShri (d a : Reg) (i : BitVec 11) (s : State) : Host.Outcome State Fault Refusal :=
  scalarResult (.shri d a i) d 1 (fun s => wShr (s.reg a) (i.setWidth 64)) s

/-- SARI by 0 to 63 (R101). -/
def execSari (d a : Reg) (i : BitVec 11) (s : State) : Host.Outcome State Fault Refusal :=
  scalarResult (.sari d a i) d 1 (fun s => wSar (s.reg a) (i.setWidth 64)) s

/-- LI: imm18 sign-extended (R102). -/
def execLi (d : Reg) (i : BitVec 18) (s : State) : Host.Outcome State Fault Refusal :=
  scalarResult (.li d i) d 1 (fun _ => i.signExtend 64) s

/-- LIS: (g[D] << 18) OR imm18 (R102). -/
def execLis (d : Reg) (i : BitVec 18) (s : State) : Host.Outcome State Fault Refusal :=
  scalarResult (.lis d i) d 1 (fun s => (s.reg d <<< 18) ||| i.setWidth 64) s

/-! ## Floating point (R104, R105) -/

/-- The format of a scalar FP opcode, its latency and the latency of its iterative unit (R98). -/
def fpFmt (f64 : Bool) : Fmt := if f64 then .fp64 else .fp32
def fpLat (f64 : Bool) : Nat := if f64 then 6 else 4
def fpIter (f64 : Bool) : Nat := if f64 then 24 else 12

/-- A floating-point source: bits [31:0] of the register, or all of it. -/
def State.fpSrc (s : State) (f64 : Bool) (r : Reg) : Nat := (s.reg r).toNat % 2 ^ (fpFmt f64).width

/-- A scalar FP instruction: its result and its flags land together; bits [63:32] of an FP32 result are 0. -/
def fpResult (i : Instr) (f64 : Bool) (d : Reg) (f : Fmt → RC → State → Nat × BitVec 7) (s : State) :
    Host.Outcome State Fault Refusal :=
  issue i s fun _ s =>
    let r := f (fpFmt f64) (RC.of s.cur.rmode) s
    .ok (s.result d (BitVec.ofNat 64 r.1) (fpLat f64) r.2)

/-- An FP division or square root (R98). -/
def fpIterResult (i : Instr) (f64 : Bool) (d : Reg) (f : Fmt → RC → State → Nat × BitVec 7) (s : State) :
    Host.Outcome State Fault Refusal :=
  iterResult i 1 d (fpIter f64) (fun s => let r := f (fpFmt f64) (RC.of s.cur.rmode) s; (BitVec.ofNat 64 r.1, r.2)) s

/-- A comparison as 1 or 0. -/
def fpTest (r : Bool × BitVec 7) : Nat × BitVec 7 := (r.1.toNat, r.2)

/-- FADD: round(a + b) (R104). -/
def execFadd (f64 : Bool) (d a b : Reg) (s : State) : Host.Outcome State Fault Refusal :=
  fpResult (.fadd f64 d a b) f64 d (fun f rc s => f.add rc (s.fpSrc f64 a) (s.fpSrc f64 b)) s

/-- FSUB: round(a − b) (R104). -/
def execFsub (f64 : Bool) (d a b : Reg) (s : State) : Host.Outcome State Fault Refusal :=
  fpResult (.fsub f64 d a b) f64 d (fun f rc s => f.sub rc (s.fpSrc f64 a) (s.fpSrc f64 b)) s

/-- FMUL: round(a · b) (R104). -/
def execFmul (f64 : Bool) (d a b : Reg) (s : State) : Host.Outcome State Fault Refusal :=
  fpResult (.fmul f64 d a b) f64 d (fun f rc s => f.mul rc (s.fpSrc f64 a) (s.fpSrc f64 b)) s

/-- FDIV, correctly rounded (R104, R81). -/
def execFdiv (f64 : Bool) (d a b : Reg) (s : State) : Host.Outcome State Fault Refusal :=
  fpIterResult (.fdiv f64 d a b) f64 d (fun f rc s => f.div rc (s.fpSrc f64 a) (s.fpSrc f64 b)) s

/-- FSQRT, correctly rounded (R104, R81). -/
def execFsqrt (f64 : Bool) (d a : Reg) (s : State) : Host.Outcome State Fault Refusal :=
  fpIterResult (.fsqrt f64 d a) f64 d (fun f rc s => f.sqrt rc (s.fpSrc f64 a)) s

/-- FMIN (R79). -/
def execFmin (f64 : Bool) (d a b : Reg) (s : State) : Host.Outcome State Fault Refusal :=
  fpResult (.fmin f64 d a b) f64 d (fun f rc s => f.minmax rc false (s.fpSrc f64 a) (s.fpSrc f64 b)) s

/-- FMAX (R79). -/
def execFmax (f64 : Bool) (d a b : Reg) (s : State) : Host.Outcome State Fault Refusal :=
  fpResult (.fmax f64 d a b) f64 d (fun f rc s => f.minmax rc true (s.fpSrc f64 a) (s.fpSrc f64 b)) s

/-- FCMPEQ (R79). -/
def execFcmpeq (f64 : Bool) (d a b : Reg) (s : State) : Host.Outcome State Fault Refusal :=
  fpResult (.fcmpeq f64 d a b) f64 d (fun f rc s => fpTest (f.cmp rc FVal.eq (s.fpSrc f64 a) (s.fpSrc f64 b))) s

/-- FCMPLT (R79). -/
def execFcmplt (f64 : Bool) (d a b : Reg) (s : State) : Host.Outcome State Fault Refusal :=
  fpResult (.fcmplt f64 d a b) f64 d (fun f rc s => fpTest (f.cmp rc FVal.lt (s.fpSrc f64 a) (s.fpSrc f64 b))) s

/-- FCMPLE (R79). -/
def execFcmple (f64 : Bool) (d a b : Reg) (s : State) : Host.Outcome State Fault Refusal :=
  fpResult (.fcmple f64 d a b) f64 d (fun f rc s => fpTest (f.cmp rc FVal.le (s.fpSrc f64 a) (s.fpSrc f64 b))) s

/-- FCVTIF reads all 64 bits as I64 (R104, R80). -/
def execFcvtif (f64 : Bool) (d a : Reg) (s : State) : Host.Outcome State Fault Refusal :=
  fpResult (.fcvtif f64 d a) f64 d (fun f rc s => f.ofInt rc (s.reg a).toInt) s

/-- FCVTFI to I64, saturated (R104, R80). -/
def execFcvtfi (f64 : Bool) (d a : Reg) (s : State) : Host.Outcome State Fault Refusal :=
  fpResult (.fcvtfi f64 d a) f64 d (fun f rc s => let r := f.toInt rc (-2 ^ 63) (2 ^ 63 - 1) (s.fpSrc f64 a); (unsigned 64 r.1, r.2)) s

/-- FMA: round(a · b + g[D]), one rounding (R104). -/
def execFma (f64 : Bool) (d a b : Reg) (s : State) : Host.Outcome State Fault Refusal :=
  fpResult (.fma f64 d a b) f64 d (fun f rc s => f.fma rc (s.fpSrc f64 a) (s.fpSrc f64 b) (s.fpSrc f64 d)) s

/-! ## Bit pointers (R106, R107) -/

/-- Bits of a width code (R52). -/
def widthOf (w : BitVec 4) : Nat :=
  match w.toNat with
  | 0 => 1 | 1 => 2 | 2 => 3 | 3 => 4 | 4 => 5 | 5 => 6 | 6 => 8 | 7 => 16 | 8 => 32 | 9 => 64
  | 10 => 96 | 11 => 128 | 12 => 144 | 13 => 512 | _ => 4096

/-- The packed widths of class P (R106). -/
def packedWidth (w : Nat) : Bool := w == 3 || w == 5 || w == 6 || w == 96 || w == 144

/-- The alignment class that PCLS returns (R107). -/
def alignClass (a : Word) (w : Nat) : Word := if packedWidth w then 1 else if a.toNat % w = 0 then 0 else 2

/-- PADD: a + S(b) · w (R107). -/
def execPadd (d a b : Reg) (w : BitVec 4) (s : State) : Host.Outcome State Fault Refusal :=
  scalarResult (.padd d a b w) d 1 (fun s => BitVec.ofInt 64 ((s.reg a).toInt + (s.reg b).toInt * widthOf w)) s

/-- PSUB: a − S(b) · w (R107). -/
def execPsub (d a b : Reg) (w : BitVec 4) (s : State) : Host.Outcome State Fault Refusal :=
  scalarResult (.psub d a b w) d 1 (fun s => BitVec.ofInt 64 ((s.reg a).toInt - (s.reg b).toInt * widthOf w)) s

/-- PDIFF: S(a − b) / w, exact; ALIGNMENT where w does not divide it, with g[A] in ADDR (R107, log 86). -/
def execPdiff (d a b : Reg) (w : BitVec 4) (s : State) : Host.Outcome State Fault Refusal :=
  issue (.pdiff d a b w) s fun _ s =>
    let t := (s.reg a - s.reg b).toInt
    if t % widthOf w ≠ 0 then fail (Exc.alignment (s.reg a).toNat (widthOf w))
    else .ok (s.result d (BitVec.ofInt 64 (t / widthOf w)) 4)

/-- PALN: b + floor(S(a − b) / w) · w (R107). -/
def execPaln (d a b : Reg) (w : BitVec 4) (s : State) : Host.Outcome State Fault Refusal :=
  scalarResult (.paln d a b w) d 1 (fun s => BitVec.ofInt 64 ((s.reg b).toInt + (s.reg a - s.reg b).toInt / (widthOf w : Int) * widthOf w)) s

/-- PCLS: the alignment class (R107). -/
def execPcls (d a : Reg) (w : BitVec 4) (s : State) : Host.Outcome State Fault Refusal :=
  scalarResult (.pcls d a w) d 1 (fun s => alignClass (s.reg a) (widthOf w)) s

end Sys2Proof.Machine
end

