-- ==== Sys2Proof/Machine/Atomics.lean ====
section
/-! DEFINITION. Atomics (R272 to R280): checks, flavours, the word itself, and the thirteen subfunctions. -/

namespace Sys2Proof.Machine

/-- Width of an atomic. -/
def atomWidth (w32 : Bool) : Nat := if w32 then 32 else 64

/-- Where the word of an atomic stands (R272, step 1): LOCAL on a compute core, DEVICE on a system core. -/
def State.atomPlace (s : State) (a w : Nat) : Except Stop (Place × Nat) :=
  if s.onSys then
    if spaceOf a != 2 || !inField a w then fail (Exc.space a)
    else match translate s.sysTables s.bar.sysroot.toNat (a % 2 ^ 57) true with
      | some pa => .ok (.phys, pa)
      | none => fail (Exc.translation a)
  else if spaceOf a != 0 || !inField a w then fail (Exc.space a)
  else .ok (.loc s.focusCore, a)

/-- Whether a sector counts as a declared sync sector for an atomic (R272, step 3). -/
def State.atomSync (s : State) (p : Place) (sec : Nat) : Bool :=
  s.syncAt p sec || (s.onSys && Config.scerathSector sec)

/-- A release waits until the context's stores are written and its turnarounds have completed; inside a span it does
not wait, and what is unmet at the bank cycle raises TIMING (R278). -/
def State.releaseReady (s : State) (a : Nat) : Except Stop Unit :=
  let me := s.curCore.me
  let drains := s.focusCtx == s.lr.meown && (me.queue ++ me.running).any fun m => m.kind == .drain
  let late := s.cur.writes.foldl (fun m q => Nat.max m q.2) 0
  if s.cur.span.isSome then
    let turned := match s.turnsEnd s.focusCore s.focusCtx with | some t => decide (t ≤ s.now + 2) | none => false
    let drained := s.focusCtx != s.lr.meown || ((me.queue.all fun m => m.kind != .drain)
      && me.running.all fun m => m.kind != .drain || decide (m.lastWrite < s.now + 2))
    failIf (!(s.cur.turns.isEmpty || turned) || !drained || (!s.cur.writes.isEmpty && s.now + 2 ≤ late)) (Exc.timing a)
  else if !s.cur.turns.isEmpty || drains then .error .event
  else if !s.cur.writes.isEmpty && s.now ≤ late then .error (.until (late + 1))
  else .ok ()

/-- Atomics of one context to one word issue at most one per 2 cycles (R277). -/
def State.atomInterval (s : State) (a : Nat) : Except Stop Unit :=
  match s.cur.atomAt with
  | some t =>
    if s.cur.atomWord = a / 64 && s.now < t + 2 then
      (if s.cur.span.isSome then fail (Exc.timing a) else .error (.until (t + 2)))
    else .ok ()
  | none => .ok ()

/-- An acquire that reads a value from a release, or from an atomic after one, increases the core's order count; a release
marks its word, and where it writes nothing the next write there follows it (R268, R279). -/
def Core.ordered (k : Core) (word : Nat) (acq rel wrote : Bool) : Core :=
  { k with order := if acq && k.relWords.contains word then k.order + 1 else k.order
           relWords := if wrote && (rel || k.relSeen.contains word) then NSet.add k.relWords word else k.relWords
           relSeen := if rel && !wrote then NSet.add k.relSeen word else k.relSeen }

/-- What an atomic leaves in its context: when it is whole, and its result, which lands after `lat` cycles (R275, R277,
R278). -/
def State.atomLand (s : State) (op : AtomOp) (fl : BitVec 2) (dr : BitVec 5) (a lat : Nat) (flags : BitVec 7) (old : Nat) : State :=
  let s := s.modCur fun c => { c with atomWord := a / 64, atomAt := some s.now
                                      acqAt := if fl == 1 then s.now + lat else c.acqAt }
  if !op.reads then s.modCur fun c => { c with doneAt := Nat.max c.doneAt (s.now + 4) }
  else if dr = 0 then
    (if op ≠ .fadd then s.modCur fun c => { c with doneAt := Nat.max c.doneAt (s.now + lat) }
     else s.modCur fun c => { c with land := c.land ++ [{ cycle := s.now + lat, reg := 0, val := 0, flags := flags, load := true, inSpan := c.span.isSome }] })
  else s.result (dr.setWidth 7) (BitVec.ofNat 64 old) lat flags true

/-- An atomic takes its place among the writes on their way to its sector: it reads and writes its word in the cycles of its
bank (R277). -/
def Core.atomLate (k : Core) (now at0 : Nat) (p : Patch) : Core :=
  let sec := at0 / 512
  { k with loc := k.loc.lateRaw now (wordsIn k.relWords sec, wordsIn k.relSeen sec) p sec }

/-- An atomic after its checks: one of a system core that writes word 0 of the last header of the ready queue links a
segment (R303). The word is read, combined and written (R275, R276, R280), on a compute core in the order of the bank of its
sector, 2 cycles after issue (R277). The result lands after `lat` cycles; on a system core after a time that is not fixed
(R277). -/
def State.atomRun (s : State) (op : AtomOp) (w32 : Bool) (fl : BitVec 2) (dr : BitVec 5) (a : Nat) (p : Place) (at0 x c : Nat) :
    Except Stop State := do
  let w := atomWidth w32
  let m := s.spaceAt p
  failIf ((op.reads || w32) && m.bad (at0 / 64)) { Exc.poison (a / 64 * 64) with place := some p, word := some (at0 / 64) }
  let m := if op.reads || w32 then m.repair (at0 / 64) else m
  let old := m.readBits at0 w
  let (new, flags) := op.apply w old x c
  let wrote := op.writes new old
  let (n, s) := if s.onSys then s.drawNat else (0, s)
  let lat := op.latency + n
  let reg := physReg s.cur.wb dr.toNat
  if s.onSys then
    let s := s.setSpace p (if wrote then m.writeRaw at0 w (new % 2 ^ w) else m)
    let s := if p == .phys && wrote && at0 / 64 == Config.readyHeader (s.disp.segs - 1) && s.disp.segs < 16 then
        { s with disp := { s.disp with segs := s.disp.segs + 1 } }
      else s
    .ok (s.atomLand op fl dr a lat flags old)
  else
    let late : Patch := { cycle := s.now + 3, off := at0 % 512, bits := w, val := 0, ctx := s.focusCtx, issued := s.now
                          atom := some { op := op, x := x, cmp := c, acq := fl == 1, rel := fl == 2, reg := reg, land := s.now + lat
                                         saw := fl == 1 && s.curCore.relWords.contains (at0 / 64) } }
    let s := s.modCurCore fun k => ({ k with loc := m } : Core).atomLate s.now at0 late
    let s := s.modCurCore fun k => { k with loc := if wrote then k.loc.writeRaw at0 w (new % 2 ^ w) else k.loc }
    let s := s.modCurCore fun k => k.ordered (at0 / 64) (fl == 1) (fl == 2) wrote
    let t := (s.atomLand op fl dr a lat flags old).modCurCore fun k => k.settleAll s.now [at0 / 512]
    t.claim s.focusCore [s.use (at0 / 512) (s.now + 2) 2 true [(at0, w)] (.lands reg (s.now + if op.reads then lat else 4) none)]

/-! ## The security mailbox as Scerath reaches it (R357, log 66) -/

/-- Where Scerath's mapping of the mailbox begins: SCCMD, SCSTAT and, from its eighth word on, the words of SCBUF. -/
def mailboxBase : Nat := 2 ^ 62 + 2 ^ 56 + 2 ^ 16 * Config.mailbox.toNat

/-- The word of the mailbox at an address of a system core. -/
def State.mailWord (s : State) (a : Nat) : Option Nat :=
  if !s.onSys || a < 2 ^ 62 + 2 ^ 56 then none
  else if mailboxBase ≤ a && a < mailboxBase + 64 * 520 then some ((a - mailboxBase) / 64) else none

/-- What a word of the mailbox reads. -/
def Sec.word (x : Sec) (k : Nat) : Nat :=
  if k = 0 then x.cmd.toNat else if k = 1 then x.stat.toNat else if k < 8 then 0 else x.buf.bytes (8 * (k - 8)) 8

/-- An input of this cycle, behind those of the host. -/
def State.addInput (s : State) (i : Instr) : State :=
  { s with inbox := (s.inbox.filter fun q => decide (q.1 ≤ s.now)) ++ (s.now, i) :: s.inbox.filter fun q => decide (s.now < q.1) }

/-- A write of Scerath to a word of the mailbox: one to SCCMD comes after a host write of its cycle. -/
def State.mailWrite (s : State) (k x : Nat) : State :=
  if k = 0 then
    s.addInput (match x % 256 with
      | 1 => .scReadPublicKey | 2 => .scAttest | 3 => .scReadSignatureIndex | _ => .scUnknownCommand (BitVec.ofNat 64 x))
  else if k < 8 then s
  else { s with sec := { s.sec with buf := s.sec.buf.setBytes (8 * (k - 8)) 8 x } }

/-- An atomic on n bits from bit b of a word of the mailbox. -/
def State.mailRun (s : State) (op : AtomOp) (w32 : Bool) (fl : BitVec 2) (dr : BitVec 5) (a k x c : Nat) : State :=
  let w := atomWidth w32
  let word := s.sec.word k
  let b := a % 64
  let old := word / 2 ^ b % 2 ^ w
  let (new, flags) := op.apply w old x c
  let (n, s) := s.drawNat
  let s := if op.writes new old then s.mailWrite k (word - old * 2 ^ b + new % 2 ^ w * 2 ^ b) else s
  s.atomLand op fl dr a (op.latency + n) flags old

/-! ## The atomics -/

/-- What an atomic does: the checks of R272 in their order, its flavour's wait, its interval, and its effect. -/
def State.atomBody (s : State) (op : AtomOp) (w32 : Bool) (fl : BitVec 2) (dr : BitVec 5) (a b : Reg) : Except Stop State := do
  let w := atomWidth w32
  let ad := (s.reg a).toNat
  let x := (s.reg b).toNat % 2 ^ w
  let c := (s.reg (dr.setWidth 7)).toNat % 2 ^ w
  match s.mailWord ad with
  | some k =>
    failIf (ad % w != 0) (Exc.alignment ad w)
    if fl = 2 then s.releaseReady ad
    s.atomInterval ad
    .ok (s.mailRun op w32 fl dr ad k x c)
  | none =>
  let (p, at0) ← s.atomPlace ad w
  failIf (ad % w != 0) (Exc.alignment ad w)
  failIf (!s.atomSync p (at0 / 512)) (Exc.sync ad)
  if fl = 2 then s.releaseReady ad
  s.atomInterval ad
  s.atomRun op w32 fl dr ad p at0 x c

/-- An atomic on g[A] with the operands g[B] and g[DR] (R272, R275). -/
def atomic (i : Instr) (op : AtomOp) (w32 : Bool) (fl : BitVec 2) (dr : BitVec 5) (a b : Reg) (s : State) : Host.Outcome State Fault Refusal :=
  issue i s fun _ s => s.atomBody op w32 fl dr a b

/-- AADD: (old + x) mod 2^w (R275). -/
def execAadd (w32 : Bool) (fl : BitVec 2) (dr : BitVec 5) (a b : Reg) (s : State) : Host.Outcome State Fault Refusal :=
  atomic (.aadd w32 fl dr a b) .add w32 fl dr a b s

/-- AAND (R275). -/
def execAand (w32 : Bool) (fl : BitVec 2) (dr : BitVec 5) (a b : Reg) (s : State) : Host.Outcome State Fault Refusal :=
  atomic (.aand w32 fl dr a b) .and w32 fl dr a b s

/-- AOR (R275). -/
def execAor (w32 : Bool) (fl : BitVec 2) (dr : BitVec 5) (a b : Reg) (s : State) : Host.Outcome State Fault Refusal :=
  atomic (.aor w32 fl dr a b) .or w32 fl dr a b s

/-- AXOR (R275). -/
def execAxor (w32 : Bool) (fl : BitVec 2) (dr : BitVec 5) (a b : Reg) (s : State) : Host.Outcome State Fault Refusal :=
  atomic (.axor w32 fl dr a b) .xor w32 fl dr a b s

/-- AMIN, signed (R275). -/
def execAmin (w32 : Bool) (fl : BitVec 2) (dr : BitVec 5) (a b : Reg) (s : State) : Host.Outcome State Fault Refusal :=
  atomic (.amin w32 fl dr a b) .min w32 fl dr a b s

/-- AMAX, signed (R275). -/
def execAmax (w32 : Bool) (fl : BitVec 2) (dr : BitVec 5) (a b : Reg) (s : State) : Host.Outcome State Fault Refusal :=
  atomic (.amax w32 fl dr a b) .max w32 fl dr a b s

/-- AMINN, unsigned (R275). -/
def execAminn (w32 : Bool) (fl : BitVec 2) (dr : BitVec 5) (a b : Reg) (s : State) : Host.Outcome State Fault Refusal :=
  atomic (.aminn w32 fl dr a b) .minn w32 fl dr a b s

/-- AMAXN, unsigned (R275). -/
def execAmaxn (w32 : Bool) (fl : BitVec 2) (dr : BitVec 5) (a b : Reg) (s : State) : Host.Outcome State Fault Refusal :=
  atomic (.amaxn w32 fl dr a b) .maxn w32 fl dr a b s

/-- AXCHG (R275). -/
def execAxchg (w32 : Bool) (fl : BitVec 2) (dr : BitVec 5) (a b : Reg) (s : State) : Host.Outcome State Fault Refusal :=
  atomic (.axchg w32 fl dr a b) .xchg w32 fl dr a b s

/-- ACAS: x where old = g[DR], else old; a failed one writes nothing (R275). -/
def execAcas (w32 : Bool) (fl : BitVec 2) (dr : BitVec 5) (a b : Reg) (s : State) : Host.Outcome State Fault Refusal :=
  atomic (.acas w32 fl dr a b) .cas w32 fl dr a b s

/-- AFADD: RNE(old + x) without FTZ; its flags arrive with the result (R275). -/
def execAfadd (w32 : Bool) (fl : BitVec 2) (dr : BitVec 5) (a b : Reg) (s : State) : Host.Outcome State Fault Refusal :=
  atomic (.afadd w32 fl dr a b) .fadd w32 fl dr a b s

/-- ALD: the old value (R275). -/
def execAld (w32 : Bool) (fl : BitVec 2) (dr : BitVec 5) (a : Reg) (s : State) : Host.Outcome State Fault Refusal :=
  atomic (.ald w32 fl dr a) .ld w32 fl dr a 0 s

/-- AST: x; it has no result (R275). -/
def execAst (w32 : Bool) (fl : BitVec 2) (a b : Reg) (s : State) : Host.Outcome State Fault Refusal :=
  atomic (.ast w32 fl a b) .st w32 fl 0 a b s

end Sys2Proof.Machine
end

