-- ==== Sys2Proof/Machine/Control.lean ====
section
/-! DEFINITION. Control flow, sealed spans, lanes and vector length (R108 to R125). -/

namespace Sys2Proof.Machine

/-! ## Transfers of control (R109 to R114) -/

/-- Control goes to a target, with one bubble (R112); a branch or a plain jump may leave loops. -/
def State.jump (s : State) (here target : Nat) (leaves : Bool) : State :=
  s.modCur fun c => { c with pc := target, issueAt := s.now + 2
                             loops := if leaves then leaveLoops here target c.loops else c.loops }

/-- BR: always taken. -/
def execBr (i : BitVec 18) (s : State) : Host.Outcome State Fault Refusal :=
  issue (.br i) s fun here s => .ok (s.jump here (branchTarget here i) true)

/-- BZ: taken when g[D] = 0. -/
def execBz (d : Reg) (o : BitVec 18) (s : State) : Host.Outcome State Fault Refusal :=
  issue (.bz d o) s fun here s => .ok (if s.reg d = 0 then s.jump here (branchTarget here o) true else s)

/-- BNZ: taken when g[D] ≠ 0. -/
def execBnz (d : Reg) (o : BitVec 18) (s : State) : Host.Outcome State Fault Refusal :=
  issue (.bnz d o) s fun here s => .ok (if s.reg d ≠ 0 then s.jump here (branchTarget here o) true else s)

/-- CALL: the link goes to g[D]. -/
def execCall (d : Reg) (o : BitVec 18) (s : State) : Host.Outcome State Fault Refusal :=
  issue (.call d o) s fun here s =>
    .ok ((s.result d (BitVec.ofNat 64 (here + 32)) 1).jump here (branchTarget here o) false)

/-- JR: the target is read before the link is written. -/
def execJr (d a : Reg) (s : State) : Host.Outcome State Fault Refusal :=
  issue (.jr d a) s fun here s =>
    let t := (s.reg a).toNat
    .ok ((s.result d (BitVec.ofNat 64 (here + 32)) 1).jump here t (d == 0))

/-- LOOP: a copy of g[D] counts the iterations; a count of 0 skips the body (R113). -/
def execLoop (d : Reg) (o : BitVec 18) (s : State) : Host.Outcome State Fault Refusal :=
  issue (.loop d o) s fun here s =>
    let n := (s.reg d).toNat
    let off := o.toInt.toNat
    if 4 ≤ s.cur.loops.length then fail Exc.loopDepth
    else if n = 0 then .ok (s.jump here (here + (off + 1) * 32) false)
    else .ok (s.modCur fun c => { c with loops := { start := here + 32, stop := here + off * 32, count := n } :: c.loops })

/-! ## Guards (R116) -/

/-- The guard has been read: the members are suppressed when it fails. -/
def State.guard (s : State) (pass : Bool) : State :=
  s.modCur fun c => { c with cv := c.cv.map fun v => { v with failed := !pass } }

/-- GUARD.NZ passes when g[A] ≠ 0. -/
def execGuardNz (a : Reg) (s : State) : Host.Outcome State Fault Refusal :=
  issue (.guardNz a) s fun _ s => .ok (s.guard (s.reg a != 0))

/-- GUARD.Z passes when g[A] = 0. -/
def execGuardZ (a : Reg) (s : State) : Host.Outcome State Fault Refusal :=
  issue (.guardZ a) s fun _ s => .ok (s.guard (s.reg a == 0))

/-! ## NOP, EXIT and SPAN (R117, R124, R125) -/

/-- NOP changes no state but the pc and the cycle. -/
def execNop (s : State) : Host.Outcome State Fault Refusal := issue .nop s fun _ s => .ok s

/-- EXIT: the context fetches no more; it is EXITED when the conditions of R125 hold. -/
def execExit (s : State) : Host.Outcome State Fault Refusal :=
  issue .exit s fun _ s => .ok (s.modCur fun c => { c with exiting := true })

/-- SPAN opens a span over the following words (R117). -/
def execSpan (i : BitVec 11) (s : State) : Host.Outcome State Fault Refusal :=
  issue (.span i) s fun here s =>
    .ok (s.modCur fun c => { c with span := some { word := here, first := here + 32, last := here + 32 * i.toNat
                                                   start := s.now + 1 } })

/-! ## Lanes, length and mask (R120 to R123) -/

/-- VPART records a request for the next SETL; it replaces an earlier one. -/
def execVpart (a : Reg) (s : State) : Host.Outcome State Fault Refusal :=
  issue (.vpart a) s fun _ s => .ok (s.modCur fun c => { c with vpart := some (s.reg a).toNat })

/-- Lanes of a core that no context holds. -/
def Core.freeLanes (k : Core) : Nat := 64 - k.ctxs.foldl (fun n p => n + p.2.grant) 0

/-- The slot width that SW of a request names (R121). -/
def setlWidth (r : Word) : Nat :=
  match field r.toNat 50 48 with | 0 => 8 | 1 => 16 | 2 => 32 | 3 => 64 | _ => 256

/-- The span that a span code names. -/
def spanOf (b : Reg) : Nat := match b.toNat with | 0 => 1 | 1 => 2 | 2 => 4 | _ => 8

/-- The grant after a pending request: it shrinks always and grows by the free lanes; a system core, which is scalar-only
(R16), has none. -/
def State.newGrant (s : State) : Nat :=
  let c := s.cur
  match c.vpart with | some p => Nat.min p (c.grant + if s.onSys then 0 else s.curCore.freeLanes) | none => c.grant

/-- SETL (R121): a shrinking grant first lets the convoys already pushed retire. -/
def execSetl (d a b : Reg) (s : State) : Host.Outcome State Fault Refusal :=
  issue (.setl d a b) s fun _ s =>
    let c := s.cur
    let r := s.reg a
    let g := s.newGrant
    if g < c.grant && !c.vq.isEmpty then .error .event
    else
      let vl := Nat.min (field r.toNat 47 0) (spanOf b * g * 32 / setlWidth r)
      .ok ((s.setCur { c with grant := g, vpart := none, vl := vl, vspan := spanOf b }).result d (BitVec.ofNat 64 vl) 1)

/-- The vector state that VREL leaves (R122). -/
def Ctx.release (c : Ctx) : Ctx :=
  { c with grant := 0, vl := 0, vspan := 1, cmsel := 0, vpart := none
           v := [], tags := [], vvalid := [], vread := [], m := [], mrdy := [], mland := [], k := [] }

/-- VREL waits until every pushed convoy has retired, then gives the lanes up (R122). -/
def execVrel (s : State) : Host.Outcome State Fault Refusal :=
  issue .vrel s fun _ s => if !s.cur.vq.isEmpty then .error .event else .ok (s.modCur Ctx.release)

/-- MSEL: CMSEL := B (R123). -/
def execMsel (b : Reg) (s : State) : Host.Outcome State Fault Refusal :=
  issue (.msel b) s fun _ s => .ok (s.modCur fun c => { c with cmsel := b.toNat })

end Sys2Proof.Machine
end

