-- ==== Sys2Proof/Machine/Special.lean ====
section
/-! DEFINITION. The special registers (R67 to R71, R103): MFS, MTS and WIN. -/

namespace Sys2Proof.Machine

/-! ## Values -/

/-- MSTATE as MSTAT and MFS read it (R223); at a first start it shows the shape of R201 (log 68). -/
def Mat.mstate (m : Mat) : Word :=
  let run (p : MKind → Bool) : Nat := (m.running.any fun c => p c.kind).toNat
  BitVec.ofNat 64 (m.gm + 2 ^ 8 * m.gn + 2 ^ 16 * m.gk + 2 ^ 24 * m.sp.toNat
    + 2 ^ 28 * (m.ptact.toNat % 64) + 2 ^ 34 * (m.ptsh.toNat % 64) + 2 ^ 40 * m.pspact.toNat + 2 ^ 41 * m.pspsh.toNat
    + 2 ^ 42 * run (fun k => match k with | .drain => false | .ldw => false | .ldws => false | _ => true)
    + 2 ^ 43 * run (fun k => k == .ldw || k == .ldws) + 2 ^ 44 * run (· == .drain)
    + 2 ^ 45 * Nat.min m.queue.length 4)

/-- Element groups of 8 columns in the drain order of a drain: the largest magnitude of group g (R218). -/
def MCmd.groupMax (m : MCmd) (g : Nat) : BitVec 32 :=
  let per := ceilDiv m.cols 8
  let row := g / per
  let col := g % per * 8
  (rangeFrom col (Nat.min 8 (m.cols - col))).foldl (fun (acc : BitVec 32) j =>
    let x := (SMap.get 0 m.res (64 * row + j)).setWidth 32 &&& 0x7FFFFFFF
    let x := if 0x7F800000 < x.toNat then 0x7FC00000 else x
    if acc.toNat < x.toNat then x else acc) 0

/-- Element groups of a drain. -/
def MCmd.groupCount (m : MCmd) : Nat := m.rows * ceilDiv m.cols 8

/-- Take the next n element groups of the running drains into AMAX, in drain order (R218). -/
def Mat.takeGroups (e : Mat) (n : Nat) : Mat :=
  let r := e.running.foldl (fun (acc : List MCmd × Nat × BitVec 32) m =>
    if m.kind != .drain then (acc.1 ++ [m], acc.2)
    else
      let k := Nat.min acc.2.1 (m.groupCount - m.amaxed)
      let top := (rangeFrom m.amaxed k).foldl (fun (a : BitVec 32) g =>
        if a.toNat < (m.groupMax g).toNat then m.groupMax g else a) acc.2.2
      (acc.1 ++ [{ m with amaxed := m.amaxed + k }], acc.2.1 - k, top)) ([], n, e.amax)
  { e with running := r.1, amax := r.2.2 }

/-- Before a read of AMAX: while a drain runs, a free number of further groups has been taken (R218). -/
def State.amaxPrefix (s : State) : State :=
  if s.curCore.me.running.any (fun m => m.kind == .drain && decide (m.amaxed < m.groupCount)) then
    let (n, s) := s.drawNat
    s.modCurCore fun k => { k with me := k.me.takeGroups n }
  else s

/-- MODE (R70). -/
def State.mode (s : State) : Word :=
  let c := s.cur
  BitVec.ofNat 64 (c.priv.toNat + 2 * c.span.isSome.toNat + 4 * (c.st == .arrived || c.st == .waiting).toNat
    + 8 * s.onSys.toNat)

/-- IDENT (R70). -/
def ident : Word := BitVec.ofNat 64 (0x3C4 * 2 ^ 32 + 2 ^ 16 + 2 ^ 8 + Config.stepB0.toNat)

/-- TRAPCAUSE (R301). -/
def Ctx.trapcause (c : Ctx) : Word :=
  BitVec.ofNat 64 (c.cause.toNat + 2 ^ 62 * c.inh.toNat + 2 ^ 63 * c.pprv.toNat)

/-- What the slice's record gives; a system core has no launch record and reads 0 (log 11). -/
def State.ofSlice (s : State) (f : SliceRun → Nat) : Word :=
  if s.onSys then 0 else match s.slice with | some r => BitVec.ofNat 64 (f r) | none => 0

/-- The value of a special register (R68); 0 for a number that MFS may not read. CORE is k on system core k (log 11). -/
def State.special (s : State) (n : Nat) : Word :=
  let c := s.cur
  match n with
  | 0x00 => BitVec.ofNat 64 (s.focusCore % 1024)
  | 0x01 => s.ofSlice fun r => r.cores.length
  | 0x02 => BitVec.ofNat 64 s.focusCtx
  | 0x03 => s.ofSlice fun r => r.lr.sliceid
  | 0x04 => if s.onSys then s.phc else c.view
  | 0x05 => BitVec.ofNat 64 (s.vcycOf s.focusCore)
  | 0x06 => s.dtime
  | 0x07 => s.ofSlice fun r => r.budgetLeft s.now
  | 0x08 => s.ofSlice fun r => r.deadline
  | 0x09 => s.ofSlice fun r => r.lr.hgl
  | 0x0A => BitVec.ofNat 64 c.wb
  | 0x0B => BitVec.ofNat 64 c.vl
  | 0x0C => BitVec.ofNat 64 c.vspan
  | 0x0D => BitVec.ofNat 64 c.grant
  | 0x0E => BitVec.ofNat 64 c.cmsel
  | 0x0F => flgWord c.flg
  | 0x10 => rmodeWord c.rmode
  | 0x11 => c.seed
  | 0x12 => c.stepr
  | 0x13 => BitVec.ofNat 64 (match c.loops with | e :: _ => e.count | [] => 0)
  | 0x14 => BitVec.ofNat 64 c.loops.length
  | 0x15 => BitVec.ofNat 64 c.turncur
  | 0x16 => BitVec.ofNat 64 (c.xaccAt s.now)
  | 0x17 => s.curCore.me.mstate
  | 0x18 => s.curCore.me.amax.setWidth 64
  | 0x19 => c.trapcause
  | 0x1A => c.trappc
  | 0x1B => c.trapinfo
  | 0x1C => s.mode
  | 0x1D => s.ofSlice fun r => r.lr.ltbase
  | 0x1E => s.ofSlice fun r => r.lr.racem
  | 0x1F => ident
  | 0x20 => s.ofSlice fun r => r.lr.tclass
  | _ => 0

/-- The context after MTS (R55, R68, R69, R301); reserved bits are ignored (R5). -/
def Ctx.writeSpecial (c : Ctx) (n : Nat) (x : Word) : Ctx :=
  match n with
  | 0x0A => { c with wb := x.toNat % 512 }
  | 0x0E => { c with cmsel := x.toNat % 8 }
  | 0x0F => { c with flg := flgOfWord x }
  | 0x10 => { c with rmode := rmodeOfWord x }
  | 0x11 => { c with seed := x }
  | 0x12 => { c with stepr := x }
  | 0x19 => { c with cause := x.setWidth 8, inh := x.getLsbD 62, pprv := x.getLsbD 63 }
  | 0x1A => { c with trappc := x }
  | 0x1B => { c with trapinfo := x }
  | _ => c

/-- Outside a span, FLG, AMAX and MSTATE wait until every earlier convoy has retired (R71, R103). -/
def State.waitRetired (s : State) : Except Stop Unit :=
  let c := s.cur
  if c.span.isSome then .ok ()
  else if !c.vq.isEmpty then .error .event
  else
    let last := c.land.foldl (fun acc l => Nat.max acc l.cycle) c.doneAt
    if s.now < last then .error (.until last) else .ok ()

/-! ## The instructions -/

/-- MFS n, g[D] := special register n (R67, R71). -/
def execMfs (d : Reg) (n : BitVec 11) (s : State) : Host.Outcome State Fault Refusal :=
  issue (.mfs d n) s fun _ s => do
    if n.toNat = 0x0F || n.toNat = 0x17 || n.toNat = 0x18 then s.waitRetired
    let s := if n.toNat = 0x18 then s.amaxPrefix else s
    .ok (s.result d (s.special n.toNat) 1)

/-- MTS n, special register n := g[D] (R67, R103); flags that arrive in the same cycle inside a span are kept (R329). -/
def execMts (d : Reg) (n : BitVec 11) (s : State) : Host.Outcome State Fault Refusal :=
  issue (.mts d n) s fun _ s => do
    if n.toNat = 0x0F then s.waitRetired
    let c := s.cur.writeSpecial n.toNat (s.reg d)
    .ok (s.setCur (if n.toNat = 0x0F && c.flagsAt = s.now && c.span.isSome then { c with flg := c.flg ||| c.flagsIn } else c))

/-- WIN: WB := (WB + imm11 · 16) mod 512 (R55). -/
def execWin (i : BitVec 11) (s : State) : Host.Outcome State Fault Refusal :=
  issue (.win i) s fun _ s =>
    .ok (s.modCur fun c => { c with wb := (((c.wb : Int) + i.toInt * 16) % 512).toNat })

end Sys2Proof.Machine
end

