-- ==== Sys2Proof/Machine/Net.lean ====
section
/-! DEFINITION. Descriptors (R249), the grid and the paths of the network, the cycles of every beat (R255 to R257),
the claims (R260), and the sources and destinations that beats read and write (R252). -/

namespace Sys2Proof.Machine

/-! ## The descriptor (R249) -/

def Desc.fld (d : Desc) (hi lo : Nat) : Nat := field d.bits hi lo
def Desc.SRC (d : Desc) : Nat := d.fld 63 0
def Desc.DST (d : Desc) : Nat := d.fld 127 64
def Desc.LEN (d : Desc) : Nat := d.fld 159 128
def Desc.START (d : Desc) : Nat := d.fld 191 160
def Desc.GROUP (d : Desc) : Nat := d.fld 199 192
def Desc.KIND (d : Desc) : Nat := d.fld 202 200
def Desc.MERGE (d : Desc) : Bool := d.fld 203 203 == 1
def Desc.EXP24 (d : Desc) : Bool := d.fld 204 204 == 1
def Desc.DLTE (d : Desc) : Bool := d.fld 205 205 == 1
def Desc.ROP (d : Desc) : Nat := d.fld 208 206
def Desc.RFMT (d : Desc) : Nat := d.fld 215 209
def Desc.TOLL (d : Desc) : Nat := d.fld 218 216
def Desc.TOLV (d : Desc) : Bool := d.fld 219 219 == 1
def Desc.LANE (d : Desc) : Nat := d.fld 221 220
def Desc.DIR (d : Desc) : Nat := d.fld 223 222
def Desc.SETLO (d : Desc) : Nat := d.fld 233 224
def Desc.SETHI (d : Desc) : Nat := d.fld 243 234

/-- The subfunction of a kind (R249). -/
def DKind.code (k : DKind) : Nat := match k with | .xfer => 0 | .halo => 1 | .xred => 2 | .xcast => 3 | .xfar => 4

/-- Term width of a reduction and result width, when RFMT and ROP form a pair of R253. -/
def redWidths (rop rfmt : Nat) : Option (Nat × Nat) :=
  if rop = 0 then
    match rfmt with | 0x0C => some (32, 32) | 0x0B => some (16, 32) | 0x0A => some (16, 32) | _ => none
  else if rop ≤ 6 then
    match rfmt with | 6 => some (32, 32) | 7 => some (32, 32) | 8 => some (64, 64) | 9 => some (64, 64) | _ => none
  else none

/-- Size of a sparse bundle of R209 that EXP24 takes, and of the dense block it fills. -/
def expandSizes (rfmt : Nat) : Option (Nat × Nat) :=
  match Pip.ofCode rfmt with
  | some p => some (p.bundle, p.bs)
  | none => if rfmt = 0x0A || rfmt = 0x0B then some (144, 256) else none

/-- Bits that the descriptor writes: terms widen to results (R253), and bundles to blocks (R254). -/
def Desc.dstLen (d : Desc) : Nat :=
  match d.kind with
  | .xred => (match redWidths d.ROP d.RFMT with | some (wt, wr) => d.LEN / wt * wr | none => d.LEN)
  | .xfar => if d.EXP24 then (match expandSizes d.RFMT with | some (b, o) => d.LEN / b * o | none => d.LEN) else d.LEN
  | _ => d.LEN

/-- The address by which a descriptor names bit `pos` of its destination: that of the element it lies in, where a layout entry
gives the destination (R254, R270). -/
def Desc.dstName (d : Desc) (pos : Nat) : Nat :=
  if d.elems.isEmpty then d.DST + pos
  else
    let w := d.dstLen / d.elems.length
    d.elems.getD (pos / w) 0 + pos % w

/-! ## The grid (R9, R14) -/

def gridRow (c : Nat) : Nat := 8 * (c / 64 / 4) + c % 64 / 8
def gridCol (c : Nat) : Nat := 8 * (c / 64 % 4) + c % 8
/-- The core at a grid position. -/
def coreAt (r c : Nat) : Nat := 64 * (4 * (r / 8) + c / 8) + 8 * (r % 8) + c % 8

/-- The neighbour of a core in a direction of R249; the grid does not wrap. -/
def neighbour (c dir : Nat) : Option Nat :=
  let row := gridRow c
  let col := gridCol c
  match dir with
  | 0 => if row = 0 then none else some (coreAt (row - 1) col)
  | 1 => if col = 31 then none else some (coreAt row (col + 1))
  | 2 => if row = 31 then none else some (coreAt (row + 1) col)
  | _ => if col = 0 then none else some (coreAt row (col - 1))

/-- Distance of two cores along rows and columns. -/
def hops (x y : Nat) : Nat :=
  (gridRow x - gridRow y) + (gridRow y - gridRow x) + (gridCol x - gridCol y) + (gridCol y - gridCol x)

/-- The hops of a route, along the row first and then along the column (R256). -/
def route : Nat → Nat → Nat → List (Nat × Nat)
  | 0, _, _ => []
  | n + 1, a, b =>
    if a = b then []
    else
      let r := gridRow a
      let c := gridCol a
      let next := if c < gridCol b then coreAt r (c + 1) else if gridCol b < c then coreAt r (c - 1)
        else if r < gridRow b then coreAt (r + 1) c else coreAt (r - 1) c
      (a, next) :: route n next b

/-- Hj(c, s, t): the (j + 1)-th cycle at or after t in which cluster c holds the token of slice s (R257). -/
def tokenCycle (c s t j : Nat) : Nat :=
  let dd := 4 * ((c % 16 + 64 - s) % 16)
  let r := t % 64
  let n := if r < dd + 4 then t / 64 else t / 64 + 1
  let k := if r < dd || dd + 4 ≤ r then j else r - dd + j
  64 * (n + k / 4) + dd + k % 4

/-! ## Paths (R255 to R257) -/

/-- The path of a timed descriptor: the cores at its ends, the slice, or the destination clusters with their cores. -/
inductive NetPath where
  | none
  | link (i dest : Nat)
  | mesh (i a b : Nat)
  | toSlice (i b slice : Nat)
  | fromSlice (i b slice : Nat)
  | cast (i slice : Nat) (dests : List (Nat × List Nat))
  deriving DecidableEq, Repr

/-- Slice of a physical address in slice SRAM (R306). -/
def sliceOf (pa : Nat) : Nat := field pa 32 27

/-- The slice a DEVICE end translates to, by its first piece. -/
def endSlice (l : List (Place × Nat × Nat)) : Nat := match l with | (_, pa, _) :: _ => sliceOf pa | [] => 0

/-- The core of a LOCAL or CLUSTER end. -/
def endCore (i a : Nat) : Nat := if spaceOf a = 1 then clusterCore i a else i

/-- Participating cores from lo to hi by cluster (R252). -/
def castDests (cores : List Nat) (lo hi : Nat) : List (Nat × List Nat) :=
  (rangeFrom 0 16).filterMap fun c =>
    match cores.filter fun x => decide (lo ≤ x) && decide (x ≤ hi) && x / 64 == c with
    | [] => Option.none
    | l => some (c, l)

/-- Width of the path (R255 to R257). -/
def Desc.pathWidth (d : Desc) : Nat := match d.kind with | .halo => 256 | _ => 512

/-- Number of beats (R255, R359): LEN counts, the bits of a reduction's terms (log 21). -/
def Desc.beats (d : Desc) : Nat := if d.LEN = 0 then 0 else ceilDiv (d.DST % d.pathWidth + d.LEN) d.pathWidth

/-- The path of a descriptor; none when it moves nothing (R359). -/
def Desc.path (d : Desc) (cores : List Nat) : NetPath :=
  let i := d.origin.core
  if d.beats = 0 then .none
  else match d.kind with
    | .halo => (match neighbour i d.DIR with | some n => .link i n | Option.none => .none)
    | .xred => .toSlice i i (endSlice d.dst)
    | .xcast => (match castDests cores d.SETLO d.SETHI with | [] => .none | l => .cast i (endSlice d.src) l)
    | .xfer =>
      if spaceOf d.SRC = 2 then .fromSlice i (endCore i d.DST) (endSlice d.src)
      else if spaceOf d.DST = 2 then .toSlice i (endCore i d.SRC) (endSlice d.dst)
      else .mesh i (endCore i d.SRC) (endCore i d.DST)
    | .xfar => .none

/-- Source bits that beat j carries, from and to, cut as their copy at the destination is (R255). -/
def Desc.srcRange (d : Desc) (j : Nat) : Nat × Nat :=
  let w := d.pathWidth
  let dm := d.DST % w
  (w * j - dm, Nat.min d.LEN (w * (j + 1) - dm))

/-- Destination bits of those source bits: terms may widen (R253). -/
def Desc.beatRange (d : Desc) (j : Nat) : Nat × Nat :=
  let (lo, hi) := d.srcRange j
  (lo * d.dstLen / d.LEN, hi * d.dstLen / d.LEN)

/-- The cycles in which beat j of a path reads its source and is written; for XCAST those of one cluster. -/
def NetPath.cycles (p : NetPath) (t0 j cluster : Nat) : Nat × Nat :=
  match p with
  | .none => (t0, t0)
  | .link i n => (t0 + j, t0 + 1 + j + (if i / 64 = n / 64 then 4 else 8))
  | .mesh i a b => (t0 + 2 * hops i a + j, t0 + 2 * hops i a + 2 * hops a b + 1 + j)
  | .toSlice i b s =>
    let t := tokenCycle (b / 64) s (t0 + 2 * hops i b + 8) j
    (t - 8, t + 6)
  | .fromSlice i b s =>
    let q := tokenCycle (b / 64) s (t0 + 2 * hops i b + 8) 0
    let u := tokenCycle (b / 64) s (q + 6) j
    (u - 2, u + 12)
  | .cast i s _ =>
    let q := tokenCycle (i / 64) s (t0 + 8) 0
    let u := tokenCycle cluster s (q + 6) j
    (u - 2, u + 12)

/-- The clusters a path delivers to: one dummy where it has a single destination. -/
def NetPath.clusters (p : NetPath) : List Nat := match p with | .cast _ _ l => l.map (·.1) | _ => [0]

/-- Whether one act comes before another. -/
def Act.before (a b : Act) : Bool :=
  a.cycle < b.cycle || (a.cycle == b.cycle && !a.write && b.write)

/-- Merge two lists of acts in order. -/
def mergeActs : Nat → List Act → List Act → List Act
  | 0, a, b => a ++ b
  | _, [], b => b
  | _, a, [] => a
  | n + 1, x :: a, y :: b => if y.before x then y :: mergeActs n (x :: a) b else x :: mergeActs n a (y :: b)

/-- The cycle in which beat j is read. An XCAST reads it once, for the cluster that it reaches first, so that every
destination gets the same bits (R252, R271). -/
def NetPath.readCycle (p : NetPath) (t0 j cluster : Nat) : Nat :=
  match p with
  | .cast _ _ l => l.foldl (fun m c => Nat.min m (p.cycles t0 j c.1).1) (p.cycles t0 j cluster).1
  | _ => (p.cycles t0 j cluster).1

/-- Everything a timed descriptor does, in order. -/
def Desc.allActs (d : Desc) (cores : List Nat) : List Act :=
  let p := d.path cores
  match p with
  | .none => []
  | _ =>
    p.clusters.foldl (fun acc c =>
      let rs := if !acc.isEmpty then [] else
        (rangeFrom 0 d.beats).map fun j => ({ cycle := p.readCycle d.START j c, write := false, beat := j, cluster := c } : Act)
      let ws := (rangeFrom 0 d.beats).map fun j => ({ cycle := (p.cycles d.START j c).2, write := true, beat := j, cluster := c } : Act)
      mergeActs (acc.length + 2 * d.beats) acc (mergeActs (2 * d.beats) rs ws)) []

/-- The exchange VCYC in which a timed descriptor lands (R255 to R257, R359). -/
def Desc.landing (d : Desc) (cores : List Nat) : Nat :=
  match d.path cores with
  | .link i n => d.START + d.beats + (if i / 64 = n / 64 then 4 else 8)
  | p => (d.allActs cores).foldl (fun acc a => Nat.max acc a.cycle) (match p with | _ => d.START)

/-! ## Pieces of an end -/

/-- The parts of an end that hold its bits lo to hi − 1, as (offset from lo, memory, bit address, bits). -/
def cutPieces : Nat → List (Place × Nat × Nat) → Nat → Nat → List (Nat × Place × Nat × Nat)
  | _, [], _, _ => []
  | pos, (p, a, n) :: r, lo, hi =>
    let x := Nat.max lo pos
    let y := Nat.min hi (pos + n)
    (if x < y then [(x - lo, p, a + (x - pos), y - x)] else []) ++ cutPieces (pos + n) r lo hi

/-- The destinations of an act: one end, or the same LOCAL range in every destination core of the cluster (R252). -/
def Desc.ends (d : Desc) (cores : List Nat) (a : Act) : List (List (Place × Nat × Nat)) :=
  match d.path cores with
  | .cast _ _ l =>
    (match l.find? fun q => q.1 == a.cluster with
    | some q => q.2.map fun c => [(.loc c, d.DST % 2 ^ 23, d.dstLen)]
    | Option.none => [])
  | _ => [d.dst]

/-! ## Claims (R260) -/

/-- Bank claims of an access to pieces in a cycle; a read-merge-write holds its bank 2 cycles. Only XFER claims slice
banks (R257, R281). -/
def Desc.bankClaims (d : Desc) (ps : List (Nat × Place × Nat × Nat)) (cycle : Nat) (write : Bool) : List (Resource × Nat) :=
  ps.flatMap fun q =>
    let (_, p, a, n) := q
    (sectorsOf a n).flatMap fun sec =>
      let lo := Nat.max a (512 * sec)
      let hi := Nat.min (a + n) (512 * sec + 512)
      let hold := if write && (lo % 64 != 0 || hi % 64 != 0) then 2 else 1
      match p with
      | .loc c => (rangeFrom cycle hold).map fun t => (.bank c (sec % 32), t)
      | .phys => if d.kind == .xfer then (rangeFrom cycle hold).map fun t => (.sliceBank (sliceOf (512 * sec)) (sec % 64), t) else []
      | _ => []

/-- Claims of links, lanes and ports by beat j, and of lanes by the request (R255 to R257, R260, log 82). -/
def NetPath.wireClaims (p : NetPath) (t0 lane j : Nat) : List (Resource × Nat) :=
  match p with
  | .none => []
  | .link i n => [(.link i n, t0 + 1 + j)]
  | .mesh i a b =>
    (enumFrom 0 ((route 64 a b).map fun h => h.1 * 1024 + h.2)).map fun h =>
      (.mesh (h.2 / 1024) (h.2 % 1024), t0 + 2 * hops i a + 1 + j + 2 * h.1)
  | .toSlice i b s =>
    let t := tokenCycle (b / 64) s (t0 + 2 * hops i b + 8) j
    [(.portOut b, t - 8), (.lane true s 0 lane, t)]
  | .fromSlice i b s =>
    let q := tokenCycle (b / 64) s (t0 + 2 * hops i b + 8) 0
    let u := tokenCycle (b / 64) s (q + 6) j
    (if j = 0 then [(.lane true s 0 lane, q)] else []) ++ [(.lane false 0 (b / 64) lane, u), (.portIn b, u + 4)]
  | .cast i s l =>
    let q := tokenCycle (i / 64) s (t0 + 8) 0
    (if j = 0 then [(.lane true s 0 lane, q)] else []) ++ l.flatMap fun c =>
      let u := tokenCycle c.1 s (q + 6) j
      (.lane false 0 c.1 lane, u) :: c.2.map fun core => (.portIn core, u + 4)

/-- Every claim of a timed descriptor. -/
def Desc.claims (d : Desc) (cores : List Nat) : List (Resource × Nat) :=
  let p := d.path cores
  match p with
  | .none => []
  | _ =>
    ((rangeFrom 0 d.beats).flatMap fun j => p.wireClaims d.START d.LANE j)
    ++ (d.allActs cores).flatMap fun a =>
      let (lo, hi) := if a.write then d.beatRange a.beat else d.srcRange a.beat
      if a.write then (d.ends cores a).flatMap fun e => d.bankClaims (cutPieces 0 e lo hi) a.cycle (d.kind != .xred)
      else d.bankClaims (cutPieces 0 d.src lo hi) a.cycle false

/-- Whether d loses a claim to another descriptor (R260). -/
def Desc.losesTo (d o : Desc) : Bool :=
  let r := fun (x : Desc) => [x.START, x.origin.core, x.origin.ctx, x.e]
  decide (r o < r d) || r o == r d

/-- The smaller of two cycles, where there are. -/
def minCycle (a b : Option Nat) : Option Nat :=
  match a, b with | some x, some y => some (Nat.min x y) | some x, Option.none => some x | Option.none, y => y

/-- The earliest cycle that two lists of claims share. -/
def firstClash (a b : List (Resource × Nat)) : Option Nat :=
  a.foldl (fun acc x => if b.contains x then minCycle acc (some x.2) else acc) Option.none

/-- The earliest cycle in which a list claims one resource twice. -/
def selfClash : List (Resource × Nat) → Option Nat
  | [] => Option.none
  | x :: r => minCycle (if r.contains x then some x.2 else Option.none) (selfClash r)

end Sys2Proof.Machine
end

