-- ==== Sys2Proof/Machine/Ports.lean ====
section
/-! DEFINITION. Optical ports and flits (R263, R265 to R267, R350 to R353). -/

namespace Sys2Proof.Machine

/-! ## Flits (R263) -/

/-- One bit of the CRC-32 with the generator 04C1_1DB7h. -/
def crcStep (c : BitVec 32) (b : Bool) : BitVec 32 :=
  if c.getLsbD 31 != b then (c <<< 1) ^^^ 0x04C11DB7 else c <<< 1

/-- CRC-32 over the bits n − 1 down to 0 of x, from 0 (log 22). -/
def crcBits (x : Nat) : Nat → BitVec 32 → BitVec 32
  | 0, c => c
  | n + 1, c => crcBits x n (crcStep c (x >>> n % 2 == 1))

/-- Check bytes of eight words (R263, R348), with poison carried. -/
def checkField (words : List (Nat × Bool)) : Nat :=
  (enumFrom0 words 0).foldl (fun acc q => acc + (if q.2.2 then Nat.xor (checkByte q.2.1) 0xFF else checkByte q.2.1) * 2 ^ (8 * q.1)) 0
where
  enumFrom0 : List (Nat × Bool) → Nat → List (Nat × (Nat × Bool))
    | [], _ => []
    | x :: r, k => (k, x) :: enumFrom0 r (k + 1)

/-- Data and check bits of a sector (R263). -/
def flitBody (x : Nat) (bad : List Bool) : BitVec 576 :=
  let ws := (rangeFrom 0 8).map fun i => ((x >>> (64 * i)) % 2 ^ 64, bad.getD i false)
  BitVec.ofNat 576 (x % 2 ^ 512 + checkField ws * 2 ^ 512)

/-- A flit of a port: header, CRC, check bits and data. -/
def mkFlit (cls seq dest : Nat) (body : BitVec 576) : BitVec 640 :=
  let hdr : BitVec 32 := BitVec.ofNat 32 (cls % 8 + 2 ^ 3 * (seq % 8192) + 2 ^ 16 * (dest % 4096))
  hdr ++ crcBits body.toNat 576 0 ++ body

/-! ## Slots (R266, R351) -/

/-- A field of a slot-table entry. -/
def slotTx (e : BitVec 64) : Option Nat := if e.getLsbD 12 then some (field e.toNat 11 0) else none
def slotRx (e : BitVec 64) : Option Nat := if e.getLsbD 44 then some (field e.toNat 43 32) else none

/-- Slot k of the rotation in a time, and whether it is in the guard interval. -/
def slotOf (t : Nat) : Nat := t % 640000 / 10000
def inGuard (t : Nat) : Bool := t % 10000 < 500

/-- The slot of the device's time (R351). -/
def State.slot (s : State) : Nat := slotOf s.dtime.toNat

/-- The entry of a port for slot k. -/
def Ports.entry (p : Ports) (port k : Nat) : BitVec 64 := SMap.get 0 p.table (64 * port + k)

/-- Whether some port that is not dark transmits to a module in any slot (R265, R352). -/
def Ports.reaches (p : Ports) (m : Nat) : Bool :=
  p.table.any fun q => slotTx q.2 == some m && !p.dark.contains (q.1 / 64)

/-- Put a sector of data into the send queue of a module (R267). -/
def State.sendFlit (s : State) (m cls : Nat) (body : BitVec 576) : State :=
  { s with ports := { s.ports with sendq := s.ports.sendq.put m (SMap.get [] s.ports.sendq m ++ [(cls, body)]) } }

/-- Whether the send queue of a module is full: it then stalls the far engine (R267). -/
def State.sendFull (s : State) (m : Nat) : Bool := decide (Config.sendQueue < (SMap.get [] s.ports.sendq m).length)

/-- The send queue that an access to a PEER address needs stalls it (R267). -/
def State.peerStalls (s : State) (a : Nat) : Bool := spaceOf a == 4 && s.sendFull (field a 52 41)

/-- 512 free bits: what a request or its response carries where the spec gives it no layout (R262, log 61). -/
def State.drawSector (s : State) : Nat × State :=
  (rangeFrom 0 8).foldl (fun (acc : Nat × State) i =>
    let (x, s) := acc.2.drawWord; (acc.1 + 2 ^ (64 * i) * x.toNat, s)) (0, s)

/-- A read request for n bits at a PEER address goes to its module; the responses bring the sectors in their order (R262,
R267, log 61). -/
def State.askPeer (s : State) (core seq a n : Nat) : State :=
  let (x, s) := s.drawSector
  let m := field a 52 41
  let secs := sectorsOf (a % 2 ^ 53) n
  let s := s.sendFlit m 0 (flitBody x [])
  { s with ports := { s.ports with asks := s.ports.asks ++ [{ module := m, fill := some (core, seq), sector := secs.headD 0, left := secs.length }] } }

/-- Whether responses of a fill are still to come. -/
def State.awaited (s : State) (core seq : Nat) : Bool := s.ports.asks.any fun q => q.fill == some (core, seq) && q.left != 0

/-- What a flit's check bit i says of its word i (R263, R348). -/
def flitCheck (body i : Nat) : BitVec 8 :=
  BitVec.ofNat 8 (Nat.xor (field body (519 + 8 * i) (512 + 8 * i)) (checkByte (field body (64 * i + 63) (64 * i))))

/-- The data of a flit with single-bit errors corrected and counted, and its poisoned words; one that it cannot correct is
poisoned here (R263, R348, R349). -/
def State.decodeFlit (s : State) (body : Nat) : Nat × List Nat × State :=
  let check (i : Nat) : Check := decodeSyndrome (flitCheck body i)
  let x := (rangeFrom 0 8).foldl (fun x i => match check i with | .dataBit j => Nat.xor x (2 ^ (64 * i + j)) | _ => x) (body % 2 ^ 512)
  let bad := (rangeFrom 0 8).filter fun i => check i == .poisoned
  let fixed := (rangeFrom 0 8).filter fun i => check i != .poisoned && check i != .good
  let s := { s with bar := { s.bar with corrected := addSat s.bar.corrected fixed.length } }
  (x, bad, s.countPoison (bad.filter fun i => flitCheck body i != 0xFF).length)

/-- The data of a flit as it arrives on the chip, with the words of it that arrive poisoned: one whose CRC fails is repaired
word by word (R263). -/
def State.hear (s : State) (f : FlitName) (x : Nat) (bad : List Bool) : Nat × List Nat × State :=
  match s.noise.find? fun q => q.flit == f with
  | none => (x, [], s)
  | some q =>
    let r := s.decodeFlit (Nat.xor (flitBody x bad).toNat q.flips.toNat)
    (r.1, r.2.1, { r.2.2 with noise := r.2.2.noise.erase q })

/-- A write that arrives through a port lands in the peer window, with its poison, and changes no facing. Where in the
window is free, as a flit carries no address (R265, R267, log 61). -/
def State.peerWrite (s : State) (body : Nat) : State :=
  let (a, s) := s.drawWord
  let va := a.toNat % 2 ^ 48 * 512
  let (x, bad, s) := s.decodeFlit body
  let s := s.putSystemBy Space.writeRaw va 512 x
  { s with phys := match translate s.sysTables s.bar.sysroot.toNat va true with
      | some pa => bad.foldl (fun (m : Space) i => m.poison (pa / 64 + i)) s.phys
      | none => s.phys }

/-- A read request from a module is answered to it with a sector of the peer window; which one is free (R262, log 61). -/
def State.answerPeer (s : State) (m : Nat) : State :=
  let (a, s) := s.drawWord
  match translate s.sysTables s.bar.sysroot.toNat (a.toNat % 2 ^ 48 * 512) false with
  | some pa =>
    let bad := (rangeFrom 0 8).map fun i => s.phys.bad (pa / 64 + i)
    (s.copied .phys (rangeFrom (pa / 64) 8)).sendFlit m 2 (flitBody (s.phys.readBits pa 512) bad)
  | none => let (x, s) := s.drawSector; s.sendFlit m 2 (flitBody x [])

/-- A response from a module brings the next sector of its oldest request, with its poison (R262, R267). -/
def State.takeResponse (s : State) (m body : Nat) : State :=
  match s.ports.asks.find? fun q => q.module == m && q.left != 0 with
  | none => s
  | some q =>
    let (x, bad, s) := s.decodeFlit body
    let s := { s with
      peer := bad.foldl (fun (p : Space) i => p.poison (8 * q.sector + i)) (s.peer.writeRaw (512 * q.sector) 512 x)
      ports := { s.ports with asks := if q.left ≤ 1 then s.ports.asks.erase q else s.ports.asks.map fun r =>
        if r = q then { q with sector := q.sector + 1, left := q.left - 1 } else r } }
    match q.fill with | some f => s.wake f.1 | none => s

/-- Whether the ports run: trained, and the die not frozen. -/
def State.portsLive (s : State) : Bool := s.ports.trained && !s.dbg.frozen

/-- SLOT_TABLE_WRITE: the write waits for the next rotation boundary; the last one of a rotation is used (R353). -/
def execSlotTableWrite (port entry : Nat) (v : Word) (s : State) : Host.Outcome State Fault Refusal :=
  if port < 48 && entry < 64 then
    .next { s with ports := { s.ports with held := s.ports.held.put (64 * port + entry) (BitVec.ofNat 64
      (field v.toNat 12 0 + 2 ^ 32 * field v.toNat 44 32)) } }
  else .fault .notEnabled

/-- ROTATION_BOUNDARY: the held entries take effect (R266, R353). -/
def execRotationBoundary (s : State) : Host.Outcome State Fault Refusal :=
  if s.dtime.toNat % 640000 = 0 && s.ports.rotated != some s.now then
    .next { s with ports := { s.ports with rotated := some s.now, table := s.ports.held.foldl (fun t q => SMap.set 0 t q.1 q.2) s.ports.table, held := [] } }
  else .fault .notEnabled

/-- SLOT_BOUNDARY: slot k begins when DTIME mod 640000 = 10000 k; flits held behind a failed one may go again (R267,
R351). -/
def execSlotBoundary (s : State) : Host.Outcome State Fault Refusal :=
  if s.dtime.toNat % 10000 = 0 && s.ports.slotted != some s.now then
    .next { s with ports := { s.ports with slotted := some s.now, failed := [] } }
  else .fault .notEnabled

/-- The flit a port would send now: module, class, body (R266, R267, R351, R352). -/
def State.nextFlit (s : State) (port : Nat) : Option (Nat × Nat × BitVec 576 × List (Nat × BitVec 576)) :=
  if port < 48 && s.portsLive && !s.ports.dark.contains port && !inGuard s.dtime.toNat then
    match slotTx (s.ports.entry port s.slot) with
    | some m => if s.ports.failed.contains m then none else
      (match SMap.get [] s.ports.sendq m with
      | (cls, body) :: r => some (m, cls, body, r)
      | [] => none)
    | none => none
  else none

/-- FLIT_TRANSMIT: the oldest flit of the send queue that the port's slot names goes out with the next sequence
number. Whether it fails at the receiver is free: a failed flit stays first, and later flits are held behind it until
the next slot (R267, log 22). -/
def execFlitTransmit (port : Nat) (s : State) : Host.Outcome State Fault Refusal :=
  match s.nextFlit port with
  | none => .fault .notEnabled
  | some (m, cls, body, r) =>
    let seq := SMap.get 0 s.ports.txseq m
    let flit := mkFlit cls seq m body
    let (bad, s) := s.drawBool
    let p := { s.ports with sent := s.ports.sent ++ [(port, flit)] }
    .next { s with ports := if bad then { p with failed := NSet.add p.failed m }
                            else { p with sendq := p.sendq.put m r, txseq := p.txseq.put m ((seq + 1) % 8192) } }

/-- FLIT_RECEIVE: a flit in a guard interval, in a slot without RXV, of another module, with a bad CRC or out of
sequence is discarded and comes again; the others are delivered in sequence order with their check bits. A write goes to the
peer window, a read request is answered, and a response goes to the fill that asked (R262, R263, R267, R351). -/
def execFlitReceive (port : Nat) (flit : BitVec 640) (s : State) : Host.Outcome State Fault Refusal :=
  if !(port < 48 && s.portsLive) || s.ports.dark.contains port then .fault .notEnabled
  else
    let x := flit.toNat
    let body := x % 2 ^ 576
    let keep : Option Nat :=
      match slotRx (s.ports.entry port s.slot) with
      | some m =>
        if !inGuard s.dtime.toNat && field x 635 624 == m && BitVec.ofNat 32 (field x 607 576) == crcBits body 576 0
            && field x 623 611 == SMap.get 0 s.ports.rxseq m then some m else none
      | none => none
    match keep with
    | some m =>
      let s := { s with ports := { s.ports with rxseq := s.ports.rxseq.put m ((field x 623 611 + 1) % 8192)
                                                received := s.ports.received ++ [(m, BitVec.ofNat 576 body)] } }
      .next (match field x 610 608 with
        | 0 => s.answerPeer m
        | 1 => s.peerWrite body
        | 2 => s.takeResponse m body
        | _ => s)
    | none => .next s

end Sys2Proof.Machine
end

