-- ==== Sys2Proof/Machine/Vec.lean ====
section
/-! DEFINITION. Vector instructions (R172 to R198) and vector memory instructions (R133 to R136): each word joins its
convoy, and the last word pushes the convoy, whose members then take effect in order. -/

namespace Sys2Proof.Machine

/-- The dispatch queue holds 16 convoys that have not started their last member: outside a span a full queue makes
the context wait, inside it is TIMING (R172). -/
def State.queueRoom (s : State) : Except Stop Unit :=
  let c := s.cur
  let waiting := (c.vq.map fun q => q.starts.getLast?.getD 0).filter fun t => decide (s.now < t)
  if waiting.length < 16 then .ok ()
  else if c.span.isSome then fail (Exc.timing 0)
  else .error (.until (waiting.headD 0))

/-- Push the convoy in issue with its members (R173); a member that cannot keep its cycle inside a span raises TIMING
(R176). `old` is the context before the members acted, `work` is what they did, and `pops` are the entries
taken out of a queue. -/
def State.pushConvoy (s : State) (old : Ctx) (ms : List VMember) (fl : BitVec 7) (stats : Option (List Nat)) (work : VWork)
    (pops : List (Nat × Nat) := []) : Except Stop State :=
  match s.cur.cv with
  | none => .ok s
  | some v =>
    match s.cur.push work { old.undoTo s.cur with pops := pops } s.origin s.now { v with vm := ms, fl := fl, stats := stats } (v.n - ms.length) with
    | (c, none) =>
      let t := match c.vq.getLast? with | some q => q.starts.headD 0 | none => 0
      let us := ms.flatMap (s.usesFrom t)
      (s.setCur (c.noteWrites s.now ((us.filter (·.write)).map fun u => (u.sec, u.stop - 1)))).claim s.focusCore us
    | (_, some k) => fail { Exc.timing 0 with midx := some k.2, origin := k.1 }

/-- The last word of a vector run has issued: the operands of the whole run are read (R39), its tags are checked (R64,
R174), and its members take effect. -/
def State.pushRun (s : State) (n : Nat) (run : List (Nat × VWord)) : Except Stop State := do
  let c := s.cur
  let regs := run.flatMap fun p => if p.1 = 0x71 || p.1 = 0x72 then [p.2.d] else if p.2.form == .vs then [p.2.b] else []
  match if c.span.isSome then none else c.pendingOn regs s.now with
  | some t => .error (.until t)
  | none =>
    s.queueRoom
    let w := c.vwalk (n - run.length) run
    match w.opBad, w.tagBad with
    | some k, _ => fail { Exc.operand with midx := some k }
    | none, some (k, t) => fail { Exc.tag t with midx := some k }
    | none, none => (s.setCur w.c).pushConvoy c w.ms w.fl none (.run run)

/-- A vector word: it waits for the last word of its run. -/
def vecWord (i : Instr) (op : Nat) (w : VWord) (s : State) : Host.Outcome State Fault Refusal :=
  issue i s fun _ s =>
    match s.cur.cv with
    | none => .ok s
    | some v =>
      if v.idx + 1 < v.n then .ok (s.modCur fun c => { c with cv := some { v with pend := v.pend ++ [(op, w)] } })
      else s.pushRun v.n (v.pend ++ [(op, w)])

/-- A vector memory word: its access, then its convoy on the schedule. -/
def vmemWord (i : Instr) (op : VMOp) (d a b : Reg) (s : State) : Host.Outcome State Fault Refusal :=
  issue i s fun _ s => do
    s.queueRoom
    let (t, m, st, w) ← s.vmemRun op d a b
    t.pushConvoy s.cur [m] 0 (some st) w

/-! ## Vector memory (R133 to R136) -/

/-- VLD (R135). -/
def execVld (d a b : Reg) (s : State) : Host.Outcome State Fault Refusal := vmemWord (.vld d a b) .ld d a b s

/-- VST (R135). -/
def execVst (d a b : Reg) (s : State) : Host.Outcome State Fault Refusal := vmemWord (.vst d a b) .st d a b s

/-- VLDX (R135). -/
def execVldx (d a b : Reg) (s : State) : Host.Outcome State Fault Refusal := vmemWord (.vldx d a b) .ldx d a b s

/-- VSTX (R135). -/
def execVstx (d a b : Reg) (s : State) : Host.Outcome State Fault Refusal := vmemWord (.vstx d a b) .stx d a b s

/-- VLDT (R140). -/
def execVldt (d a b : Reg) (s : State) : Host.Outcome State Fault Refusal := vmemWord (.vldt d a b) .ldt d a b s

/-- VSTT (R140). -/
def execVstt (d a b : Reg) (s : State) : Host.Outcome State Fault Refusal := vmemWord (.vstt d a b) .stt d a b s

/-- VLDB (R136). -/
def execVldb (d a b : Reg) (s : State) : Host.Outcome State Fault Refusal := vmemWord (.vldb d a b) .ldb d a b s

/-- VSTB (R136). -/
def execVstb (d a b : Reg) (s : State) : Host.Outcome State Fault Refusal := vmemWord (.vstb d a b) .stb d a b s

/-! ## Vector arithmetic, conversion, movement and masks (R181 to R196) -/

/-- VADD (R181). -/
def execVadd (w : VWord) (s : State) : Host.Outcome State Fault Refusal := vecWord (.vadd w) 0x40 w s

/-- VSUB (R181). -/
def execVsub (w : VWord) (s : State) : Host.Outcome State Fault Refusal := vecWord (.vsub w) 0x41 w s

/-- VMUL (R181). -/
def execVmul (w : VWord) (s : State) : Host.Outcome State Fault Refusal := vecWord (.vmul w) 0x42 w s

/-- VFMA (R181). -/
def execVfma (w : VWord) (s : State) : Host.Outcome State Fault Refusal := vecWord (.vfma w) 0x43 w s

/-- VFMS (R181). -/
def execVfms (w : VWord) (s : State) : Host.Outcome State Fault Refusal := vecWord (.vfms w) 0x44 w s

/-- VFNMA (R181). -/
def execVfnma (w : VWord) (s : State) : Host.Outcome State Fault Refusal := vecWord (.vfnma w) 0x45 w s

/-- VDIV (R181). -/
def execVdiv (w : VWord) (s : State) : Host.Outcome State Fault Refusal := vecWord (.vdiv w) 0x46 w s

/-- VSQRT (R181). -/
def execVsqrt (w : VWord) (s : State) : Host.Outcome State Fault Refusal := vecWord (.vsqrt w) 0x47 w s

/-- VRSQRT (R181). -/
def execVrsqrt (w : VWord) (s : State) : Host.Outcome State Fault Refusal := vecWord (.vrsqrt w) 0x48 w s

/-- VRCP (R181). -/
def execVrcp (w : VWord) (s : State) : Host.Outcome State Fault Refusal := vecWord (.vrcp w) 0x49 w s

/-- VMIN (R181). -/
def execVmin (w : VWord) (s : State) : Host.Outcome State Fault Refusal := vecWord (.vmin w) 0x4A w s

/-- VMAX (R181). -/
def execVmax (w : VWord) (s : State) : Host.Outcome State Fault Refusal := vecWord (.vmax w) 0x4B w s

/-- VABS (R181). -/
def execVabs (w : VWord) (s : State) : Host.Outcome State Fault Refusal := vecWord (.vabs w) 0x4C w s

/-- VNEG (R181). -/
def execVneg (w : VWord) (s : State) : Host.Outcome State Fault Refusal := vecWord (.vneg w) 0x4D w s

/-- VEXP2 (R181). -/
def execVexp2 (w : VWord) (s : State) : Host.Outcome State Fault Refusal := vecWord (.vexp2 w) 0x4E w s

/-- VLOG2 (R181). -/
def execVlog2 (w : VWord) (s : State) : Host.Outcome State Fault Refusal := vecWord (.vlog2 w) 0x4F w s

/-- VAND (R183). -/
def execVand (w : VWord) (s : State) : Host.Outcome State Fault Refusal := vecWord (.vand w) 0x50 w s

/-- VOR (R183). -/
def execVor (w : VWord) (s : State) : Host.Outcome State Fault Refusal := vecWord (.vor w) 0x51 w s

/-- VXOR (R183). -/
def execVxor (w : VWord) (s : State) : Host.Outcome State Fault Refusal := vecWord (.vxor w) 0x52 w s

/-- VSHL (R183). -/
def execVshl (w : VWord) (s : State) : Host.Outcome State Fault Refusal := vecWord (.vshl w) 0x53 w s

/-- VSHR (R183). -/
def execVshr (w : VWord) (s : State) : Host.Outcome State Fault Refusal := vecWord (.vshr w) 0x54 w s

/-- VSAR (R183). -/
def execVsar (w : VWord) (s : State) : Host.Outcome State Fault Refusal := vecWord (.vsar w) 0x55 w s

/-- VADDS (R182). -/
def execVadds (w : VWord) (s : State) : Host.Outcome State Fault Refusal := vecWord (.vadds w) 0x56 w s

/-- VSUBS (R182). -/
def execVsubs (w : VWord) (s : State) : Host.Outcome State Fault Refusal := vecWord (.vsubs w) 0x57 w s

/-- VMULH (R182). -/
def execVmulh (w : VWord) (s : State) : Host.Outcome State Fault Refusal := vecWord (.vmulh w) 0x58 w s

/-- VPOPC (R183). -/
def execVpopc (w : VWord) (s : State) : Host.Outcome State Fault Refusal := vecWord (.vpopc w) 0x59 w s

/-- VCEQ (R184). -/
def execVceq (w : VWord) (s : State) : Host.Outcome State Fault Refusal := vecWord (.vceq w) 0x5A w s

/-- VCNE (R184). -/
def execVcne (w : VWord) (s : State) : Host.Outcome State Fault Refusal := vecWord (.vcne w) 0x5B w s

/-- VCLT (R184). -/
def execVclt (w : VWord) (s : State) : Host.Outcome State Fault Refusal := vecWord (.vclt w) 0x5C w s

/-- VCLE (R184). -/
def execVcle (w : VWord) (s : State) : Host.Outcome State Fault Refusal := vecWord (.vcle w) 0x5D w s

/-- VCLASS (R185). -/
def execVclass (w : VWord) (s : State) : Host.Outcome State Fault Refusal := vecWord (.vclass w) 0x5E w s

/-- VSEL (R186). -/
def execVsel (w : VWord) (s : State) : Host.Outcome State Fault Refusal := vecWord (.vsel w) 0x5F w s

/-- VMOV (R187). -/
def execVmov (w : VWord) (s : State) : Host.Outcome State Fault Refusal := vecWord (.vmov w) 0x60 w s

/-- VBCST (R187). -/
def execVbcst (w : VWord) (s : State) : Host.Outcome State Fault Refusal := vecWord (.vbcst w) 0x61 w s

/-- VCVT (R188). -/
def execVcvt (w : VWord) (s : State) : Host.Outcome State Fault Refusal := vecWord (.vcvt w) 0x62 w s

/-- VTAG (R187). -/
def execVtag (w : VWord) (s : State) : Host.Outcome State Fault Refusal := vecWord (.vtag w) 0x63 w s

/-- VROUND (R189). -/
def execVround (w : VWord) (s : State) : Host.Outcome State Fault Refusal := vecWord (.vround w) 0x64 w s

/-- VSCALE (R190). -/
def execVscale (w : VWord) (s : State) : Host.Outcome State Fault Refusal := vecWord (.vscale w) 0x65 w s

/-- VQNT (R191). -/
def execVqnt (w : VWord) (s : State) : Host.Outcome State Fault Refusal := vecWord (.vqnt w) 0x66 w s

/-- VDQNT (R192). -/
def execVdqnt (w : VWord) (s : State) : Host.Outcome State Fault Refusal := vecWord (.vdqnt w) 0x67 w s

/-- VRSUM (R193). -/
def execVrsum (w : VWord) (s : State) : Host.Outcome State Fault Refusal := vecWord (.vrsum w) 0x68 w s

/-- VRMAX (R193). -/
def execVrmax (w : VWord) (s : State) : Host.Outcome State Fault Refusal := vecWord (.vrmax w) 0x69 w s

/-- VRMIN (R193). -/
def execVrmin (w : VWord) (s : State) : Host.Outcome State Fault Refusal := vecWord (.vrmin w) 0x6A w s

/-- VROR (R183). -/
def execVror (w : VWord) (s : State) : Host.Outcome State Fault Refusal := vecWord (.vror w) 0x6B w s

/-- VPERM (R194). -/
def execVperm (w : VWord) (s : State) : Host.Outcome State Fault Refusal := vecWord (.vperm w) 0x6C w s

/-- VSLUP (R194). -/
def execVslup (w : VWord) (s : State) : Host.Outcome State Fault Refusal := vecWord (.vslup w) 0x6D w s

/-- VSLDN (R194). -/
def execVsldn (w : VWord) (s : State) : Host.Outcome State Fault Refusal := vecWord (.vsldn w) 0x6E w s

/-- VIOTA (R194). -/
def execViota (w : VWord) (s : State) : Host.Outcome State Fault Refusal := vecWord (.viota w) 0x6F w s

/-- VROLL (R196). -/
def execVroll (w : VWord) (s : State) : Host.Outcome State Fault Refusal := vecWord (.vroll w) 0x70 w s

/-- VMPOP (R195). -/
def execVmpop (w : VWord) (s : State) : Host.Outcome State Fault Refusal := vecWord (.vmpop w) 0x71 w s

/-- VMFIRST (R195). -/
def execVmfirst (w : VWord) (s : State) : Host.Outcome State Fault Refusal := vecWord (.vmfirst w) 0x72 w s

/-- VZIP (R194). -/
def execVzip (w : VWord) (s : State) : Host.Outcome State Fault Refusal := vecWord (.vzip w) 0x73 w s

/-- VUNZIP (R194). -/
def execVunzip (w : VWord) (s : State) : Host.Outcome State Fault Refusal := vecWord (.vunzip w) 0x74 w s

/-- VMAND (R195). -/
def execVmand (w : VWord) (s : State) : Host.Outcome State Fault Refusal := vecWord (.vmand w) 0x76 w s

/-- VMOR (R195). -/
def execVmor (w : VWord) (s : State) : Host.Outcome State Fault Refusal := vecWord (.vmor w) 0x77 w s

/-- VMXOR (R195). -/
def execVmxor (w : VWord) (s : State) : Host.Outcome State Fault Refusal := vecWord (.vmxor w) 0x78 w s

/-- VMNOT (R195). -/
def execVmnot (w : VWord) (s : State) : Host.Outcome State Fault Refusal := vecWord (.vmnot w) 0x79 w s

end Sys2Proof.Machine
end

