-- ==== Sys2Proof/Machine/Queues.lean ====
section
/-! DEFINITION. Decoupling queues (R143 to R151): rings of segments in the scratchpad, and the QUEUE instructions. -/

namespace Sys2Proof.Machine

/-! ## Rings -/

/-- Word 0 of the header of a segment names the next segment of the ring (R143). -/
def linkRing (m : Space) (segs : List Nat) : Space :=
  (segs.zip (segs.drop 1 ++ segs.take 1)).foldl (fun m p => m.writeRaw (p.1 + 63 * 512) 64 p.2) m

def Core.queue (k : Core) (n : Nat) : Queue := SMap.get {} k.queues n
def Core.setQueue (k : Core) (n : Nat) (q : Queue) : Core := { k with queues := k.queues.put n q }

/-- Link a segment after the tail segment of a queue (R150, R303). Where the entries have wrapped around into the
head segment, those at its front move with their poison to the new one, which then follows the tail in entry order (log
20). -/
def Core.linkSegment (k : Core) (n seg : Nat) : Core :=
  let q := k.queue n
  let last := q.head + q.avail
  let wrapped := last - q.capacity
  let moved := (rangeFrom 0 wrapped).foldl (fun (m : Space) i =>
    let src := q.segs.headD 0 + 512 * i
    (rangeFrom 0 8).foldl (fun (m : Space) j => if k.loc.bad (src / 64 + j) then m.poison (seg / 64 + 8 * i + j) else m)
      (m.writeRaw (seg + 512 * i) 512 (k.loc.readBits src 512))) k.loc
  let at0 := Nat.max 1 (Nat.min q.segs.length (ceilDiv last 63))
  let segs := q.segs.take at0 ++ [seg] ++ q.segs.drop at0
  { k.setQueue n { q with segs := segs, full := false } with
    loc := linkRing moved segs, pool := k.pool.filter (· != seg) }

/-- The words that linking a segment moves. -/
def Core.movedWords (k : Core) (n : Nat) : List Nat :=
  let q := k.queue n
  rangeFrom (q.segs.headD 0 / 64) (8 * (q.head + q.avail - q.capacity))

/-! ## Elements as one bit string (R147) -/

/-- The bits of n entries from the head on, concatenated in queue order. -/
def Core.entryBits (k : Core) (q : Queue) (n : Nat) : Nat :=
  (rangeFrom 0 n).foldr (fun e acc => k.loc.readBits (q.entry e) 512 + 2 ^ 512 * acc) 0

/-- The sectors of n entries, the first of them entry `at0` from the head. -/
def Queue.sectorsAt (q : Queue) (at0 n : Nat) : List Nat := (rangeFrom at0 n).map fun e => q.entry e / 512

/-- The first poisoned word of n entries from the head on. -/
def Core.entryPoison (k : Core) (q : Queue) (n : Nat) : Option Nat :=
  (rangeFrom 0 n).findSome? fun e => k.loc.anyBad (q.entry e) 512

/-- Write n entries, the first of them entry `at0` from the head. -/
def Core.putEntries (k : Core) (q : Queue) (at0 n x : Nat) : Core :=
  { k with loc := (rangeFrom 0 n).foldl (fun m e => m.writeRaw (q.entry (at0 + e)) 512 (field x (512 * e + 511) (512 * e))) k.loc }

/-- Entries that a QPUSH writes in the bank cycles of some accesses. -/
def Core.lateEntries (k : Core) (us : List BankUse) (now : Nat) (q : Queue) (at0 n x : Nat) : Core :=
  { k with loc := (rangeFrom 0 n).foldl (fun (m : Space) e =>
      let sec := q.entry (at0 + e) / 512
      match us.filter fun u => u.sec == sec with
      | [] => m
      | u :: r =>
        let t := r.foldl (fun t v => Nat.max t (v.stop - 1)) (u.stop - 1)
        let p : Patch := { cycle := t, off := 0, bits := 512, val := field x (512 * e + 511) (512 * e), ctx := u.origin.ctx, issued := now }
        m.lateRaw now ([], []) p sec) k.loc }

/-- Request cycles of elements that lie one after another from the head or the tail of a queue (R130). -/
def queueRequests (q : Queue) (at0 vl wm : Nat) : List (Nat × Nat) × ReqState :=
  reqCycles {} none ((rangeFrom 0 vl).map fun e =>
    (e, (rangeFrom (e * wm / 512) ((e * wm + wm - 1) / 512 + 1 - e * wm / 512)).map fun k => (q.entry (at0 + k) / 512, 1)))

/-- The member that QPOP or QPUSH puts on the schedule; it takes the lanes for a step per element group, with f = 1 (log 97). -/
def Ctx.queueMember (c : Ctx) (q : List (Nat × Nat) × ReqState) (d slot : Nat) (load : Bool) : VMember :=
  let cyc := q.1
  let groups := rangeFrom 0 (c.groupsFor slot)
  let offs := groupOffsets groups (cyc.map fun q => (q.1 * slot, (q.1 + 1) * slot, q.2))
  let last := cyc.foldl (fun acc q => Nat.max acc q.2) 0
  { srcs := if load then [] else [(d, slot, false)]
    dst := if load then some (d, slot) else none
    groups := groups, width := slot, lat := 6
    mem := some (if load then offs else [], if cyc.isEmpty then 1 else if load then last + 6 else last + 2)
    reads := if load || cyc.isEmpty then 0 else last + 1
    reqs := numberReqs 2 (!load) (fun sec => [(512 * sec, 512)]) 0 q.2.log.reverse }

/-! ## The instructions -/

/-- A group as QPOP leaves it; its tags it sets even with VL = 0 (R147, log 73). -/
def Ctx.popped (c : Ctx) (d code slot wm : Nat) (vals : List (Nat × Nat)) : Ctx :=
  (c.setElems d slot (vals.map fun q => (q.1, extendTo code wm slot q.2))).setTags d (loadTag code) c.vspan

/-- What QPOP does (R147): the entries must be covered by a QWAIT, and the race detector
checks their sectors (R269). -/
def State.qpop (s : State) (d a q : Reg) : Except Stop State := do
  let c := s.cur
  let n := q.toNat
  let k := s.curCore
  let qu := k.queue n
  let code := (s.reg a).toNat
  let wm := (memWidth code).getD 8
  let slot := (slotWidth (loadTag code)).getD 8
  let need := ceilDiv (c.vl * wm) 512
  s.queueRoom
  failIf (qu.dir != 1) (Exc.queue n)
  failIf (qu.cov < need) (Exc.queue n)
  match k.entryPoison qu need with
  | some w => fail (Exc.poison (64 * w))
  | none =>
    let s ← s.raceSectors s.focusCore s.origin.head (s.agent s.focusCore s.focusCtx 0 false) false (qu.sectorsAt 0 need)
    let k := s.curCore
    let bits := k.entryBits qu need
    let vals := (rangeFrom 0 c.vl).map fun e => (e, (bits >>> (e * wm)) % 2 ^ wm)
    let m := c.queueMember (queueRequests qu 0 c.vl wm) d.toNat slot true
    let k := { k with loc := k.loc.countRead ((rangeFrom 0 need).flatMap fun e => wordsOf (qu.entry e) 512) }
    let s := s.setCurCore (k.setQueue n { qu.advance need with cov := qu.cov - need, avail := qu.avail - need })
    (s.modCur fun c => c.popped d.toNat code slot wm vals).pushConvoy c [m] 0 none (.pop d.toNat code slot wm vals) [(n, need)]

/-- QPOP (R147): the entries must be covered by a QWAIT. -/
def execQpop (d a q : Reg) (s : State) : Host.Outcome State Fault Refusal :=
  issue (.qpop d a q) s fun _ s => s.qpop d a q

/-- The slots of a group as one bit string of wm bits each. -/
def Ctx.slotBits (c : Ctx) (d slot wm : Nat) : Nat :=
  (rangeFrom 0 c.vl).foldr (fun e acc => c.elem d slot e % 2 ^ wm + 2 ^ wm * acc) 0

/-- What QPUSH does (R147, R150); the race detector checks the sectors of its entries (R269). -/
def State.qpush (s : State) (d a q : Reg) : Except Stop State := do
  let c := s.cur
  let n := q.toNat
  let k := s.curCore
  let qu := k.queue n
  let code := (s.reg a).toNat
  let wm := (memWidth code).getD 8
  let slot := (slotWidth (loadTag code)).getD 8
  let need := ceilDiv (c.vl * wm) 512
  s.queueRoom
  let _ ← needTag (c.groupTag d.toNat) (fun t => t == loadTag code || t == 0)
  failIf (qu.dir != 2) (Exc.queue n)
  if qu.capacity - qu.avail < need then
    (if c.span.isSome then .ok (s.modCur fun c => { c with heldTraps := c.heldTraps ++ [(0x22, 0, n + 256)], redo := c.redo ++ [s.origin.head] })
     else .error (.trap 0x22 0 (n + 256)))
  else
    let s ← s.raceSectors s.focusCore s.origin.head (s.agent s.focusCore s.focusCtx 0 false) true (qu.sectorsAt qu.avail need)
    let k := s.curCore
    let m := c.queueMember (queueRequests qu qu.avail c.vl wm) d.toNat slot false
    let x := c.slotBits d.toNat slot wm
    let k := (k.lateEntries (s.usesFrom (c.convoyStart s.now m) m) s.now qu qu.avail need x).putEntries qu qu.avail need x
    (s.setCurCore (k.setQueue n { qu with avail := qu.avail + need, pushed := qu.pushed + need })).askWake.pushConvoy c [m] 0 none
      (.push d.toNat slot wm ((rangeFrom qu.avail need).map qu.entry))

/-- QPUSH (R147); with too little room it takes QUEUE-OVERFLOW before any effect. Inside a span that trap waits for
the closure (R119), and the convoy issues again from there (R150, log 20). -/
def execQpush (d a q : Reg) (s : State) : Host.Outcome State Fault Refusal :=
  issue (.qpush d a q) s fun _ s => s.qpush d a q

/-- What QWAIT does (R130, R146); `waited` when it has already been found unsatisfied. -/
def State.qwait (s : State) (waited : Bool) (a q : Reg) : Except Stop State :=
  let n := (s.reg a).toNat
  let k := s.curCore
  let qu := k.queue q.toNat
  let done (s : State) : Except Stop State := .ok (s.modCur fun c => { c with issueAt := if waited then s.now else s.now + 2 })
  match qu.dir with
  | 1 => if n ≤ qu.avail then done (s.setCurCore (k.setQueue q.toNat { qu with cov := Nat.max qu.cov n }))
         else .error .qwait
  | 2 => if qu.avail ≤ n then done s else .error .qwait
  | _ => fail (Exc.queue q.toNat)

/-- QWAIT (R146): inbound it waits for n entries and covers them, outbound until at most n are left. It takes 2
cycles when it is satisfied at once, else until it is satisfied (R130). -/
def execQwait (a q : Reg) (s : State) : Host.Outcome State Fault Refusal :=
  issue (.qwait a q) s fun _ t => t.qwait s.cur.qstall a q

/-- The state of a queue as QSTAT returns it (R149). -/
def Queue.stat (q : Queue) : Word :=
  if q.dir = 0 then 0
  else BitVec.ofNat 64 (Nat.min q.avail 65535 + 2 ^ 16 * (if q.dir = 1 then q.cov else 0) + 2 ^ 32 * q.segs.length + 2 ^ 48 * q.dir)

/-- QSTAT (R149). -/
def execQstat (d q : Reg) (s : State) : Host.Outcome State Fault Refusal :=
  issue (.qstat d q) s fun _ s => .ok (s.result d (s.curCore.queue q.toNat).stat 2)

end Sys2Proof.Machine
end

