-- ==== Sys2Proof/Machine/Turn.lean ====
section
/-! DEFINITION. Turnaround (R155 to R171): TURN, TURNT and TWAIT. The flips themselves are steps of their own. -/

namespace Sys2Proof.Machine

/-! ## The region (R158, R159) -/

/-- Home level of a physical address: slice SRAM or module memory. -/
def homeLevel (pa : Nat) : Nat := if inSram pa then 2 else 3

/-- Checks 2 to 4 of R159 for a region of n bits at a; an empty one is checked at its first bit (log 74). -/
def State.checkRegion (s : State) (a n level : Nat) : Except Stop Unit := do
  let lo := a / 512 * 512
  let hi := if n = 0 then lo else ceilDiv (a + n) 512 * 512
  let space := spaceOf a
  failIf (!inField lo (hi - lo) || space == 5) (Exc.space a)
  failIf (!s.exchange && space != 0) (Exc.space a)
  failIf (space == 1 && !s.inSlice (clusterCore s.focusCore a)) (Exc.space a)
  match space with
  | 0 => .ok ()
  | 1 => failIf (level < 1) Exc.operand
  | 2 =>
    match s.physRange lo (Nat.max (hi - lo) 1) false with
    | .error va => fail (Exc.translation va)
    | .ok ps => failIf (ps.any fun p => level < homeLevel p.1) Exc.operand
  | _ => failIf (level < 4) Exc.operand

/-- The cycle after every store that a turnaround of the context in focus over the sectors lo to hi − 1 drains: its own
stores, and those of other contexts that have retired, a scalar store in its issue cycle (R161). -/
def State.drainsBy (s : State) (lo hi : Nat) : Nat :=
  let own := match s.cur.lastWrite lo hi with | some t => Nat.max s.now (t + 1) | none => s.now
  let mine := s.curCore.ctxs.foldl (fun m p =>
    match p.2.lastWrite lo hi with
    | some t => if p.1 != s.focusCtx && t ≤ s.now then Nat.max m (t + 1) else m
    | none => m) own
  s.curCore.banks.foldl (fun m u =>
    if u.write && u.rank == 0 && decide (lo ≤ u.sec) && decide (u.sec < hi) && decide (u.issued < s.now) then Nat.max m u.stop else m) mine

/-- A turnaround joins the queue of its context, which holds 4 (R160). -/
def State.queueTurn (s : State) (level : Nat) (paths : BitVec 4) (a n : Nat) : Except Stop State := do
  s.checkRegion a n level
  let c := s.cur
  if 4 ≤ c.turns.length then
    (if c.span.isSome then fail (Exc.timing a) else .error .event)
  else
    let lo := a / 512 * 512
    let hi := if n = 0 then lo else ceilDiv (a + n) 512 * 512
    let own := match s.locate s.focusCore lo with
      | some (.loc core, at0) => if core = s.focusCore then some (at0 / 512) else none
      | _ => none
    let ready := match own with
      | some sec => s.drainsBy sec (sec + (hi - lo) / 512)
      | none => s.now
    .ok (s.setCur { c with turns := c.turns ++ [{ level := level, paths := paths, lo := lo, count := (hi - lo) / 512
                                                  issued := s.now, ready := ready, exch := s.exchange }] })

/-- The region of a layout entry: its base and its length in bits (R158). -/
def lteRegion (l : BitVec 256) (wm : Nat) : Nat × Nat :=
  let len := lteSize l 0 * wm + lteSize l 1 * lteStride l 1 + lteSize l 2 * lteStride l 2 + lteSize l 3 * lteStride l 3 + wm
  (lteBase l, if ltePerm l = 0 then len else ceilDiv len (2 ^ 14) * 2 ^ 14)

/-! ## The instructions -/

/-- TURN (R158 to R160). -/
def execTurn (lvl : BitVec 3) (paths : BitVec 4) (a b : Reg) (s : State) : Host.Outcome State Fault Refusal :=
  issue (.turn lvl paths a b) s fun _ s => s.queueTurn lvl.toNat paths (s.reg a).toNat (s.reg b).toNat

/-- What TURNT does (R158). -/
def State.turnt (s : State) (lvl : BitVec 3) (paths : BitVec 4) (a : Reg) : Except Stop State := do
  let idx := (s.reg a).toNat
  s.checkEntry s.focusCore idx
  let (l, s) := s.useEntry s.focusCore idx
  match lteWidth (lteFmt l) with
  | none => fail Exc.operand
  | some wm =>
    failIf (lteBad l) (Exc.layout idx)
    let r := lteRegion l wm
    s.queueTurn lvl.toNat paths r.1 r.2

/-- TURNT: the region of layout entry g[A] (R158). -/
def execTurnt (lvl : BitVec 3) (paths : BitVec 4) (a : Reg) (s : State) : Host.Outcome State Fault Refusal :=
  issue (.turnt lvl paths a) s fun _ s => s.turnt lvl paths a

/-- TWAIT: until every earlier turnaround of the context has completed (R168). -/
def execTwait (s : State) : Host.Outcome State Fault Refusal :=
  issue .twait s fun _ s => if s.cur.turns.isEmpty then .ok s else .error .event

end Sys2Proof.Machine
end

