-- ==== Sys2Proof/Machine/Exchange.lean ====
section
/-! DEFINITION. Exchange transfers (R245 to R261, R281, R359): the six EXCH words, and the starts, beats and landings
of timed descriptors. -/

namespace Sys2Proof.Machine

/-! ## Issue checks (R250) -/

/-- Step 1 but for the neighbour: a reserved or unused field is not 0, or a field has a value its kind forbids. -/
def Desc.badFields (d : Desc) : Bool :=
  let k := d.kind
  let used (l : List DKind) : Bool := l.contains k
  d.KIND != k.code || d.fld 255 244 != 0
  || (!used [.xcast] && (d.SETHI != 0 || d.SETLO != 0))
  || (!used [.halo] && d.DIR != 0)
  || (!used [.xfer, .xred, .xcast] && d.LANE != 0)
  || (!used [.xred, .xfar] && d.TOLV)
  || (!d.TOLV && d.TOLL != 0)
  || (!used [.xred] && !(k == .xfar && d.EXP24) && d.RFMT != 0)
  || (!used [.xred] && d.ROP != 0)
  || (!used [.xfar] && (d.DLTE || d.EXP24))
  || (!used [.xfer, .halo, .xcast] && d.MERGE)
  || (!used [.xred, .xcast] && d.GROUP != 0)
  || (d.TOLV && decide (4 < d.TOLL))
  || (k == .xcast && decide (d.SETHI < d.SETLO))
  || (k == .xred && (match redWidths d.ROP d.RFMT with | some (wt, _) => d.LEN % wt != 0 | none => true))
  || (k == .xfar && d.EXP24 && (match expandSizes d.RFMT with | some (b, _) => d.LEN % b != 0 | none => true))
  || (k == .xfar && spaceOf d.DST == 5 && (d.TOLV || d.EXP24 || d.DLTE))
  || (k == .xfar && d.DLTE && d.fld 79 74 != 0)

/-- Whether the spaces of an end pair match a row of the table of R250, as far as space codes tell. -/
def Desc.spacesOk (d : Desc) : Bool :=
  let s := spaceOf d.SRC
  let t := if d.kind == .xfar && d.DLTE then 2 else spaceOf d.DST
  match d.kind with
  | .xfer => (s ≤ 1 && t ≤ 2) || (s == 2 && t ≤ 1)
  | .halo => s == 0 && t == 0
  | .xred => s == 0 && t == 2
  | .xcast => s == 2 && t == 0
  | .xfar => (s == 2 || s == 3 || s == 4) && (t == 5 || t == 2)

/-- A CLUSTER end must name a core of the slice. -/
def State.clusterOk (s : State) (core a : Nat) : Bool := spaceOf a != 1 || s.inSlice (clusterCore core a)

/-- Pieces of a DEVICE end (step 3), and SPACE where a kind but XFAR names module memory. -/
def State.deviceEnd (s : State) (a n : Nat) (write far : Bool) : Except Stop (List (Place × Nat × Nat)) := do
  match s.physRange a (Nat.max n 1) write with
  | .error va => fail (Exc.translation va)
  | .ok ps =>
    failIf (!far && ps.any fun p => !inSram p.1) (Exc.space a)
    .ok (if n = 0 then (ps.take 1).map (fun p => (.phys, p.1, 0)) else ps.map fun p => (.phys, p.1, p.2))

/-- Whether element e of a destination given by a layout entry lies within DEVICE space (R24, R250). -/
def State.elemInField (_ : State) (l : BitVec 256) (start : Word) (wm e : Nat) : Bool :=
  match walkCoord l start e with
  | some (c0, c1, c2, c3) => inField (ltAddr l wm c0 c1 c2 c3) wm
  | none => true

/-- Whether the translator holds the pages of a descriptor is free: a miss inside a span raises TIMING (R250, log 64);
outside it is a matter of time. -/
def State.translator (s : State) : Except Stop State :=
  if s.cur.span.isNone then .ok s
  else
    let (miss, s) := s.drawBool
    if miss then fail (Exc.timing 0) else .ok s

/-- Pieces of a destination given by a layout entry: n elements of width wm from (0, c1, c2, c3) (R254). -/
def State.lteEnd (s : State) (l : BitVec 256) (start : Word) (wm : Nat) : List Nat → Except Stop (List (Place × Nat × Nat))
  | [] => .ok []
  | e :: r => do
    match walkCoord l start e with
    | none => fail Exc.operand
    | some (c0, c1, c2, c3) =>
      let x ← s.deviceEnd (ltAddr l wm c0 c1 c2 c3) wm true true
      .ok (x ++ (← s.lteEnd l start wm r))

/-- A sync sector or a queue segment under pieces. -/
def State.pieceSync (s : State) (ps : List (Place × Nat × Nat)) : Option Nat :=
  ps.findSome? fun p => (sectorsOf p.2.1 p.2.2).find? fun sec => s.syncAt p.1 sec
def State.piecePool (s : State) (ps : List (Place × Nat × Nat)) : Option (Nat × Nat) :=
  ps.findSome? fun p => match p.1 with
    | .loc c => if s.touchesPool p.2.1 p.2.2 then some (c, p.2.1) else none
    | _ => none

/-- The pieces of the ends of a descriptor (steps 2 and 3). -/
def State.endsOf (s : State) (d : Desc) : Except Stop (Desc × State) := do
  let i := d.origin.core
  failIf (!d.spacesOk) (Exc.space d.DST)
  failIf (!inField d.SRC d.LEN) (Exc.space d.SRC)
  failIf (!d.DLTE && spaceOf d.DST != 5 && !inField d.DST d.dstLen) (Exc.space d.DST)
  failIf (!d.DLTE && spaceOf d.DST == 5 && field d.DST 60 4 != 0) (Exc.space d.DST)
  failIf (!s.clusterOk i d.SRC) (Exc.space d.SRC)
  failIf (!d.DLTE && !s.clusterOk i d.DST) (Exc.space d.DST)
  failIf (spaceOf d.SRC == 4 && field d.SRC 52 41 == field s.bar.modnum.toNat 11 0) (Exc.space d.SRC)
  let far := d.kind == .xfar
  if far && d.DLTE then
    let idx := d.DST % 1024
    s.checkEntry i idx
    let (l, s) := s.useEntry i idx
    failIf (lteBad l) (Exc.layout idx)
    match memWidth (lteFmt l) with
    | none => fail Exc.operand
    | some wm =>
      failIf (spaceOf (lteBase l) != 2 || field (lteBase l) 60 57 != 0) (Exc.space (lteBase l))
      failIf (d.LEN % wm != 0) Exc.operand
      let start : Word := BitVec.ofNat 64 (field d.DST 63 16 * 2 ^ 16)
      let n := d.dstLen / wm
      failIf (startBeyond l start || (n != 0 && (walkCoord l start (n - 1)).isNone)) (Exc.layout idx)
      match (rangeFrom 0 n).find? fun e => !s.elemInField l start wm e with
      | some _ => fail (Exc.space (lteBase l))
      | none =>
      let src ← if spaceOf d.SRC = 2 then s.deviceEnd d.SRC d.LEN false true
        else .ok [(if spaceOf d.SRC = 3 then .host else .peer, d.SRC % (if spaceOf d.SRC = 3 then 2 ^ 61 else 2 ^ 53), d.LEN)]
      let dst ← s.lteEnd l start wm (rangeFrom 0 n)
      let elems := (rangeFrom 0 n).map fun e => match walkCoord l start e with
        | some (c0, c1, c2, c3) => ltAddr l wm c0 c1 c2 c3 | none => 0
      let s ← s.translator
      .ok ({ d with src := src, dst := dst, elems := elems }, s)
  else
    let local1 (a n : Nat) : List (Place × Nat × Nat) := [(.loc (endCore i a), a % 2 ^ 23, n)]
    let src ← match spaceOf d.SRC with
      | 2 => s.deviceEnd d.SRC d.LEN false far
      | 3 => .ok [(.host, d.SRC % 2 ^ 61, d.LEN)]
      | 4 => .ok [(.peer, d.SRC % 2 ^ 53, d.LEN)]
      | _ => .ok (local1 d.SRC d.LEN)
    let dst ← match d.kind, spaceOf d.DST with
      | .halo, _ => (match neighbour i d.DIR with
        | some n => .ok [(.loc n, d.DST % 2 ^ 23, d.LEN)]
        | none => fail Exc.operand)
      | _, 2 => s.deviceEnd d.DST d.dstLen true far
      | _, 5 => .ok []
      | _, _ => .ok (local1 d.DST d.dstLen)
    let s ← if spaceOf d.SRC = 2 || spaceOf d.DST = 2 then s.translator else .ok s
    .ok ({ d with src := src, dst := dst }, s)

/-- Steps 4 to 6 of R250. -/
def State.checkEnds (s : State) (d : Desc) (vcyc : Nat) : Except Stop Unit := do
  let queue (ps : List (Place × Nat × Nat)) : Except Stop Unit := match s.piecePool ps with
    | some (c, a) => fail (Exc.queue ((s.core c).queueAt a))
    | none => .ok ()
  queue d.src
  queue d.dst
  let toQueue := d.kind == .xfar && !d.DLTE && spaceOf d.DST == 5
  failIf (toQueue && ((s.core d.origin.core).queue (d.DST % 16)).dir != 1) (Exc.queue (d.DST % 16))
  -- a sync sector may be read or written at the slice end of a crossbar path, and read by an XFER to a slice (R250, R294)
  let syncSrc := d.kind == .xcast || (d.kind == .xfer && (spaceOf d.SRC == 2 || spaceOf d.DST == 2))
  let syncDst := d.kind == .xred || (d.kind == .xfer && spaceOf d.DST == 2)
  let named (base : Nat) (sec : Nat) : Nat := base / 2 ^ 23 * 2 ^ 23 + 512 * sec % 2 ^ 23
  match (if syncSrc then none else s.pieceSync d.src), (if syncDst then none else s.pieceSync d.dst) with
  | some sec, _ => fail (Exc.sync (named d.SRC sec))
  | none, some sec => fail (Exc.sync (named d.DST sec))
  | none, none =>
    failIf (d.TOLV && d.dst.any fun p => decide (d.TOLL < homeLevel p.2.1)) Exc.operand
    let wr := match redWidths d.ROP d.RFMT with | some (_, wr) => wr | none => 32
    failIf (d.kind == .xred && d.DST % wr != 0) (Exc.alignment d.DST wr)
    failIf (d.kind != .xfar && decide (d.START < vcyc + 2)) (Exc.timing 0)

/-- Put the descriptor into a fault's record. -/
def atDesc {α : Type} (d : Desc) (r : Except Stop α) : Except Stop α :=
  match r with
  | .error (.fault x) => .error (.fault { x with desc := some (d.e, d.START) })
  | r => r

/-- All checks of one descriptor (R250). -/
def State.checkDesc (s : State) (d : Desc) : Except Stop (Desc × State) := atDesc d do
  failIf d.badFields Exc.operand
  failIf (d.kind == .halo && (match neighbour d.origin.core d.DIR with | some n => !s.inSlice n | none => true)) Exc.operand
  let (d, s) ← s.endsOf d
  s.checkEnds d (s.vcycOf d.origin.core)
  .ok (d, s)

def State.checkDescs (s : State) : List Desc → Except Stop (List Desc × State)
  | [] => .ok ([], s)
  | d :: r => do
    let (d, s) ← s.checkDesc d
    let (l, s) ← s.checkDescs r
    .ok (d :: l, s)

/-! ## Acceptance (R247, R260) -/

/-- Participating cores. -/
def State.sliceCores (s : State) : List Nat := match s.slice with | some r => r.cores | none => []

/-- Descriptors of a core that hold slots. -/
def Core.holding (k : Core) : Nat := (k.slots.filter fun p => p.2.landed.isNone).length

/-- Every timed descriptor of the slice in this superstep. -/
def State.timedDescs (s : State) : List Desc :=
  s.sliceCores.flatMap fun c => ((s.core c).slots.map (·.2)).filter fun d => d.kind != .xfar

/-- The clash of a new descriptor with those accepted before it: the loser takes the earliest cycle (R260). -/
def State.clashes (s : State) (d : Desc) : State × Desc :=
  let cores := s.sliceCores
  let mine := d.claims cores
  let d := { d with clash := selfClash mine }
  s.timedDescs.foldl (fun (acc : State × Desc) o =>
    match firstClash mine (o.claims cores) with
    | none => acc
    | some t =>
      if acc.2.losesTo o then (acc.1, { acc.2 with clash := minCycle acc.2.clash (some t) })
      else (acc.1.modCore o.origin.core fun k => { k with slots := k.slots.mapVals fun _ x =>
              if x.seq = o.seq then { x with clash := minCycle x.clash (some t) } else x }, acc.2)) (s, d)

/-- The next number of a slot: they rise in the order of acceptance. -/
def State.nextSlot (s : State) (core : Nat) : Nat := (s.core core).slots.foldl (fun n p => Nat.max n (p.1 + 1)) s.descSeq

/-- Accept descriptors in order while a slot is free; gives the accepted ones' positions (R247). -/
def State.accept (s : State) : List Desc → State × List Nat
  | [] => (s, [])
  | d :: r =>
    let k := s.core d.origin.core
    if 48 ≤ k.holding then s.accept r
    else
      let cores := s.sliceCores
      let n := s.nextSlot d.origin.core
      let d := { d with seq := n, accepted := s.now + 1, acts := d.allActs cores, landAt := d.landing cores }
      let (s, d) := if d.kind == .xfar then (s, d) else s.clashes d
      let s := { s.modCore d.origin.core (fun k => { k with slots := k.slots.put n d }) with descSeq := n + 1 }
      let (s, l) := s.accept r
      (s, d.e :: l)

/-- The cycle in which the first VL slots of a command group and the current mask are valid (R246). -/
def Ctx.descsReady (c : Ctx) (base : Nat) : Nat :=
  (rangeFrom 0 c.vl).foldl (fun t e => Nat.max t (c.validAt base e)) (SMap.get 0 c.mrdy c.cmsel)

/-- What an EXCH word that issues descriptors does (R246, R247). -/
def State.exchDescs (s : State) (k : DKind) (d a : Reg) : Except Stop State := do
  let c := s.cur
  let base := a.toNat
  match (rangeFrom base c.vspan).find? fun r => c.tag r != 0x1C with
  | some r => fail (Exc.tag (c.tag r))
  | none =>
    let t := c.descsReady base
    if s.now < t then (if c.span.isSome then fail (Exc.timing 0) else .error (.until t))
    else
      let o := s.origin
      let ds : List Desc := c.activeElems.map fun e => { kind := k, bits := c.elem base 256 e, e := e, origin := o }
      let (ds, s) ← s.checkDescs ds
      let (s, ok) := s.accept ds
      .ok (s.modCur fun c =>
        let m := (rangeFrom 0 c.vl).foldl (fun (m : Nat) e => setField m e 1 (ok.contains e).toNat) (c.mask d.toNat).toNat
        let c := c.setMask d.toNat (BitVec.ofNat 2048 m)
        { c with mrdy := c.mrdy.put d.toNat (s.now + 2), xacc := c.xacc + ok.length
                 xaccLate := c.xaccLate.filter (fun q => decide (s.now < q.1)) ++ [(s.now + 2, ok.length)] })

/-- An EXCH word that issues descriptors (R246, R247); the accept bits are ready two cycles later. -/
def exchWord (i : Instr) (k : DKind) (d a : Reg) (s : State) : Host.Outcome State Fault Refusal :=
  issue i s fun _ s => s.exchDescs k d a

/-- XFER (R247, R252). -/
def execXfer (d a : Reg) (s : State) : Host.Outcome State Fault Refusal := exchWord (.xfer d a) .xfer d a s

/-- HALO (R247, R252). -/
def execHalo (d a : Reg) (s : State) : Host.Outcome State Fault Refusal := exchWord (.halo d a) .halo d a s

/-- XRED (R247, R253). -/
def execXred (d a : Reg) (s : State) : Host.Outcome State Fault Refusal := exchWord (.xred d a) .xred d a s

/-- XCAST (R247, R252). -/
def execXcast (d a : Reg) (s : State) : Host.Outcome State Fault Refusal := exchWord (.xcast d a) .xcast d a s

/-- XFAR (R247, R254). -/
def execXfar (d a : Reg) (s : State) : Host.Outcome State Fault Refusal := exchWord (.xfar d a) .xfar d a s

/-- The exchange status (R248): a descriptor holds its slot through the cycle in which it lands (R259). -/
def State.xstat (s : State) : Word :=
  let k := s.curCore
  let infl := (k.slots.filter fun p => decide (p.2.accepted ≤ s.now) && (p.2.landed.isNone || p.2.landed == some s.now)).length
  BitVec.ofNat 64 (infl % 64 + 2 ^ 16 * Nat.min (s.cur.xaccAt s.now) 65535 + 2 ^ 40 * k.fills.length)

/-- XSTAT (R248). -/
def execXstat (b : Reg) (s : State) : Host.Outcome State Fault Refusal :=
  issue (.xstat b) s fun _ s => .ok (s.result b s.xstat 2)

/-! ## Reading and writing by descriptors (R252) -/

/-- The shadow state of a sector: scratchpads and slices have it (R268). -/
def State.shadowAt (s : State) (p : Place) (sec : Nat) : Option Shadow :=
  match p with
  | .loc c => SMap.get? (s.core c).shadow sec
  | .phys => if inSram (512 * sec) then SMap.get? s.shadow sec else none
  | _ => none

def State.setShadow (s : State) (p : Place) (sec : Nat) (a : Shadow) : State :=
  match p with
  | .loc c => s.modCore c fun k => { k with shadow := k.shadow.put sec a }
  | .phys => if inSram (512 * sec) then { s with shadow := s.shadow.put sec a } else s
  | _ => s

/-- The race check of a sector in any memory, named by the address given (R269). -/
def State.raceAt (s : State) (p : Place) (sec name head : Nat) (a : Shadow) (write : Bool) : Except Stop State := do
  if s.lr.racem = 0 || (!write && s.syncAt p sec) then .ok s
  else
    let s' ← match s.shadowAt p sec with
      | some w => if s.isRace w a write then s.race name head w a write else .ok s
      | none => .ok s
    .ok (if write then s'.setShadow p sec a else s')

/-- The agent that a descriptor is (R268). -/
def State.descAgent (s : State) (d : Desc) : Shadow := s.agent d.origin.core d.origin.ctx (d.seq + 1) d.MERGE

/-- The level that a reader of an end needs (R164). -/
def readLevel (d : Desc) (p : Place) (a : Nat) : Nat :=
  match p with
  | .loc c => if c = d.origin.core && spaceOf d.SRC == 0 then 0 else 1
  | .phys => homeLevel a
  | _ => 4

/-- Read the source bits lo to hi − 1 with the checks of R252. -/
def State.readSrc (s : State) (d : Desc) (lo hi : Nat) : Except Stop (Nat × State) :=
  (cutPieces 0 d.src lo hi).foldlM (fun (acc : Nat × State) q => do
    let (x, s) := acc
    let (pos, p, a, n) := q
    let m := s.spaceAt p
    match (sectorsOf a n).find? fun sec => !s.syncAt p sec && ((m.isOut sec && !m.stillIn sec s.now) || m.isPend sec) with
    | some sec => fail (Exc.unturned ((d.SRC + lo + pos + (512 * sec - a)) / 512 * 512))
    | none =>
      match m.anyBad a n with
      | some w => fail { Exc.poison ((d.SRC + lo + pos + (64 * w - a)) / 64 * 64) with place := some p, word := some w }
      | none =>
        let s ← (sectorsOf a n).foldlM (fun s sec =>
          s.raceAt p sec ((d.SRC + lo + pos + (512 * sec - a)) / 512 * 512) d.origin.head (s.descAgent d) false) s
        let r := m.readVia .x (readLevel d p a) s.now (fun _ => none) a n s.free
        .ok (x + r.1 * 2 ^ pos, { s.setSpace p r.2.1 with free := r.2.2 })) (0, s)

/-- Write bits into pieces; the first of them is bit `lo` of the destination, which faults and races name by the descriptor's
own address (R128, R252, R270). -/
def State.writePieces (s : State) (d : Desc) (ps : List (Nat × Place × Nat × Nat)) (lo x : Nat) : Except Stop State :=
  ps.foldlM (fun s q => do
    let (pos, p, a, n) := q
    match (partialWords a n).find? ((s.spaceAt p).bad ·) with
    | some w => fail { Exc.poison ((d.dstName (lo + pos) + (64 * w - a)) / 64 * 64) with place := some p, word := some w }
    | none =>
      let s ← (sectorsOf a n).foldlM (fun s sec =>
        s.raceAt p sec ((d.dstName (lo + pos) + (512 * sec - a)) / 512 * 512) d.origin.head (s.descAgent d) true) s
      .ok (s.storeAt p a n ((x >>> pos) % 2 ^ n))) s

/-- Poison the words of n bits at a that hold bad bits: the bits stand at an offset in the data, and the bad ones are given
as (first, number) (R344, R349). -/
def Space.poisonBits (m : Space) (a off n : Nat) (bad : List (Nat × Nat)) : Space :=
  (wordsOf a n).foldl (fun m w =>
    let lo := off + (Nat.max a (64 * w) - a)
    let hi := off + (Nat.min (a + n) (64 * w + 64) - a)
    if bad.any fun b => decide (b.1 < hi) && decide (lo < b.1 + b.2) then m.poison w else m) m

/-- The words of a flit that have arrived poisoned, as bits of its data. -/
def badWords (l : List Nat) : List (Nat × Nat) := l.map fun i => (64 * i, 64)

/-- The same for pieces that have been written. -/
def State.poisonCut (s : State) (ps : List (Nat × Place × Nat × Nat)) (bad : List (Nat × Nat)) : State :=
  if bad.isEmpty then s else ps.foldl (fun s q => s.modSpace q.2.1 fun m => m.poisonBits q.2.2.1 q.1 q.2.2.2 bad) s

/-- A sector becomes IN as if a TURN at a level naming S, V, M and X had completed (R253, R254, R148). -/
def State.turnIn (s : State) (p : Place) (a n level : Nat) : State :=
  s.modSpace p fun m => (sectorsOf a n).foldl (fun m sec => m.goIn sec 15 level) m

/-! ## Reduction terms (R253, R281) -/

/-- A term joins its pending entry (R93, R281). -/
def SauEnt.add (x : SauEnt) (term : Nat) : SauEnt :=
  if x.rop = 0 then x.addFloat ((match x.rfmt.toNat with | 0x0B => Fmt.bf16 | 0x0A => Fmt.fp16 | _ => Fmt.fp32).unpack term)
  else
    let w := if x.rfmt.toNat ≤ 7 then 32 else 64
    let sgn := x.rfmt.toNat % 2 == 0
    let old := unsigned w x.sum
    let val (y : Nat) : Int := if sgn then signed w y else ((y % 2 ^ w : Nat) : Int)
    let new : Nat :=
      if x.terms = 0 then term
      else match x.rop with
        | 1 => (old + term) % 2 ^ w
        | 2 => old ||| term
        | 3 => old &&& term
        | 4 => Nat.xor old term
        | 5 => if val old ≤ val term then term else old
        | _ => if val old ≤ val term then old else term
    { x with sum := new, terms := x.terms + 1 }

/-- Entries of the combining store of a slice that have not spilled. -/
def State.combining (s : State) (slice : Nat) : List SauEnt := s.sau.filter fun x => sliceOf x.addr == slice && !x.spilled

/-- A term for the element at a physical address: the first claims an entry, whose turn level its descriptor names (log 90);
when 128 are held, the one with the lowest address spills (R281). -/
def State.addTerm (s : State) (d : Desc) (pa name term : Nat) : State :=
  if s.sau.any fun x => x.addr == pa then
    { s with sau := s.sau.map fun x => if x.addr = pa then x.add term else x }
  else
    let fresh : SauEnt := { addr := pa, rop := d.ROP, rfmt := BitVec.ofNat 7 d.RFMT, group := d.GROUP, name := name
                            toll := if d.TOLV then some d.TOLL else none }
    let held := s.combining (sliceOf pa)
    let low := held.foldl (fun (m : Option Nat) x => match m with | some y => some (Nat.min y x.addr) | none => some x.addr) none
    let sau := if 128 ≤ held.length then s.sau.map fun x => if some x.addr = low then { x with spilled := true } else x else s.sau
    { s with sau := sau ++ [fresh.add term] }

/-- The combining store consumes the terms of a beat: a word of them that has arrived poisoned raises POISON, with the address
of the first element that it reaches (R253, R263). -/
def Desc.termFault (d : Desc) (j : Nat) (bad : List Nat) : Except Stop Unit :=
  match bad, redWidths d.ROP d.RFMT with
  | i :: _, some (wt, wr) => fail { Exc.poison ((d.DST + (d.beatRange j).1 + 64 * i / wt * wr) / 64 * 64) with word := none }
  | _, _ => .ok ()

/-- The terms of a beat (R253). -/
def State.addBeat (s : State) (d : Desc) (j x : Nat) : State :=
  match redWidths d.ROP d.RFMT with
  | none => s
  | some (wt, wr) =>
    let (lo, hi) := d.beatRange j
    (rangeFrom 0 ((hi - lo) / wr)).foldl (fun s i =>
      match cutPieces 0 d.dst (lo + i * wr) (lo + i * wr + wr) with
      | (_, _, pa, _) :: _ => s.addTerm d pa (d.DST + lo + i * wr) ((x >>> (i * wt)) % 2 ^ wt)
      | [] => s) s

/-! ## Steps of a timed descriptor -/

/-- The exchange VCYC by which launched beats land: it goes on while VCYC is held by a halt (R261). -/
def State.landingCycle (s : State) (core : Nat) : Nat :=
  let v := (s.core core).vcyc
  if v.run then v.read s.now else v.val + (s.now - v.base)

/-- Whether the exchange of the slice goes on. -/
def State.exchLive (s : State) (core : Nat) : Bool := s.inSlice core && s.exchange && !s.dbg.frozen

def Core.slot? (k : Core) (n : Nat) : Option Desc := SMap.get? k.slots n
def State.setSlot (s : State) (core n : Nat) (d : Desc) : State := s.modCore core fun k => { k with slots := k.slots.put n d }

/-- The bound fields of a group (R251). -/
def Desc.bound (d : Desc) : List Nat :=
  [d.DST, d.LEN, d.ROP, d.RFMT] ++ (if d.kind == .xcast then [d.SRC, d.SETLO, d.SETHI] else [])

/-- Physical pieces of a reduction's destination. -/
def Desc.redPieces (d : Desc) : List (Nat × Nat) := if d.kind == .xred then d.dst.map fun p => (p.2.1, p.2.2) else []

/-- Whether two lists of pieces share a bit. -/
def piecesMeet (a b : List (Nat × Nat)) : Bool :=
  a.any fun x => b.any fun y => x.2 != 0 && y.2 != 0 && decide (x.1 < y.1 + y.2) && decide (y.1 < x.1 + x.2)

/-- The group rule at the start of a descriptor (R251). -/
def State.bindGroup (s : State) (d : Desc) : Except Stop State :=
  if d.kind != .xred && d.kind != .xcast then .ok s
  else
    match SMap.get? s.groups d.GROUP with
    | some g => if g.kind != d.kind || g.fields != d.bound || d.kind == .xcast then fail { Exc.groupReuse d.GROUP with desc := some (d.e, d.START) } else .ok s
    | none =>
      if d.kind == .xred && s.groups.any (fun g => g.2.kind == .xred && piecesMeet g.2.dst d.redPieces) then
        fail { Exc.groupReuse d.GROUP with desc := some (d.e, d.START) }
      else .ok { s with groups := s.groups.put d.GROUP { kind := d.kind, fields := d.bound, dst := d.redPieces, origin := d.origin, e := d.e, start := d.START } }

/-- DESCRIPTOR_START: a timed descriptor starts at VCYC = START and binds its group (R251). -/
def execDescriptorStart (core slot : Nat) (s : State) : Host.Outcome State Fault Refusal :=
  match (s.core core).slot? slot with
  | none => .fault .notEnabled
  | some d =>
    if s.exchLive core && d.kind != .xfar && !d.started && d.START ≤ s.vcycOf core then
      s.stepped d.origin (do
        let s ← s.bindGroup d
        .ok (s.setSlot core slot { d with started := true }))
    else .fault .notEnabled

/-- The VCYC in which a descriptor next acts: a claim it loses, or its next read or write. -/
def Desc.nextAct (d : Desc) : Option Nat := minCycle d.clash (d.acts.head?.map (·.cycle))

/-- Whether an act is the write of a beat that has been read: it goes on under a halt (R261). -/
def Desc.launched (d : Desc) (a : Act) : Bool := a.write && (SMap.get? d.buf a.beat).isSome

/-- The first write of a beat that has been read. -/
def Desc.nextLaunched (d : Desc) : Option Act := d.acts.find? d.launched

/-- The act of a descriptor whose cycle has come: the next one, or under a halt the next write of a beat already read. -/
def State.dueAct (s : State) (core : Nat) (d : Desc) : Option Act :=
  match d.acts with
  | a :: _ => if a.cycle ≤ s.vcycOf core then some a
    else d.nextLaunched.filter fun (a : Act) => decide (a.cycle ≤ s.landingCycle core)
  | [] => none

/-- Whether a descriptor acts now: a claim that it loses, or an act. -/
def State.actDue (s : State) (core : Nat) (d : Desc) : Bool :=
  d.started && ((match d.clash with | some t => decide (t ≤ s.vcycOf core) | none => false) || (s.dueAct core d).isSome)

/-- The level that suffices for what a descriptor lands in a scratchpad, by its path; at the home of a DEVICE sector its
home level decides (R164, R271). -/
def Desc.arriveLevel (d : Desc) (p : Place) : Nat :=
  match p, d.kind with
  | .loc _, .halo => 0
  | .loc _, .xfer => if spaceOf d.SRC = 2 then 2 else 1
  | .loc _, .xcast => 2
  | _, _ => 0

/-- A beat holds its banks in this cycle, and a merge in the next one too; what is past is forgotten. -/
def State.holdBanks (s : State) (l : List (Resource × Nat)) : State :=
  { s with taken := (s.taken.filter fun q => decide (s.now ≤ q.2)) ++ l }

/-- The first cycle from t on in which no beat holds some banks, as far as they have been taken (R254). -/
def State.beatsEnd (s : State) (rs : List Resource) (t : Nat) : Nat :=
  s.taken.foldl (fun m q => if rs.contains q.1 && decide (t ≤ q.2) then Nat.max m (q.2 + 1) else m) t

/-- The slice banks of pieces of an end. -/
def sliceBanks (ps : List (Place × Nat × Nat)) : List Resource :=
  ps.flatMap fun p => if p.1 == .phys then
      ((sectorsOf p.2.1 p.2.2).filter fun sec => inSram (512 * sec)).map fun sec => .sliceBank (sliceOf (512 * sec)) (sec % 64)
    else []

/-- One act of a descriptor: the claim it loses raises TIMING (R260); a read fills the buffer; a write lands. -/
def State.act (s : State) (core slot : Nat) (d : Desc) : Except Stop State := atDesc d do
  match s.dueAct core d with
  | none => fail { Exc.timing 0 with vcyc := d.clash }
  | some a =>
    if (match d.clash with | some t => decide (t ≤ a.cycle) && decide (t ≤ s.vcycOf core) | none => false) then
      fail { Exc.timing 0 with vcyc := d.clash }
    else
      let key := a.beat
      let rest := d.acts.erase a
      if a.write then
        let (x, bad, s) := s.hear (.beat d.seq key) (SMap.get 0 d.buf key) []
        let (lo, hi) := d.beatRange a.beat
        let s ← if d.kind == .xred then (d.termFault a.beat bad).map fun _ => s.addBeat d a.beat x
          else (d.ends s.sliceCores a).foldlM (fun s e => do
            let s ← s.writePieces d (cutPieces 0 e lo hi) lo x
            let s := (s.poisonCut (cutPieces 0 e lo hi) (badWords bad)).holdBanks (d.bankClaims (cutPieces 0 e lo hi) s.now true)
            let s := (cutPieces 0 e lo hi).foldl (fun s q => s.modSpace q.2.1 fun m =>
              (sectorsOf q.2.2.1 q.2.2.2).foldl (fun m sec => m.arrive sec (d.arriveLevel q.2.1)) m) s
            .ok ((cutPieces 0 e lo hi).foldl (fun s q => s.drainedAt core q.2.1 q.2.2.1 q.2.2.2) s)) s
        .ok ((s.setSlot core slot { d with acts := rest, buf := if rest.any (·.beat == key) then d.buf else d.buf.del key }).wake core)
      else
        let (lo, hi) := d.srcRange a.beat
        let (x, s) ← s.readSrc d lo hi
        let s := s.holdBanks (d.bankClaims (cutPieces 0 d.src lo hi) s.now false)
        .ok (s.setSlot core slot { d with acts := rest, buf := d.buf.put key x })

/-- DESCRIPTOR_BEAT: the next act of a descriptor, in its computed cycle (R255 to R257). -/
def execDescriptorBeat (core slot : Nat) (s : State) : Host.Outcome State Fault Refusal :=
  match (s.core core).slot? slot with
  | none => .fault .notEnabled
  | some d =>
    if s.exchLive core && s.actDue core d then s.stepped d.origin (s.act core slot d)
    else .fault .notEnabled

/-- DESCRIPTOR_LANDED: a timed descriptor has done everything; its slot is free in the next cycle (R259). -/
def execDescriptorLanded (core slot : Nat) (s : State) : Host.Outcome State Fault Refusal :=
  match (s.core core).slot? slot with
  | none => .fault .notEnabled
  | some d =>
    if s.exchLive core && d.kind != .xfar && d.started && d.landed.isNone && d.acts.isEmpty && d.landAt ≤ s.landingCycle core then
      .next ((s.setSlot core slot { d with landed := some s.now, buf := [] }).wake core)
    else .fault .notEnabled

end Sys2Proof.Machine
end

