-- ==== Sys2Proof/Machine/Matrix.lean ====
section
/-! DEFINITION. The matrix engine (R199 to R228): the twelve subfunctions, and the starts, drain writes and
completions of its commands. A command reads its operands request by request, forms its result when it has read the last one and keeps it;
the planes take the result when it completes (log 8). -/

namespace Sys2Proof.Machine

/-! ## Cells (R203, R209, R304) -/

/-- A floating-point format of the engine. -/
def cellFmt (f : Nat) : Fmt := (fmtOf f).getD .fp32

/-- The cells of a unit as read from memory, in the layout of R304: the value, the route and the block exponent. -/
def unitCells (fmt : Nat) (bundles : Bool) (x : Nat) : List Nat :=
  match Pip.ofCode fmt with
  | some p =>
    if bundles then
      (rangeFrom 0 8).map fun v =>
        let el : PElem := (field x (32 + p.w * v + p.w - 1) (32 + p.w * v + p.w - 1) == 1, (x >>> (32 + p.w * v)) % 2 ^ p.k)
        pipSlot el (field x (24 + v / 2) (24 + v / 2)) + 2 ^ 32 * field x (2 * v + 9) (2 * v + 8) + 2 ^ 34 * field x 7 0
    else
      let b := PBlock.ofBits p x
      (rangeFrom 0 16).map fun j => pipSlot (b.el.getD j (false, 0)) (b.mu.getD (j / 2) 0) + 2 ^ 34 * b.e
  | none =>
    if bundles then (rangeFrom 0 8).map fun v => field x (16 * v + 31) (16 * v + 16) + 2 ^ 32 * field x (2 * v + 1) (2 * v)
    else [x]

/-- A bundle is well formed: the routes of each quad rise and its reserved bits are zero (R209). -/
def bundleOk (fmt x : Nat) : Bool :=
  let base := if isPip fmt then 8 else 0
  ((rangeFrom 0 4).all fun q => decide (field x (base + 4 * q + 1) (base + 4 * q) < field x (base + 4 * q + 3) (base + 4 * q + 2)))
  && (!isPip fmt || field x 31 28 == 0)

/-- The value of a cell (R83, R84, R204). -/
def cellVal (fmt : Nat) (cell : Nat) : FVal :=
  match Pip.ofCode fmt with
  | some p => pipValue p (field cell 41 34) (field cell 14 14) (slotElem p (cell % 65536))
  | none => (cellFmt fmt).unpack (cell % 2 ^ (cellFmt fmt).width)

/-- Cells of row n of W-active, as (reduced position, value); a position that no kept value names is absent. The second kept
value of a quad has a route above 0 (R209): a quad whose second route is 0 was never loaded and routes nothing (R210). -/
def Mat.weightRow (e : Mat) (n gk : Nat) : List (Option FVal) :=
  let fmt := e.tact.toNat
  let cell (k : Nat) : Nat := (SMap.get 0 e.wact (64 * n + k)).toNat
  if e.spact then
    let routed := (rangeFrom 0 (gk / 2)).filter fun c => field (cell (c ||| 1)) 33 32 != 0
    let kept := routed.map fun c => (c / 8 * 16 + c % 8 / 2 * 4 + field (cell c) 33 32, cellVal fmt (cell c))
    (rangeFrom 0 gk).map fun p => (kept.find? fun q => q.1 == p).map (·.2)
  else (rangeFrom 0 gk).map fun k => some (cellVal fmt (cell k))

/-! ## Accumulators -/

/-- An accumulator element as the commands already started leave it: they land in the order of their starts (R214). -/
def Mat.accAhead (e : Mat) (pl i : Nat) : Nat :=
  match e.running.reverse.findSome? (fun m => if m.kind.plane = some pl && !m.kept.contains i then SMap.get? m.res i else none) with
  | some x => x.toNat
  | none => (SMap.get 0 (if pl = 0 then e.acc else e.dw) i).toNat

/-- Products of two lists of values by position. -/
def products : List FVal → List (Option FVal) → List (Option FVal)
  | x :: xs, w :: ws => w.map (exactMul x) :: products xs ws
  | _, _ => []

/-- Column j of a list of rows. -/
def column (rows : List (List FVal)) (j : Nat) : List FVal := rows.map fun r => r.getD j (.fin false 0 0)

/-- The cells that a stream command leaves, from the rows it has read (R213). -/
def Mat.streamResult (e : Mat) (m : MCmd) (x g : List (List FVal)) : SMap (BitVec 64) :=
  match m.kind with
  | .fwd =>
    let ws := (rangeFrom 0 m.gn).map fun n => e.weightRow n m.gk
    (rangeFrom 0 m.gm).flatMap fun i => (rangeFrom 0 m.gn).map fun n =>
      (64 * i + n, BitVec.ofNat 64 (gsum (e.accAhead 0 (64 * i + n)) (products (x.getD i []) (ws.getD n []))))
  | .bwd =>
    let ws := (rangeFrom 0 m.gn).map fun n => (e.weightRow n m.gk).map fun v => v.getD (.fin false 0 0)
    (rangeFrom 0 m.gm).flatMap fun i => (rangeFrom 0 m.gk).map fun k =>
      (64 * i + k, BitVec.ofNat 64 (gsum (e.accAhead 0 (64 * i + k)) (products (x.getD i []) ((column ws k).map some))))
  | .grd =>
    (rangeFrom 0 m.gn).flatMap fun n => (rangeFrom 0 m.gk).map fun k =>
      (64 * n + k, BitVec.ofNat 64 (gsum (e.accAhead 1 (64 * n + k)) (products (column g n) ((column x k).map some))))
  | _ => []

/-! ## Starts (R205, R206, R214) -/

/-- Whether a command selects an accumulator plane to read whole or to clear. -/
def MCmd.selects (m : MCmd) (pl : Nat) : Bool :=
  match m.kind with | .drain => m.pl == pl | .zero => field m.pl pl pl == 1 | _ => false

/-- The cycle until which a running command holds a later one back (R205): none while that is not known. -/
def MCmd.holds (r m : MCmd) : Option Nat :=
  let start := r.start.getD 0
  let completes := match m.kind with
    | .swap => r.kind.isLoad
    | .ldw | .ldws => r.kind.isStream && r.swapped
    | .zero | .drain => (match r.kind.plane with | some p => m.selects p | none => false)
    | _ => false
  let drained := r.kind == .drain && (m.kind.plane == some r.pl || (m.kind == .zero && m.selects r.pl))
  if completes then r.done
  else some (if drained then start + r.rows else 0)

/-- The first cycle in which a command may start once every earlier one has (R205). -/
def Mat.readyAt (e : Mat) (m : MCmd) : Option Nat :=
  let port := match m.kind with | .ldw => e.load | .ldws => e.load | .drain => e.drain | _ => e.stream
  e.running.foldl (fun acc r => match acc, r.holds m with | some a, some b => some (Nat.max a b) | _, _ => none) (some port)

/-- Replace a running command. -/
def Mat.replace (e : Mat) (m m' : MCmd) : Mat := { e with running := e.running.map fun r => if r = m then m' else r }

/-- The facing check of a command's request, in its cycle: it waits for a flip that its owner's turnarounds still owe;
inside a span the sector counts as it stands (R215). -/
def State.matrixFacing (s : State) (core : Nat) (m : MCmd) (sec : Nat) : Except Stop Unit :=
  if !m.inSpan && s.willFlip core m.origin.ctx sec then .error .event
  else if s.isInAt core sec s.now then .ok ()
  else fail (Exc.unturned (512 * sec))

/-- One request of a command: the checks of R127 for every unit of its stream cycle that the sector holds, then the sector
as the M path gives it (R164, R215). -/
def State.readSector (s : State) (core : Nat) (m : MCmd) (i sec : Nat) : Except Stop (BitVec 512 × State) := do
  let us := (m.unitsAt i).filter fun u => (sectorsOf u.1 u.2).contains sec
  us.forM fun u => s.checkPlace core u.1 u.2
  s.matrixFacing core m sec
  us.forM fun u =>
    let lo := Nat.max u.1 (512 * sec)
    match (s.core core).loc.anyBad lo (Nat.min (u.1 + u.2) (512 * sec + 512) - lo) with
    | some w => fail (Exc.poison (64 * w))
    | none => .ok ()
  let s ← s.raceSectors core m.origin.head (s.agent core m.origin.ctx 0 false) false [sec]
  let (x, s) := s.readLocal core .m (512 * sec) 512 s.now
  .ok (BitVec.ofNat 512 x, s)

/-- The bits of a unit of a row, from the sectors that the command has read. -/
def MCmd.unitValue (m : MCmd) (row : Nat) (secs : List (Nat × Nat)) (u : Nat × Nat) : Nat :=
  let joined := (sectorsOf u.1 u.2).foldr (fun sec acc =>
    let k := match secs.find? (fun q => q.2 == sec) with | some q => q.1 | none => 0
    (SMap.get 0 m.got (readKey (m.rowCycle row k) sec)).toNat + 2 ^ 512 * acc) 0
  (joined >>> (u.1 % 512)) % 2 ^ u.2

/-- The units of a row of an operand as read. -/
def MCmd.rowValues (m : MCmd) (q : MOperand × Nat × Nat × Bool) (row : Nat) : List Nat :=
  let secs := enumFrom 0 (m.rowSectors q row)
  (q.1.rowUnits m.fmt.toNat q.2.2.2 q.2.2.1 row).map (m.unitValue row secs)

/-- The cells of an operand as read, row by row. -/
def MCmd.operandCells (m : MCmd) (q : MOperand × Nat × Nat × Bool) : List (List Nat) :=
  (rangeFrom 0 q.2.1).map fun row => (m.rowValues q row).flatMap (unitCells m.fmt.toNat q.2.2.2)

/-- Whether every sector of a row has been read. -/
def MCmd.rowRead (m : MCmd) (q : MOperand × Nat × Nat × Bool) (row : Nat) : Bool :=
  (enumFrom 0 (m.rowSectors q row)).all fun p => (SMap.get? m.got (readKey (m.rowCycle row p.1) p.2)).isSome

/-- MATRIX-BUNDLE: a row of bundles that has just been read holds one that is not well formed (R210). -/
def MCmd.checkBundles (m m' : MCmd) : Except Stop Unit :=
  m'.reads.forM fun q =>
    if !q.2.2.2 then .ok ()
    else (rangeFrom 0 q.2.1).forM fun row =>
      if m.rowRead q row || !m'.rowRead q row then .ok ()
      else match firstAt (fun x => !bundleOk m'.fmt.toNat x) 0 (m'.rowValues q row) with
        | some t => fail (Exc.bundle row t)
        | none => .ok ()

/-- The accesses of a command for its requests, with the cycle of each. -/
def MCmd.uses (m : MCmd) (rs : List MReq) : List BankUse :=
  rs.map fun r => { sec := r.sec, cycle := r.due, rank := 1, seq := r.seq, origin := m.origin, issued := m.issued, ends := .command }

/-- Rows of cells as values. -/
def rowVals (fmt : Nat) (rows : List (List Nat)) : List (List FVal) := rows.map fun r => r.map (cellVal fmt)

/-- The nonzero cells of a weight plane (R208, R210). -/
def planeCells : Nat → List (List Nat) → SMap (BitVec 64)
  | _, [] => []
  | n, r :: rs =>
    ((enumFrom (64 * n) r).filter fun q => q.2 != 0).map (fun q => (q.1, BitVec.ofNat 64 q.2)) ++ planeCells (n + 1) rs

/-- A command starts: MSWAP and MZERO are whole in that cycle (R228), a drain reads its plane, and a load or stream
command puts its requests on the schedule (R211, R215, R219). -/
def State.startCommand (s : State) (core : Nat) (m : MCmd) : Except Stop State :=
  let now := s.now
  let m := { m with start := some now }
  let e := (s.core core).me
  let put (s : State) (f : Mat → Mat) : State := s.modCore core fun k => { k with me := f k.me }
  match m.kind with
  | .swap =>
    .ok (put s fun e => { e with wact := e.wsh, wsh := e.wact, tact := e.tsh, tsh := e.tact, spact := e.spsh, spsh := e.spact
                                 running := e.running.map fun r => { r with swapped := true }, stream := now + 1 })
  | .zero =>
    .ok (put s fun e => { e with acc := if m.selects 0 then [] else e.acc, dw := if m.selects 1 then [] else e.dw, stream := now + 1 })
  | .drain =>
    let plane := if m.pl = 0 then e.acc else e.dw
    let snap := (plane.filter fun q => decide (q.1 / 64 < m.rows) && decide (q.1 % 64 < m.cols)).map fun q => (q.1, q.2.setWidth 64)
    .ok (put s fun e => { e with running := e.running ++ [{ m with res := snap }], drain := now + m.rows })
  | _ =>
    let n := if m.kind.isLoad then m.gn else m.streamLen
    let (rs, slip) := m.schedule now n
    let m := { m with plan := rs, done := some (now + n + slip + (if m.kind.isLoad then 8 else 64)) }
    (put s fun e =>
      let e := { e with running := e.running ++ [m] }
      if m.kind.isLoad then { e with load := now + n + slip } else { e with stream := now + n + slip }).claim core (m.uses rs)

/-- The cells that a load or stream command will write, once it has read every row (R208, R210, R213). -/
def Mat.resultOf (e : Mat) (m : MCmd) : SMap (BitVec 64) :=
  let rows (i : Nat) : List (List Nat) := match m.reads[i]? with | some q => m.operandCells q | none => []
  if m.kind.isLoad then planeCells 0 (rows 0) else e.streamResult m (rowVals m.fmt.toNat (rows 0)) (rowVals m.fmt.toNat (rows 1))

/-- The running command whose next request is due first, with its cycle. -/
def Core.nextRead (k : Core) : Option (MCmd × Nat) :=
  k.me.running.foldl (fun (best : Option (MCmd × Nat)) m =>
    match m.plan with
    | [] => best
    | r :: _ =>
      let t := k.askCycle m r
      match best with | some b => if t < b.2 then some (m, t) else best | none => some (m, t)) none

/-- The requests of a command that cannot go now come a cycle later, and with them the rest of the command (R215). -/
def State.delayReads (s : State) (core : Nat) (m : MCmd) : Except Stop State :=
  let k := s.core core
  let rs := m.plan.map fun r => { r with due := k.askCycle m r + 1 }
  (s.setCore core { k with
    banks := k.banks.filter fun u => !(u.ends == .command && u.origin == m.origin && u.issued == m.issued && decide (s.now ≤ u.cycle))
    me := k.me.later m 1 }).claim core (m.uses rs)

/-- The requests of a running command that are due, in order; a sector that waits for a flip puts the rest off. -/
def State.readNext (s : State) (core : Nat) (m : MCmd) : List MReq → Except Stop State
  | [] =>
    .ok (s.modCore core fun k => { k with me := k.me.replace m { m with res := k.me.resultOf m } })
  | r :: rest =>
    if s.now < (s.core core).askCycle m r then .ok s
    else match s.readSector core m r.i r.sec with
      | .error .event => s.delayReads core m
      | .error e => .error e
      | .ok (x, s') => do
        let m' := { m with plan := rest, got := m.got.put (readKey r.i r.sec) x }
        m.checkBundles m'
        (s'.modCore core fun k => { k with me := k.me.replace m m' }).readNext core m' rest

/-! ## Issue (R200 to R206) -/

/-- The engine's queue holds 4 commands that have not started: a fifth stalls the context (R205). -/
def State.commandRoom (s : State) : Except Stop Unit :=
  if s.cur.span.isNone && 4 ≤ s.curCore.me.queue.length then .error .event else .ok ()

/-- A command as it is issued, with the shape granted (R205, R207). -/
def State.newCommand (s : State) (kind : MKind) : MCmd :=
  let e := s.curCore.me
  { kind := kind, origin := s.origin, issued := s.now, inSpan := s.cur.span.isSome
    gm := e.gm, gn := e.gn, gk := e.gk, sp := e.sp }

/-- A command that has passed its checks joins the queue; inside a span it starts now or raises TIMING (R205, R206). -/
def State.sendCommand (s : State) (m : MCmd) : Except Stop State :=
  let e := s.curCore.me
  if m.inSpan then
    match e.readyAt m with
    | some t => if e.queue.isEmpty && t ≤ s.now then s.startCommand s.focusCore m else fail (Exc.timing 0)
    | none => fail (Exc.timing 0)
  else .ok (s.modCurCore fun k => { k with me := { k.me with queue := k.me.queue ++ [m] } })

/-- The tensor that a register pair names, with its entry read through the layout cache (R142, R202). -/
def State.tensor (s : State) (n : Reg) : Except Stop (MOperand × State) := do
  let idx := (s.reg n).toNat
  s.checkEntry s.focusCore idx
  let coord := s.reg (regPlus n 1)
  let (l, s) := s.useEntry s.focusCore idx
  .ok ({ lte := l, coord := coord }, s)

/-- FMT of a tensor, refused where the engine or the command does not take it, or a pip row is not whole blocks
(R203, R204). -/
def MOperand.format (o : MOperand) (ok : Nat → Bool) (cols : Nat) : Except Stop Nat :=
  if tensorBad ok cols o.lte then fail Exc.operand else .ok (lteFmt o.lte)

/-- LAYOUT and SPACE of a tensor operand (R139, R202, R203). Of c2 and c3 no limit is given, and none is checked (log 101). -/
def MOperand.check (o : MOperand) (idx fmt : Nat) (bundles : Bool) (rows cols : Nat) : Except Stop Unit := do
  failIf (lteBad o.lte) (Exc.layout idx)
  let n := if bundles then cols / 16 else cols
  failIf (isPip fmt && !bundles && coordOf o.coord 0 % 16 != 0) (Exc.layout idx)
  failIf (lteSize o.lte 0 < coordOf o.coord 0 + n - 1 || lteSize o.lte 1 < coordOf o.coord 1 + rows - 1) (Exc.layout idx)
  failIf (spaceOf (lteBase o.lte) != 0) (Exc.space (lteBase o.lte))

/-- The program-order state of the plane tags after a command (R205). -/
def State.setTagsOf (s : State) (f : Mat → Mat) : State := s.modCurCore fun k => { k with me := f k.me }

/-- MLDW and MLDWS after the shape check. -/
def State.loadWeights (s : State) (a : Reg) (bundles : Bool) : Except Stop State := do
  s.commandRoom
  let m := s.newCommand (if bundles then .ldws else .ldw)
  let idx := (s.reg a).toNat
  let (o, s) ← s.tensor a
  let f ← if bundles then o.format (fun f => engineFmt f && f != 0x0C) 16 else o.format engineFmt m.gk
  o.check idx f bundles m.gn m.gk
  let s ← s.sendCommand { m with a := o, fmt := BitVec.ofNat 7 f }
  .ok (s.setTagsOf fun e => { e with ptsh := BitVec.ofNat 7 f, pspsh := bundles })

/-- MFWD and MBWD after the sparse checks. -/
def State.streamRows (s : State) (a : Reg) (kind : MKind) : Except Stop State := do
  s.commandRoom
  let m := s.newCommand kind
  let idx := (s.reg a).toNat
  let cols := if kind == .fwd then m.gk else m.gn
  let (o, s) ← s.tensor a
  let f ← o.format engineFmt cols
  let tag := s.curCore.me.ptact.toNat
  failIf (tag == 0) (Exc.tag 0)
  failIf (f != tag) (Exc.tag f)
  o.check idx f false m.gm cols
  s.sendCommand { m with a := o, fmt := BitVec.ofNat 7 f }

/-! ## The instructions (R207 to R223) -/

/-- The granted K of a request (R207). -/
def grantK (r : Word) : Nat :=
  let k := field r.toNat 23 16
  if r.getLsbD 24 then Nat.min k 128 / 16 * 16 else Nat.min k 64

/-- MSHAPE (R207). -/
def execMshape (d a : Reg) (s : State) : Host.Outcome State Fault Refusal :=
  issue (.mshape d a) s fun _ s =>
    let r := s.reg a
    let gm := Nat.min (field r.toNat 6 0) 64
    let gn := Nat.min (field r.toNat 14 8) 64
    let gk := grantK r
    let sp := r.getLsbD 24
    .ok ((s.setTagsOf fun e => { e with gm := gm, gn := gn, gk := gk, sp := sp }).result d
      (BitVec.ofNat 64 (gm + 2 ^ 8 * gn + 2 ^ 16 * gk + 2 ^ 24 * sp.toNat)) 1)

/-- MLDW (R208). -/
def execMldw (a : Reg) (s : State) : Host.Outcome State Fault Refusal :=
  issue (.mldw a) s fun _ s => s.loadWeights a false

/-- MLDWS (R210). -/
def execMldws (a : Reg) (s : State) : Host.Outcome State Fault Refusal :=
  issue (.mldws a) s fun _ s => s.loadWeights a true

/-- What MSWAP does (R211). -/
def State.mswap (s : State) : Except Stop State := do
  s.commandRoom
  let s ← s.sendCommand (s.newCommand .swap)
  .ok (s.setTagsOf fun e => { e with ptact := e.ptsh, ptsh := e.ptact, pspact := e.pspsh, pspsh := e.pspact })

/-- MSWAP (R211). -/
def execMswap (s : State) : Host.Outcome State Fault Refusal :=
  issue .mswap s fun _ s => s.mswap

/-- MFWD (R212, R213). -/
def execMfwd (a : Reg) (s : State) : Host.Outcome State Fault Refusal :=
  issue (.mfwd a) s fun _ s => s.streamRows a .fwd

/-- MBWD (R212, R213). -/
def execMbwd (a : Reg) (s : State) : Host.Outcome State Fault Refusal :=
  issue (.mbwd a) s fun _ s => s.streamRows a .bwd

/-- What MGRD does (R212, R213). -/
def State.mgrd (s : State) (a b : Reg) : Except Stop State := do
  s.commandRoom
  let m := s.newCommand .grd
  let ia := (s.reg a).toNat
  let ib := (s.reg b).toNat
  let (x, s) ← s.tensor a
  let (g, s) ← s.tensor b
  let fx ← x.format (fun f => engineFmt f && !isPip f) m.gk
  let fg ← g.format (fun f => engineFmt f && !isPip f) m.gn
  failIf (fx != fg) (Exc.tag fg)
  x.check ia fx false m.gm m.gk
  g.check ib fg false m.gm m.gn
  s.sendCommand { m with a := x, b := g, fmt := BitVec.ofNat 7 fx }

/-- MGRD (R212, R213). -/
def execMgrd (a b : Reg) (s : State) : Host.Outcome State Fault Refusal :=
  issue (.mgrd a b) s fun _ s => s.mgrd a b

/-- Every sector of a drain's destination is checked at issue: SPACE, SYNC-MISUSE, QUEUE (R216). -/
def State.checkDrain (s : State) (m : MCmd) : Except Stop Unit :=
  (rangeFrom 0 m.rows).forM fun r =>
    (m.a.rowUnits m.fmt.toNat false m.cols r).forM fun u => s.checkPlace s.focusCore u.1 u.2

/-- What MDRAIN does (R216 to R219). -/
def State.mdrain (s : State) (a b : Reg) : Except Stop State := do
  s.commandRoom
  let r := (s.reg b).toNat
  let rows := field r 14 8 + 1
  let cols := field r 22 16 + 1
  let idx := (s.reg a).toNat
  let (o, s) ← s.tensor a
  let f ← o.format engineFmt cols
  o.check idx f false rows cols
  let m := { s.newCommand .drain with a := o, fmt := BitVec.ofNat 7 f, pl := field r 0 0, rows := rows, cols := cols }
  s.checkDrain m
  s.sendCommand m

/-- MDRAIN (R216 to R219). -/
def execMdrain (a b : Reg) (s : State) : Host.Outcome State Fault Refusal :=
  issue (.mdrain a b) s fun _ s => s.mdrain a b

/-- What MZERO does (R220). -/
def State.mzero (s : State) (b : Reg) : Except Stop State := do
  s.commandRoom
  s.sendCommand { s.newCommand .zero with pl := b.toNat }

/-- MZERO (R220). -/
def execMzero (b : Reg) (s : State) : Host.Outcome State Fault Refusal :=
  issue (.mzero b) s fun _ s => s.mzero b

/-- MAMAX (R221): the maximum, then AMAX := 0. -/
def execMamax (d : Reg) (s : State) : Host.Outcome State Fault Refusal :=
  issue (.mamax d) s fun _ s =>
    let e := s.curCore.me
    if s.cur.span.isSome && e.running.any (fun m => m.kind == .drain) then fail (Exc.timing 0)
    else if s.cur.span.isNone && (e.queue ++ e.running).any (fun m => m.kind == .drain) then .error .event
    else .ok ((s.setTagsOf fun e => { e with amax := 0 }).result d (e.amax.setWidth 64) 2)

/-- MWAIT: every earlier command has completed (R222). -/
def execMwait (s : State) : Host.Outcome State Fault Refusal :=
  issue .mwait s fun _ s =>
    if s.curCore.me.queue.isEmpty && s.curCore.me.running.isEmpty then .ok s else .error .event

/-- MSTAT (R223). -/
def execMstat (d : Reg) (s : State) : Host.Outcome State Fault Refusal :=
  issue (.mstat d) s fun _ s => .ok (s.result d s.curCore.me.mstate 1)

/-! ## Steps of the engine -/

/-- Whether the engine of a core moves: its slice runs and nothing is frozen. -/
def State.engineLive (s : State) (core : Nat) : Bool := s.inSlice core && !s.dbg.frozen

/-- The command that would start next and the first cycle that lets it; queued commands do not start while the owner
is halted (R227). -/
def State.nextCommand (s : State) (core : Nat) : Option (MCmd × Nat) :=
  let e := (s.core core).me
  match e.queue with
  | [] => none
  | m :: _ => if (s.ctx core m.origin.ctx).halted then none else (e.readyAt m).map fun t => (m, t)

/-- Whether the next request of some running command is due. -/
def State.readDue (s : State) (core : Nat) : Option MCmd :=
  match (s.core core).nextRead with | some (m, t) => if t ≤ s.now then some m else none | none => none

/-- MATRIX_COMMAND_START: a command that runs makes its requests that are due, row by row (R208, R215); otherwise the
oldest queued command starts (R205). -/
def execMatrixCommandStart (core : Nat) (s : State) : Host.Outcome State Fault Refusal :=
  if !s.engineLive core then .fault .notEnabled
  else match s.readDue core with
    | some m => s.stepped m.origin (s.readNext core m m.plan)
    | none =>
      match s.nextCommand core with
      | none => .fault .notEnabled
      | some (m, t) =>
        if t ≤ s.now then
          s.stepped m.origin (do
            let s ← s.startCommand core m
            .ok ((s.modCore core fun k => { k with me := { k.me with queue := k.me.queue.drop 1 } }).wake core))
        else .fault .notEnabled

/-- What a drain writes of a row: (bit address, width, value), and the flags of the conversion (R217). -/
def MCmd.drainRow (m : MCmd) (row : Nat) : List (Nat × Nat × Nat) × BitVec 7 :=
  let f := m.fmt.toNat
  let el (j : Nat) : Nat := ((SMap.get 0 m.res (64 * row + j)).setWidth 32).toNat
  let us := enumFrom 0 (rangeFrom 0 (m.a.rowUnits f false m.cols row).length)
  let unit (t : Nat) : Nat × Nat := (m.a.rowUnits f false m.cols row).getD t (0, 0)
  us.foldl (fun (acc : List (Nat × Nat × Nat) × BitVec 7) q =>
    let u := unit q.1
    let r : FRes := match Pip.ofCode f with
      | some p =>
        let b := quantise p ((rangeFrom 0 16).map fun j =>
          let x := el (16 * q.1 + j)
          (field x 31 31 == 1, Fmt.fp32.unpack x))
        (PBlock.bits p b.1, b.2)
      | none => if f = 0x0C then (el q.1, 0) else Fmt.fp32.convert (cellFmt f) {} (el q.1)
    (acc.1 ++ [(u.1, u.2, r.1)], acc.2 ||| r.2)) ([], 0)

/-- The parts of pieces that lie in a sector. -/
def piecesIn (sec : Nat) (ps : List (Nat × Nat × Nat)) : List (Nat × Nat × Nat) :=
  ps.filterMap fun p =>
    let lo := Nat.max p.1 (512 * sec)
    let hi := Nat.min (p.1 + p.2.1) (512 * sec + 512)
    if lo < hi then some (lo, hi - lo, (p.2.2 >>> (lo - p.1)) % 2 ^ (hi - lo)) else none

/-- The row, sector and cycle of the next write of a drain. -/
def MCmd.nextWrite (m : MCmd) : Option (Nat × Nat × Nat) :=
  let rs := m.drainReqs
  match rs.drop m.wrote, (drainOffsets none {} rs).drop m.wrote with
  | q :: _, off :: _ => some (q.1, q.2.1, m.start.getD 0 + off + m.slip)
  | _, _ => none

/-- The drain whose write comes next, with row, sector and cycle. -/
def Mat.nextDrain (e : Mat) : Option (MCmd × Nat × Nat × Nat) :=
  e.running.foldl (fun (best : Option (MCmd × Nat × Nat × Nat)) m =>
    match (if m.kind == .drain then m.nextWrite else none), best with
    | some q, some b => if q.2.2 < b.2.2.2 then some (m, q) else some b
    | some q, none => some (m, q)
    | none, b => b) none

/-- The bits of a sector that a row of a drain writes. -/
def MCmd.rowParts (m : MCmd) (row sec : Nat) : List (Nat × Nat) :=
  (piecesIn sec ((m.a.rowUnits m.fmt.toNat false m.cols row).map fun u => (u.1, u.2, 0))).map fun p => (p.1, p.2.1)

/-- Whether a drain's write must wait for what comes before it in program order: a flip that a turnaround owes, a load or a
command that has still to read the sector, and a store or a drain that has still to write the same bits (R153, R163, R224). -/
def State.drainHeld (s : State) (core : Nat) (m : MCmd) (row sec : Nat) : Bool :=
  let k := s.core core
  let mine := m.rowParts row sec
  ((s.ctx core m.origin.ctx).turns.any fun u => u.holds sec && decide (u.issued < m.issued))
  || (k.banks.any fun u => u.sec == sec && u.origin.ctx == m.origin.ctx && decide (u.issued < m.issued) && decide (s.now < u.stop)
    && u.ends != .command && (!u.write || overlap u.parts mine))
  || (k.me.running.any fun r => decide (r.issued < m.issued) && ((r.plan.any fun q => q.sec == sec)
    || (r.kind == .drain && (r.drainReqs.drop r.wrote).any fun q => q.2.1 == sec && overlap (r.rowParts q.1 sec) mine)))

/-- The bits of a sector that stores of the owner, later in program order and already issued, write after this cycle (R153,
R224). -/
def Core.laterParts (k : Core) (m : MCmd) (sec now : Nat) : List (Nat × Nat) :=
  (k.banks.filter fun u => u.write && u.rank != 2 && u.sec == sec && u.origin.ctx == m.origin.ctx && decide (m.issued < u.issued)
    && decide (now < u.stop)).flatMap (·.parts)

/-- The value of a piece with the bits that later stores have already put there. -/
def keepParts (loc : Space) (later : List (Nat × Nat)) (p : Nat × Nat × Nat) : Nat :=
  later.foldl (fun x q =>
    let lo := Nat.max q.1 p.1
    let hi := Nat.min (q.1 + q.2) (p.1 + p.2.1)
    if lo < hi then setField x (lo - p.1) (hi - lo) (loc.readBits lo (hi - lo)) else x) p.2.2

/-- One sector of a drain is written (R128, R216, R217). -/
def State.drainWrite (s : State) (core : Nat) (m : MCmd) (row sec : Nat) : Except Stop State := do
  let (ps, fl) := m.drainRow row
  let mine := piecesIn sec ps
  let due := m.start.getD 0 + (drainOffsets none {} m.drainReqs).getD m.wrote 0
  let cover (w : Nat) : Nat := mine.foldl (fun acc p => acc + (Nat.min (p.1 + p.2.1) (64 * w + 64) - Nat.max p.1 (64 * w))) 0
  let merges := (rangeFrom (8 * sec) 8).filter fun w => cover w != 0 && cover w != 64
  let u : BankUse := { sec := sec, cycle := s.now, hold := if merges.isEmpty then 1 else 2, rank := 1, write := true
                       parts := mine.map fun p => (p.1, p.2.1), origin := m.origin, issued := m.issued, seq := m.wrote }
  if (s.core core).bankLost u then
    (if m.inSpan then fail (Exc.timing 0)
     else .ok (s.modCore core fun k => { k with me := k.me.replace m { m with slip := s.now + 1 - due } }))
  else
  match merges.find? (s.core core).loc.bad with
  | some w => fail (Exc.poison (64 * w))
  | none =>
    let s ← s.raceLocal core sec m.origin.head (s.agent core m.origin.ctx 0 false) true
    let later := (s.core core).laterParts m sec s.now
    let s := mine.foldl (fun s p => s.storeLocal core p.1 p.2.1 (keepParts (s.core core).loc later p)) s
    let s := s.noteLanding (u.hold - 1) core fun u => !u.exch && u.pendingOn sec && decide (m.issued < u.issued)
    let last := m.wrote + 1 = m.drainSectors.length
    let m' := { m with wrote := m.wrote + 1, slip := s.now - due, flags := m.flags ||| fl, done := if last then some (s.now + u.hold) else none }
    ((s.modCore core fun k => { k with me := k.me.replace m m' }).wake core).claim core [u]

/-- DRAIN_SECTOR_WRITE: the next sector of a running drain (R219); one that waits for what comes before it puts off the rest
of its drain by a cycle (R153, R163). -/
def execDrainSectorWrite (core : Nat) (s : State) : Host.Outcome State Fault Refusal :=
  match (s.core core).me.nextDrain with
  | none => .fault .notEnabled
  | some (m, row, sec, t) =>
    if !s.engineLive core || s.now < t then .fault .notEnabled
    else if s.drainHeld core m row sec then
      (if m.inSpan then .next (s.raiseFault m.origin (Exc.timing (512 * sec)))
       else .next (s.modCore core fun k => { k with me := k.me.replace m { m with slip := m.slip + (s.now + 1 - t) } }))
    else s.stepped m.origin (s.drainWrite core m row sec)

/-- The running command that completes first. -/
def Mat.nextDone (e : Mat) : Option (MCmd × Nat) :=
  e.running.foldl (fun best m =>
    match m.done, best with
    | some t, some (b, tb) => if t < tb then some (m, t) else some (b, tb)
    | some t, none => some (m, t)
    | none, b => b) none

/-- The cells that completion writes: all but those a debugger has written since their row landed (R317). -/
def MCmd.cells (m : MCmd) : SMap (BitVec 64) := if m.kept.isEmpty then m.res else m.res.filter fun q => !m.kept.contains q.1

/-- The cycle in which row i of a stream command lands in ACC; DW is complete only at completion (R214). -/
def MCmd.rowLands (m : MCmd) (i : Nat) : Option Nat :=
  match m.kind with
  | .fwd | .bwd => m.done.map fun t => t - m.streamLen + ceilDiv (4 * (i + 1)) (streamRate m.fmt.toNat)
  | _ => none

/-- A drain takes cells i and i + 1 as its plane holds them: their row is still to be read (R219). -/
def MCmd.retake (m : MCmd) (plane : SMap (BitVec 32)) (i : Nat) : MCmd :=
  { m with res := [i, i + 1].foldl (fun t j =>
      if decide (j / 64 < m.rows) && decide (j % 64 < m.cols) then SMap.set 0 t j ((SMap.get 0 plane j).setWidth 64) else t) m.res }

/-- A debugger has written cells i and i + 1 of a plane: they keep this value if their row has landed, and a drain that has
still to read their row takes it (R214, R219, R317). -/
def Mat.keepCells (e : Mat) (pl now i : Nat) : Mat :=
  { e with running := e.running.map fun m =>
      if m.kind == .drain then
        (if m.pl == pl && decide (now < m.start.getD 0 + i / 64) then m.retake (if pl = 0 then e.acc else e.dw) i else m)
      else match (if m.kind.plane == some pl then m.rowLands (i / 64) else none) with
        | some t => if t ≤ now then { m with kept := [i, i + 1] ++ m.kept } else m
        | none => m }

/-- The engine once a command has completed: the planes take its cells (R208, R213). -/
def Mat.complete (e : Mat) (m : MCmd) : Mat :=
  let e := if m.kind == .drain then e.takeGroups ((e.running.takeWhile (· != m)).foldl (fun n r => n + (r.groupCount - r.amaxed)) 0 + m.groupCount) else e
  let e := { e with running := e.running.filter fun r => !(r.kind == m.kind && r.start == m.start && r.issued == m.issued) }
  match m.kind with
  | .ldw | .ldws => { e with wsh := m.res, tsh := m.fmt, spsh := m.kind == .ldws }
  | .fwd | .bwd => { e with acc := m.cells.foldl (fun t q => SMap.set 0 t q.1 (q.2.setWidth 32)) e.acc }
  | .grd => { e with dw := m.cells.foldl (fun t q => SMap.set 0 t q.1 (q.2.setWidth 32)) e.dw }
  | _ => e

/-- MATRIX_COMMAND_COMPLETE: the first running command due completes; a drain ORs its flags into the owner's FLG
(R214, R217, R222). -/
def execMatrixCommandComplete (core : Nat) (s : State) : Host.Outcome State Fault Refusal :=
  match (s.core core).me.nextDone with
  | none => .fault .notEnabled
  | some (m, t) =>
    if s.engineLive core && t ≤ s.now then
      .next (((s.modCore core fun k => { k with me := k.me.complete m }).modCtx core m.origin.ctx fun c =>
        ({ c with flg := c.flg ||| m.flags } : Ctx).gather s.now m.flags).wake core)
    else .fault .notEnabled

end Sys2Proof.Machine
end

