-- ==== Sys2Proof/Machine/Far.lean ====
section
/-! DEFINITION. The far engine (R144, R145, R148, R150, R254, R265, R344): fills from far memory into queues or
DEVICE space, and the drains of outbound queues. Its times are free (R244). -/

namespace Sys2Proof.Machine

/-- Whether far traffic of a core moves: the photonic layer must be ready for it (R264). -/
def State.farLive (s : State) (core : Nat) : Bool := s.inSlice core && !s.dbg.frozen && s.photonic

/-- A free cycle after this one. -/
def State.later (s : State) : Nat × State :=
  let (n, s) := s.drawNat
  (s.now + 1 + n, s)

/-! ## Handoff (R254) -/

/-- Whether a PEER address can be reached (R265, R352). -/
def State.peerOk (s : State) (a : Nat) : Bool := spaceOf a != 4 || s.ports.reaches (field a 52 41)

/-- The descriptor that an XFAR_HANDOFF of a slot would hand over. -/
def State.handoff? (s : State) (core slot : Nat) : Option Desc :=
  match (s.core core).slot? slot with
  | some d =>
    if s.exchLive core && d.kind == .xfar && d.landed.isNone && d.START ≤ s.vcycOf core && d.accepted + 1 ≤ s.now
        && decide ((s.core core).fills.length < 64) && !s.peerStalls d.SRC then some d else none
  | none => none

/-- XFAR_HANDOFF: the far engine takes the descriptor, which frees its slot; without bits it is done (R254, R359). -/
def execXfarHandoff (core slot : Nat) (s : State) : Host.Outcome State Fault Refusal :=
  match s.handoff? core slot with
  | none => .fault .notEnabled
  | some d =>
    let s1 := s.setSlot core slot { d with landed := some s.now }
    if d.LEN = 0 then .next (s1.wake core)
    else if !s.peerOk d.SRC then s.stepped d.origin (atDesc d (fail (Exc.translation d.SRC)))
    else
      let s1 := if spaceOf d.SRC = 4 then s1.askPeer core d.seq d.SRC d.LEN else s1
      let (t, s1) := s1.later
      .next ((s1.modCore core fun k => { k with fills := k.fills ++ [{ desc := d, due := t }] }).wake core)

/-! ## Fills (R145, R254) -/

def Core.fill? (k : Core) (n : Nat) : Option Fill := k.fills.find? fun f => f.desc.seq == n
def Core.setFill (k : Core) (f : Fill) : Core := { k with fills := k.fills.map fun g => if g.desc.seq = f.desc.seq then f else g }
def Core.dropFill (k : Core) (n : Nat) : Core := { k with fills := k.fills.filter fun g => g.desc.seq != n }

/-- The bits of a source in HOST space that failed requests leave poisoned, as (first, number). Which of the requests, one
for a sector, fail is free; the words of those that do are poisoned, and counted (R344, R349, log 62). -/
def State.hostFails (s : State) (d : Desc) : List (Nat × Nat) × State :=
  if spaceOf d.SRC != 3 then ([], s)
  else
    let (n, s) := s.drawNat
    let off := d.SRC % 512
    let bad := ((sectorsOf off d.LEN).filter fun i => n.testBit i).map fun i =>
      let lo := 512 * i - off
      (lo, Nat.min d.LEN (512 * (i + 1) - off) - lo)
    (bad, s.countPoison (bad.flatMap fun b => wordsOf (d.SRC + b.1) b.2).length)

/-- The data of a fill as its flits bring it, a sector each, and the bits of it that arrive poisoned (R263). -/
def State.hearFill (s : State) (d : Desc) (x : Nat) : Nat × List (Nat × Nat) × State :=
  (rangeFrom 0 (ceilDiv d.LEN 512)).foldl (fun (acc : Nat × List (Nat × Nat) × State) k =>
    if acc.2.2.noise.isEmpty then acc
    else
      let q := acc.2.2.hear (.beat d.seq k) ((x >>> (512 * k)) % 2 ^ 512) []
      (setField acc.1 (512 * k) 512 q.1, acc.2.1 ++ q.2.1.map fun i => (512 * k + 64 * i, 64), q.2.2)) (x, [], s)

/-- FAR_SOURCE_READ: the source is read with the checks of R252, one in PEER space once its responses have come (R262); a
fault names the convoy and the PHC of its issue. -/
def execFarSourceRead (core slot : Nat) (s : State) : Host.Outcome State Fault Refusal :=
  match (s.core core).fill? slot with
  | none => .fault .notEnabled
  | some f =>
    if s.farLive core && f.data.isNone && f.due ≤ s.now && !s.awaited core f.desc.seq && s.beatsEnd (sliceBanks f.desc.src) s.now = s.now then
      s.stepped f.desc.origin (atDesc f.desc do
        let (x, s) ← s.readSrc f.desc 0 f.desc.LEN
        let (bad, s) := s.hostFails f.desc
        let (x, lost, s) := s.hearFill f.desc x
        let (t, s) := s.later
        .ok (s.modCore core fun k => k.setFill { f with data := some x, bad := bad ++ lost, due := t }))
    else .fault .notEnabled

/-- The positions that a bundle names twice: its block has no stated content there (log 9). -/
def bundleTwice (fmt x : Nat) : List Nat :=
  let base := if isPip fmt then 8 else 0
  ((rangeFrom 0 4).filter fun q => field x (base + 4 * q + 1) (base + 4 * q) == field x (base + 4 * q + 3) (base + 4 * q + 2)).map
    fun q => 4 * q + field x (base + 4 * q + 1) (base + 4 * q)

/-- The dense block of a bundle (R209, R254); `twice` gives what stands at the positions named twice. -/
def expandBundle (fmt x : Nat) (twice : SMap Nat) : Nat :=
  let base := if isPip fmt then 8 else 0
  let pos (v : Nat) : Nat := v / 2 * 4 + field x (base + 2 * v + 1) (base + 2 * v)
  let at? (j : Nat) : Option Nat := (rangeFrom 0 8).find? fun v => pos v == j
  match Pip.ofCode fmt with
  | some p =>
    PBlock.bits p
      { e := field x 7 0
        mu := (rangeFrom 0 8).map fun i => field x (24 + i / 2) (24 + i / 2)
        el := (rangeFrom 0 16).map fun j => match SMap.get? twice j, at? j with
          | some f, _ => (f % 2 == 1, f / 2 % 2 ^ p.k)
          | none, some v => (field x (32 + p.w * v + p.w - 1) (32 + p.w * v + p.w - 1) == 1, (x >>> (32 + p.w * v)) % 2 ^ p.k)
          | none, none => (false, 0) }
  | none => (rangeFrom 0 16).foldr (fun j acc => (match SMap.get? twice j, at? j with
      | some f, _ => f % 2 ^ 16 | none, some v => field x (16 * v + 31) (16 * v + 16) | none, none => 0) + 2 ^ 16 * acc) 0

/-- A free value for each of some positions. -/
def State.drawAt (s : State) : List Nat → SMap Nat × State
  | [] => ([], s)
  | j :: r =>
    let (w, s) := s.drawWord
    let (l, s) := s.drawAt r
    ((j, w.toNat) :: l, s)

/-- Expand n bundles; a position named twice is free. -/
def State.expand (s : State) (fmt size block x : Nat) : Nat → Nat × State
  | 0 => (0, s)
  | n + 1 =>
    let b := x % 2 ^ size
    let (twice, s) := s.drawAt (bundleTwice fmt b)
    let v := expandBundle fmt b twice
    let (r, s) := s.expand fmt size block (x >>> size) n
    (v + 2 ^ block * r, s)

/-- The bits a fill writes. -/
def State.fillBits (s : State) (d : Desc) (x : Nat) : Nat × State :=
  if d.EXP24 then
    match expandSizes d.RFMT with
    | some (b, o) => s.expand d.RFMT b o x (d.LEN / b)
    | none => (x, s)
  else (x, s)

/-- Whether a fill into a queue comes next: fills join in the order of acceptance (R145). -/
def Core.fillFirst (k : Core) (d : Desc) : Bool :=
  let same (o : Desc) : Bool := o.kind == .xfar && !o.DLTE && spaceOf o.DST == 5 && o.DST % 16 == d.DST % 16 && decide (o.seq < d.seq) && o.LEN != 0
  !(k.fills.any fun g => same g.desc) && !(k.slots.any fun p => p.2.landed.isNone && same p.2)

/-- The queue a fill goes to. -/
def Desc.toQueue (d : Desc) : Option Nat := if !d.DLTE && spaceOf d.DST == 5 then some (d.DST % 16) else none

/-- The sector that the next entry of a fill into a queue takes. -/
def Core.fillSector (k : Core) (q : Nat) : Nat := (k.queue q).entry (k.queue q).avail / 512

/-- The bank of a sector of a core's scratchpad. -/
def bankOf (core sec : Nat) : Resource := .bank core (sec % 32)

/-- Whether no context and no beat holds the bank of a sector now (R130, R254). -/
def State.bankLeft (s : State) (core sec : Nat) : Bool := (s.core core).bankFree sec s.now && s.beatsEnd [bankOf core sec] s.now == s.now

/-- Whether FILL_LAND of a fill has its occasion: it takes only bank cycles that contexts and beats leave free (R145, R254). -/
def State.fillDue (s : State) (core : Nat) (f : Fill) : Bool :=
  s.farLive core && f.data.isSome && decide (f.due ≤ s.now) && match f.desc.toQueue with
  | some q => (s.core core).fillFirst f.desc && !((s.core core).queue q).full && s.bankLeft core ((s.core core).fillSector q)
  | none => s.beatsEnd (sliceBanks f.desc.dst) s.now == s.now

/-- Poison what bad bits of data reach that is written as pieces one after another (R344, R349). -/
def State.poisonPieces (s : State) (dst : List (Place × Nat × Nat)) (bad : List (Nat × Nat)) : State :=
  (dst.foldl (fun (acc : State × Nat) p =>
    (acc.1.modSpace p.1 fun m => m.poisonBits p.2.1 acc.2 p.2.2 bad, acc.2 + p.2.2)) (s, 0)).1

/-- Where bad source bits come to stand in what a fill writes: a dense block has all its words from its bundle. -/
def Desc.badBits (d : Desc) (bad : List (Nat × Nat)) : List (Nat × Nat) :=
  if d.EXP24 then
    match expandSizes d.RFMT with
    | some (b, o) => bad.flatMap fun r => (rangeFrom (r.1 / b) (ceilDiv (r.1 + r.2) b - r.1 / b)).map fun k => (o * k, o)
    | none => bad
  else bad

/-- One entry of a queue fill (R145), which the race detector checks as a write of its descriptor (R269); a full queue
stops the filling and takes QUEUE-OVERFLOW (R150). -/
def State.fillEntry (s : State) (core : Nat) (f : Fill) (q : Nat) : Except Stop State :=
  let qu := (s.core core).queue q
  if qu.capacity ≤ qu.avail then
    .ok ((s.setCore core ((s.core core).setQueue q { qu with full := true })).raiseTrap f.desc.origin 0x22 0 q false)
  else do
    let sec := (s.core core).fillSector q
    let s ← s.raceLocal core sec f.desc.origin.head (s.descAgent f.desc) true
    let s := s.takeBank core sec true
    let x := (f.data.getD 0 >>> (512 * f.pos)) % 2 ^ 512
    let k := ((s.core core).putEntries qu qu.avail 1 x).setQueue q { qu with avail := qu.avail + 1 }
    let k := { k with loc := k.loc.poisonBits (qu.entry qu.avail) (512 * f.pos) 512 f.bad }
    let (t, s) := s.later
    let k := if ceilDiv f.desc.LEN 512 ≤ f.pos + 1 then k.dropFill f.desc.seq else k.setFill { f with pos := f.pos + 1, due := t }
    .ok ((s.setCore core k).wake core)

/-- FILL_LAND: the next entry of a queue, or the whole DEVICE destination, which becomes OUT, or IN with TOLV (R145,
R254). -/
def execFillLand (core slot : Nat) (s : State) : Host.Outcome State Fault Refusal :=
  match (s.core core).fill? slot with
  | none => .fault .notEnabled
  | some f =>
    if !s.fillDue core f then .fault .notEnabled
    else match f.desc.toQueue with
    | some q => s.stepped f.desc.origin (atDesc f.desc (s.fillEntry core f q))
    | none =>
      s.stepped f.desc.origin (atDesc f.desc do
        let d := f.desc
        let (x, s) := s.fillBits d (f.data.getD 0)
        let s ← s.writePieces d (cutPieces 0 d.dst 0 d.dstLen) 0 x
        let s := s.poisonPieces d.dst (d.badBits f.bad)
        let s := if d.TOLV then d.dst.foldl (fun s p => s.turnIn p.1 p.2.1 p.2.2 d.TOLL) s
          else d.dst.foldl (fun s p => s.drainedAt core p.1 p.2.1 p.2.2) s
        .ok ((s.modCore core fun k => k.dropFill d.seq).wake core))

/-! ## Outbound drains (R148) -/

/-- Where an address of DEVICE, HOST or PEER space stands for a drain of 512 bits (R24, R265, R344). -/
def State.drainPlace (s : State) (a : Nat) : Except Stop (Place × Nat) := do
  failIf (!inField a 512) (Exc.space a)
  match spaceOf a with
  | 2 => (match s.xlate a true with | some pa => .ok (.phys, pa) | none => fail (Exc.translation a))
  | 3 => if a % 512 != 0 then fail (Exc.space a) else .ok (.host, a % 2 ^ 61)
  | 4 =>
    failIf (field a 52 41 == field s.bar.modnum.toNat 11 0) (Exc.space a)
    failIf (!s.ports.reaches (field a 52 41)) (Exc.translation a)
    .ok (.peer, a % 2 ^ 53)
  | _ => fail (Exc.space a)

/-- The cycle from which the head entry of an outbound queue has been written, as far as it is known: a QPUSH writes its entries
in its bank cycles, once its source group is valid (R130, R148, R328). -/
def Core.entryWritten (k : Core) (q : Queue) : Nat :=
  k.banks.foldl (fun t u => if u.write && u.sec == q.entry 0 / 512 then Nat.max t u.stop else t) 0

/-- The slice banks of the next sector that a queue drains to. -/
def State.drainBanks (s : State) (q : Queue) : List Resource :=
  let a := q.dest + 512 * q.drained
  if spaceOf a = 2 then (match s.xlate a true with | some pa => sliceBanks [(.phys, pa, 512)] | none => []) else []

/-- Whether an entry of an outbound queue may drain now: it has been written, and its banks are free. -/
def State.drainDue (s : State) (core queue : Nat) : Bool :=
  let q := (s.core core).queue queue
  s.farLive core && q.dir == 2 && q.avail != 0 && decide (q.drainAt ≤ s.now) && !s.peerStalls (q.dest + 512 * q.drained)
    && decide ((s.core core).entryWritten q ≤ s.now) && s.bankLeft core (q.entry 0 / 512) && s.beatsEnd (s.drainBanks q) s.now == s.now

/-- One entry leaves the queue: it is written at the destination base + 512 k with its poison, and its sector made IN
at the turn-on-land level (R148, R349). -/
def State.drainEntry (s : State) (core queue : Nat) : Except Stop State := do
  let k := s.core core
  let q := k.queue queue
  let at0 := q.entry 0
  let x := k.loc.readBits at0 512
  let bad := (rangeFrom 0 8).map fun i => k.loc.bad (at0 / 64 + i)
  let (p, a) ← s.drainPlace (q.dest + 512 * q.drained)
  let (x, lost, s) := s.hear (.entry core queue q.drained) x bad
  let bad := (rangeFrom 0 8).map fun i => bad.getD i false || lost.contains i
  let s := (s.takeBank core (at0 / 512) false).storeAt p a 512 x
  let s := s.modSpace p fun m => (rangeFrom 0 8).foldl (fun m i => if bad.getD i false then m.poison (a / 64 + i) else m) m
  let s := s.copied (.loc core) (rangeFrom (at0 / 64) 8)
  let s := (s.turnIn p a 512 q.toll).drainedAt core p a 512
  let s := if p = .peer then s.sendFlit (field (q.dest + 512 * q.drained) 52 41) 1 (flitBody x bad) else s
  let (t, s) := s.later
  .ok ((s.setCore core ((s.core core).setQueue queue { q.advance 1 with avail := q.avail - 1, drained := q.drained + 1
                                                                        due := q.due - 1, drainAt := t })).wake core)

/-- QUEUE_DRAIN_ENTRY: the oldest entry of an outbound queue drains (R148). -/
def execQueueDrainEntry (core queue : Nat) (s : State) : Host.Outcome State Fault Refusal :=
  if s.drainDue core queue then
    s.stepped { core := core, phc := s.phc.toNat } (s.drainEntry core queue)
  else .fault .notEnabled

end Sys2Proof.Machine
end

