-- ==== Sys2Proof/Machine/TurnSteps.lean ====
section
/-! DEFINITION. The turn queue of a context at work (R160 to R163, R165, R170): the start, the flips and the
completion of its oldest turnaround; and TSTAT, which tells of them (R169). -/

namespace Sys2Proof.Machine

/-- Whether the turn queue of a context moves: a halt or a trap stops it (R170). -/
def State.turnLive (s : State) (core ctx : Nat) : Bool :=
  let c := s.ctx core ctx
  (s.inSlice core || (decide (1024 ≤ core) && (s.core core).sysRun)) && !s.dbg.frozen && !c.trapped && !c.halted && !c.aborted

/-! ## Drained writes (R161) -/

/-- The pieces that a descriptor has still to write. -/
def State.unlanded (s : State) (d : Desc) : List (Place × Nat × Nat) :=
  if d.landed.isSome && d.kind != .xfar then []
  else if d.kind == .xcast then d.acts.flatMap fun a => if a.write then (d.ends s.sliceCores a).flatMap id else []
  else d.dst

/-- The landings of a core that a turnaround of an exchange superstep waits for: accepted transfers, far fills
without a turn-on-land level, and drains of outbound entries. -/
def State.exchangeWrites (s : State) (core : Nat) : List (Place × Nat × Nat) :=
  let k := s.core core
  (k.slots.flatMap fun p => if p.2.landed.isNone && !(p.2.kind == .xfar && p.2.TOLV) then s.unlanded p.2 else [])
  ++ (k.fills.flatMap fun f => if f.desc.TOLV then [] else f.desc.dst)
  ++ (k.queues.flatMap fun p =>
      if p.2.dir != 2 then []
      else (rangeFrom 0 p.2.avail).filterMap fun i => (s.locate core (p.2.dest + 512 * (p.2.drained + i))).map fun q => (q.1, q.2, 512))

/-- Whether a landing that a turnaround of an exchange superstep drains is still to come. -/
def State.landingsLeft (s : State) (core : Nat) (u : TurnRec) : Bool :=
  u.exch && (s.exchangeWrites core).any fun p => s.regionHits core u p.1 p.2.1 p.2.2

/-- Whether drained writes of a turnaround are still to be written. -/
def State.drainsLeft (s : State) (core ctx : Nat) (u : TurnRec) : Bool :=
  let k := s.core core
  (ctx == s.lr.meown && (k.me.queue ++ k.me.running).any fun m =>
    m.kind == .drain && decide (m.issued < u.issued) && (m.drainSectors.drop m.wrote).any fun q => u.pendingOn q.2)
  || s.landingsLeft core u

/-! ## Start, flips, completion -/

/-- At the start the staging of the named paths is invalidated, that of a sector already IN too (R160, R164). -/
def State.invalidate (s : State) (core : Nat) (u : TurnRec) : State :=
  (rangeFrom 0 u.count).foldl (fun s i =>
    match s.locate core (u.lo + 512 * i) with
    | some (p, a) => s.modSpace p fun m => if m.isIn (a / 512) s.now then m.joinTurn (a / 512) u.paths u.level else m
    | none => s) s

/-- The turnaround that TURN_START would start. -/
def State.nextTurn (s : State) (core ctx : Nat) : Option TurnRec :=
  match (s.ctx core ctx).turns with
  | u :: _ => if u.start.isNone && s.turnLive core ctx && !s.drainsLeft core ctx u then some u else none
  | [] => none

/-- The earliest cycle of that start, as far as it is known. -/
def Ctx.turnStartAt (c : Ctx) (u : TurnRec) : Nat := Nat.max u.ready c.turnAt

def Ctx.setTurn (c : Ctx) (u : TurnRec) : Ctx := { c with turns := u :: c.turns.drop 1 }

/-- TURN_START: the oldest turnaround starts once what it drains is written; X(L) of SYSTEM level is free (R160 to
R162). -/
def execTurnStart (core ctx : Nat) (s : State) : Host.Outcome State Fault Refusal :=
  match s.nextTurn core ctx with
  | none => .fault .notEnabled
  | some u =>
    if s.now < (s.ctx core ctx).turnStartAt u then .fault .notEnabled
    else
      let (x, s) := if u.level = 4 then s.drawNat else (turnX u.level, s)
      .next ((s.invalidate core u).modCtx core ctx fun c => c.setTurn { u with start := some s.now, x := x })

/-- The cycle of the next group of a started turnaround, none when every group has flipped. -/
def TurnRec.nextFlip (u : TurnRec) : Option Nat :=
  match u.start with
  | some t => if u.groups < ceilDiv u.count 32 then some (t + u.x + 2 + u.groups) else none
  | none => none

/-- The cycle of its completion. -/
def TurnRec.endsAt (u : TurnRec) : Option Nat :=
  match u.start with
  | some t => if u.groups = ceilDiv u.count 32 then some (t + u.x + 2 + u.groups) else none
  | none => none

/-- The cycle of the next write of a context's store on its way to a sector. -/
def Core.nextWrite (k : Core) (sec now : Nat) : Option Nat :=
  (k.ctxs.flatMap fun p => p.2.writes).foldl (fun (m : Option Nat) q =>
    if q.1 = sec && decide (now ≤ q.2) then some (Nat.min (m.getD q.2) q.2) else m) none

/-- One sector at its flip: IN in a compute superstep, pending in an exchange superstep; sync sectors, queue segments
and sectors already IN stay as they are. A write that reaches the sector in this cycle or later comes after the flip (R163). -/
def State.flipSector (s : State) (core : Nat) (u : TurnRec) (i : Nat) : State :=
  match s.locate core (u.lo + 512 * i) with
  | none => s
  | some (p, a) =>
    if s.exempt p (a / 512) then s
    else
      let late := match p with | .loc c => (s.core c).nextWrite (a / 512) s.now | _ => none
      s.modSpace p fun m =>
        if m.isIn (a / 512) s.now then m.joinTurn (a / 512) u.paths u.level
        else match late with
          | none => if u.exch then m.mark (a / 512) u.paths u.level else m.goIn (a / 512) u.paths u.level
          | some w => if u.exch then m else m.goInUntil (a / 512) u.paths u.level s.now w

/-- TURN_GROUP_FLIP: the next 32 sectors flip, and TURNCUR names the first sector of the next group (R160). -/
def execTurnGroupFlip (core ctx : Nat) (s : State) : Host.Outcome State Fault Refusal :=
  match (s.ctx core ctx).turns with
  | [] => .fault .notEnabled
  | u :: _ =>
    match u.nextFlip with
    | none => .fault .notEnabled
    | some t =>
      if s.turnLive core ctx && t ≤ s.now then
        let n := Nat.min 32 (u.count - 32 * u.groups)
        let s := (rangeFrom (32 * u.groups) n).foldl (fun s i => s.flipSector core u i) s
        .next ((s.modCtx core ctx fun c =>
          { c.setTurn { u with groups := u.groups + 1 } with turncur := u.lo + 512 * 32 * (u.groups + 1) }).wake core)
      else .fault .notEnabled

/-- TURN_COMPLETE: the turnaround leaves the queue, and TURNCUR is 0 (R160, R162). -/
def execTurnComplete (core ctx : Nat) (s : State) : Host.Outcome State Fault Refusal :=
  match (s.ctx core ctx).turns with
  | [] => .fault .notEnabled
  | u :: _ =>
    match u.endsAt with
    | none => .fault .notEnabled
    | some t =>
      if s.turnLive core ctx && t ≤ s.now then
        .next ((s.modCtx core ctx fun c => { c with turns := c.turns.drop 1, turncur := 0, turnAt := s.now }).wake core)
      else .fault .notEnabled

/-! ## TSTAT (R169) -/

/-- The turnarounds of a context with their starts, up to the first that still waits for landings. -/
def State.knownStarts (s : State) (core ctx : Nat) : List (TurnRec × Nat × Nat) :=
  (s.startsOf core ctx).takeWhile fun q => q.1.start.isSome || !s.landingsLeft core q.1

/-- The cycle in which a turnaround that started in cycle `st` reaches a sector of its core's scratchpad with a group that
has not flipped yet, if its region names that sector. -/
def State.groupAt (s : State) (core : Nat) (u : TurnRec) (st x sec : Nat) : Option Nat :=
  ((rangeFrom (32 * u.groups) (u.count - 32 * u.groups)).find? fun i => s.locate core (u.lo + 512 * i) == some (.loc core, 512 * sec)).map fun i =>
    st + x + 2 + i / 32

/-- Whether a sector will be marked pending by cycle t, with no write after it (R165). -/
def State.pendsBy (s : State) (sec t : Nat) : Bool :=
  let k := s.curCore
  k.loc.isOut sec && k.ctxs.any fun p => (s.knownStarts s.focusCore p.1).any fun q =>
    q.1.exch && match s.groupAt s.focusCore q.1 q.2.1 q.2.2 sec with
      | some f => decide (f ≤ t) && !k.writesIn sec f t
      | none => false

/-- Whether a turnaround of the context in focus that has a sector of its scratchpad in its region is unfinished in
cycle t. -/
def State.busyAt (s : State) (sec t : Nat) : Bool :=
  let ends := s.knownStarts s.focusCore s.focusCtx
  s.cur.turns.any fun u => s.regionHits s.focusCore u (.loc s.focusCore) (512 * sec) 512
    && !ends.any fun q => q.1 == u && decide (q.2.1 + q.2.2 + 2 + ceilDiv u.count 32 ≤ t)

/-- Whether a beat of an accepted descriptor, or a write of a running drain, reaches a sector of a core's scratchpad by cycle t,
as far as the schedule fixes it (R169). -/
def State.landsBy (s : State) (core sec t : Nat) : Bool :=
  (s.exchange && s.timedDescs.any fun d => d.acts.any fun a =>
    a.write && d.kind != .xred && ((s.core d.origin.core).vcyc.run || d.launched a)
    && decide (s.now + (a.cycle - s.landingCycle d.origin.core) ≤ t)
    && (d.ends s.sliceCores a).any fun e => (cutPieces 0 e (d.beatRange a.beat).1 (d.beatRange a.beat).2).any fun q =>
        q.2.1 == .loc core && (sectorsOf q.2.2.1 q.2.2.2).contains sec)
  || (s.core core).me.running.any fun m => m.kind == .drain && m.writesLeft.any fun q => q.1 == sec && decide (q.2 ≤ t)

/-- The state of the sector of a LOCAL address as TSTAT takes it in the cycle after issue (R169). -/
def State.turnState (s : State) (a : Nat) : Word :=
  let k := s.curCore
  let sec := a / 512
  let t := s.now + 1
  let sync := s.isSync sec
  let seg := k.queues.any fun p => p.2.segs.contains (a / 2 ^ 15 * 2 ^ 15)
  let lands := s.landsBy s.focusCore sec t
  let isIn := sync || seg || (s.isInAt s.focusCore sec t && !lands)
  let pend := !sync && !seg && !lands && (k.loc.isPend sec || s.pendsBy sec t)
  let busy := s.busyAt sec t
  BitVec.ofNat 64 (isIn.toNat + 2 * busy.toNat + 4 * pend.toNat + 8 * sync.toNat + 16 * seg.toNat)

/-- TSTAT (R169): the result lands 2 cycles after issue. -/
def execTstat (d a : Reg) (s : State) : Host.Outcome State Fault Refusal :=
  issue (.tstat d a) s fun _ s =>
    let x := (s.reg a).toNat
    if 2 ^ 23 ≤ x then fail (Exc.space x) else .ok (s.result d (s.turnState x) 2)

/-- A context that runs again: the turnaround it had started goes on with the group it stands at (R170). -/
def Ctx.resumeTurns (c : Ctx) (now : Nat) : Ctx :=
  { c with turns := match c.turns with
      | u :: r => { u with start := u.start.map fun t => Nat.max t (now - (u.x + 2 + u.groups)) } :: r
      | [] => [] }

end Sys2Proof.Machine
end

