-- ==== Sys2Proof/Machine/FrontEnd.lean ====
section
/-! DEFINITION. What a context does between its issues: landings, the convoys of its vector unit, the completion of
EXIT, and the closure of a sealed span (R98, R118, R119, R125, R173, R319). -/

namespace Sys2Proof.Machine

/-- Whether results of a context still land: its slice or its system core runs. -/
def State.ctxLive (s : State) (core ctx : Nat) : Bool :=
  if 1024 ≤ core then (s.core core).sysRun else s.inSlice core && !s.dbg.frozen && !(s.ctx core ctx).aborted

/-! ## Scalar landings (R98) -/

/-- RESULT_LANDING: the results due land (R98). -/
def execResultLanding (core ctx : Nat) (s : State) : Host.Outcome State Fault Refusal :=
  if s.ctxLive core ctx && (s.ctx core ctx).land.any fun l => decide (l.cycle ≤ s.now) then
    .next ((s.modCtx core ctx fun c =>
      (c.landDue s.now).gather s.now (c.land.foldl (fun f l => if l.cycle ≤ s.now then f ||| l.flags else f) 0)).wake core)
  else .fault .notEnabled

/-! ## Vector convoys (R173) -/

/-- The first convoy that a condition picks out, with its place in the queue. -/
def pickConvoy (f : VConvoy → Bool) : List VConvoy → Option VConvoy := fun l => l.find? f

/-- Replace the first convoy that equals q. -/
def swapConvoy (q q' : VConvoy) : List VConvoy → List VConvoy
  | [] => []
  | x :: r => if x = q then q' :: r else x :: swapConvoy q q' r

/-- Remove the first convoy that equals q. -/
def dropConvoy (q : VConvoy) : List VConvoy → List VConvoy
  | [] => []
  | x :: r => if x = q then r else x :: dropConvoy q r

/-- A convoy whose first member is due to start. -/
def VConvoy.mayStart (now : Nat) (q : VConvoy) : Bool := q.started == 0 && decide (q.starts.headD 0 ≤ now)
/-- A running convoy whose next member is due to start. -/
def VConvoy.mayGoOn (now : Nat) (q : VConvoy) : Bool :=
  q.started != 0 && decide (q.started < q.starts.length) && decide (q.starts.getD q.started 0 ≤ now)
/-- A convoy whose members have all started and whose last result has landed. -/
def VConvoy.mayRetire (now : Nat) (q : VConvoy) : Bool := decide (q.starts.length ≤ q.started) && decide (q.retire ≤ now)

/-- VECTOR_CONVOY_START: the oldest waiting convoy starts its first member (R173). -/
def execVectorConvoyStart (core ctx : Nat) (s : State) : Host.Outcome State Fault Refusal :=
  let c := s.ctx core ctx
  match (if s.ctxLive core ctx then pickConvoy (VConvoy.mayStart s.now) c.vq else none) with
  | some q => .next ((s.setCtx core ctx { c with vq := swapConvoy q { q with started := 1 } c.vq }).wake core)
  | none => .fault .notEnabled

/-- VECTOR_MEMBER_START: the next member of a running convoy starts; the convoy leaves the queue with its last one
(R172, R173). -/
def execVectorMemberStart (core ctx : Nat) (s : State) : Host.Outcome State Fault Refusal :=
  let c := s.ctx core ctx
  match (if s.ctxLive core ctx then pickConvoy (VConvoy.mayGoOn s.now) c.vq else none) with
  | some q => .next ((s.setCtx core ctx { c with vq := swapConvoy q { q with started := q.started + 1 } c.vq }).wake core)
  | none => .fault .notEnabled

/-! ## Sampling (R319, R320) -/

/-- The KIND with which a VMEM convoy is sampled, when it is: 2 when SMPL armed it, 1 when it is the INTERVAL-th. -/
def State.sampleKind (s : State) (c : Ctx) (q : VConvoy) : Option Nat :=
  if q.tag.isSome then some 2
  else if s.dbg.smpint ≠ 0 && (c.vmemCount + 1) % s.dbg.smpint.toNat = 0 then some 1 else none

/-- The trace record of a sampled convoy; CPE of a convoy without an active element has no stated value and is free. -/
def State.sampleRecord (s : State) (core ctx : Nat) (q : VConvoy) (st : List Nat) (kind : Nat) : TraceRec × State :=
  let g (i : Nat) : Nat := st.getD i 0
  let actn := g 5
  let (cpe, s) := if actn = 0 then s.drawNat else ((q.retire - q.starts.headD 0) * 256 / actn, s)
  (traceRec s.dtime.toNat (s.vcycOf core) s.phc.toNat actn cpe (g 1) (g 2) (g 3) (g 4) (g 0) q.members ctx core q.head
    (q.tag.getD 0) kind, s)

/-- A VMEM convoy retires: it is counted, and sampled when its turn has come; a record made inside a span waits for
the closure. -/
def State.sampleConvoy (s : State) (core ctx : Nat) (q : VConvoy) : State :=
  match q.vmem with
  | none => s
  | some st =>
    let c := s.ctx core ctx
    let s1 := s.modCtx core ctx fun c => { c with vmemCount := c.vmemCount + 1 }
    match s.sampleKind c q with
    | none => s1
    | some k =>
      let (r, s2) := s1.sampleRecord core ctx q st k
      if q.span.isSome && c.span.isSome then s2.modCtx core ctx fun c => { c with heldTrace := c.heldTrace ++ [r] } else s2.trace r

/-- The queue without a convoy that has retired: an earlier one no longer puts back what it overwrote. -/
def retireConvoy (q : VConvoy) (l : List VConvoy) : List VConvoy :=
  (dropConvoy q l).map fun x => if x.push < q.push then { x with undo := x.undo.after q.undo } else x

/-- VECTOR_CONVOY_RETIRE: a convoy whose last result has landed retires, and its flags are ORed into FLG (R78, R173). -/
def execVectorConvoyRetire (core ctx : Nat) (s : State) : Host.Outcome State Fault Refusal :=
  let c := s.ctx core ctx
  match (if s.ctxLive core ctx then pickConvoy (VConvoy.mayRetire s.now) c.vq else none) with
  | some q =>
    .next (((s.setCtx core ctx (({ c with vq := retireConvoy q c.vq, flg := c.flg ||| q.flags } : Ctx).gather s.now q.flags)).sampleConvoy
      core ctx q).wake core)
  | none => .fault .notEnabled

/-! ## EXIT (R125) -/

/-- Whether everything a context did before has retired and been written, its matrix commands included (R125, R232). -/
def State.settled (s : State) (core ctx : Nat) : Bool :=
  let c := s.ctx core ctx
  let me := (s.core core).me
  c.cv.isNone && c.vq.isEmpty && c.land.isEmpty && decide (c.doneAt ≤ s.now) && (c.writes.all fun q => decide (q.2 < s.now))
  && !(ctx == s.lr.meown && !(me.queue.isEmpty && me.running.isEmpty))

/-- Whether EXIT_COMPLETE has its occasion; on a system core the context stops for good in the same way. -/
def State.exitDue (s : State) (core ctx : Nat) : Bool :=
  let c := s.ctx core ctx
  s.ctxLive core ctx && c.exiting && s.settled core ctx && c.turns.isEmpty && decide (c.issueAt ≤ s.now)

/-- The barriers once a context has EXITED: a generation that lacked only its arrival may complete in the next cycle; an
arrival in effect counts as before (R237). -/
def barsExit (ctx now : Nat) (bars : SMap Bar) : SMap Bar :=
  bars.mapVals fun _ b => if b.mask.getLsbD ctx && !b.effect.getLsbD ctx then { b with last := now } else b

/-- EXIT_COMPLETE: the context is EXITED; a request for a halt and an armed sample lapse (R125, R314, R318). -/
def execExitComplete (core ctx : Nat) (s : State) : Host.Outcome State Fault Refusal :=
  if s.exitDue core ctx then
    .next (((s.modCtx core ctx fun c => { c with st := .exited, exiting := false, stalled := false, haltReq := none
                                                 smpl := none, heldSmpl := none }).modCore core fun k =>
      { k with bars := barsExit ctx s.now k.bars }).wake core)
  else .fault .notEnabled

/-! ## Sealed spans (R118, R119) -/

/-- Whether the next convoy lies outside the open span and every result of the span has landed. -/
def Ctx.spanDone (c : Ctx) (now : Nat) : Bool :=
  match c.span with
  | none => false
  | some p => c.cv.isNone && (decide (c.pc < p.first) || decide (p.last < c.pc)) && decide (c.ready ≤ now)
      && !(c.land.any (·.inSpan)) && !(c.vq.any fun q => q.span.isSome)

/-- What was held inside a span, once it is closed: the sample is armed, the records are written, comparators that matched
show in BKM (R311), and the traps are taken at the boundary after it; there the QPUSHes that overflowed inside the span
issue again before control goes on (R119, R150, log 20). -/
def State.afterSpan (s : State) (core ctx : Nat) : State :=
  let s := s.modCtx core ctx fun c =>
    { c with bkm := if c.bkHeld = 0 then c.bkm else c.bkHeld
             pc := c.redo.headD c.pc
             redo := match c.redo with | [] => [] | _ :: r => r ++ [c.pc] }
  let c := s.ctx core ctx
  let o : Origin := { core := core, ctx := ctx, head := c.pc, members := s.membersAt core ctx c.pc, phc := s.phc.toNat }
  let s := s.modCtx core ctx fun c => { c with heldTraps := [], heldTrace := [], heldSmpl := none, stalled := false
                                               smpl := if c.heldSmpl.isSome then c.heldSmpl else c.smpl }
  let s := c.heldTrace.foldl (fun s r => s.trace r) s
  c.heldTraps.foldl (fun s t => s.raiseTrap o t.1 t.2.1 t.2.2 true) s

/-- SPAN_CLOSE: the first cycle in which the next convoy lies outside the span and its results have landed (R118). -/
def execSpanClose (core ctx : Nat) (s : State) : Host.Outcome State Fault Refusal :=
  if s.ctxLive core ctx && (s.ctx core ctx).spanDone s.now then
    .next ((s.modCtx core ctx fun c => { c with span := none }).afterSpan core ctx)
  else .fault .notEnabled

/-- The word of the span that is still open at s = 512. -/
def Ctx.overrun (c : Ctx) (now : Nat) : Option Nat :=
  match c.span with
  | some p => if p.start + 512 ≤ now && !c.spanDone now then some p.word else none
  | none => none

/-- SPAN_OVERRUN: a span still open at s = 512 raises SPAN-OVERRUN with the address of its SPAN word (R118).
SPANCYC of its record is 512 in 9 bits, 0 (log 69). -/
def execSpanOverrun (core ctx : Nat) (s : State) : Host.Outcome State Fault Refusal :=
  match (if s.ctxLive core ctx then (s.ctx core ctx).overrun s.now else none) with
  | some w =>
    let c := s.ctx core ctx
    let v := c.cv.getD { head := c.pc, n := s.membersAt core ctx c.pc, idx := 0 }
    let o : Origin := { core := core, ctx := ctx, head := v.head, members := v.n, midx := v.idx, phc := s.phc.toNat
                        span := c.span.map fun p => s.now - p.start }
    .next (s.raiseFault o { cause := 0x09, addr := w })
  | none => .fault .notEnabled

end Sys2Proof.Machine
end

