-- ==== Sys2Proof/Machine/Save.lean ====
section
/-! DEFINITION. The core block (R304): what each of its words shows of a core, and what a write of a word restores. A
pre-emption, a resume (R305) and the view of a halted core (R316, R317) go through it. -/

namespace Sys2Proof.Machine

/-! ## Reading -/

/-- Word i of a value of many words. -/
def wordOf (x i : Nat) : Nat := (x >>> (64 * i)) % 2 ^ 64

/-- The arrival entry of a core (R241). -/
def State.arrivalEntry (s : State) (core : Nat) : Nat :=
  let k := s.core core
  let ctxa := (rangeFrom 0 4).foldl (fun n x =>
    let c := k.ctx x
    if c.st == .absent || c.st == .exited || c.parrEff then n + 2 ^ x else n) 0
  let trn := k.ctxs.all fun p => p.2.turns.isEmpty
  let xld := !s.exchange || k.slots.all fun p => p.2.landed.isSome
  let qdr := !s.exchange || k.queues.all fun p => p.2.due == 0
  ctxa + 2 ^ 4 * k.entrySet.getD (trn.toNat + 2 * xld.toNat + 4 * qdr.toNat) + 2 ^ 7 * k.arrived.toNat

/-- The count of the hourglass of the slice of a core, or the one that its aborted slice has left. -/
def State.hgCount (s : State) (core : Nat) : Nat :=
  match s.slice with
  | some r => if r.cores.contains core then r.hg.read s.now else (s.core core).hgLeft
  | none => (s.core core).hgLeft

/-- State code of a context in the core block: 7 for one frozen in a dump (R304, R324). -/
def State.savedState (s : State) (core x : Nat) : Nat :=
  let c := s.ctx core x
  if c.frozen then 7 else c.st.code

/-- The barrier word of a context (R304, R316): masks, and the pending arrivals of the context. -/
def Core.barWord (k : Core) (x : Nat) : Nat :=
  (rangeFrom 0 4).foldl (fun n b =>
    let r := SMap.get {} k.bars b
    n + r.mask.toNat * 2 ^ (4 * b) + (r.pending.getLsbD x || r.effect.getLsbD x).toNat * 2 ^ (16 + b)) 0

/-- Status word i of a context. -/
def State.statusWord (s : State) (core x i : Nat) : Nat :=
  let k := s.core core
  let c := k.ctx x
  let stack := c.loops.reverse
  match i with
  | 0 => c.pc
  | 1 => s.savedState core x
  | 2 => c.wb
  | 3 => c.flg.toNat
  | 4 => c.rmode.toNat
  | 5 => c.seed.toNat
  | 6 => c.stepr.toNat
  | 7 => c.vl
  | 8 => c.vspan
  | 9 => c.grant
  | 10 => (match c.vpart with | some n => n + 2 ^ 63 | none => 0)
  | 11 => c.cmsel
  | 12 => c.loops.length
  | 13 => c.view.toNat
  | 14 => c.turncur
  | 15 => k.barWord x
  | 28 => s.arrivalEntry core
  | 29 => s.hgCount core
  | i =>
    if 16 ≤ i && i ≤ 27 then
      (match stack[(i - 16) / 3]? with
      | some e => (match (i - 16) % 3 with | 0 => e.start | 1 => e.stop | _ => e.count)
      | none => 0)
    else 0

/-- Word w of a context block of 640 sectors. -/
def State.ctxWord (s : State) (core x w : Nat) : Nat :=
  let c := s.ctx core x
  if w < 32 then s.statusWord core x w
  else if w < 560 then (SMap.get 0 c.regs (w - 32)).toNat
  else if w < 576 then (rangeFrom 0 8).foldr (fun j acc => c.tag (8 * (w - 560) + j) + 256 * acc) 0
  else if w < 832 then wordOf (c.mask ((w - 576) / 32)).toNat ((w - 576) % 32)
  else if w < 960 then wordOf (c.kreg ((w - 832) / 8)).toNat ((w - 832) % 8)
  else if w < 5056 then wordOf (c.vreg ((w - 960) / 32)).toNat ((w - 960) % 32)
  else 0

/-- The place of the tail segment in the ring. -/
def Queue.tailAt (q : Queue) : Nat := Nat.max 1 (Nat.min q.segs.length (ceilDiv (q.head + q.avail) 63)) - 1

/-- A queue in 128 bits: DIR, SEGS − 1, COV, AVAIL, the tail segment and the head entry as LOCAL bit addresses. -/
def Queue.saved (q : Queue) : Nat :=
  if q.dir = 0 then 0
  else q.dir + 2 ^ 2 * (q.segs.length - 1) + 2 ^ 10 * q.cov + 2 ^ 26 * q.avail + 2 ^ 42 * q.segs.getD q.tailAt 0 + 2 ^ 65 * q.entry 0

/-- Word w of the core block, below sector 4160. -/
def State.coreWord (s : State) (core w : Nat) : Nat :=
  let k := s.core core
  let sec := w / 8
  if sec < 2560 then s.ctxWord core (sec / 640) (w % 5120)
  else if sec = 2560 then
    (match w % 8 with
    | 0 => k.me.gm + 2 ^ 8 * k.me.gn + 2 ^ 16 * k.me.gk + 2 ^ 24 * k.me.sp.toNat
    | 1 => k.me.mstate.toNat / 2 ^ 28 % 2 ^ 20 * 2 ^ 28
    | 2 => k.me.amax.toNat
    | _ => 0)
  else if sec < 3073 then (SMap.get 0 k.me.wact (w - 2561 * 8)).toNat
  else if sec < 3585 then (SMap.get 0 k.me.wsh (w - 3073 * 8)).toNat
  else if sec < 3841 then
    let i := 2 * (w - 3585 * 8)
    (SMap.get 0 k.me.acc i).toNat + 2 ^ 32 * (SMap.get 0 k.me.acc (i + 1)).toNat
  else if sec < 4097 then
    let i := 2 * (w - 3841 * 8)
    (SMap.get 0 k.me.dw i).toNat + 2 ^ 32 * (SMap.get 0 k.me.dw (i + 1)).toNat
  else if sec < 4129 then
    (rangeFrom 0 64).foldr (fun j acc => (k.loc.isIn (64 * (w - 4097 * 8) + j) s.now).toNat + 2 * acc) 0
  else if sec < 4133 then
    let q := (k.queue ((w - 4129 * 8) / 2)).saved
    wordOf q (w % 2)
  else 0

/-- The same word as a save writes it: status words 28 and 29 are 0 (R304). -/
def State.savedWord (s : State) (core w : Nat) : Nat :=
  if w < 2560 * 8 && (w % 5120 == 28 || w % 5120 == 29) then 0 else s.coreWord core w

/-! ## Writing -/

def CtxSt.ofCode (n : Nat) : CtxSt :=
  match n with | 0 => .run | 1 => .arrived | 2 => .waiting | 3 => .released | 4 => .exited | _ => .absent

/-- Entry i of the loop stack, counted from the outermost, changed by f. -/
def setLoop (loops : List LoopEnt) (i : Nat) (f : LoopEnt → LoopEnt) : List LoopEnt :=
  let stack := loops.reverse
  (stack.zip (rangeFrom 0 stack.length)).foldl (fun acc p => (if p.2 = i then f p.1 else p.1) :: acc) []

/-- A loop stack of n entries; new ones are empty. -/
def resizeLoops (loops : List LoopEnt) (n : Nat) : List LoopEnt :=
  let stack := loops.reverse
  ((rangeFrom 0 (Nat.min n 4)).map fun i => stack.getD i { start := 0, stop := 0, count := 0 }).reverse

/-- Status word i takes a value; the words that show the core or the slice keep theirs. Of a PC the low 20 bits are taken,
whether a multiple of 32 or not, and of a WB the low 9, whether a multiple of 16 or not (log 88). -/
def Ctx.setStatus (c : Ctx) (i x : Nat) : Ctx :=
  match i with
  | 0 => { c with pc := x % 2 ^ 20 }
  | 1 => { c with st := CtxSt.ofCode x }
  | 2 => { c with wb := x % 512 }
  | 3 => { c with flg := BitVec.ofNat 7 x }
  | 4 => { c with rmode := BitVec.ofNat 3 x }
  | 5 => { c with seed := BitVec.ofNat 64 x }
  | 6 => { c with stepr := BitVec.ofNat 64 x }
  | 7 => { c with vl := x }
  | 8 => { c with vspan := x }
  | 9 => { c with grant := x }
  | 10 => { c with vpart := if x / 2 ^ 63 = 1 then some (x % 128) else none }
  | 11 => { c with cmsel := x % 8 }
  | 12 => { c with loops := resizeLoops c.loops x }
  | 13 => { c with view := BitVec.ofNat 64 x }
  | 14 => { c with turncur := x }
  | i =>
    if 16 ≤ i && i ≤ 27 then
      { c with loops := setLoop c.loops ((i - 16) / 3) fun e =>
          match (i - 16) % 3 with | 0 => { e with start := x } | 1 => { e with stop := x } | _ => { e with count := x } }
    else c

/-- Replace word i of a value. -/
def setWord (v i x : Nat) : Nat := setField v (64 * i) 64 x

/-- Word w of a context block takes a value. -/
def Ctx.setWordAt (c : Ctx) (w x : Nat) : Ctx :=
  if w < 32 then c.setStatus w x
  else if w < 560 then (if w = 32 then c else c.setPhys (w - 32) (BitVec.ofNat 64 x))
  else if w < 576 then (rangeFrom 0 8).foldl (fun c j => c.setTag (8 * (w - 560) + j) (field x (8 * j + 5) (8 * j))) c
  else if w < 832 then c.setMask ((w - 576) / 32) (BitVec.ofNat 2048 (setWord (c.mask ((w - 576) / 32)).toNat ((w - 576) % 32) x))
  else if w < 960 then c.setKreg ((w - 832) / 8) (BitVec.ofNat 512 (setWord (c.kreg ((w - 832) / 8)).toNat ((w - 832) % 8) x))
  else if w < 5056 then c.setVreg ((w - 960) / 32) (BitVec.ofNat 2048 (setWord (c.vreg ((w - 960) / 32)).toNat ((w - 960) % 32) x))
  else c

/-- Two FP32 cells of a plane. -/
def setCells (p : SMap (BitVec 32)) (i x : Nat) : SMap (BitVec 32) :=
  SMap.set 0 (SMap.set 0 p i (BitVec.ofNat 32 x)) (i + 1) (BitVec.ofNat 32 (x / 2 ^ 32))

/-- The segments of a ring from one on, as the headers link them (R143). -/
def ringFrom (m : Space) : Nat → Nat → List Nat
  | 0, _ => []
  | n + 1, seg => seg :: ringFrom m n (m.readBits (seg + 63 * 512) 64)

/-- A queue as 128 bits give it: DIR, COV, AVAIL, SEGS and the head entry; its ring follows the headers from the head's
segment (R143, R304). -/
def Queue.ofSaved (q : Queue) (m : Space) (y : Nat) : Queue :=
  let head := field y 127 65
  let seg := head / 2 ^ 15 * 2 ^ 15
  { q with dir := field y 1 0, cov := field y 25 10, avail := field y 41 26, head := (head - seg) / 512
           segs := if field y 1 0 = 0 then [] else ringFrom m (field y 9 2 + 1) seg }

/-- A queue word takes a value (R317): a ring whose first segment and length stay keeps its segments, and another tail segment
takes the place of the tail in it. -/
def Core.setQueueWord (k : Core) (n : Nat) (high : Bool) (x : Nat) : Core :=
  let q := k.queue n
  let y := setWord q.saved high.toNat x
  let r := q.ofSaved k.loc y
  let r := if r.segs.head? = q.segs.head? && r.segs.length = q.segs.length then { r with segs := q.segs } else r
  k.setQueue n (if field y 64 42 = field q.saved 64 42 then r else { r with segs := r.segs.set r.tailAt (field y 64 42) })

/-- Word w of the core block takes a value. The facing area is a record only (R305). -/
def Core.setWordAt (k : Core) (w x : Nat) : Core :=
  let sec := w / 8
  if sec < 2560 then k.modCtx (sec / 640) fun c => c.setWordAt (w % 5120) x
  else if sec = 2560 then
    (match w % 8 with
    | 0 => { k with me := { k.me with gm := field x 6 0, gn := field x 14 8, gk := field x 23 16, sp := field x 24 24 == 1 } }
    | 1 => { k with me := { k.me with
        tact := BitVec.ofNat 7 (field x 33 28), ptact := BitVec.ofNat 7 (field x 33 28)
        tsh := BitVec.ofNat 7 (field x 39 34), ptsh := BitVec.ofNat 7 (field x 39 34)
        spact := field x 40 40 == 1, pspact := field x 40 40 == 1, spsh := field x 41 41 == 1, pspsh := field x 41 41 == 1 } }
    | 2 => { k with me := { k.me with amax := BitVec.ofNat 32 x } }
    | _ => k)
  else if sec < 3073 then { k with me := { k.me with wact := SMap.set 0 k.me.wact (w - 2561 * 8) (BitVec.ofNat 64 x) } }
  else if sec < 3585 then { k with me := { k.me with wsh := SMap.set 0 k.me.wsh (w - 3073 * 8) (BitVec.ofNat 64 x) } }
  else if sec < 3841 then { k with me := { k.me with acc := setCells k.me.acc (2 * (w - 3585 * 8)) x } }
  else if sec < 4097 then { k with me := { k.me with dw := setCells k.me.dw (2 * (w - 3841 * 8)) x } }
  else if sec < 4129 then k
  else if sec < 4133 then k.setQueueWord ((w - 4129 * 8) / 2) (w % 2 == 1) x
  else k

/-! ## The save area (R304) -/

/-- Sectors of the live map. -/
def LaunchRec.liveSectors (r : LaunchRec) : Nat := r.live.foldl (fun n e => n + e.count) 0

/-- Sectors of a core block. -/
def LaunchRec.blockSectors (r : LaunchRec) : Nat := 4160 + r.liveSectors + 64 * r.poolsegs

/-- The scratchpad sectors that a save holds, in their order: the live regions in map order, then the pool. -/
def LaunchRec.savedSectors (r : LaunchRec) : List Nat :=
  (r.live.flatMap fun e => rangeFrom e.first e.count) ++ rangeFrom (r.poolbase / 512) (64 * r.poolsegs)

/-- A sector of eight words. -/
def sectorOf (f : Nat → Nat) : Nat := (rangeFrom 0 8).foldr (fun j acc => f j % 2 ^ 64 + 2 ^ 64 * acc) 0

/-- One sector with its poison marks (R299). -/
def State.putSector (s : State) (p : Place) (a x : Nat) (bad : List Bool) : State :=
  (s.storeAt p a 512 x).modSpace p fun m =>
    (rangeFrom 0 8).foldl (fun m i => if bad.getD i false then m.poison (a / 64 + i) else m) m

/-- A scratchpad sector as it is copied: its bits and which of its words are poisoned. -/
def State.localSector (s : State) (core sec : Nat) : Nat × List Bool :=
  let m := (s.core core).loc
  (m.readBits (512 * sec) 512, (rangeFrom 0 8).map fun i => m.bad (8 * sec + i))

/-- Write one sector at a DEVICE address through the slice's translation; a page that does not translate takes
nothing. A save is none of the writes that a page with WR = 0 refuses (R307). -/
def State.putDevice (s : State) (va x : Nat) (bad : List Bool) : State :=
  match s.xlate va false with
  | some pa => s.putSector .phys pa x bad
  | none => s

/-- Save a core of the slice into its block (R305); absent contexts are not written. -/
def State.saveCore (s : State) (r : LaunchRec) (core : Nat) : State :=
  let base := r.state + 512 * (1 + (s.core core).index * r.blockSectors)
  let here := s
  let s := (rangeFrom 0 4160).foldl (fun s i =>
    if i < 2560 && (here.ctx core (i / 640)).st == .absent then s
    else s.putDevice (base + 512 * i) (sectorOf fun j => here.savedWord core (8 * i + j)) []) s
  (r.savedSectors.zip (rangeFrom 4160 r.savedSectors.length)).foldl (fun s p =>
    let (x, bad) := here.localSector core p.1
    (s.copied (.loc core) (rangeFrom (8 * p.1) 8)).putDevice (base + 512 * p.2) x bad) s

/-- The header of a save: SLICEID and VALID, the even PHC, BUDGET and the deadline. -/
def saveHeader (id phc budget deadline : Nat) : Nat :=
  id + 2 ^ 63 + 2 ^ 64 * phc + 2 ^ 128 * budget + 2 ^ 192 * deadline

end Sys2Proof.Machine
end

