-- ==== Sys2Proof/Machine/Phase.lean ====
section
/-! DEFINITION. Supersteps (R229 to R243): the PHASE instructions, arrival of contexts and cores, context barriers, the
phase change, the hourglass, the budget and pre-emption. -/

namespace Sys2Proof.Machine

/-! ## The instructions (R232 to R239) -/

/-- The cycle from which an arrival may take effect: the one after its issue, once every earlier result has landed,
every earlier convoy has retired and every earlier store has been written (R232). -/
def Ctx.arrivalDue (c : Ctx) (now : Nat) : Nat :=
  let t := c.land.foldl (fun m l => Nat.max m l.cycle) (Nat.max c.doneAt (now + 1))
  let t := c.vq.foldl (fun m q => Nat.max m q.retire) t
  c.writes.foldl (fun m q => Nat.max m (q.2 + 1)) t

/-- Whether the matrix commands that a context issued by a cycle have completed (R225, R232). -/
def State.engineDone (s : State) (core ctx by_ : Nat) : Bool :=
  ctx != s.lr.meown || ((s.core core).me.queue ++ (s.core core).me.running).all fun m => decide (by_ < m.issued)

/-- PARR: the context is ARRIVED (R232). A system core has no phases (log 11). -/
def execParr (s : State) : Host.Outcome State Fault Refusal :=
  issue .parr s fun _ s =>
    if s.onSys then .ok s
    else .ok (s.modCur fun c => { c with st := .arrived, parrEff := false, parrAt := c.arrivalDue s.now, parrIssued := s.now })

/-- PWAIT: an ARRIVED context waits for the phase change; a RELEASED one returns in the next cycle and issues in the
one after it (R233). -/
def execPwait (s : State) : Host.Outcome State Fault Refusal :=
  issue .pwait s fun _ s =>
    if s.onSys then .ok s
    else match s.cur.st with
      | .arrived => .ok (s.modCur fun c => { c with st := .waiting })
      | _ => .ok (s.modCur fun c => { c with st := .run, view := s.phc, issueAt := s.now + 2 })

/-- What CBARR does (R237). -/
def State.cbarr (s : State) (a b : Reg) : Except Stop State :=
  let m : BitVec 4 := (s.reg a).setWidth 4
  let x := s.focusCtx
  let due := s.cur.arrivalDue s.now
  .ok (s.modCurCore fun k =>
    let r := SMap.get {} k.bars b.toNat
    { k with bars := k.bars.put b.toNat { r with mask := m, pending := r.pending ||| BitVec.ofNat 4 (2 ^ x)
                                                 due := r.due.put x (s.now, due) } })

/-- CBARR: an arrival at a context barrier; the first of a generation fixes its mask (R237). -/
def execCbarr (a b : Reg) (s : State) : Host.Outcome State Fault Refusal :=
  issue (.cbarr a b) s fun _ s => s.cbarr a b

/-- CBWAIT: until no arrival of the context at the barrier is pending (R237). -/
def execCbwait (b : Reg) (s : State) : Host.Outcome State Fault Refusal :=
  issue (.cbwait b) s fun _ s =>
    let r := SMap.get {} s.curCore.bars b.toNat
    if r.pending.getLsbD s.focusCtx || r.effect.getLsbD s.focusCtx then .error .event else .ok s

/-- YIELD sets the yield request of the slice (R239). -/
def execYield (s : State) : Host.Outcome State Fault Refusal :=
  issue .yield s fun _ s => .ok (if s.onSys then s else { s with slice := s.slice.map fun r => { r with yreq := true } })

/-- The phase status of the context in focus (R236). -/
def State.ptest (s : State) : Word :=
  let k := s.curCore
  let c := s.cur
  let cbp := k.barWord s.focusCtx / 2 ^ 16
  let cst := match c.st with | .arrived => 1 | .waiting => 1 | .released => 2 | _ => 0
  let (hgr, yrq) := match s.slice with | some r => (r.hgOn, r.yreq) | none => (false, false)
  BitVec.ofNat 64 ((c.view.getLsbD 0).toNat + 2 ^ 3 * yrq.toNat + 2 ^ 4 * hgr.toNat + 2 ^ 5 * k.arrived.toNat
    + 2 ^ 6 * cst + 2 ^ 8 * cbp)

/-- PTEST (R236). -/
def execPtest (d : Reg) (s : State) : Host.Outcome State Fault Refusal :=
  issue (.ptest d) s fun _ s => .ok (s.result d s.ptest 1)

/-! ## Arrival (R232, R234, R237) -/

/-- Whether the conditions of R232 hold for the PARR of a context. -/
def State.parrDue (s : State) (core ctx : Nat) : Bool :=
  let c := s.ctx core ctx
  s.inSlice core && !s.dbg.frozen && (c.st == .arrived || c.st == .waiting) && !c.parrEff && decide (c.parrAt ≤ s.now)
  && s.engineDone core ctx c.parrIssued

/-- PARR_TAKES_EFFECT (R232). -/
def execParrTakesEffect (core ctx : Nat) (s : State) : Host.Outcome State Fault Refusal :=
  if s.parrDue core ctx then .next ((s.modCtx core ctx fun c => { c with parrEff := true }).wake core)
  else .fault .notEnabled

/-- Whether a context has arrived for its core: ABSENT, EXITED, or with a PARR in effect. -/
def Ctx.hasArrived (c : Ctx) : Bool := c.st == .absent || c.st == .exited || c.parrEff

/-- Whether a core becomes ARRIVED (R234); one with a context stopped by a trap does not (R300). -/
def State.arriveDue (s : State) (core : Nat) : Bool :=
  let k := s.core core
  s.inSlice core && !s.dbg.frozen && !k.arrived
  && (match s.slice with | some r => !r.ending && !r.preempt | none => false)
  && (k.ctxs.all fun p => p.2.hasArrived && !p.2.trapped && p.2.turns.isEmpty)
  && (!s.exchange || ((k.slots.all fun p => p.2.landed.isSome) && k.queues.all fun p => p.2.due == 0))

/-- A clock that starts now, held while some context of the slice is halted. -/
def State.startClock (s : State) : Clock := { run := !s.sliceHalted, base := s.now, val := 0 }

/-- CORE_ARRIVED: the core is ARRIVED; the first arrival of a superstep starts the hourglass, the last one the phase
change (R234, R235, R240). -/
def execCoreArrived (core : Nat) (s : State) : Host.Outcome State Fault Refusal :=
  if !s.arriveDue core then .fault .notEnabled
  else
    let s := s.modCore core fun k => { k with arrived := true, arrivedAt := s.now }
    .next { s with slice := s.slice.map fun r =>
      let r : SliceRun := if r.hgOn then r else { r with hgOn := true, hg := s.startClock }
      if r.cores.all fun c => (s.core c).arrived then { r with arrivedAt := some s.now } else r }

/-- Whether the conditions of R232 hold for a barrier arrival (R237); on a system core they never do (log 11). -/
def State.barDue (s : State) (core ctx bar : Nat) : Bool :=
  let r := SMap.get {} (s.core core).bars bar
  match SMap.get? r.due ctx with
  | some (issued, t) => s.inSlice core && !s.dbg.frozen && r.pending.getLsbD ctx && decide (t ≤ s.now) && s.engineDone core ctx issued
  | none => false

/-- CB_ARRIVAL_EFFECT (R237). -/
def execCbArrivalEffect (core ctx bar : Nat) (s : State) : Host.Outcome State Fault Refusal :=
  if s.barDue core ctx bar then
    .next (s.modCore core fun k =>
      let r := SMap.get {} k.bars bar
      let bit := BitVec.ofNat 4 (2 ^ ctx)
      { k with bars := k.bars.put bar { r with pending := r.pending &&& ~~~bit, effect := r.effect ||| bit, due := r.due.del ctx
                                               last := s.now } })
  else .fault .notEnabled

/-- Whether the generation of a barrier has every arrival it needs (R237). -/
def Core.barFull (k : Core) (r : Bar) : Bool :=
  r.mask != 0 && (rangeFrom 0 4).all fun x => !r.mask.getLsbD x || r.effect.getLsbD x || (k.ctx x).st == .exited

/-- CB_GENERATION_COMPLETE: in the cycle after the last arrival in effect; the core's order count increases (R237,
R238, R268). -/
def execCbGenerationComplete (core bar : Nat) (s : State) : Host.Outcome State Fault Refusal :=
  let k := s.core core
  let r := SMap.get {} k.bars bar
  if s.inSlice core && !s.dbg.frozen && k.barFull r && r.last + 1 ≤ s.now then
    .next ((s.setCore core { k with bars := k.bars.del bar, order := k.order + 1 }).wake core)
  else .fault .notEnabled

/-! ## Reduction results (R93, R253, R281, R282) -/

/-- The result of a pending reduction and its width. -/
def SauEnt.value (x : SauEnt) : Nat × Nat :=
  if x.rop = 0 then (x.floatResult, 32)
  else
    let w := if x.rfmt.toNat ≤ 7 then 32 else 64
    (unsigned w x.sum, w)

/-- Write one result: a sync sector stays IN, any other goes OUT, or IN at TOLL. A result that does not cover its word
needs that word's content (R282). As an agent of R268 it is of the core and context that bound its group (log 91). -/
def State.writeResult (s : State) (x : SauEnt) : Except Stop State := do
  let (v, w) := x.value
  let g := SMap.get? s.groups x.group
  let o : Origin := match g with | some g => g.origin | none => {}
  let named {α : Type} (r : Except Stop α) : Except Stop α := match r, g with
    | .error (.fault e), some g => .error (.fault { e with desc := some (g.e, g.start) })
    | r, _ => r
  named (match (partialWords x.addr w).find? (s.phys.bad ·) with
    | some word => fail { Exc.poison ((x.name + (64 * word - x.addr)) / 64 * 64) with place := some .phys, word := some word }
    | none => .ok ())
  let agent : Shadow := { s.agent o.core o.ctx (x.addr + 1) false with sau := true }
  let s ← named (s.raceAt .phys (x.addr / 512) (x.name / 512 * 512) o.head agent true)
  let s := s.storeAt .phys x.addr w v
  .ok (match x.toll with | some l => if s.syncAt .phys (x.addr / 512) then s else s.turnIn .phys x.addr w l | none => s)

/-- The results of every unit, until one raises a fault. -/
def State.writeResults (s : State) : List SauEnt → Except (Stop × Nat) State
  | [] => .ok s
  | x :: r =>
    match s.writeResult x with
    | .error e => .error (e, x.group)
    | .ok s => s.writeResults r

/-- The delay that spilled reductions put on the phase change (R253). -/
def State.spillDelay (s : State) : Nat :=
  let per (i : Nat) : Nat := (s.sau.filter fun x => x.spilled && sliceOf x.addr == i).length
  ceilDiv ((rangeFrom 0 64).foldl (fun m i => Nat.max m (per i)) 0) 8

/-! ## Translations (R303, R307) -/

/-- Copy the 64-bit entry at a bit address from one memory to another. -/
def copyEntry (tables from_ : Memory) (a : Nat) : Memory := tables.setBits a 64 (from_.bits a 64)

/-- The entries on the way of a virtual address, latched again. -/
def relatchPage (tables now : Memory) (root va : Nat) : Memory :=
  let a1 := root + 64 * field va 56 42
  let t := copyEntry tables now a1
  let e1 := now.bits a1 64
  if field e1 63 63 = 0 || field e1 62 62 = 1 then t
  else
    let a2 := field e1 44 0 + 64 * field va 41 33
    let t := copyEntry t now a2
    let e2 := now.bits a2 64
    if field e2 63 63 = 0 || field e2 62 62 = 1 then t
    else copyEntry t now (field e2 44 0 + 64 * field va 32 24)

/-- Tables are latched: which of the words in error their walks read is free (R307, R342, R349, log 9). -/
def State.latchReads (s : State) : State :=
  s.phys.syn.foldl (fun s p =>
    if s.phys.fixes p.1 || s.phys.unmarked p.1 then
      let (b, s) := s.drawBool
      if b then s.copied .phys [p.1] else s
    else s) s

/-- The translations that a TLBI has marked take effect: those of the slice and those of the system cores. -/
def State.applyTlbi (s : State) : State :=
  let s := if s.tlbiAll || !s.tlbi.isEmpty then s.latchReads else s
  let now := s.phys.walked
  let page (t : Memory) (root : Nat) : Memory := if s.tlbiAll then now else s.tlbi.foldl (fun t va => relatchPage t now root va) t
  { s with slice := s.slice.map fun r => { r with tables := page r.tables r.lr.ttroot }
           sysTables := page s.sysTables s.bar.sysroot.toNat
           tlbiAll := false, tlbi := [] }

/-- At a phase change a slice reads its tables again where a TLBI asks for it; whether it also takes up the entries
changed without one is free (R307). -/
def State.latchTables (s : State) : State :=
  let s := s.applyTlbi
  match s.slice with
  | none => s
  | some r =>
    if r.tables = s.phys.walked then s
    else
      let (b, s) := s.drawBool
      if b then { s.latchReads with slice := some { r with tables := s.phys.walked } } else s

/-! ## The phase change (R235, R239, R242) -/

/-- Whether every context of the slice is EXITED or ABSENT, so that the change ends the slice. -/
def State.allExited (s : State) (r : SliceRun) : Bool :=
  r.cores.all fun c => (s.core c).ctxs.all fun p => p.2.st == .exited || p.2.st == .absent

/-- Whether the far traffic of the slice has settled (R292). -/
def State.farSettled (s : State) (r : SliceRun) : Bool :=
  r.cores.all fun c =>
    let k := s.core c
    k.fills.isEmpty && (k.slots.all fun p => p.2.landed.isSome) && k.queues.all fun p => p.2.dir != 2 || p.2.avail == 0

/-- Whether fills of the slice are still to land. -/
def State.fillsLeft (s : State) (r : SliceRun) : Bool := r.cores.any fun c => !(s.core c).fills.isEmpty

/-- Whether the change in progress pre-empts the slice: it goes from an odd PHC to an even one, and a BUDGET trap is
pending or a yield finds a ready slice that goes first (R239, R242). -/
def State.preempts (s : State) (r : SliceRun) : Bool :=
  s.exchange && !s.allExited r && (r.budgetPend || (r.yreq && match pickBest s.disp.ready with
    | some b => b.before { deadline := r.deadline, saved := true, lr := r.lr }
    | none => false))

/-- What the change does to a context. -/
def Ctx.newSuperstep (c : Ctx) (now : Nat) (phc : BitVec 64) : Ctx :=
  let c := { c with parrEff := false, xacc := 0, xaccLate := [], stalled := false }
  match c.st with
  | .arrived => { c with st := .released }
  | .waiting => { c with st := .run, view := phc, issueAt := now }
  | _ => c

/-- The steps of the change that the end of a slice makes too: pending flips, those of the system cores among them, caches, translations, groups, XACC and
context barriers (R235 steps 3 to 5). -/
def State.closeSuperstep (s : State) (r : SliceRun) : State :=
  let s := { s with phys := s.phys.applyPending, host := s.host.applyPending, peer := s.peer.applyPending, sau := [], groups := []
                    cores := s.cores.mapVals fun _ k => { k with loc := k.loc.applyPending } }
  let s := r.cores.foldl (fun s c => s.modCore c fun k =>
    { k.lcFlush with bars := [], slots := []
                     ctxs := k.ctxs.mapVals fun _ x => { x with xacc := 0, xaccLate := [], stalled := false } }) s
  s.latchTables

/-- The rest: PHC, VCYC, the states of contexts and cores, the hourglass and the photonic layer. -/
def State.openSuperstep (s : State) (r : SliceRun) (preempt : Bool) : State :=
  let phc := s.phc + 1
  let s := { s with phc := phc }
  let s := r.cores.foldl (fun s c => s.modCore c fun k =>
    { k with arrived := false, entrySet := none, vcyc := Clock.start s.now
             ctxs := k.ctxs.mapVals fun _ x => x.newSuperstep s.now phc
             queues := k.queues.mapVals fun _ q => { q with due := if q.dir = 2 then q.avail else 0 } }) s
  let far := r.cores.any fun c => !(s.core c).fills.isEmpty || (s.core c).queues.any fun p => p.2.dir == 2 && p.2.avail != 0
  let s := { s with photonic := s.exchange, wakeAt := none
                    slice := s.slice.map fun r =>
                      { r with arrivedAt := none, hgOn := r.budgetPend, hgExtended := false, hg := if r.budgetPend then s.startClock else {}
                               yreq := if s.exchange then r.yreq else false, preempt := preempt, chosen := false } }
  if far && !s.photonic then s.askWake else s

/-- Whether the phase change has its occasion: 32 cycles after the last arrival and the delay of spilled reductions,
with no context halted; the end of a slice waits for its far traffic, a chosen pre-emption for its fills (R235, R242,
R292). -/
def State.changeDue (s : State) : Bool :=
  match s.slice with
  | none => false
  | some r =>
    !s.dbg.frozen && !r.ending && !r.preempt && !s.sliceHalted
    && (match r.arrivedAt with | some t => decide (t + 32 + s.spillDelay ≤ s.now) | none => false)
    && (if s.allExited r then s.farSettled r else !(r.chosen && s.fillsLeft r))

/-- PHASE_CHANGE (R235). -/
def execPhaseChange (s : State) : Host.Outcome State Fault Refusal :=
  match s.slice with
  | none => .fault .notEnabled
  | some r =>
    if !s.changeDue then .fault .notEnabled
    else
      let pre := r.chosen || s.preempts r
      if pre && s.fillsLeft r then
        .next { s with slice := some { r with chosen := true, spent := r.spent.hold s.now } }
      else
        match s.writeResults s.sau with
        | .error (e, g) =>
          s.stepped (match SMap.get? s.groups g with | some g => g.origin | none => {}) (.error e)
        | .ok s =>
          let s := s.closeSuperstep r
          if s.allExited r then .next { s with slice := s.slice.map fun r => { r with ending := true } }
          else .next (s.openSuperstep r pre)

/-! ## Hourglass and budget (R240, R241, R296) -/

/-- The cores of the slice that are not ARRIVED, ascending. -/
def State.missing (s : State) (r : SliceRun) : List Nat := r.cores.filter fun c => !(s.core c).arrived

/-- The context that a STRAGGLER record names (R298). -/
def Core.straggler (k : Core) : Nat :=
  let xs := rangeFrom 0 4
  match xs.find? fun x => !(k.ctx x).hasArrived with
  | some x => x
  | none => match xs.find? fun x => !(k.ctx x).turns.isEmpty with
    | some x => x
    | none => (xs.find? fun x => (k.ctx x).st != .absent).getD 0

/-- Whether the hourglass has expired with some core not ARRIVED. -/
def State.expired (s : State) : Bool :=
  match s.slice with
  | some r => !s.dbg.frozen && r.hgOn && !r.ending && !r.preempt && r.arrivedAt.isNone && decide (r.lr.hgl ≤ r.hg.read s.now)
  | none => false

/-- The 1024 bytes of an arrival table (R298). -/
def tableBits (t : SMap (BitVec 8)) : Nat := t.foldl (fun n p => n + 2 ^ (8 * p.1) * p.2.toNat) 0

/-- STRAGGLER: the dispatcher takes the trap and the hourglass restarts, or the slice is aborted (R240, R241). -/
def execStraggler (s : State) : Host.Outcome State Fault Refusal :=
  match s.slice with
  | none => .fault .notEnabled
  | some r =>
    if !s.expired then .fault .notEnabled
    else
      let missing := s.missing r
      let core := missing.headD 0
      let o : Origin := { core := core, ctx := (s.core core).straggler, members := 0, phc := s.phc.toNat }
      let table := r.cores.foldl (fun (m : SMap (BitVec 8)) c => m.put c (BitVec.ofNat 8 (s.arrivalEntry c))) []
      let addr := Config.arrivalTable.toNat
      let s := { s with disp := { s.disp with arrivals := table } }.putSystem addr 8192 (tableBits table)
      if r.lr.hglpol || r.hgExtended then .next (s.raiseFault o { cause := 0x24, addr := addr, info := missing.length })
      else
        let s := s.raiseTrap o 0x24 addr missing.length false
        .next { s with slice := s.slice.map fun r => { r with hgExtended := true, hg := s.startClock } }

/-- Whether BUDGET has reached 0. -/
def State.budgetOut (s : State) : Bool :=
  match s.slice with
  | some r => !s.dbg.frozen && r.lr.budget != 0 && !r.budgetPend && !r.ending && decide (r.budget ≤ r.spent.read s.now)
  | none => false

/-- BUDGET_EXHAUSTED: the trap is pending and the hourglass runs (R296). -/
def execBudgetExhausted (s : State) : Host.Outcome State Fault Refusal :=
  if s.budgetOut then
    .next { s with slice := s.slice.map fun r =>
      { r with budgetPend := true, hgOn := true, hg := if r.hgOn then r.hg else s.startClock } }
  else .fault .notEnabled

/-! ## Pre-emption (R242, R304, R305) -/

/-- Whether every context of the slice stands at a convoy boundary with nothing in flight. -/
def State.quiet (s : State) (r : SliceRun) : Bool :=
  r.cores.all fun c => (s.core c).ctxs.all fun p =>
    p.2.cv.isNone && p.2.span.isNone && p.2.land.isEmpty && p.2.vq.isEmpty

/-- What a pre-emption keeps of the words that releases have marked (R279). -/
def State.relMarks (s : State) (r : SliceRun) : SMap (List Nat × List Nat) :=
  r.cores.map fun c => (c, ((s.core c).relWords, (s.core c).relSeen))

/-- What a pre-emption keeps of the drained entries of the outbound queues (R148). -/
def State.drainCounts (s : State) (r : SliceRun) : SMap (SMap Nat) :=
  r.cores.map fun c => (c, (s.core c).queues.map fun p => (p.1, p.2.drained))

/-- Save every core and the header; the budget and deadline saved are those the slice resumes with. A STATE of 0 names no
save area (log 24). -/
def State.saveSlice (s : State) (r : SliceRun) (budget deadline : Nat) : State :=
  if r.lr.state = 0 then s
  else
    let s := r.cores.foldl (fun s c => s.saveCore r.lr c) s
    s.putDevice r.lr.state (saveHeader r.lr.sliceid s.phc.toNat budget deadline) []

/-- PREEMPTION: BUDGET is taken if pending, the slice is saved and queued, and the picker runs (R242, R295, R296). -/
def execPreemption (s : State) : Host.Outcome State Fault Refusal :=
  match s.slice with
  | none => .fault .notEnabled
  | some r =>
    if !(r.preempt && s.quiet r && !s.dbg.frozen) then .fault .notEnabled
    else
      let s := if r.budgetPend then s.raiseTrap { members := 0, phc := s.phc.toNat } 0x23 0 0 false else s
      let deadline := if r.budgetPend then (r.deadline + r.lr.dlstep) % 2 ^ 64 else r.deadline
      let budget := if r.budgetPend then r.lr.budget else r.budgetLeft s.now
      let s := s.saveSlice r budget deadline
      let s := { s with
        cores := s.cores.mapVals fun c k => if r.cores.contains c then { k with ctxs := [], queues := [], vcyc := {} } else k
        slice := none
        disp := { s.disp with drains := s.disp.drains.put r.lr.sliceid (s.drainCounts r)
                              rels := s.disp.rels.put r.lr.sliceid (s.relMarks r) } }
      .next (s.requeue { deadline := deadline, saved := true, lr := r.lr, walk := r.walk })

/-- PHOTONIC_WAKEUP: the photonic layer is ready 24 cycles after far traffic asked for it (R264). -/
def execPhotonicWakeup (s : State) : Host.Outcome State Fault Refusal :=
  match s.wakeAt with
  | some t => if t ≤ s.now then .next { s with photonic := true, wakeAt := none } else .fault .notEnabled
  | none => .fault .notEnabled

end Sys2Proof.Machine
end

