-- ==== Sys2Proof/Machine/Jobs.lean ====
section
/-! DEFINITION. Launch records (R285 to R288, R360): reading and checking them, queueing, and killing slices. -/

namespace Sys2Proof.Machine

/-! ## DEVICE space as the tables stand (R306, R307) -/

/-- The physical address of a DEVICE address under a root, through the tables as they stand. -/
def State.xlNow (s : State) (root va : Nat) : Option Nat :=
  if spaceOf va = 2 && field va 60 57 == 0 then translate s.phys.walked root (va % 2 ^ 57) false else none

/-- Whether n bits at a DEVICE address translate. -/
def State.mapped (s : State) (root va n : Nat) : Bool :=
  n == 0 || (pagesOf va n).all fun p => (s.xlNow root p.1).isSome

/-- n bits at a DEVICE address; none where they do not translate or a word is poisoned. -/
def State.deviceBits (s : State) (root va n : Nat) : Option Nat :=
  (pagesOf va n).foldl (fun (acc : Option (Nat × Nat)) p =>
    match acc, s.xlNow root p.1 with
    | some (x, at0), some pa => if (s.phys.anyBad pa p.2).isSome then none else some (x + 2 ^ at0 * s.phys.readBits pa p.2, at0 + p.2)
    | _, _ => none) (some (0, 0)) |>.map (·.1)

/-- The words of the tables that a walk reads (R306). -/
def walkWords (tables : Memory) (root va : Nat) : List Nat :=
  let a1 := root + 64 * field va 56 42
  match readEntry (tableEntry tables root (field va 56 42)) none true false with
  | .table t2 =>
    let a2 := t2 + 64 * field va 41 33
    (match readEntry (tableEntry tables t2 (field va 41 33)) (some (2 ^ 33)) true false with
    | .table t3 => [a1 / 64, a2 / 64, (t3 + 64 * field va 32 24) / 64]
    | _ => [a1 / 64, a2 / 64])
  | _ => [a1 / 64]

/-- The walks of some DEVICE ranges, one for each page, read table words as they stand (R307, R342, R349). -/
def State.walks (s : State) (root : Nat) (l : List (Nat × Nat)) : State :=
  if s.phys.syn.isEmpty then s
  else
    let tables := s.phys.walked
    s.copied .phys (l.flatMap fun q => (pagesOf q.1 q.2).flatMap fun p =>
      if spaceOf p.1 = 2 && field p.1 60 57 == 0 then walkWords tables root (p.1 % 2 ^ 57) else [])

/-- What a read of some DEVICE ranges, as (address, bits), meets on its way: its walks and its words (R342, R349). -/
def State.loads (s : State) (root : Nat) (l : List (Nat × Nat)) : State :=
  (s.walks root l).copied .phys (l.flatMap fun q => (pagesOf q.1 q.2).flatMap fun p =>
    match s.xlNow root p.1 with | some pa => wordsOf pa p.2 | none => [])

/-- The system root (R306). -/
def State.sysroot (s : State) : Nat := s.bar.sysroot.toNat

/-! ## Maps (R286) -/

/-- n entries of w bits at a DEVICE address. -/
def State.readTable (s : State) (root va n w : Nat) : Option (List Nat) :=
  if n = 0 then some []
  else (s.deviceBits root va (n * w)).map fun x => (rangeFrom 0 n).map fun i => (x >>> (w * i)) % 2 ^ w

def LiveEnt.of (x : Nat) : LiveEnt :=
  { image := field x 63 0, stride := field x 95 64, first := field x 109 96, count := field x 124 110, copyout := field x 125 125 == 1 }

def QEnt.of (x : Nat) : QEnt :=
  { dest := field x 63 0, dir := field x 65 64, segs := field x 73 66 + 1, toll := field x 76 74 }

/-- A record with its maps, as the dispatcher copies it once (R360); raw map entries beside it, and whether a map could
not be read. -/
def State.readLaunch (s : State) (addr : Nat) : Option (LaunchRec × List Nat × List Nat × Bool) :=
  (s.deviceBits s.sysroot addr 2048).map fun x =>
    let r : LaunchRec := { addr := addr, raw := BitVec.ofNat 2048 x }
    let live := s.readTable r.ttroot r.livetab r.liven 128
    let sync := s.readTable r.ttroot r.synctab r.syncn 64
    let q := s.readTable r.ttroot r.qtab 16 128
    ({ r with live := (live.getD []).map LiveEnt.of, sync := sync.getD [], qmap := (q.getD []).map QEnt.of },
     live.getD [], q.getD [], live.isNone || sync.isNone || q.isNone)

/-- The ranges that the dispatcher reads of a record. -/
def LaunchRec.maps (r : LaunchRec) : List (Nat × Nat) := [(r.livetab, 128 * r.liven), (r.synctab, 64 * r.syncn), (r.qtab, 2048)]

/-! ## The checks of R287 -/

/-- Whether two ranges of n and m bits meet. -/
def meet (a n b m : Nat) : Bool := n != 0 && m != 0 && decide (a < b + m) && decide (b < a + n)

def LaunchRec.reservedSet (r : LaunchRec) : Bool :=
  [(991, 971), (831, 791), (639, 624), (511, 503), (479, 471), (191, 176), (159, 143), (5, 0)].any fun p => r.fld p.1 p.2 != 0

/-- Subcode 3. -/
def LaunchRec.badCores (r : LaunchRec) : Bool :=
  r.clmask == 0 || r.cores.isEmpty || r.cores.any fun c => field r.clmask (c / 64) (c / 64) == 0

/-- Subcode 4. -/
def LaunchRec.badContexts (r : LaunchRec) : Bool :=
  let present (x : Nat) : Bool := field r.ctxmask x x == 1
  r.ctxmask == 0 || !present r.meown
  || (rangeFrom 0 4).any (fun x => r.grant x % 8 != 0 || (r.grant x != 0 && !present x))
  || decide (64 < (rangeFrom 0 4).foldl (fun n x => n + r.grant x) 0)

/-- The bits of the layout table and of the pool, and the LOCAL sync sectors. -/
def LaunchRec.poolBits (r : LaunchRec) : Nat := r.poolsegs * 2 ^ 15
def LaunchRec.localSyncs (r : LaunchRec) : List Nat := r.sync.filter fun a => spaceOf a == 0

/-- Subcode 6 (R137). -/
def LaunchRec.badTable (r : LaunchRec) : Bool :=
  r.ltbase % 512 != 0 || decide (2 ^ 23 < r.ltbase + 2 ^ 18) || meet r.ltbase (2 ^ 18) r.poolbase r.poolBits
  || r.localSyncs.any fun a => meet r.ltbase (2 ^ 18) a 512

/-- Subcode 7 (R152, R284, R286). -/
def State.badSync (s : State) (r : LaunchRec) : Bool :=
  decide (256 < r.syncn) || r.sync.any fun a =>
    a % 512 != 0 || (match spaceOf a with
    | 0 => decide (2 ^ 23 ≤ a) || meet r.ltbase (2 ^ 18) a 512 || meet r.poolbase r.poolBits a 512
    | 2 => (match s.xlNow r.ttroot a with | some pa => !inSram pa | none => true)
    | _ => true)

/-- An outbound destination or turn-on-land level that breaks R159 or R286. -/
def State.badDest (s : State) (r : LaunchRec) (q : QEnt) : Bool :=
  q.dest % 512 != 0 || decide (4 < q.toll) || (match spaceOf q.dest with
    | 2 => field q.dest 60 57 != 0 || (match s.xlNow r.ttroot q.dest with | some pa => decide (q.toll < homeLevel pa) | none => true)
    | 3 => decide (q.toll < 4)
    | 4 => field q.dest 60 53 != 0 || decide (q.toll < 4)
    | _ => true)

/-- Subcode 8. -/
def State.badPool (s : State) (r : LaunchRec) : Bool :=
  let used := r.qmap.filter fun q => q.dir != 0
  r.poolbase % 2 ^ 15 != 0 || decide (256 < r.poolsegs) || decide (2 ^ 23 < r.poolbase + r.poolBits)
  || r.localSyncs.any (fun a => meet r.poolbase r.poolBits a 512) || meet r.ltbase (2 ^ 18) r.poolbase r.poolBits
  || decide (r.poolsegs < used.foldl (fun n q => n + q.segs) 0)
  || used.any fun q => q.dir == 3 || (q.dir == 2 && s.badDest r q)

/-- Whether STATE holds a valid save of this slice (R304). -/
def State.validSave (s : State) (r : LaunchRec) : Bool :=
  match s.deviceBits r.ttroot r.state 64 with
  | some x => field x 63 63 == 1 && field x 15 0 == r.sliceid
  | none => false

/-- The image of live region e for the core with index i. -/
def LiveEnt.imageOf (e : LiveEnt) (i : Nat) : Nat := (e.image + i * e.stride) % 2 ^ 64

/-- Subcode 12: some address in use does not translate. A STATE of 0 names no save area (log 24). -/
def State.badAddress (s : State) (r : LaunchRec) : Bool :=
  !s.mapped r.ttroot r.code (32 * r.codewords)
  || (r.state != 0 && !s.mapped r.ttroot r.state (512 * (1 + r.cores.length * r.blockSectors)))
  || r.live.any (fun e => (rangeFrom 0 r.cores.length).any fun i => !s.mapped r.ttroot (e.imageOf i) (512 * e.count))

/-- Subcode 13. -/
def LaunchRec.badImages (r : LaunchRec) : Bool :=
  r.code % 32 != 0 || r.state % 512 != 0
  || r.live.any fun e => e.count == 0 || decide (16384 < e.first + e.count) || e.image % 512 != 0 || e.stride % 512 != 0

/-- Slices that run, load or are ready. -/
def State.slices (s : State) : List Nat :=
  (match s.slice with | some r => [r.lr.sliceid] | none => [])
  ++ (match s.disp.picked with | some b => [b.lr.sliceid] | none => []) ++ s.disp.ready.map fun b => b.lr.sliceid

/-- The ranges whose translation the checks of R287 look at. -/
def checkedRanges (r : LaunchRec) : List (Nat × Nat) :=
  (r.code, 32 * r.codewords) :: (if r.state = 0 then [] else [(r.state, 512 * (1 + r.cores.length * r.blockSectors))])
  ++ r.live.flatMap fun e => (rangeFrom 0 r.cores.length).map fun i => (e.imageOf i, 512 * e.count)

/-- The subcode of the first failing check of R287, or 15 after a power trip (R354); 0 where all pass. -/
def State.launchCheck (s : State) (r : LaunchRec) (live q : List Nat) (unread : Bool) : Nat :=
  if s.power.trip then 15
  else if r.ver ≠ 1 || r.reservedSet || live.any (fun x => field x 127 126 != 0) || q.any (fun x => field x 127 77 != 0) then 1
  else if r.tclass ≠ 1 then 2
  else if r.badCores then 3
  else if r.badContexts then 4
  else if r.codewords = 0 || 32768 < r.codewords || r.codewords ≤ r.entry then 5
  else if r.badTable then 6
  else if s.badSync r then 7
  else if s.badPool r then 8
  else if r.hgl = 0 then 9
  else if s.slices.contains r.sliceid then 10
  else if r.fromsave && !s.validSave r then 11
  else if unread || s.badAddress r then 12
  else if 1024 < r.liven || r.badImages then 13
  else 0

/-! ## Queueing (R287, R291, R303, R360) -/

/-- How an attempt to queue a record ends. -/
inductive Queued where
  | ready | rejected | full | unlinked
  deriving DecidableEq, Repr

/-- The LAUNCH record of a rejection (R297). -/
def launchReject (addr sub sliceid tag vec : Nat) : Record :=
  { cause := 0x14, rkind := 1, sliceid := sliceid, hosttag := tag, addr := addr, info := sub, vec := vec }

/-- A rejected slice ends with its LAUNCH record, MISSED after its deadline (R292, R295, R303). -/
def State.rejectSlice (s : State) (r : LaunchRec) (deadline sub : Nat) : State :=
  (s.sendRecord (launchReject r.addr (sub + if deadline < s.dtime.toNat then 2 ^ 63 else 0) r.sliceid r.hosttag r.msivec)).sysEvent 2

/-- A submission that cannot be read is rejected with the address alone (R287). -/
def State.rejectUnread (s : State) (addr sub tag vec : Nat) : State :=
  (s.sendRecord (launchReject addr (if s.power.trip then 15 else sub) 0 tag vec)).sysEvent 2

/-- Read, check and queue a record for a walk, if one asks, with the predicate sectors it adds. -/
def State.queueRecord (s : State) (addr : Nat) (walk : Option Nat) (pred : List Nat) : Queued × State :=
  match s.readLaunch addr with
  | none => (.rejected, (s.loads s.sysroot [(addr, 2048)]).rejectUnread addr 12 0 0)
  | some (r, live, q, unread) =>
    let s := ((s.loads s.sysroot [(addr, 2048)]).loads r.ttroot r.maps).walks r.ttroot (checkedRanges r)
    let s := if r.fromsave then s.loads r.ttroot [(r.state, 64)] else s
    match s.launchCheck r live q unread with
    | 0 =>
      if 1024 ≤ s.disp.ready.length then (.full, s)
      else if 64 * s.disp.segs == s.disp.ready.length && s.disp.segs < 16 then (.unlinked, s)
      else
        let b : Ready := { deadline := r.deadline, saved := r.fromsave, lr := { r with pred := pred }, walk := walk }
        (.ready, (s.pushReady b).pick)
    | sub => (.rejected, s.rejectSlice r r.deadline sub)

/-- The dispatcher's own queueing links a further segment where one is needed (R291). -/
def State.enqueue (s : State) (addr : Nat) (walk : Option Nat) (pred : List Nat) : Queued × State :=
  match s.queueRecord addr walk pred with
  | (.unlinked, _) => s.roomReady.queueRecord addr walk pred
  | r => r

/-! ## Killing a slice (R303) -/

/-- The record of a killed slice that is not running. -/
def State.killRecord (s : State) (b : Ready) (cause flags : Nat) : Record :=
  { cause := cause, rkind := if cause = 0 then 4 else 1, sliceid := b.lr.sliceid, hosttag := b.lr.hosttag
    info := flags + (if b.deadline < s.dtime.toNat then 2 ^ 63 else 0), vec := b.lr.msivec }

/-- A slice that has not started leaves the ready queue, or the loading it is in. -/
def State.dropReady (s : State) (b : Ready) (cause flags : Nat) : State :=
  let s := s.popReady b.lr.sliceid
  let s := { s with disp := { s.disp with picked := s.disp.picked.filter fun (x : Ready) => x.lr.sliceid != b.lr.sliceid } }
  (((s.sendRecord (s.killRecord b cause flags)).walkEnds b.walk false).sysEvent 2).pick

/-- The QUEUE-OVERFLOW record of the slice that an exhausted pool leaves without a segment (R150). -/
def State.stuckQueue (s : State) : Option Record :=
  (s.disp.trapq ++ s.disp.trapWait).find? fun q => q.cause == 0x22 && q.sliceid == s.lr.sliceid && (s.core q.core).pool.isEmpty

/-- What the record of a kill names besides the slice: a QUEUE abort the queue and the convoy that overflowed (R150), a
STRAGGLER abort what its trap names (R240, R298), any other kill nothing. -/
def State.killNames (s : State) (r : SliceRun) (rec0 : Record) : Record :=
  let none0 := { rec0 with core := 0, turncur := 0 }
  if rec0.cause = 0x13 then
    match s.stuckQueue with
    | some q => { rec0 with core := q.core, ctx := q.ctx, head := q.head, members := q.members, turncur := q.turncur, info := q.info % 16 }
    | none => none0
  else if rec0.cause = 0x24 then
    let core := (s.missing r).headD 0
    let x := (s.core core).straggler
    { rec0 with core := core, ctx := x, turncur := (s.ctx core x).turncur, addr := Config.arrivalTable.toNat, info := (s.missing r).length }
  else none0

/-- The running slice is aborted by a kill (R31). -/
def State.killRunning (s : State) (r : SliceRun) (cause flags : Nat) : State :=
  let rec0 := s.killNames r (s.mkRecord { core := r.cores.headD 0, members := 0, phc := s.phc.toNat } { cause := cause } (if cause = 0 then 4 else 1))
  (s.sendRecord { rec0 with info := rec0.info + flags + s.missed r }).endSlice false

/-- Kill a slice that has not started. -/
def State.killWaiting (s : State) (sid cause : Nat) : Bool × State :=
  match (s.disp.picked.toList ++ s.disp.ready).find? fun b => b.lr.sliceid == sid with
  | some b => (true, s.dropReady b cause 0)
  | none => (false, s)

/-- Kill a slice by its identifier; false where there is none. -/
def State.kill (s : State) (sid cause : Nat) : Bool × State :=
  match s.slice with
  | some r => if r.lr.sliceid = sid then (true, s.killRunning r cause 0) else s.killWaiting sid cause
  | none => s.killWaiting sid cause

end Sys2Proof.Machine
end

