-- ==== Sys2Proof/Machine/Slices.lean ====
section
/-! DEFINITION. How a slice starts, resumes and completes (R288, R292, R305, R360). -/

namespace Sys2Proof.Machine

/-- Whether the dispatcher runs: bring-up is over and no panic has stopped it (R301, R323, R355). -/
def State.dispLive (s : State) : Bool := s.bar.stage == 6 && s.dbg.panic.isNone

/-! ## Loading (R288) -/

/-- A sector of an image with its poison marks, through the tables as they stand. -/
def State.imageSector (s : State) (root va : Nat) : Nat × List Bool :=
  match s.xlNow root va with
  | some pa => (s.phys.readBits pa 512, (rangeFrom 0 8).map fun i => s.phys.bad (pa / 64 + i))
  | none => (0, [])

/-- A word of the code image, and whether it is poisoned. -/
def State.codeWord (s : State) (root va : Nat) : Nat × Bool :=
  match s.xlNow root va with
  | some pa => (s.phys.readBits pa 32, s.phys.bad (pa / 64))
  | none => (0, false)

/-- The instruction store after loading: the code in words 0 to CODEWORDS − 1, the rest zero. -/
def State.loadCode (s : State) (r : LaunchRec) : SMap (BitVec 32) × List Nat :=
  (rangeFrom 0 r.codewords).foldl (fun (acc : SMap (BitVec 32) × List Nat) w =>
    let x := s.codeWord r.ttroot (r.code + 32 * w)
    (SMap.set 0 acc.1 w (BitVec.ofNat 32 x.1), if x.2 then NSet.add acc.2 w else acc.2)) ([], [])

/-- What every core reads at a start: its code, and its images or its block (R288, R305). -/
def LaunchRec.imageRanges (r : LaunchRec) (saved : Bool) : List (Nat × Nat) :=
  (rangeFrom 0 r.cores.length).flatMap fun i =>
    (r.code, 32 * r.codewords) :: (if saved then
        let base := r.state + 512 * (1 + i * r.blockSectors)
        (base + 512 * 2560, 512 * (r.blockSectors - 2560)) :: ((rangeFrom 0 4).filter fun x => field r.ctxmask x x == 1).map fun x =>
          (base + 512 * 640 * x, 512 * 640)
      else r.live.map fun e => (e.imageOf i, 512 * e.count))

/-- A scratchpad with one sector written, IN. -/
def Space.place (m : Space) (sec : Nat) (x : Nat × List Bool) : Space :=
  (rangeFrom 0 8).foldl (fun m i => if x.2.getD i false then m.poison (8 * sec + i) else m) (m.writeRaw (512 * sec) 512 x.1)

/-- The scratchpad of the core with index i: its live regions from their images, zero elsewhere, every sector IN. -/
def State.loadLive (s : State) (r : LaunchRec) (i : Nat) : Space :=
  r.live.foldl (fun m e => (rangeFrom 0 e.count).foldl (fun m k =>
    m.place (e.first + k) (s.imageSector r.ttroot (e.imageOf i + 512 * k))) m) {}

/-- The queue rings, formed from the pool in ascending queue number, and the segments left. -/
def formQueues (seg : Nat → Nat) : Nat → Nat → List QEnt → SMap Queue × Nat
  | used, _, [] => ([], used)
  | used, n, q :: r =>
    if q.dir = 0 then formQueues seg used (n + 1) r
    else
      let (m, last) := formQueues seg (used + q.segs) (n + 1) r
      ((n, { dir := q.dir, segs := (rangeFrom used q.segs).map seg, dest := q.dest, toll := q.toll }) :: m, last)

/-- The state of a present context at a first start (R56, R62, R68). -/
def freshCtx (r : LaunchRec) (i x : Nat) : Ctx :=
  { st := .run, pc := 32 * r.entry, grant := r.grant x
    regs := SMap.set 0 (SMap.set 0 [] 2 (BitVec.ofNat 64 r.argaddr)) 3 (BitVec.ofNat 64 i) }

/-- The contexts named by CTXMASK. -/
def LaunchRec.contexts (r : LaunchRec) : List Nat := (rangeFrom 0 4).filter fun x => field r.ctxmask x x == 1

/-- A core at a first start; the debug registers stay. -/
def State.freshCore (s : State) (r : LaunchRec) (c i : Nat) : Core :=
  let old := s.core c
  let (ist, bad) := s.loadCode r
  let (queues, used) := formQueues (fun k => r.poolbase + k * 2 ^ 15) 0 0 r.qmap
  let loc := { queues.foldl (fun m p => linkRing m p.2.segs) (s.loadLive r i) with fixed := old.loc.fixed }
  { index := i
    ctxs := r.contexts.map fun x => (x, freshCtx r i x)
    loc := loc, ist := ist, istBad := bad, queues := queues
    pool := (rangeFrom used (r.poolsegs - used)).map fun k => r.poolbase + k * 2 ^ 15
    vcyc := Clock.start s.now, launched := true, meown := r.meown, bka := old.bka, svaddr := old.svaddr }

/-- The cores of a list with their indices. -/
def indexed (l : List Nat) : List (Nat × Nat) := l.zip (rangeFrom 0 l.length)

/-- The slice takes the device in PHC p with a deadline and a budget. What the slices' SRAM remembers of writers belongs to
supersteps that are over; the race log belongs to one slice, and a start clears it (R270, log 63). -/
def State.runSlice (s : State) (b : Ready) (p : BitVec 64) (deadline budget : Nat) : State :=
  let s := s.latchReads
  { s with
    phc := p, photonic := false, wakeAt := none, shadow := [], sau := [], groups := [], descSeq := 0
    slice := some { lr := b.lr, cores := b.lr.cores, deadline := deadline, budget := budget, spent := Clock.start s.now
                    tables := s.phys.walked, walk := b.walk }
    disp := { s.disp with picked := none } }

/-- Whether the picked slice may start now. -/
def State.startDue (s : State) (saved : Bool) : Bool :=
  match s.disp.picked with
  | some b => s.dispLive && !s.power.trip && s.slice.isNone && b.saved == saved && decide (s.disp.startAt ≤ s.now)
  | none => false

/-- A picked slice whose code or images no longer translate is rejected with subcode 12 (log 24). -/
def State.startable (s : State) (b : Ready) : Bool :=
  s.mapped b.lr.ttroot b.lr.code (32 * b.lr.codewords)
  && (if b.saved then s.validSave b.lr && s.mapped b.lr.ttroot b.lr.state (512 * (1 + b.lr.cores.length * b.lr.blockSectors))
      else b.lr.live.all fun e => (rangeFrom 0 b.lr.cores.length).all fun i => s.mapped b.lr.ttroot (e.imageOf i) (512 * e.count))

def State.rejectPicked (s : State) (b : Ready) : State :=
  let s := { s with disp := { s.disp with picked := none } }
  ((s.rejectSlice b.lr b.deadline 12).walkEnds b.walk false).pick

/-- SLICE_START: code and images are loaded, and every present context starts in RUN at ENTRY with PHC = 0 and
VCYC = 0 (R288). -/
def execSliceStart (s : State) : Host.Outcome State Fault Refusal :=
  match s.disp.picked with
  | none => .fault .notEnabled
  | some b =>
    if !s.startDue false then .fault .notEnabled
    else if !s.startable b then .next (s.rejectPicked b)
    else
      let here := s
      let s := s.loads b.lr.ttroot (b.lr.imageRanges false)
      let s := { s.runSlice b 0 b.lr.deadline b.lr.budget with raceLog := [], raceDrop := 0 }
      .next ((indexed b.lr.cores).foldl (fun s p =>
        s.setCore p.1 { here.freshCore b.lr p.1 p.2 with ctxs := (here.freshCore b.lr p.1 p.2).ctxs.mapVals fun _ c => { c with issueAt := s.now } }) s)

/-! ## Resume (R305) -/

/-- A core as its block restores it: every sector IN, every valid bit 1, the layout cache invalid. -/
def State.restoreCore (s : State) (r : LaunchRec) (c i : Nat) : Core :=
  let old := s.core c
  let base := r.state + 512 * (1 + i * r.blockSectors)
  let (ist, bad) := s.loadCode r
  let loc := (r.savedSectors.zip (rangeFrom 4160 r.savedSectors.length)).foldl (fun m p =>
    m.place p.1 (s.imageSector r.ttroot (base + 512 * p.2))) ({ fixed := old.loc.fixed } : Space)
  let k : Core := { index := i, loc := loc, ist := ist, istBad := bad, vcyc := Clock.start s.now, launched := true, meown := r.meown, bka := old.bka
                    svaddr := old.svaddr
                    queues := (formQueues (fun _ => 0) 0 0 r.qmap).1 }
  let k := (rangeFrom 0 4160).foldl (fun k sec =>
    if sec < 2560 && !r.contexts.contains (sec / 640) then k
    else
      let x := (s.imageSector r.ttroot (base + 512 * sec)).1
      if 4129 ≤ sec && sec < 4133 then
        (rangeFrom 0 4).foldl (fun (k : Core) j =>
          let n := 4 * (sec - 4129) + j
          k.setQueue n ((k.queue n).ofSaved k.loc (field x (128 * j + 127) (128 * j)))) k
      else (rangeFrom 0 8).foldl (fun (k : Core) j => k.setWordAt (8 * sec + j) (wordOf x j)) k) k
  let used := k.queues.flatMap fun p => p.2.segs
  let rel := ((SMap.get? s.disp.rels r.sliceid).bind fun m => SMap.get? m c).getD ([], [])
  { k with relWords := rel.1
           relSeen := rel.2
           ctxs := k.ctxs.mapVals fun _ c => { c with issueAt := s.now }
           pool := ((rangeFrom 0 r.poolsegs).map fun j => r.poolbase + j * 2 ^ 15).filter fun a => !used.contains a }

/-- The entries that a queue of a resumed slice had drained before its save; free where the device has not saved it. -/
def State.drainedBefore (s : State) (id core n : Nat) : Nat × State :=
  match (SMap.get? s.disp.drains id).bind fun m => (SMap.get? m core).bind fun q => SMap.get? q n with
  | some x => (x, s)
  | none => s.drawNat

/-- The outbound queues of a resumed core count on from what they had drained (R148). -/
def State.resumeDrains (s : State) (id core : Nat) : State :=
  (s.core core).queues.foldl (fun s p =>
    if p.2.dir != 2 then s
    else
      let (x, s) := s.drainedBefore id core p.1
      s.modCore core fun k => k.setQueue p.1 { k.queue p.1 with drained := x, pushed := x + (k.queue p.1).avail }) s

/-- SLICE_RESUME: the saved state is restored, and every core starts in the same cycle with VCYC = 0 (R242, R305). -/
def execSliceResume (s : State) : Host.Outcome State Fault Refusal :=
  match s.disp.picked with
  | none => .fault .notEnabled
  | some b =>
    if !s.startDue true then .fault .notEnabled
    else if !s.startable b then .next (s.rejectPicked b)
    else
      let here := s
      let w (i : Nat) : Nat := ((here.deviceBits b.lr.ttroot (b.lr.state + 64 * i) 64).getD 0)
      let s := (s.loads b.lr.ttroot ((b.lr.state, 256) :: b.lr.imageRanges true)).runSlice b (BitVec.ofNat 64 (w 1)) (w 3) (w 2)
      .next ((indexed b.lr.cores).foldl (fun s p => (s.setCore p.1 (here.restoreCore b.lr p.1 p.2)).resumeDrains b.lr.sliceid p.1) s)

/-! ## Completion (R292) -/

/-- The copies of a completion: core, scratchpad sector and destination address, cores ascending. -/
def SliceRun.copies (r : SliceRun) : List (Nat × Nat × Nat) :=
  (indexed r.cores).flatMap fun p => (r.lr.live.filter (·.copyout)).flatMap fun e =>
    (rangeFrom 0 e.count).map fun k => (p.1, e.first + k, e.imageOf p.2 + 512 * k)

/-- The first page of the copy-out that may not be written. -/
def State.copyFault (s : State) (r : SliceRun) : Option Nat :=
  (r.copies.find? fun q => (s.xlate q.2.2 true).isNone).map fun q => q.2.2

/-- SLICE_COMPLETION: the live regions marked COPYOUT are written back once their pages are checked, and the record of
the end goes to the host (R292). -/
def execSliceCompletion (s : State) : Host.Outcome State Fault Refusal :=
  match s.slice with
  | none => .fault .notEnabled
  | some r =>
    if !(r.ending && s.farSettled r && !s.dbg.frozen) then .fault .notEnabled
    else
      let rec0 : Record := { rkind := 2, sliceid := r.lr.sliceid, hosttag := r.lr.hosttag, phc := s.phc.toNat
                             vcyc := s.vcycOf (r.cores.headD 0), info := s.missed r, vec := r.lr.msivec }
      match s.copyFault r with
      | some va => .next ((s.sendRecord { rec0 with rkind := 1, cause := 0x0E, addr := va }).endSlice false)
      | none =>
        let s := r.copies.foldl (fun s q =>
          let (x, bad) := s.localSector q.1 q.2.1
          (s.copied (.loc q.1) (rangeFrom (8 * q.2.1) 8)).putDevice q.2.2 x bad) s
        .next ((s.sendRecord rec0).endSlice true)

end Sys2Proof.Machine
end

