-- ==== Sys2Proof/Machine/Dispatcher.lean ====
section
/-! DEFINITION. The dispatcher's mailbox, its rings and its graphs (R289 to R294, R308, R309, R341). -/

namespace Sys2Proof.Machine

/-! ## Rings (R289, R290) -/

/-- Entries of the submission ring and slots of the completion ring; a count above 16 is taken as 16. -/
def Bar0.subSlots (b : Bar0) : Nat := 2 ^ Nat.min (field b.ringcfg.toNat 4 0) 16
def Bar0.cmpSlots (b : Bar0) : Nat := 2 ^ Nat.min (field b.ringcfg.toNat 12 8) 16

/-- MSI-X vector n is signalled. -/
def State.signal (s : State) (n : Nat) : State := { s with disp := { s.disp with msix := s.disp.msix ++ [n] } }

/-- The dispatcher looks at a value written to SUB: new entries, or an overrun (R290). -/
def State.acceptSub (s : State) (v : BitVec 32) : State :=
  let s := if (v - s.disp.taken).toNat ≤ s.bar.subSlots then { s with disp := { s.disp with written := v } }
    else s.sendRecord { cause := 0x14, rkind := 1, info := 16 }
  s.sysEvent 1

/-- MBOX_SUB_WRITE: before the dispatcher runs the write is held (R290, R342). -/
def execMboxSubWrite (v : BitVec 32) (s : State) : Host.Outcome State Fault Refusal :=
  .next (if s.bar.stage = 6 then s.acceptSub v else { s with disp := { s.disp with heldSub := some v } })

/-- MBOX_CMP_WRITE: accepted when it names no more records than the ring may hold unread (R290). -/
def State.acceptCmp (s : State) (v : BitVec 32) : State :=
  if (s.disp.recs - v).toNat ≤ s.bar.cmpSlots then { s with disp := { s.disp with cmp := v } } else s

def execMboxCmpWrite (v : BitVec 32) (s : State) : Host.Outcome State Fault Refusal := .next (s.acceptCmp v)

/-- Whether the oldest record has a free completion slot. -/
def State.recordDue (s : State) : Bool :=
  s.bar.stage == 6 && !s.disp.waitRecs.isEmpty && decide ((s.disp.recs - s.disp.cmp).toNat < s.bar.cmpSlots)

/-- RECORD_WRITE: the oldest record goes to the next completion slot, whose sector goes OUT, and its vector follows (R155,
R292, R297). -/
def execRecordWrite (s : State) : Host.Outcome State Fault Refusal :=
  match s.disp.waitRecs with
  | [] => .fault .notEnabled
  | r :: rest =>
    if !s.recordDue then .fault .notEnabled
    else
      let a := s.bar.cqbase.toNat % 2 ^ 61 + 512 * (s.disp.recs.toNat % s.bar.cmpSlots)
      let s := { s with host := (s.host.goOut (a / 512)).writeRaw a 512 r.bits, disp := { s.disp with waitRecs := rest, recs := s.disp.recs + 1 } }
      .next (s.signal r.vec)

/-! ## Submission entries (R291) -/

/-- The entry the dispatcher takes next, with its kind. -/
def State.entry (s : State) : Option (Nat × Nat) :=
  if s.dispLive && s.disp.taken != s.disp.written then
    let x := s.host.readBits (s.bar.sqbase.toNat % 2 ^ 61 + 128 * (s.disp.taken.toNat % s.bar.subSlots)) 128
    some (field x 67 64, field x 63 0)
  else none

def State.takeEntry (s : State) : State := { s with disp := { s.disp with taken := s.disp.taken + 1 } }

/-- SUBMIT_SLICE: a slice entry is taken while fewer than 1024 slices are ready (R287, R291). -/
def execSubmitSlice (s : State) : Host.Outcome State Fault Refusal :=
  match s.entry with
  | some (1, a) => if s.disp.ready.length < 1024 then .next (s.takeEntry.enqueue a none []).2 else .fault .notEnabled
  | _ => .fault .notEnabled

/-- SUBMIT_KILL: a kill acts as SLKILL with cause 0 (R291). -/
def execSubmitKill (s : State) : Host.Outcome State Fault Refusal :=
  match s.entry with
  | some (3, a) => .next (s.takeEntry.kill (a % 65536) 0).2
  | _ => .fault .notEnabled

/-- SUBMIT_IGNORED: an entry of another kind is taken and ignored (R291). -/
def execSubmitIgnored (s : State) : Host.Outcome State Fault Refusal :=
  match s.entry with
  | some (k, _) => if k = 1 || k = 2 || k = 3 then .fault .notEnabled else .next s.takeEntry
  | none => .fault .notEnabled

/-! ## Graphs (R293) -/

def nodeKind (n : BitVec 256) : Nat := field n.toNat 3 0
def nodeNext (n : BitVec 256) : Nat := field n.toNat 31 16
def nodeAlt (n : BitVec 256) : Nat := field n.toNat 47 32
def nodeRef (n : BitVec 256) : Nat := field n.toNat 127 64
def nodeMax (n : BitVec 256) : Nat := field n.toNat 159 128

/-- The nodes that a node names. -/
def nodeNames (n : BitVec 256) : List Nat :=
  (nodeNext n :: if nodeKind n = 1 then [] else [nodeAlt n]).filter (· != 0xFFFF)

/-- Whether a node by itself breaks R293. -/
def nodeBad (count base predn : Nat) (n : BitVec 256) : Bool :=
  let k := nodeKind n
  !(k == 1 || k == 2 || k == 3) || field n.toNat 255 160 != 0 || field n.toNat 63 48 != 0 || field n.toNat 15 4 != 0
  || (k == 1 && nodeAlt n != 0) || (k != 3 && nodeMax n != 0) || (k == 3 && nodeMax n == 0)
  || (nodeNames n).any (fun x => decide (count ≤ x))
  || (k != 1 && (nodeRef n % 64 != 0 || decide (nodeRef n < base) || decide (base + 512 * predn ≤ nodeRef n)))

/-- Whether loops nest more than 8 deep from node n, reached at a depth; `back` says it of node 0, which alone may be
named more than once, and `fuel` bounds the walk over the names. -/
def tooDeep (code : List (BitVec 256)) (back : Nat → Bool) : Nat → Nat → Nat → Bool
  | 0, _, _ => false
  | fuel + 1, n, depth =>
    match code[n]? with
    | none => false
    | some x =>
      let inner := if nodeKind x = 3 then depth + 1 else depth
      decide (8 < inner) || (if nodeNext x = 0 then back depth else tooDeep code back fuel (nodeNext x) depth)
      || (nodeKind x != 1 && (if nodeAlt x = 0 then back inner else tooDeep code back fuel (nodeAlt x) inner))

/-- The same from node 0, itself reached at a depth: a loop whose body comes back to it nests without bound. -/
def deepFromStart (code : List (BitVec 256)) (depth : Nat) : Bool := tooDeep code (· != depth) code.length 0 depth

/-- Whether loops of a graph nest more than 8 deep: along the walk, or in nodes that node 0 does not reach, where a loop
that comes back to itself nests without bound. Eight rounds of every node show it. -/
def nestsTooDeep (code : List (BitVec 256)) : Bool :=
  deepFromStart code 0
  || (rangeFrom 1 (code.length - 1)).any fun i => tooDeep code (deepFromStart code) (10 * code.length) i 0

/-- A graph that breaks R293, given its header and nodes. -/
def graphBad (hdr : Nat) (code : List (BitVec 256)) : Bool :=
  let n := field hdr 15 0
  let base := field hdr 127 64
  let predn := field hdr 132 128
  let named := code.flatMap nodeNames
  n == 0 || decide (4096 < n) || base % 512 != 0 || spaceOf base != 2 || predn == 0 || decide (16 < predn)
  || field hdr 63 16 != 0 || field hdr 159 133 != 0 || field hdr 511 203 != 0
  || code.any (nodeBad n base predn)
  || (rangeFrom 1 (n - 1)).any (fun i => (named.filter (· == i)).length != 1)
  || nestsTooDeep code

/-- A free number for a walk, below 16. -/
def Disp.freeWalk (d : Disp) : Option Nat := (rangeFrom 0 16).find? fun k => (SMap.get? d.walks k).isNone

/-- SUBMIT_GRAPH: a graph entry is taken while fewer than 16 graphs are walked, checked, and its walk begins at node 0
(R293, R294). -/
def execSubmitGraph (s : State) : Host.Outcome State Fault Refusal :=
  match s.entry, s.disp.freeWalk with
  | some (2, a), some k =>
    let s := s.takeEntry
    match s.deviceBits s.sysroot a 512 with
    | none => .next ((s.loads s.sysroot [(a, 512)]).rejectUnread a 14 0 0)
    | some hdr =>
      let s := s.loads s.sysroot [(a, 512 + 256 * Nat.min (field hdr 15 0) 4096)]
      let tag := field hdr 191 160
      let vec := field hdr 202 192
      let n := field hdr 15 0
      let code := if 4096 < n then none else (s.readTable s.sysroot (a + 512) n 256).map fun l => l.map fun x => BitVec.ofNat 256 x
      (match code with
      | none => .next (s.rejectUnread a 14 tag vec)
      | some code =>
        if s.power.trip || graphBad hdr code then .next (s.rejectUnread a 14 tag vec)
        else
          let w : Walk := { code := code, predBase := field hdr 127 64, predN := field hdr 132 128
                            hosttag := tag, vec := vec }
          .next { s with disp := { s.disp with walks := s.disp.walks.put k w } })
  | _, _ => .fault .notEnabled

/-! ## Walking (R294, R309) -/

/-- The walk ends, and its record is sent. -/
def State.endWalk (s : State) (k : Nat) (w : Walk) (last cause addr : Nat) (failed : Bool) : State :=
  let info := last + 2 ^ 16 * w.loopmax.toNat + 2 ^ 17 * failed.toNat
  let s := { s with disp := { s.disp with walks := s.disp.walks.del k } }
  (s.sendRecord { cause := cause, rkind := 3, hosttag := w.hosttag, addr := addr, info := info, vec := w.vec }).sysEvent 2

/-- Go on from node n to a named node; FFFFh ends the innermost body, or the walk. -/
def State.goNode (s : State) (k : Nat) (w : Walk) (n next : Nat) : State :=
  if next ≠ 0xFFFF then { s with disp := { s.disp with walks := s.disp.walks.put k { w with node := next, last := n, result := none } } }
  else match w.loops with
    | (l, _) :: _ => { s with disp := { s.disp with walks := s.disp.walks.put k { w with node := l, last := n, result := none } } }
    | [] => s.endWalk k w n 0 0 false

/-- The predicate word of a node as ALD reads it; the cause where it cannot be read. -/
def State.predicate (s : State) (a : Nat) : Except Nat Nat :=
  match s.xlNow s.sysroot a with
  | none => .error 0x0E
  | some pa => if s.phys.bad (pa / 64) then .error 0x0F else .ok (s.phys.readBits pa 64)

/-- The read of a predicate word (R342). -/
def State.readPredicate (s : State) (a : Nat) : State := s.loads s.sysroot [(a, 64)]

/-- The walk of a number, with its current node of a kind. -/
def State.walkAt (s : State) (k kind : Nat) : Option (Walk × BitVec 256) :=
  if !s.dispLive then none
  else match SMap.get? s.disp.walks k with
    | none => none
    | some w => match w.code[w.node]? with
      | some x => if nodeKind x = kind && !w.waiting then some (w, x) else none
      | none => none

/-- The predicate sectors of a walk. -/
def Walk.preds (w : Walk) : List Nat := (rangeFrom 0 w.predN).map fun i => w.predBase + 512 * i

/-- GRAPH_SLICE_NODE: the node queues its record; when the slice has ended the walk goes on, or ends where it did not
complete (R294). -/
def execGraphSliceNode (walk : Nat) (s : State) : Host.Outcome State Fault Refusal :=
  match s.walkAt walk 1 with
  | none => .fault .notEnabled
  | some (w, x) =>
    match w.result with
    | some true => .next (s.goNode walk w w.node (nodeNext x))
    | some false => .next (s.endWalk walk w w.node 0 0 true)
    | none =>
      let s1 := { s with disp := { s.disp with walks := s.disp.walks.put walk { w with waiting := true } } }
      match s1.enqueue (nodeRef x) (some walk) w.preds with
      | (.ready, s2) => .next s2
      | (.rejected, s2) => .next (s2.endWalk walk w w.node 0 0 true)
      | _ => .fault .notEnabled

/-- GRAPH_COND_NODE: NEXT when the predicate is nonzero, ALT when it is 0 (R294). -/
def execGraphCondNode (walk : Nat) (s : State) : Host.Outcome State Fault Refusal :=
  match s.walkAt walk 2 with
  | none => .fault .notEnabled
  | some (w, x) =>
    match s.predicate (nodeRef x) with
    | .error c => .next (s.endWalk walk w w.node c (nodeRef x) false)
    | .ok v => .next ((s.readPredicate (nodeRef x)).goNode walk w w.node (if v ≠ 0 then nodeNext x else nodeAlt x))

/-- GRAPH_LOOP_NODE: one more iteration of the body, or the node after the loop (R294). -/
def execGraphLoopNode (walk : Nat) (s : State) : Host.Outcome State Fault Refusal :=
  match s.walkAt walk 3 with
  | none => .fault .notEnabled
  | some (w, x) =>
    let (i, outer) := match w.loops with
      | (l, i) :: r => if l = w.node then (i, r) else (0, w.loops)
      | [] => (0, [])
    match s.predicate (nodeRef x) with
    | .error c => .next (s.endWalk walk w w.node c (nodeRef x) false)
    | .ok v =>
      let s := s.readPredicate (nodeRef x)
      if i < nodeMax x && v ≠ 0 then .next (s.goNode walk { w with loops := (w.node, i + 1) :: outer } w.node (nodeAlt x))
      else .next (s.goNode walk { w with loops := outer, loopmax := w.loopmax || (i == nodeMax x && v != 0) } w.node (nodeNext x))

end Sys2Proof.Machine
end

