-- ==== Sys2Proof/Machine/System.lean ====
section
/-! DEFINITION. Traps and the system instructions (R300 to R303): TRAP, RFT, TLBI, WFE, SPAWN, SLKILL and RESUME, the
trap queue, and the entry of a trap on a system core. -/

namespace Sys2Proof.Machine

/-! ## The instructions (R303) -/

/-- TRAP raises SOFT-TRAP with its code; the context continues after it (R300, R301, R303). -/
def execTrap (b : Reg) (s : State) : Host.Outcome State Fault Refusal :=
  issue (.trap b) s fun _ s =>
    if s.onSys then .ok (s.modCur fun c => { c with sysTraps := c.sysTraps ++ [(0x21, b.toNat)] })
    else .ok (s.raiseTrap s.origin 0x21 0 b.toNat true)

/-- RFT (R303). -/
def execRft (s : State) : Host.Outcome State Fault Refusal := issue .rft s fun _ s => .ok (s.modCur Ctx.returnTrap)

/-- TLBI marks translations to be latched again: at once when no slice runs, else at the next phase change (R303,
R307). -/
def execTlbi (a b : Reg) (s : State) : Host.Outcome State Fault Refusal :=
  issue (.tlbi a b) s fun _ s =>
    let s := if b = 0 then { s with tlbiAll := true } else { s with tlbi := s.tlbi ++ [(s.reg a).toNat % 2 ^ 57] }
    .ok (if s.slice.isSome then s else s.applyTlbi)

/-- WFE returns the pending events and clears them, or waits for one (R303). -/
def execWfe (d : Reg) (s : State) : Host.Outcome State Fault Refusal :=
  issue (.wfe d) s fun _ s =>
    let e := s.curCore.events
    if e = 0 then .error .event
    else .ok ((s.modCurCore fun k => { k with events := 0 }).result d (e.setWidth 64) 1)

/-- What SPAWN does (R303). -/
def State.spawnWord (s : State) (d a : Reg) : Except Stop State :=
  match s.queueRecord (s.reg a).toNat none [] with
  | (.ready, t) => .ok (t.result d 0 1)
  | (.rejected, t) => .ok (t.result d 1 1)
  | (.full, t) => .ok (t.result d 2 1)
  | (.unlinked, _) => .error (.trap 0x22 0 (2 ^ 63))

/-- SPAWN: 0 queued, 1 rejected, 2 with 1024 slices ready; with every linked segment full it takes QUEUE-OVERFLOW and
has no effect (R303). -/
def execSpawn (d a : Reg) (s : State) : Host.Outcome State Fault Refusal :=
  issue (.spawn d a) s fun _ s => s.spawnWord d a

/-- SLKILL: 1 when the slice was running or ready, 0 when there is none (R303). -/
def execSlkill (d a b : Reg) (s : State) : Host.Outcome State Fault Refusal :=
  issue (.slkill d a b) s fun _ s =>
    let (found, t) := s.kill (s.reg a).toNat (s.reg b).toNat
    .ok (t.result d (BitVec.ofNat 64 found.toNat) 1)

/-! ## Clocks that a halt holds (R296, R313) -/

/-- Let every clock of the slice run or stand as its halts say. -/
def State.fixClocks (s : State) : State :=
  match s.slice with
  | none => s
  | some r =>
    let halted := s.sliceHalted
    let go (c : Clock) (on : Bool) : Clock := if halted || !on then c.hold s.now else c.go s.now
    let s := { s with slice := some { r with hg := go r.hg r.hgOn, spent := go r.spent (!r.chosen && !r.preempt && !r.ending) } }
    r.cores.foldl State.fixVcyc s

/-- A context runs again after a halt: its turnaround goes on, and a phase change that waited counts its 32 cycles from
here (R170, R235, R315). -/
def State.unhalt (s : State) (core ctx : Nat) : State :=
  let s := s.modCtx core ctx fun c =>
    ({ c with halted := false, stalled := false, issueAt := Nat.max c.issueAt s.now } : Ctx).resumeTurns s.now
  let s := s.fixClocks
  if s.sliceHalted then s
  else { s with slice := s.slice.map fun r => { r with arrivedAt := r.arrivedAt.map fun _ => s.now } }

/-! ## RESUME (R150, R303) -/

/-- Take the trap records that a condition picks out of the dispatcher's queue. -/
def State.dropTraps (s : State) (f : Record → Bool) : State :=
  let told := s.disp.trapq.take s.disp.told
  { s with disp := { s.disp with trapq := s.disp.trapq.filter fun r => !f r
                                 trapWait := s.disp.trapWait.filter fun r => !f r
                                 told := (told.filter fun r => !f r).length } }

/-- Whether a trap record is of a context that it stopped or that a halt stopped: BREAKPOINT, SOFT-TRAP, an outbound
QUEUE-OVERFLOW, DEBUG-HALT (R300, R312). -/
def Record.stops (r : Record) : Bool :=
  r.cause == 0x20 || r.cause == 0x21 || r.cause == 0x25 || (r.cause == 0x22 && r.info.testBit 8)

/-- A context that a trap or a halt stopped continues: RESUME clears either, and the records that told of them go (R303,
R315). -/
def State.resumeCtx (s : State) (core ctx : Nat) : State :=
  let c := s.ctx core ctx
  if !c.trapped && !c.halted then s
  else
    let s := s.dropTraps fun r => r.rkind == 5 && r.core == core && r.ctx == ctx && r.stops
    let s := if c.halted then s.unhalt core ctx else s
    if c.trapped then
      s.modCtx core ctx fun c => ({ c with trapped := false, stalled := false, issueAt := Nat.max c.issueAt s.now } : Ctx).resumeTurns s.now
    else s

/-- What RESUME does (R150, R303). -/
def State.resumeWord (s : State) (a b : Reg) : Except Stop State := do
  let x := (s.reg a).toNat
  let core := field x 9 0
  let ctx := field x 11 10
  let q := field x 19 16
  let seg := (s.reg b).toNat
  let fill := field x 12 12 == 1
  let c := s.ctx core ctx
  if !s.inSlice core || (!fill && !c.trapped && !c.halted) then .ok s
  else
    failIf (seg != 0 && !(s.core core).pool.contains seg) Exc.operand
    let s := if seg = 0 then s else (s.copied (.loc core) ((s.core core).movedWords q)).modCore core fun k => k.linkSegment q seg
    if fill then
      .ok (((s.modCore core fun k => k.setQueue q { k.queue q with full := false }).wake core).dropTraps
        fun r => r.rkind == 5 && r.core == core && r.cause == 0x22 && r.info == q)
    else .ok ((s.resumeCtx core ctx).wake core)

/-- RESUME (R303): with a segment, it is linked after the queue's tail segment first. A context that nothing has
stopped takes no effect. -/
def execResume (a b : Reg) (s : State) : Host.Outcome State Fault Refusal :=
  issue (.resume a b) s fun _ s => s.resumeWord a b

/-! ## The trap queue (R300) and the entry of a trap (R301) -/

/-- The lowest of the 64 places of the trap queue that holds no record. -/
def Disp.freeTrap (d : Disp) : Nat := ((rangeFrom 0 64).find? fun n => !d.trapq.any fun r => r.place == n).getD 0

/-- A record enters the trap queue and stands in its place in DEVICE space (R300, R301). -/
def State.putTrap (s : State) (r : Record) : State :=
  let r := { r with place := s.disp.freeTrap }
  { s with disp := { s.disp with trapq := s.disp.trapq ++ [r] } }.putSystem (trapRecordAddr r.place) 512 r.bits

/-- An overflow that finds the pool exhausted: the dispatcher aborts the slice with QUEUE (R150, R303). -/
def State.abortExhausted (s : State) (r : Record) : State :=
  match s.slice with
  | some run =>
    if r.cause == 0x22 && r.sliceid == run.lr.sliceid && (s.core r.core).pool.isEmpty then s.killRunning run 0x13 0 else s
  | none => s

/-- TRAP_RECORD_ENQUEUE: the oldest waiting record enters the queue while it holds fewer than 64 (R300). The dispatcher
takes a QUEUE-OVERFLOW with no segment left as the end of the slice (R150). -/
def execTrapRecordEnqueue (s : State) : Host.Outcome State Fault Refusal :=
  match leastBy Record.key s.disp.trapWait with
  | some r =>
    if s.disp.trapq.length < 64 then
      .next (({ s with disp := { s.disp with trapWait := s.disp.trapWait.erase r } }.putTrap r).abortExhausted r)
    else .fault .notEnabled
  | none => .fault .notEnabled

/-- The trap that a system core takes next: one of its own first, then, on the dispatcher's core, the oldest record of
the trap queue that it has not been told of. -/
def State.nextTrap (s : State) (sys : Nat) : Option (Nat × Nat × Bool) :=
  match (s.ctx (sysCore sys) 0).sysTraps with
  | (c, i) :: _ => some (c, i, true)
  | [] =>
    if sys = 0 then
      (match s.disp.trapq[s.disp.told]? with
      | some r => some (r.cause, trapRecordAddr r.place, false)
      | none => none)
    else none

/-- Whether a system core stands at a boundary at which it takes a trap. -/
def State.trapBoundary (s : State) (sys : Nat) : Bool :=
  let c := s.ctx (sysCore sys) 0
  (s.core (sysCore sys)).sysRun && !c.inh && c.span.isNone && (c.cv.isNone || c.stalled) && c.st == .run && !c.exiting

/-- SYSTEM_TRAP_ENTRY (R301): a convoy that waits is issued again after the return. -/
def execSystemTrapEntry (sys : Nat) (s : State) : Host.Outcome State Fault Refusal :=
  if !(sys < 8 && s.trapBoundary sys) then .fault .notEnabled
  else
    match s.nextTrap sys with
    | none => .fault .notEnabled
    | some (cause, info, own) =>
      let s := s.modCtx (sysCore sys) 0 fun c =>
        let c : Ctx := { c with pc := match c.cv with | some v => v.head | none => c.pc
                                sysTraps := if own then c.sysTraps.drop 1 else c.sysTraps
                                issueAt := Nat.max c.issueAt s.now }
        c.takeTrap cause info
      .next (if own then s else { s with disp := { s.disp with told := s.disp.told + 1 } })

end Sys2Proof.Machine
end

