-- ==== Sys2Proof/Machine/DebugOps.lean ====
section
/-! DEFINITION. The debug unit (R310 to R322): BRK, SMPL and DMARK, halts, the view of a halted core and the trace
buffer. -/

namespace Sys2Proof.Machine

/-! ## The DBG instructions (R318) -/

/-- BRK: BREAKPOINT, or with BRKH a halt at the boundary after it. -/
def execBrk (b : Reg) (s : State) : Host.Outcome State Fault Refusal :=
  issue (.brk b) s fun _ s =>
    if s.onSys then .ok (s.modCur fun c => { c with sysTraps := c.sysTraps ++ [(0x20, b.toNat)] })
    else if s.dbg.brkh then .ok (if s.dbg.en then s.modCur fun c => { c with haltReq := some (c.haltReq.getD .brk) } else s)
    else .ok (s.raiseTrap s.origin 0x20 s.origin.head b.toNat true)

/-- SMPL arms a sample of the next VMEM convoy; inside a span the request waits for the closure (R119). -/
def execSmpl (b : Reg) (s : State) : Host.Outcome State Fault Refusal :=
  issue (.smpl b) s fun _ s =>
    .ok (s.modCur fun c => if c.span.isSome then { c with heldSmpl := some b.toNat } else { c with smpl := some b.toNat })

/-- The marker record that carries a value (R320). -/
def State.marker (s : State) (x : Word) : TraceRec :=
  let o := s.origin
  traceRec s.dtime.toNat (s.vcycOf o.core) o.phc 0 (field x.toNat 63 32) (field x.toNat 31 16) (field x.toNat 15 0) 0 0 0
    o.members o.ctx o.core o.head 0 3

/-- DMARK writes a marker record that carries g[A]. -/
def execDmark (a : Reg) (s : State) : Host.Outcome State Fault Refusal :=
  issue (.dmark a) s fun _ s => .ok (if s.cur.span.isSome then s.modCur fun c => { c with heldTrace := c.heldTrace ++ [s.marker (s.reg a)] } else s.trace (s.marker (s.reg a)))

/-! ## Halts (R312 to R315) -/

/-- Whether a halt of a context can be requested. -/
def State.haltable (s : State) (core ctx : Nat) : Bool :=
  let c := s.ctx core ctx
  s.inSlice core && c.st != .absent && c.st != .exited && !c.exiting && !c.aborted && !c.halted && c.haltReq.isNone

/-- A request for a halt. -/
def State.requestHalt (s : State) (core ctx : Nat) (src : HaltSrc) : State :=
  if s.haltable core ctx then s.modCtx core ctx fun c => { c with haltReq := some src } else s

/-- HCTL_HALT_REQUEST: a write of 1 to a bit of HCTL; ignored while EN = 0 (R310, R312). -/
def execHctlHaltRequest (core ctx : Nat) (s : State) : Host.Outcome State Fault Refusal :=
  .next (if s.dbg.en then s.requestHalt core ctx .hctl else s)

/-- A write of 0 to a bit that reads 1: a request is cancelled, a halted context runs again (R314, R315). -/
def State.release (s : State) (core ctx : Nat) : State :=
  let c := s.ctx core ctx
  if c.halted then (s.unhalt core ctx).wake core
  else s.modCtx core ctx fun c => { c with haltReq := none }

/-- HCTL_RELEASE (R315). -/
def execHctlRelease (core ctx : Nat) (s : State) : Host.Outcome State Fault Refusal := .next (s.release core ctx)

/-- Whether the next word of a context is one of the waits before which a halt lands at once (R314). -/
def State.waitsAt (s : State) (core ctx : Nat) : Bool :=
  match fetchInstr (SMap.get 0 (s.core core).ist ((s.ctx core ctx).pc / 32)) with
  | .qwait _ _ | .twait | .mwait | .cbwait _ => true
  | _ => false

/-- Whether a request lands now: at a boundary outside a span, with every pushed convoy retired and every load landed. -/
def State.haltDue (s : State) (core ctx : Nat) : Bool :=
  let c := s.ctx core ctx
  s.inSlice core && !s.dbg.frozen && c.haltReq.isSome && !c.halted && !c.aborted && !c.exiting
  && (c.st == .run || c.st == .arrived || c.st == .released)
  && (c.cv.isNone || (c.stalled && s.waitsAt core ctx)) && c.span.isNone && c.vq.isEmpty && !(c.land.any (·.load))

/-- The source in INFO of a DEBUG-HALT record (R312). -/
def HaltSrc.info (h : HaltSrc) : Nat :=
  match h with | .hctl => 1 | .comparator i => 2 + 256 * i | .brk => 3 | .allstop => 4

/-- A halt lands at a boundary whose next convoy comparators name: they match there too, and a BREAKPOINT comes first (R311,
R314, log 94). -/
def State.headBreaks (s : State) (o : Origin) : State :=
  let c := s.ctx o.core o.ctx
  let t := { s with focusCore := o.core, focusCtx := o.ctx }
  let m := if c.cv.isSome || c.bkPass || c.trapped then 0 else t.matches o.head
  if m = 0 then s else { t.breakAt m o with focusCore := s.focusCore, focusCtx := s.focusCtx }

/-- HALT_LANDING: the context is halted; a record goes to the trap queue and a trace record to the buffer; ALLSTOP asks
every other context of the slice to halt (R310, R312, R313, R320). -/
def execHaltLanding (core ctx : Nat) (s : State) : Host.Outcome State Fault Refusal :=
  if !s.haltDue core ctx then .fault .notEnabled
  else
    let c := s.ctx core ctx
    let head := match c.cv with | some v => v.head | none => c.pc
    let n := s.membersAt core ctx head
    let o : Origin := { core := core, ctx := ctx, head := head, members := n, phc := s.phc.toNat }
    let s := (s.headBreaks o).modCtx core ctx fun c =>
      { c.holdTurns with halted := true, haltReq := none, bkm := c.bkHeld, bkHeld := 0, pc := head, cv := none, stalled := false, qstall := false }
    let s := s.raiseTrap o 0x25 head (c.haltReq.getD .hctl).info false
    let s := s.trace (traceRec s.dtime.toNat (s.vcycOf core) s.phc.toNat 0 0 0 0 0 0 0 n ctx core head 0 4)
    let s := if s.dbg.allstop && s.dbg.en then
        s.sliceCores.foldl (fun s k => (rangeFrom 0 4).foldl (fun s x => s.requestHalt k x .allstop) s) s
      else s
    .next s.fixClocks

/-! ## Status (R310) -/

/-- HST of a context. -/
def Ctx.hst (c : Ctx) : Nat :=
  if c.aborted then 6 else if c.st = .exited then 5
  else if c.halted then (if c.trapped then 4 else 2)
  else if c.trapped then 3 else if c.haltReq.isSome then 1 else 0

/-- DBGST of a context. -/
def Ctx.dbgst (c : Ctx) : Nat :=
  let head := match c.cv with | some v => v.head | none => c.pc
  c.hst + 2 ^ 3 * c.span.isSome.toNat + 2 ^ 4 * c.st.code + 2 ^ 8 * (head % 2 ^ 20) + 2 ^ 32 * c.bkm.toNat

/-- HCTL of a core: a bit reads 1 from the request until the release. -/
def Core.hctl (k : Core) : Nat :=
  (rangeFrom 0 4).foldl (fun n x => if (k.ctx x).halted || (k.ctx x).haltReq.isSome then n + 2 ^ x else n) 0

/-! ## The view of a core (R316, R317) -/

/-- Whether a context's part may be read. -/
def Ctx.open (c : Ctx) : Bool := c.halted || c.aborted

/-- Whether a context is halted: HST is 2 or 4 (R316). -/
def Ctx.stopped (c : Ctx) : Bool := c.halted && !c.aborted

/-- Whether a word of the core block may be read: the matrix part while its owner is halted. -/
def State.blockOpen (s : State) (core w : Nat) : Bool :=
  let k := s.core core
  let sec := w / 8
  if sec < 2560 then (k.ctx (sec / 640)).open
  else if sec < 4097 then (k.ctx k.meown).stopped
  else true

/-- Whether the scratchpad may be read: every context is halted, exited or absent. -/
def Core.localOpen (k : Core) : Bool := k.ctxs.all fun p => p.2.stopped || p.2.st == .exited || p.2.st == .absent

/-- Words of the three parts of the view. -/
def viewBlock : Nat := 4160 * 8
def viewLocal : Nat := viewBlock + 16384 * 8
def viewEnd : Nat := viewLocal + 2 ^ 14

/-- Word w of the view. Planes that a fault left undefined (R226), and what lies beyond the view, where the spec states no
content, are free. -/
def State.view (s : State) (core w : Nat) : Nat × State :=
  let k := s.core core
  if w < viewBlock then
    (if s.blockOpen core w && k.me.undef && 2561 ≤ w / 8 && w / 8 < 4097 && !k.me.known.contains w then
      let (x, s) := s.drawWord; (x.toNat, s)
    else (if s.blockOpen core w then s.coreWord core w else 2 ^ 64 - 1, s))
  else if w < viewLocal then
    (if k.localOpen then (k.loc.readBits (64 * (w - viewBlock)) 64, s.copied (.loc core) [w - viewBlock]) else (2 ^ 64 - 1, s))
  else if w < viewEnd then
    let i := 2 * (w - viewLocal)
    ((SMap.get 0 k.ist i).toNat + 2 ^ 32 * (SMap.get 0 k.ist (i + 1)).toNat, s)
  else let (x, s) := s.drawWord; (x.toNat, s)

/-- The facing of 64 sectors takes a value: a bit is 1 for a sector that is IN, until a write on its way reaches it. -/
def Space.setFacing (m : Space) (now first x : Nat) : Space :=
  (rangeFrom 0 64).foldl (fun m j =>
    let sec := first + j
    if !x.testBit j then m.goOut sec
    else if m.isIn sec now then m
    else match m.nextLate sec now with
      | some w => m.goInUntil sec 15 4 now w
      | none => m.goIn sec 15 4) m

/-- Barrier state of a context takes a value: the masks, and its arrivals (R304). -/
def Core.setBars (k : Core) (x v : Nat) : Core :=
  (rangeFrom 0 4).foldl (fun k b =>
    let r := SMap.get {} k.bars b
    let bit : BitVec 4 := BitVec.ofNat 4 (2 ^ x)
    let r := { r with mask := BitVec.ofNat 4 (field v (4 * b + 3) (4 * b)) }
    let held := r.pending.getLsbD x || r.effect.getLsbD x
    { k with bars := k.bars.put b (
        if field v (16 + b) (16 + b) = 0 then { r with pending := r.pending &&& ~~~bit, effect := r.effect &&& ~~~bit, due := r.due.del x }
        else if held then r else { r with effect := r.effect ||| bit }) }) k

/-- The arrival entry of a core takes a value: its arrived contexts and its own arrival. The bits that show turnarounds,
transfers and drains read as written until the next superstep; what they stand for goes on (log 79). -/
def Core.setArrival (k : Core) (v : Nat) : Core :=
  { k with arrived := field v 7 7 == 1, entrySet := some (field v 6 4)
           ctxs := k.ctxs.mapVals fun x c => if c.st == .absent || c.st == .exited then c else { c with parrEff := field v x x == 1 } }

/-- Write word w of the view: what may not be read, and status words 0 to 2, keep their values (R317, log 79). -/
def State.setView (s : State) (core w x : Nat) : State :=
  let k := s.core core
  let sec := w / 8
  let i := w % 5120
  if w < viewBlock then
    (if !s.blockOpen core w then s
     else if sec < 2560 then
       (if i < 3 then s
        else if i = 15 then s.setCore core (k.setBars (sec / 640) x)
        else if i = 28 then s.setCore core (k.setArrival x)
        else if i = 29 then
          (if s.inSlice core then { s with slice := s.slice.map fun r => { r with hg := { r.hg with base := s.now, val := x } } }
           else s.setCore core { k with hgLeft := x })
        else s.setCore core (k.setWordAt w x))
     else if 4097 ≤ sec && sec < 4129 then s.setCore core { k with loc := k.loc.setFacing s.now (64 * (w - 4097 * 8)) x }
     else if sec < 4097 then
       (let k := k.setWordAt w x
        let k : Core :=
          if sec < 3585 then k
          else if sec < 3841 then { k with me := k.me.keepCells 0 s.now (2 * (w - 3585 * 8)) }
          else { k with me := k.me.keepCells 1 s.now (2 * (w - 3841 * 8)) }
        s.setCore core { k with me := { k.me with known := if k.me.undef then NSet.add k.me.known w else [] } })
     else s.setCore core (k.setWordAt w x))
  else if w < viewLocal then
    (if k.localOpen then s.setCore core { k with loc := k.loc.writeRaw (64 * (w - viewBlock)) 64 x } else s)
  else if w < viewEnd then
    let i := 2 * (w - viewLocal)
    s.setCore core { k with ist := SMap.set 0 (SMap.set 0 k.ist i (BitVec.ofNat 32 x)) (i + 1) (BitVec.ofNat 32 (x / 2 ^ 32))
                            istBad := NSet.del (NSet.del k.istBad i) (i + 1) }
  else s

/-- The next word of the view. -/
def State.stepView (s : State) (core : Nat) : State := s.modCore core fun k => { k with svaddr := (k.svaddr + 64) % 2 ^ 64 }

/-- SVDATA_READ: the word at SVADDR, which then moves on (R316). -/
def execSvdataRead (core : Nat) (s : State) : Host.Outcome State Fault Refusal :=
  let (x, s) := s.view core ((s.core core).svaddr / 64)
  .next ({ s with dbg := { s.dbg with svread := BitVec.ofNat 64 x } }.stepView core)

/-- SVDATA_WRITE (R317). -/
def execSvdataWrite (core : Nat) (v : Word) (s : State) : Host.Outcome State Fault Refusal :=
  .next ((s.setView core ((s.core core).svaddr / 64) v.toNat).stepView core)

/-! ## The trace buffer (R321, R322) -/

/-- A waiting trace record enters the ring; a full buffer drops it when TBSTOP is 1. No sector goes OUT (R322). -/
def State.putTrace (s : State) (r : TraceRec) : State :=
  let size := s.dbg.tbsize.toNat
  let s := { s with dbg := { s.dbg with waiting := s.dbg.waiting.erase r } }
  if size = 0 || (s.dbg.tbstop && size ≤ s.dbg.tbwp) then
    { s with dbg := { s.dbg with tbdrop := Nat.min (s.dbg.tbdrop + 1) (2 ^ 32 - 1) } }
  else
    let a := s.dbg.tbbase.toNat + 256 * (s.dbg.tbwp % size)
    { s with phys := s.phys.writeRaw a 256 r.toNat, dbg := { s.dbg with tbwp := s.dbg.tbwp + 1 } }

/-- TRACE_RECORD: the oldest record enters the ring (R321, R322). -/
def execTraceRecord (s : State) : Host.Outcome State Fault Refusal :=
  match leastBy traceKey s.dbg.waiting with
  | none => .fault .notEnabled
  | some r => .next (s.putTrace r)

/-- TBWP_WRITE: a write of 0 starts a fresh fill. -/
def execTbwpWrite (s : State) : Host.Outcome State Fault Refusal := .next { s with dbg := { s.dbg with tbwp := 0 } }

end Sys2Proof.Machine
end

