-- ==== Sys2Proof/Machine/Dump.lean ====
section
/-! DEFINITION. A panic: the freeze of the device and the dump (R323, R324). -/

namespace Sys2Proof.Machine

/-! ## The freeze of a panic (R323) -/

/-- Whether every request of the panic has landed. -/
def State.allLanded (s : State) : Bool :=
  s.sliceCores.all fun c => (s.core c).ctxs.all fun p => p.2.halted || p.2.aborted || p.2.st == .exited || p.2.st == .absent

/-- The crash kernel as it stands in the last 2^20 bits of slice 63. -/
def State.crashKernel (s : State) : SMap (BitVec 32) :=
  let base := 2 ^ 44 + 63 * 2 ^ 27 + (2 ^ 27 - 2 ^ 20)
  (rangeFrom 0 32768).foldl (fun m w => SMap.set 0 m w (BitVec.ofNat 32 (s.phys.readBits (base + 32 * w) 32))) []

/-- Whether every matrix command that has started has completed (R227). -/
def State.enginesDone (s : State) : Bool := s.sliceCores.all fun c => (s.core c).me.running.isEmpty

/-- Whether the panic freezes the device now: every halt has landed and the started matrix commands have completed, or
20000 cycles have passed. -/
def State.freezeDue (s : State) : Bool :=
  s.dbg.panic.isSome && !s.dbg.frozen && ((s.allLanded && s.enginesDone) || decide (s.dbg.panicAt + 20000 ≤ s.now))

/-- The records still on their way to the trap queue and the trace buffer come there before the dump (R300, R321). -/
def State.settleRecords (s : State) : State :=
  let s := (List.range s.disp.trapWait.length).foldl (fun s _ =>
    match leastBy Record.key s.disp.trapWait with
    | some r => if s.disp.trapq.length < 64 then { s with disp := { s.disp with trapWait := s.disp.trapWait.erase r } }.putTrap r else s
    | none => s) s
  (List.range s.dbg.waiting.length).foldl (fun s _ => match leastBy traceKey s.dbg.waiting with
    | some r => s.putTrace r
    | none => s) s

/-! ## The dump (R324) -/

/-- Words of a block of 4096 bytes. -/
def blockWords : Nat := 512

/-- Word w of the dump, counted from the block DUMPLBA. -/
def State.dumpWord (s : State) (w x : Nat) : State :=
  { s with nvme := s.nvme.setBytes (4096 * s.bar.dumplba.toNat + 8 * w) 8 x }

/-- n words from a block on. -/
def State.dumpWords (s : State) (block n : Nat) (f : Nat → Nat) : State :=
  (rangeFrom 0 n).foldl (fun s i => s.dumpWord (blockWords * block + i) (f i)) s

/-- A compute core through the view of R316: its block, its scratchpad and its instruction store. -/
def State.dumpCore (s : State) (block core : Nat) : State :=
  (rangeFrom 0 viewEnd).foldl (fun s i => let (x, s) := s.view core i; s.dumpWord (blockWords * block + i) x) s

/-- The trap queue as 64 records in their places. -/
def Disp.trapWords (d : Disp) (w : Nat) : Nat :=
  match d.trapq.find? fun r => r.place == w / 8 with | some r => wordOf r.bits (w % 8) | none => 0

/-- The race log as 1024 entries of two words. -/
def State.raceWords (s : State) (w : Nat) : Nat :=
  match s.raceLog[w / 2]? with | some e => wordOf e.toNat (w % 2) | none => 0

/-- The cores of the clusters of the running slice. -/
def State.dumpCores (s : State) : List Nat := (rangeFrom 0 1024).filter fun c => field s.lr.clmask (c / 64) (c / 64) == 1

/-- The header: its words 0 to 8. -/
def State.dumpHeader (s : State) (cores blocks : Nat) (w : Nat) : Nat :=
  match w with
  | 0 => 0x4F56444D + 2 ^ 32
  | 1 => ident.toNat
  | 2 => (BitVec.ofNat 64 s.dbg.panicAt + s.dtoff).toNat
  | 3 => (match s.dbg.panic with | some r => wordOf r.bits 0 | none => 0)
  | 4 => (match s.slice with | some r => r.lr.sliceid | none => 0xFFFF)
  | 5 => s.phc.toNat
  | 6 => cores
  | 7 => blocks
  | 8 => 1
  | _ => 0

/-- The whole dump; the header is written last. -/
def State.dump (s : State) : State :=
  let here := s
  let s := (rangeFrom 0 8).foldl (fun s k =>
    s.dumpWords (1 + 2 * k) (2 * blockWords) fun w => if w < 560 then here.ctxWord (sysCore k) 0 w else 0) s
  let s := s.dumpWords 17 (4 * blockWords) here.raceWords
  let s := s.dumpWords 21 blockWords fun w => if w = 0 then here.raceDrop else 0
  let s := s.dumpWords 22 blockWords here.disp.trapWords
  let trace := ceilDiv (4 * s.dbg.tbsize.toNat) blockWords
  let s := s.dumpWords 23 (trace * blockWords) fun w =>
    if w < 4 * here.dbg.tbsize.toNat then here.phys.readBits (here.dbg.tbbase.toNat + 64 * w) 64 else 0
  let cores := s.dumpCores
  let per := viewEnd / blockWords
  let s := (cores.zip (rangeFrom 0 cores.length)).foldl (fun s p => s.dumpCore (23 + trace + per * p.2) p.1) s
  s.dumpWords 0 blockWords (s.dumpHeader cores.length (23 + trace + per * cores.length))

/-- The crash kernel writes its dump, when there is a drive for it (R323, R345, log 16). -/
def State.writeDump (s : State) : State :=
  let d := s.dump
  { s with nvme := if Config.driveOk then d.nvme else s.nvme, free := if Config.driveOk then d.free else s.free }

/-- A register of which some element groups are still to be written: they hold what they held before. -/
def BitVec.unwritten (now : Nat) (valid : List Nat) (old new : BitVec 2048) : BitVec 2048 :=
  BitVec.ofNat 2048 ((enumFrom 0 valid).foldl (fun x q =>
    if now < q.2 then setField x (256 * q.1) 256 (field old.toNat (256 * q.1 + 255) (256 * q.1)) else x) new.toNat)

/-- A mask of which some bits are still to be written. -/
def BitVec.unmasked (now : Nat) (lands : List (Nat × Nat × Nat)) (old new : BitVec 2048) : BitVec 2048 :=
  BitVec.ofNat 2048 (lands.foldl (fun x q =>
    if now < q.2.2 then setField x q.1 (q.2.1 - q.1) (field old.toNat (q.2.1 - 1) q.1) else x) new.toNat)

/-- A context where it stands: the convoys that have not retired have written what is valid by now (R40, R323, log 7). -/
def Ctx.standing (c : Ctx) (now : Nat) : Ctx :=
  let t := (c.vq.foldr (fun (q : VConvoy) (a : Ctx × SMap (List Nat) × SMap (List (Nat × Nat × Nat))) =>
    let t := a.1
    ({ t with
        v := q.undo.v.foldl (fun v p => SMap.set 0 v p.1 (BitVec.unwritten now (SMap.get [] a.2.1 p.1) p.2 (SMap.get 0 v p.1))) t.v
        tags := if q.started = 0 then SMap.over 0 t.tags q.undo.tags else t.tags
        m := q.undo.m.foldl (fun m p => SMap.set (BitVec.allOnes 2048) m p.1
          (BitVec.unmasked now (SMap.get [] a.2.2 p.1) p.2 (SMap.get (BitVec.allOnes 2048) m p.1))) t.m
        k := if now < q.retire then SMap.over 0 t.k q.undo.k else t.k }, q.sched.vvalid, q.sched.mland)) (c, c.vvalid, c.mland)).1
  { t with vq := [], land := [], checks := [] }

/-- Whether a context has not landed when the panic freezes the device. -/
def Ctx.freezes (t : Ctx) : Bool := !(t.halted || t.aborted || t.st == .exited || t.st == .absent)

/-- A core at the freeze: contexts that have not landed stand where they are, and what has not reached its bank is dropped. -/
def Core.freeze (k : Core) (now : Nat) : Core :=
  let k := if k.ctxs.any fun p => p.2.freezes then { (k.unpush now).unpop.dropLate now with banks := [] } else k
  { k with ctxs := k.ctxs.mapVals fun _ t => if t.freezes then { t.standing now with aborted := true, frozen := true } else t }

/-- PANIC_FREEZE: contexts that have not landed are frozen, and system core 7 runs the crash kernel, privileged, from
word 0 with traps inhibited; the dump stands on the drive. -/
def execPanicFreeze (s : State) : Host.Outcome State Fault Refusal :=
  if !s.freezeDue then .fault .notEnabled
  else
    let s := { s with
      cores := s.cores.mapVals fun c k => if 1024 ≤ c then k else k.freeze s.now
      dbg := { s.dbg with frozen := true } }.settleRecords
    .next (s.writeDump.modCore (sysCore 7) fun k =>
      { k with ist := s.crashKernel, istBad := [], sysRun := true
               ctxs := SMap.put k.ctxs 0 { st := .run, priv := true, inh := true, issueAt := s.now } })

end Sys2Proof.Machine
end

