-- ==== Sys2Proof/Machine/Device.lean ====
section
/-! DEFINITION. The host's side of the device (R310, R341 to R343, R347, R354 to R358): register writes, the host
window, bring-up, power, the security core and the patrol scrub; and the word that is no instruction (R53). -/

namespace Sys2Proof.Machine

/-! ## A word that is no instruction (R37, R53, R54) -/

/-- NOT_AN_INSTRUCTION: the checks before issue raise ILLEGAL-OP, or ILLEGAL-OPERAND for a form of a vector opcode that
is not listed; nothing else happens. -/
def execNotAnInstruction (w : IWord) (s : State) : Host.Outcome State Fault Refusal :=
  issue (.notAnInstruction w) s fun _ _ => fail Exc.op

/-! ## Security core (R356 to R358) -/

/-- A command starts, unless one is running: then ERR reads 2 and the new one is dropped. Its time is free. -/
def State.scStart (s : State) (cmd : Word) (err len : Nat) (result : Nat) (f : Sec → Sec) : State :=
  if s.sec.busy then { s with sec := { s.sec with err := 2 } }
  else
    let (n, s) := s.drawNat
    { s with sec := f { s.sec with cmd := cmd, busy := true, resultErr := err, resultLen := len, result := result, due := s.now + 1 + n } }

/-- Bytes f 0 to f (n − 1) as one number. -/
def bytesOf (f : Nat → BitVec 8) (n : Nat) : Nat := (rangeFrom 0 n).foldr (fun i acc => (f i).toNat + 256 * acc) 0

/-- SC_READ_PUBLIC_KEY: 68 bytes. -/
def execScReadPublicKey (s : State) : Host.Outcome State Fault Refusal :=
  .next (s.scStart 1 0 68 (bytesOf Config.publicKey 68) id)

/-- The index of the next signature. -/
def Sec.index (x : Sec) : Nat := 2 ^ 20 - x.left

/-- SC_READ_SIGNATURE_INDEX: the index as 4 bytes, least significant first. -/
def execScReadSignatureIndex (s : State) : Host.Outcome State Fault Refusal :=
  .next (s.scStart 3 0 4 s.sec.index id)

/-- The attestation report (R358). -/
def State.report (s : State) : Nat :=
  s.sec.buf.bytes 0 32 + 2 ^ 256 * ident.toNat + 2 ^ 320 * (field s.bar.modnum.toNat 11 0) + 2 ^ 336 * s.sec.index
  + 2 ^ 384 * bytesOf Config.scerathDigest 32 + 2 ^ 640 * bytesOf Config.crashDigest 32

/-- SC_ATTEST: the index advances before the signature is released; with none left the command ends with ERR 3. -/
def execScAttest (s : State) : Host.Outcome State Fault Refusal :=
  if s.sec.left = 0 then .next (s.scStart 2 3 0 0 id)
  else
    let r := s.report
    .next (s.scStart 2 0 2948 (r + 2 ^ 1024 * bytesOf (Config.signature s.sec.index r) 2820) fun x => { x with left := x.left - 1 })

/-- SC_UNKNOWN_COMMAND: a command of another code ends with ERR 1; the reserved bits read 0 (R5). -/
def execScUnknownCommand (v : Word) (s : State) : Host.Outcome State Fault Refusal := .next (s.scStart (v &&& 0xFF) 1 0 0 id)

/-- SC_COMMAND_DONE: BUSY clears, the result stands in SCBUF, and vector 0 is raised. -/
def execScCommandDone (s : State) : Host.Outcome State Fault Refusal :=
  if s.sec.busy && decide (s.sec.due ≤ s.now) then
    .next (State.signal { s with sec := { s.sec with busy := false, err := s.sec.resultErr
                                                     buf := s.sec.buf.setBytes 0 s.sec.resultLen s.sec.result
                                                     result := 0, resultLen := 0, resultErr := 0 } } 0)
  else .fault .notEnabled

/-- A write to SCCMD; its reserved bits are ignored (R5). A host write comes before what the device does in its cycle, so
of a host write and one of Scerath in one cycle the host's starts (R357, log 66). -/
def State.scCommand (s : State) (v : Word) : Host.Outcome State Fault Refusal :=
  let v := v &&& 0xFF
  match v.toNat with
  | 1 => execScReadPublicKey s
  | 2 => execScAttest s
  | 3 => execScReadSignatureIndex s
  | _ => execScUnknownCommand v s

/-! ## Bring-up (R355) -/

/-- BOOT.STAGE changes, which signals vector 0. -/
def State.toStage (s : State) (n : Nat) : State := State.signal { s with bar := { s.bar with stage := n } } 0

/-- A stage has failed for good. -/
def State.bootStop (s : State) (bit : Nat) : State :=
  { s with bar := { s.bar with stopped := true, err := s.bar.err ||| BitVec.ofNat 4 (2 ^ bit) } }

def State.bootErr (s : State) (b : Bool) (bit : Nat) : State :=
  if b then { s with bar := { s.bar with err := s.bar.err ||| BitVec.ofNat 4 (2 ^ bit) } } else s

/-- Whether the work of a stage has its occasion. -/
def State.atStage (s : State) (n : Nat) : Bool := s.bar.stage == n && !s.bar.stopped

/-- POWER_GOOD: the reference clock is locked and DTIME starts from 0; without good power bring-up stays at stage 0. -/
def execPowerGood (s : State) : Host.Outcome State Fault Refusal :=
  if s.atStage 0 then
    .next (if Config.powerOk then
        State.toStage { s with power := { s.power with on := true }, dtoff := 0 - BitVec.ofNat 64 s.now } 1
      else { s with bar := { s.bar with stopped := true } })
  else .fault .notEnabled

/-- FIRMWARE_VERIFY: the security core checks the images (R356). -/
def execFirmwareVerify (s : State) : Host.Outcome State Fault Refusal :=
  if s.atStage 1 then .next (if Config.firmwareOk then s.toStage 2 else s.bootStop 0) else .fault .notEnabled

/-- MEMORY_TRAINING: module memory and slice SRAM are zero with valid check bytes, every sector IN. -/
def execMemoryTraining (s : State) : Host.Outcome State Fault Refusal :=
  if s.atStage 2 then .next (if Config.memoryOk then State.toStage { s with phys := {}, scrubs := 0, scrubFrom := s.now } 3 else s.bootStop 1)
  else .fault .notEnabled

/-- PORT_TRAINING: a port whose receiver does not lock stays dark (R352). -/
def execPortTraining (s : State) : Host.Outcome State Fault Refusal :=
  if s.atStage 3 then
    let dark := (rangeFrom 0 48).filter fun p => !Config.portLocks p
    .next ((State.toStage { s with ports := { s.ports with trained := true, dark := dark } } 4).bootErr (!dark.isEmpty) 2)
  else .fault .notEnabled

/-- The instruction store of a system core with its image. -/
def scerathStore (k : Nat) : SMap (BitVec 32) :=
  (rangeFrom 0 32768).foldl (fun m w => SMap.set 0 m w (Config.scerathImage k w)) []

/-- Where the crash kernel stands: the last 2^20 bits of slice 63 (R323). -/
def crashBase : Nat := 2 ^ 44 + 63 * 2 ^ 27 + (2 ^ 27 - 2 ^ 20)

/-- The crash kernel is placed; its sectors keep their facing (log 10). -/
def Space.placeKernel (m : Space) : Space :=
  (rangeFrom 0 32768).foldl (fun m w => m.writeRaw (crashBase + 32 * w) 32 (Config.crashKernel w).toNat) m

/-- SCERATH_LOAD: the system cores hold system software, privileged at word 0; what its code does is not in the spec, so
none of them executes (log 10). The crash kernel is placed (R323), and the drive is probed (R345). -/
def execScerathLoad (s : State) : Host.Outcome State Fault Refusal :=
  if s.atStage 4 then
    let s := { s with phys := s.phys.placeKernel }
    let s := (rangeFrom 0 8).foldl (fun s k => s.setCore (sysCore k) { ctxs := [(0, { st := .run, priv := true })], ist := scerathStore k }) s
    .next ((s.toStage 5).bootErr (!Config.driveOk) 3)
  else .fault .notEnabled

/-- BOOT_GO: DTADJ is applied, the system translations are latched, and the dispatcher runs; it takes a held write to
SUB (R342). -/
def execBootGo (s : State) : Host.Outcome State Fault Refusal :=
  if s.atStage 5 then
    let s := s.latchReads
    let s := State.toStage { s with dtoff := s.dtoff + s.bar.dtadj, sysTables := s.phys.walked } 6
    let held := s.disp.heldSub
    let s := { s with disp := { s.disp with heldSub := none } }
    .next (match held with | some v => s.acceptSub v | none => s)
  else .fault .notEnabled

/-- MODULE_RESET: every register returns to its reset value; what lies outside the module, the drive and the signature
index in non-volatile storage stay. Each change of BOOT.STAGE, WARN and TRIP by it signals vector 0 (R341). -/
def execModuleReset (s : State) : Host.Outcome State Fault Refusal :=
  .next { State.reset with now := s.now, free := s.free, inbox := s.inbox, host := s.host, peer := s.peer, nvme := s.nvme
                           disp := { State.reset.disp with msix := s.disp.msix ++ (if s.bar.stage = 0 then [] else [0])
                             ++ (if s.power.warn then [0] else []) ++ (if s.power.trip then [0] else []) }
                           sec := { State.reset.sec with left := s.sec.left } }

/-! ## Registers of BAR0 (R342) -/

/-- Clear the low n bits of a word. -/
def clearLow (v : Word) (n : Nat) : Word := (v >>> n) <<< n

/-- A configuration register takes a value; after GO the write is ignored. -/
def State.setConfig (s : State) (f : Bar0 → Bar0) : State := if s.bar.stage = 6 then s else { s with bar := f s.bar }

/-- ECCCNT: a write of 0 to a half clears it. -/
def State.clearEcc (s : State) (v : Word) : State :=
  { s with bar := { s.bar with corrected := if field v.toNat 31 0 = 0 then 0 else s.bar.corrected
                               eccBase := if field v.toNat 31 0 = 0 then s.fixedCount else s.bar.eccBase
                               poisoned := if field v.toNat 63 32 = 0 then 0 else s.bar.poisoned } }

/-- ECCCNT_WRITE (R342). -/
def execEcccntWrite (v : Word) (s : State) : Host.Outcome State Fault Refusal := .next (s.clearEcc v)

/-- A write of 64 bits to BAR0; a write to any other offset changes nothing. -/
def State.writeBar0 (s : State) (off : Nat) (v : Word) : Host.Outcome State Fault Refusal :=
  match off with
  | 0x000 => execMboxSubWrite (v.setWidth 32) (s.acceptCmp (v.extractLsb' 32 32))
  | 0x008 => .next (s.setConfig fun b => { b with sqbase := clearLow v 9 })
  | 0x010 => .next (s.setConfig fun b => { b with ringcfg := BitVec.ofNat 64 (field v.toNat 4 0 + 256 * field v.toNat 12 8) })
  | 0x018 => .next (s.setConfig fun b => { b with cqbase := clearLow v 9 })
  | 0x020 => .next (s.setConfig fun b => { b with modnum := BitVec.ofNat 64 (field v.toNat 11 0) })
  | 0x028 => .next (s.setConfig fun b => { b with dtadj := v })
  | 0x030 => .next (s.setConfig fun b => { b with hwbase := clearLow v 39 })
  | 0x038 => .next (s.setConfig fun b => { b with sysroot := v })
  | 0x040 => .next (s.setConfig fun b => { b with dumplba := v })
  | 0x048 => if v.getLsbD 63 && s.atStage 5 then execBootGo s else .next s
  | 0x058 => execEcccntWrite v s
  | 0x100 => s.scCommand v
  | off =>
    if 0x10000 ≤ off && off < 0x16000 && off % 8 = 0 then execSlotTableWrite ((off - 0x10000) / 0x200) (off % 0x200 / 8) v s
    else if 0x20000 ≤ off && off < 0x21000 && off % 8 = 0 then
      .next { s with sec := { s.sec with buf := s.sec.buf.setBytes (off - 0x20000) 8 v.toNat } }
    else .next s

/-! ## Registers of BAR2 (R310) -/

/-- A write to HCTL: each bit requests or releases. -/
def State.writeHctl (s : State) (core : Nat) (v : Word) : State :=
  let old := (s.core core).hctl
  (rangeFrom 0 4).foldl (fun s x =>
    if v.getLsbD x then (if s.dbg.en then s.requestHalt core x .hctl else s)
    else if field old x x = 1 then s.release core x else s) s

/-- A write of 64 bits to BAR2; a write to any other offset changes nothing. -/
def State.writeBar2 (s : State) (off : Nat) (v : Word) : Host.Outcome State Fault Refusal :=
  let block := off / 0x1000
  let at0 := off % 0x1000
  if block = 0 then
    match at0 with
    | 0x000 => .next { s with dbg := { s.dbg with en := v.getLsbD 0, allstop := v.getLsbD 1, brkh := v.getLsbD 2, tbstop := v.getLsbD 3 } }
    | 0x008 => .next { s with dbg := { s.dbg with tbbase := clearLow v 9 } }
    | 0x010 => .next { s with dbg := { s.dbg with tbsize := v } }
    | 0x018 => if v = 0 then execTbwpWrite s else .next s
    | 0x028 => .next { s with dbg := { s.dbg with smpint := v.setWidth 32 } }
    | _ => .next s
  else if 1024 < block then .next s
  else
    let core := block - 1
    if at0 = 0 then .next (s.writeHctl core v)
    else if 0x40 ≤ at0 && at0 < 0xC0 && at0 % 8 = 0 then
      let b : BitVec 64 := BitVec.ofNat 64 (field v.toNat 19 5 * 2 ^ 5 + field v.toNat 63 62 * 2 ^ 62)
      .next (s.modCore core fun k => { k with bka := SMap.set 0 k.bka ((at0 - 0x40) / 8) b })
    else if at0 = 0x100 then .next (s.modCore core fun k => { k with svaddr := v.toNat / 64 * 64 })
    else if at0 = 0x108 then execSvdataWrite core v s
    else .next s

/-- REGISTER_WRITE: a host write of 64 bits to BAR0 or BAR2 (R310, R342). -/
def execRegisterWrite (bar off : Nat) (v : Word) (s : State) : Host.Outcome State Fault Refusal :=
  match bar with
  | 0 => s.writeBar0 off v
  | 2 => s.writeBar2 off v
  | _ => .next s

/-! ## What registers read as (R289, R310, R342, R353, R354, R355, R357)

No step of the table reads a register; these say what each one shows. -/

/-- PWRSTAT (R354). -/
def Power.stat (p : Power) : Word :=
  BitVec.ofNat 64 (p.power + 2 ^ 16 * p.temp + 2 ^ 24 * p.warn.toNat + 2 ^ 25 * p.trip.toNat)

/-- The mailbox as it reads: records written and entries taken. -/
def Disp.mbox (d : Disp) : Word := d.recs ++ d.taken

/-- A register of BAR0 at a byte offset. -/
def State.readBar0 (s : State) (off : Nat) : Word :=
  match off with
  | 0x000 => s.disp.mbox
  | 0x008 => s.bar.sqbase
  | 0x010 => s.bar.ringcfg
  | 0x018 => s.bar.cqbase
  | 0x020 => s.bar.modnum
  | 0x028 => s.bar.dtadj
  | 0x030 => s.bar.hwbase
  | 0x038 => s.bar.sysroot
  | 0x040 => s.bar.dumplba
  | 0x048 => BitVec.ofNat 64 (s.bar.stage + 2 ^ 8 * s.bar.err.toNat)
  | 0x050 => s.power.stat
  | 0x058 => s.bar.poisoned ++ addSat s.bar.corrected (s.fixedCount - s.bar.eccBase)
  | 0x060 => ident
  | 0x100 => s.sec.cmd
  | 0x108 => s.sec.stat
  | off =>
    if 0x10000 ≤ off && off < 0x16000 && off % 8 = 0 then s.ports.entry ((off - 0x10000) / 0x200) (off % 0x200 / 8)
    else if 0x20000 ≤ off && off < 0x21000 && off % 8 = 0 then BitVec.ofNat 64 (s.sec.buf.bytes (off - 0x20000) 8)
    else 0

/-- A register of BAR2 at a byte offset; SVDATA shows what its last read returned, as a read of it is a step. -/
def State.readBar2 (s : State) (off : Nat) : Word :=
  let at0 := off % 0x1000
  if off / 0x1000 = 0 then
    match at0 with
    | 0x000 => BitVec.ofNat 64 (s.dbg.en.toNat + 2 * s.dbg.allstop.toNat + 4 * s.dbg.brkh.toNat + 8 * s.dbg.tbstop.toNat)
    | 0x008 => s.dbg.tbbase
    | 0x010 => s.dbg.tbsize
    | 0x018 => BitVec.ofNat 64 s.dbg.tbwp
    | 0x020 => BitVec.ofNat 64 s.dbg.tbdrop
    | 0x028 => s.dbg.smpint.setWidth 64
    | _ => 0
  else if 1024 < off / 0x1000 then 0
  else
    let k := s.core (off / 0x1000 - 1)
    if at0 = 0 then BitVec.ofNat 64 k.hctl
    else if 0x08 ≤ at0 && at0 ≤ 0x20 && at0 % 8 = 0 then (if k.launched then BitVec.ofNat 64 (k.ctx (at0 / 8 - 1)).dbgst else 0)
    else if 0x40 ≤ at0 && at0 < 0xC0 && at0 % 8 = 0 then SMap.get 0 k.bka ((at0 - 0x40) / 8)
    else if at0 = 0x100 then BitVec.ofNat 64 k.svaddr
    else if at0 = 0x108 then s.dbg.svread
    else 0

/-! ## The function (R341) -/

/-- Class code and device ID of the one physical function, the sizes of its BARs in bytes, and its MSI-X vectors; its
vendor ID is Config.vendorId (log 65). -/
def classCode : Nat := 0x12
def deviceId : Nat := 0x3C4
def barSize (bar : Nat) : Nat := match bar with | 0 => 2 ^ 26 | 2 => 2 ^ 23 | 4 => 2 ^ 36 | _ => 0
def msixVectors : Nat := 2048

/-! ## The host window (R343) -/

/-- The physical bit address of a byte offset, and whether n bits from it exist. -/
def State.windowAddr (s : State) (off : Nat) : Nat := s.bar.hwbase.toNat + 8 * off
def rangeOk (pa n : Nat) : Bool := pa + n ≤ 2 ^ 45 && physOk pa && (n == 0 || physOk (pa + n - 1))

/-- Whether an access of len bytes at an offset lies in BAR4 and in memory. -/
def State.windowOk (s : State) (off len : Nat) : Bool := decide (off + len ≤ barSize 4) && rangeOk (s.windowAddr off) (8 * len)

/-- HOST_WINDOW_READ: the data, with the poisoned bit of the completion when a word is poisoned; outside memory an
Unsupported Request. -/
def execHostWindowRead (off len : Nat) (s : State) : Host.Outcome State Fault Refusal :=
  let pa := s.windowAddr off
  let n := 8 * len
  .next (if s.windowOk off len then
           { s.copied .phys (wordsOf pa n) with hostRead := { data := s.phys.readBits pa n, ep := (s.phys.anyBad pa n).isSome } }
         else { s with hostRead := { ur := true } })

/-- The part of n bits at pa with value v that falls in a word: address, bits, value. -/
def partOf (pa n v w : Nat) : Nat × Nat × Nat :=
  let lo := Nat.max pa (64 * w)
  let hi := Nat.min (pa + n) (64 * w + 64)
  (lo, hi - lo, (v >>> (lo - pa)) % 2 ^ (hi - lo))

/-- HOST_WINDOW_WRITE: word by word with fresh check values; a partial write of a word that cannot be read is dropped;
facing does not change. -/
def execHostWindowWrite (off len v : Nat) (s : State) : Host.Outcome State Fault Refusal :=
  let pa := s.windowAddr off
  let n := 8 * len
  if !s.windowOk off len then .next s
  else
    let dropped (w : Nat) : Bool := decide ((partOf pa n v w).2.1 < 64) && s.phys.bad w
    .next (State.countPoison { s with phys := (wordsOf pa n).foldl (fun m w =>
      let (a, k, x) := partOf pa n v w
      if dropped w then m.poison w else m.writeRaw a k x) s.phys }
        ((wordsOf pa n).filter fun w => dropped w && s.phys.unmarked w).length)

/-! ## The patrol scrub (R347, R349) -/

/-- One word as the scrub leaves it, with how many it poisons; a correction is counted by the repair. -/
def Space.scrub (m : Space) (w : Nat) : Space × Nat :=
  match m.check w with
  | .good => (m, 0)
  | .poisoned => if SMap.get 0 m.syn w = 0xFF then (m, 0) else (m.poison w, 1)
  | _ => (m.repair w, 0)

/-- Sectors of module memory. -/
def scrubSectors : Nat := moduleBits / 512

/-- The sector that the patrol scrub reads next, and the cycle in which its pass of 24 hours comes to it: the sectors of a
pass lie evenly in time (log 81). -/
def State.scrubNext (s : State) : Nat := s.scrubs % scrubSectors
def State.scrubAt (s : State) : Nat := s.scrubFrom + (s.scrubs + 1) * 86400000000000 / scrubSectors

/-- PATROL_SCRUB: single-bit errors of a sector of module memory are corrected in place and counted. -/
def execPatrolScrub (sector : Nat) (s : State) : Host.Outcome State Fault Refusal :=
  if 512 * sector < moduleBits && 3 ≤ s.bar.stage then
    let r := (rangeFrom (8 * sector) 8).foldl (fun (acc : Space × Nat) w =>
      let x := acc.1.scrub w
      (x.1, acc.2 + x.2)) (s.phys, 0)
    .next (State.countPoison { s with phys := r.1, scrubs := if sector = s.scrubNext then s.scrubs + 1 else s.scrubs } r.2)
  else .fault .notEnabled

/-! ## Power (R354) -/

/-- PWRSTAT shows a measurement; a change of WARN signals vector 0. -/
def State.measure (s : State) (power temp : Nat) : State :=
  let warn := decide (2900 < power) || decide (100 < temp)
  let s1 := { s with power := { s.power with warn := warn, temp := temp % 256, power := power % 65536 } }
  if warn = s.power.warn then s1 else s1.signal 0

/-- Whether a measurement trips: above 3.1 kW for 1 ms, which the input stands for, or a die at 110 °C. -/
def trips (power temp : Nat) : Bool := decide (3100 < power) || decide (110 ≤ temp)

/-- Kill the running slice and every other one with INFO bit 62 set. -/
def State.killAll (s : State) : State :=
  let waiting := s.disp.picked.toList ++ s.disp.ready
  let s := waiting.foldl (fun s b => s.popReady b.lr.sliceid) s
  let s := { s with disp := { s.disp with picked := none } }
  let s := match s.slice with | some r => s.killRunning r 0 (2 ^ 62) | none => s
  waiting.foldl (fun s b => ((s.sendRecord (s.killRecord b 0 (2 ^ 62))).walkEnds b.walk false).sysEvent 2) s

/-- The trip: every slice is killed and the compute dies are off until module reset. -/
def State.tripNow (s : State) (power temp : Nat) : State :=
  let s := (s.measure power temp).killAll
  let left := { s with cores := s.cores.filter fun p => decide (1024 ≤ p.1) }
  State.signal { left with power := { s.power with trip := true }
                           bar := { s.bar with corrected := addSat s.bar.corrected (s.fixedCount - s.bar.eccBase)
                                               eccBase := left.fixedCount } } 0

/-- POWER_TRIP: every slice is killed and the compute dies are off until module reset. -/
def execPowerTrip (power temp : Nat) (s : State) : Host.Outcome State Fault Refusal :=
  if !trips power temp || s.power.trip then .fault .notEnabled else .next (s.tripNow power temp)

/-- POWER_WARN: WARN shows input power above 2.9 kW or a die above 100 °C, and changes nothing in execution. A die that is
seen at 110 °C trips; power above 3.1 kW trips only when it stays so for 1 ms, which POWER_TRIP stands for. -/
def execPowerWarn (power temp : Nat) (s : State) : Host.Outcome State Fault Refusal :=
  .next (if 110 ≤ temp && !s.power.trip then s.tripNow power temp else s.measure power temp)

end Sys2Proof.Machine
end

