-- ==== Sys2Proof/Machine/LocalMem.lean ====
section
/-! DEFINITION. Scalar loads and stores (R131, R132) and the layout-table instructions (R141, R142). -/

namespace Sys2Proof.Machine

/-! ## Scalar loads and stores -/

/-- An access must stay within one word, and at width 8 or more be a multiple of its width (R131). -/
def misaligned (a w : Nat) : Bool := 64 < a % 64 + w || (8 ≤ w && a % w != 0)

/-- Read w bits at a through the S path, with every check of R127; the facing check falls in the cycle after issue, so
that one which would fail waits until then (R167). -/
def State.scalarRead (s : State) (a w : Nat) : Except Stop (Nat × State) := do
  failIf (misaligned a w) (Exc.alignment a w)
  s.checkPlace s.focusCore a w
  s.checkTurned s.focusCore s.focusCtx a w
  if (s.facingFails s.focusCore a w (s.now + 1)).isSome then
    .ok ((s.addChecks [s.checkFor a w (s.now + 1) none]).readLocal s.focusCore .s a w (s.now + 1))
  else do
    match s.curCore.loc.anyBad a w with
    | some k => fail (Exc.poison (64 * k))
    | none =>
      let s ← s.raceSectors s.focusCore s.origin.head (s.agent s.focusCore s.focusCtx 0 false) false (sectorsOf a w)
      .ok (s.readLocal s.focusCore .s a w (s.now + 1))

/-- Write the low w bits of x at a, with every check of R127 and R128. -/
def State.scalarWrite (s : State) (a w x : Nat) : Except Stop State := do
  failIf (misaligned a w) (Exc.alignment a w)
  s.checkWrite s.focusCore s.focusCtx a w (s.now + 1) fun _ => false
  let s ← s.raceSectors s.focusCore s.origin.head (s.agent s.focusCore s.focusCtx 0 false) true (sectorsOf a w)
  let s := s.modCur fun c => c.noteWrites s.now ((sectorsOf a w).map fun sec => (sec, s.now + bankHold a w))
  (s.storeFrom (s.now + bankHold a w) s.focusCore a w (x % 2 ^ w)).claim s.focusCore ((sectorsOf a w).map fun sec =>
    s.use sec (s.now + 1) (bankHold a w) true [(a, w)] .plain)

/-- The result of a load lands 4 cycles after issue, when its bank is not lost (R130). -/
def State.loadInto (s : State) (d : Reg) (sign : Bool) (x a w : Nat) : Except Stop State :=
  (s.result d (extendWord sign w x) 4 0 true).claim s.focusCore ((sectorsOf a w).map fun sec =>
    s.use sec (s.now + 1) 1 false [(a, w)] (.lands (physReg s.cur.wb d.toNat) (s.now + 4) (some sign)))

/-- The address of LD, LDN and ST. -/
def State.indexed (s : State) (a b : Reg) : Nat := (s.reg a + s.reg b).toNat
/-- The address of LDO and STO (R132). -/
def State.offsetAddr (s : State) (a : Reg) (i : BitVec 11) : Nat := (s.reg a + i.signExtend 64 * 64).toNat

/-- LD: sign-extended (R131). -/
def execLd (d a b : Reg) (w : BitVec 4) (s : State) : Host.Outcome State Fault Refusal :=
  issue (.ld d a b w) s fun _ s => do
    let (x, s) ← s.scalarRead (s.indexed a b) (widthOf w)
    s.loadInto d true x (s.indexed a b) (widthOf w)

/-- LDN: zero-extended (R131). -/
def execLdn (d a b : Reg) (w : BitVec 4) (s : State) : Host.Outcome State Fault Refusal :=
  issue (.ldn d a b w) s fun _ s => do
    let (x, s) ← s.scalarRead (s.indexed a b) (widthOf w)
    s.loadInto d false x (s.indexed a b) (widthOf w)

/-- ST: the low w bits of g[D] (R131). -/
def execSt (d a b : Reg) (w : BitVec 4) (s : State) : Host.Outcome State Fault Refusal :=
  issue (.st d a b w) s fun _ s => s.scalarWrite (s.indexed a b) (widthOf w) (s.reg d).toNat

/-- LDO: 64 bits at g[A] + S(imm11) · 64 (R132). -/
def execLdo (d a : Reg) (i : BitVec 11) (s : State) : Host.Outcome State Fault Refusal :=
  issue (.ldo d a i) s fun _ s => do
    let (x, s) ← s.scalarRead (s.offsetAddr a i) 64
    s.loadInto d false x (s.offsetAddr a i) 64

/-- STO: 64 bits at g[A] + S(imm11) · 64 (R132). -/
def execSto (d a : Reg) (i : BitVec 11) (s : State) : Host.Outcome State Fault Refusal :=
  issue (.sto d a i) s fun _ s => s.scalarWrite (s.offsetAddr a i) 64 (s.reg d).toNat

/-! ## The layout table -/

/-- Four registers as the 256 bits of an entry (R141). -/
def State.regs4 (s : State) (n : Reg) : BitVec 256 :=
  s.reg (regPlus n 3) ++ s.reg (regPlus n 2) ++ s.reg (regPlus n 1) ++ s.reg n

/-- What LTSET does (R141); on a system core the table is that of the running slice (log 11). -/
def State.ltset (s : State) (d a : Reg) : Except Stop State := do
  let at0 := s.lr.ltbase + 256 * (s.reg d).toNat
  s.checkWrite s.focusCore s.focusCtx at0 256 (s.now + 1) fun _ => false
  let s' ← s.raceSectors s.focusCore s.origin.head (s.agent s.focusCore s.focusCtx 0 false) true (sectorsOf at0 256)
  let s' := s'.modCur fun c => c.noteWrites s.now ((sectorsOf at0 256).map fun sec => (sec, s.now + 1))
  (s'.storeFrom (s.now + 1) s.focusCore at0 256 (s.regs4 a).toNat).claim s.focusCore ((sectorsOf at0 256).map fun sec =>
    s.use sec (s.now + 1) 1 true [(at0, 256)] .plain)

/-- LTSET writes entry g[D] as a store (R141); it checks nothing of the entry (R139). -/
def execLtset (d a : Reg) (s : State) : Host.Outcome State Fault Refusal :=
  issue (.ltset d a) s fun _ s => s.ltset d a

/-- What LTGET does (R141). -/
def State.ltget (s : State) (d a : Reg) : Except Stop State := do
  let n := (s.reg a).toNat
  let lat := if s.curCore.lcHit n then 3 else 9
  s.checkEntry s.focusCore n
  let (l, s) := s.useEntry s.focusCore n
  .ok ((rangeFrom 0 4).foldl (fun s k => s.result (regPlus d k) (l.extractLsb' (64 * k) 64) lat 0 true) s)

/-- LTGET returns the entry that a use of its index sees, 3 cycles later on a hit and 9 on a miss (R130, R141). -/
def execLtget (d a : Reg) (s : State) : Host.Outcome State Fault Refusal :=
  issue (.ltget d a) s fun _ s => s.ltget d a

/-- Whether a drain of the context has still to write into the layout table. -/
def State.tableDrains (s : State) : Bool :=
  s.focusCtx == s.lr.meown && !(s.curCore.me.queue.isEmpty && s.curCore.me.running.isEmpty)
  && (rangeFrom (s.lr.ltbase / 512) 512).any s.curCore.drainPending

/-- What LFENCE does (R141, R142). One that waits takes its 4 cycles from the cycle in which the wait ends (log 43). -/
def State.lfence (s : State) : Except Stop State :=
  let lo := s.lr.ltbase / 512
  if s.cur.span.isSome then
    (if s.tableDrains || s.cur.unwritten s.now lo (lo + 512) then fail (Exc.timing 0)
     else .ok ((s.modCurCore Core.lcFlush).modCur fun c => { c with issueAt := s.now + 4 }))
  else if s.tableDrains then .error .event
  else match s.cur.lastWrite lo (lo + 512) with
    | some t => if s.now ≤ t then .error (.until (t + 1)) else .ok ((s.modCurCore Core.lcFlush).modCur fun c => { c with issueAt := s.now + 4 })
    | none => .ok ((s.modCurCore Core.lcFlush).modCur fun c => { c with issueAt := s.now + 4 })

/-- LFENCE waits for the context's stores to the table, then empties the layout cache; it takes 4 cycles from its issue,
inside a span too (R130, R141, R142). -/
def execLfence (s : State) : Host.Outcome State Fault Refusal :=
  issue .lfence s fun _ s => s.lfence

end Sys2Proof.Machine
end

