-- ==== Sys2Proof/Machine/Dispatch.lean ====
section
/-! DEFINITION. The dispatch: one arm for each row of the opcode table, each a direct call of its meaning. -/

namespace Sys2Proof.Machine

def exec (i : Instr) (s : State) : Host.Outcome State Fault Refusal :=
  match i with
  | .add d a b => Sys2Proof.Machine.execAdd d a b s
  | .sub d a b => Sys2Proof.Machine.execSub d a b s
  | .and d a b => Sys2Proof.Machine.execAnd d a b s
  | .or d a b => Sys2Proof.Machine.execOr d a b s
  | .xor d a b => Sys2Proof.Machine.execXor d a b s
  | .shl d a b => Sys2Proof.Machine.execShl d a b s
  | .shr d a b => Sys2Proof.Machine.execShr d a b s
  | .sar d a b => Sys2Proof.Machine.execSar d a b s
  | .min d a b => Sys2Proof.Machine.execMin d a b s
  | .max d a b => Sys2Proof.Machine.execMax d a b s
  | .minn d a b => Sys2Proof.Machine.execMinn d a b s
  | .maxn d a b => Sys2Proof.Machine.execMaxn d a b s
  | .sel d a b => Sys2Proof.Machine.execSel d a b s
  | .mul d a b => Sys2Proof.Machine.execMul d a b s
  | .mulh d a b => Sys2Proof.Machine.execMulh d a b s
  | .mulhn d a b => Sys2Proof.Machine.execMulhn d a b s
  | .div d a b => Sys2Proof.Machine.execDiv d a b s
  | .divn d a b => Sys2Proof.Machine.execDivn d a b s
  | .rem d a b => Sys2Proof.Machine.execRem d a b s
  | .remn d a b => Sys2Proof.Machine.execRemn d a b s
  | .cmpeq d a b => Sys2Proof.Machine.execCmpeq d a b s
  | .cmpne d a b => Sys2Proof.Machine.execCmpne d a b s
  | .cmplt d a b => Sys2Proof.Machine.execCmplt d a b s
  | .cmpltn d a b => Sys2Proof.Machine.execCmpltn d a b s
  | .cmple d a b => Sys2Proof.Machine.execCmple d a b s
  | .cmplen d a b => Sys2Proof.Machine.execCmplen d a b s
  | .clz d a => Sys2Proof.Machine.execClz d a s
  | .ctz d a => Sys2Proof.Machine.execCtz d a s
  | .popc d a => Sys2Proof.Machine.execPopc d a s
  | .bext d a b => Sys2Proof.Machine.execBext d a b s
  | .bins d a b => Sys2Proof.Machine.execBins d a b s
  | .brev d a => Sys2Proof.Machine.execBrev d a s
  | .addi d a imm => Sys2Proof.Machine.execAddi d a imm s
  | .andi d a imm => Sys2Proof.Machine.execAndi d a imm s
  | .ori d a imm => Sys2Proof.Machine.execOri d a imm s
  | .xori d a imm => Sys2Proof.Machine.execXori d a imm s
  | .shli d a imm => Sys2Proof.Machine.execShli d a imm s
  | .shri d a imm => Sys2Proof.Machine.execShri d a imm s
  | .sari d a imm => Sys2Proof.Machine.execSari d a imm s
  | .li d imm => Sys2Proof.Machine.execLi d imm s
  | .lis d imm => Sys2Proof.Machine.execLis d imm s
  | .mfs d n => Sys2Proof.Machine.execMfs d n s
  | .mts d n => Sys2Proof.Machine.execMts d n s
  | .win imm => Sys2Proof.Machine.execWin imm s
  | .fadd f64 d a b => Sys2Proof.Machine.execFadd f64 d a b s
  | .fsub f64 d a b => Sys2Proof.Machine.execFsub f64 d a b s
  | .fmul f64 d a b => Sys2Proof.Machine.execFmul f64 d a b s
  | .fdiv f64 d a b => Sys2Proof.Machine.execFdiv f64 d a b s
  | .fsqrt f64 d a => Sys2Proof.Machine.execFsqrt f64 d a s
  | .fmin f64 d a b => Sys2Proof.Machine.execFmin f64 d a b s
  | .fmax f64 d a b => Sys2Proof.Machine.execFmax f64 d a b s
  | .fcmpeq f64 d a b => Sys2Proof.Machine.execFcmpeq f64 d a b s
  | .fcmplt f64 d a b => Sys2Proof.Machine.execFcmplt f64 d a b s
  | .fcmple f64 d a b => Sys2Proof.Machine.execFcmple f64 d a b s
  | .fcvtif f64 d a => Sys2Proof.Machine.execFcvtif f64 d a s
  | .fcvtfi f64 d a => Sys2Proof.Machine.execFcvtfi f64 d a s
  | .fma f64 d a b => Sys2Proof.Machine.execFma f64 d a b s
  | .padd d a b w => Sys2Proof.Machine.execPadd d a b w s
  | .psub d a b w => Sys2Proof.Machine.execPsub d a b w s
  | .pdiff d a b w => Sys2Proof.Machine.execPdiff d a b w s
  | .paln d a b w => Sys2Proof.Machine.execPaln d a b w s
  | .pcls d a w => Sys2Proof.Machine.execPcls d a w s
  | .br imm => Sys2Proof.Machine.execBr imm s
  | .bz d o => Sys2Proof.Machine.execBz d o s
  | .bnz d o => Sys2Proof.Machine.execBnz d o s
  | .call d o => Sys2Proof.Machine.execCall d o s
  | .jr d a => Sys2Proof.Machine.execJr d a s
  | .loop d o => Sys2Proof.Machine.execLoop d o s
  | .guardNz a => Sys2Proof.Machine.execGuardNz a s
  | .guardZ a => Sys2Proof.Machine.execGuardZ a s
  | .setl d a b => Sys2Proof.Machine.execSetl d a b s
  | .vpart a => Sys2Proof.Machine.execVpart a s
  | .msel b => Sys2Proof.Machine.execMsel b s
  | .span imm => Sys2Proof.Machine.execSpan imm s
  | .ld d a b w => Sys2Proof.Machine.execLd d a b w s
  | .ldn d a b w => Sys2Proof.Machine.execLdn d a b w s
  | .st d a b w => Sys2Proof.Machine.execSt d a b w s
  | .ldo d a imm => Sys2Proof.Machine.execLdo d a imm s
  | .sto d a imm => Sys2Proof.Machine.execSto d a imm s
  | .vld d a b => Sys2Proof.Machine.execVld d a b s
  | .vst d a b => Sys2Proof.Machine.execVst d a b s
  | .vldx d a b => Sys2Proof.Machine.execVldx d a b s
  | .vstx d a b => Sys2Proof.Machine.execVstx d a b s
  | .vldt d a b => Sys2Proof.Machine.execVldt d a b s
  | .vstt d a b => Sys2Proof.Machine.execVstt d a b s
  | .vldb d a b => Sys2Proof.Machine.execVldb d a b s
  | .vstb d a b => Sys2Proof.Machine.execVstb d a b s
  | .qpop d a q => Sys2Proof.Machine.execQpop d a q s
  | .qpush d a q => Sys2Proof.Machine.execQpush d a q s
  | .qwait a q => Sys2Proof.Machine.execQwait a q s
  | .qstat d q => Sys2Proof.Machine.execQstat d q s
  | .ltset d a => Sys2Proof.Machine.execLtset d a s
  | .ltget d a => Sys2Proof.Machine.execLtget d a s
  | .turn lvl paths a b => Sys2Proof.Machine.execTurn lvl paths a b s
  | .turnt lvl paths a => Sys2Proof.Machine.execTurnt lvl paths a s
  | .tstat d a => Sys2Proof.Machine.execTstat d a s
  | .aadd w32 fl dr a b => Sys2Proof.Machine.execAadd w32 fl dr a b s
  | .aand w32 fl dr a b => Sys2Proof.Machine.execAand w32 fl dr a b s
  | .aor w32 fl dr a b => Sys2Proof.Machine.execAor w32 fl dr a b s
  | .axor w32 fl dr a b => Sys2Proof.Machine.execAxor w32 fl dr a b s
  | .amin w32 fl dr a b => Sys2Proof.Machine.execAmin w32 fl dr a b s
  | .amax w32 fl dr a b => Sys2Proof.Machine.execAmax w32 fl dr a b s
  | .aminn w32 fl dr a b => Sys2Proof.Machine.execAminn w32 fl dr a b s
  | .amaxn w32 fl dr a b => Sys2Proof.Machine.execAmaxn w32 fl dr a b s
  | .axchg w32 fl dr a b => Sys2Proof.Machine.execAxchg w32 fl dr a b s
  | .acas w32 fl dr a b => Sys2Proof.Machine.execAcas w32 fl dr a b s
  | .afadd w32 fl dr a b => Sys2Proof.Machine.execAfadd w32 fl dr a b s
  | .ald w32 fl dr a => Sys2Proof.Machine.execAld w32 fl dr a s
  | .ast w32 fl a b => Sys2Proof.Machine.execAst w32 fl a b s
  | .mshape d a => Sys2Proof.Machine.execMshape d a s
  | .mldw a => Sys2Proof.Machine.execMldw a s
  | .mldws a => Sys2Proof.Machine.execMldws a s
  | .mfwd a => Sys2Proof.Machine.execMfwd a s
  | .mbwd a => Sys2Proof.Machine.execMbwd a s
  | .mgrd a b => Sys2Proof.Machine.execMgrd a b s
  | .mdrain a b => Sys2Proof.Machine.execMdrain a b s
  | .mzero b => Sys2Proof.Machine.execMzero b s
  | .mamax d => Sys2Proof.Machine.execMamax d s
  | .mstat d => Sys2Proof.Machine.execMstat d s
  | .xfer d a => Sys2Proof.Machine.execXfer d a s
  | .halo d a => Sys2Proof.Machine.execHalo d a s
  | .xred d a => Sys2Proof.Machine.execXred d a s
  | .xcast d a => Sys2Proof.Machine.execXcast d a s
  | .xfar d a => Sys2Proof.Machine.execXfar d a s
  | .xstat b => Sys2Proof.Machine.execXstat b s
  | .cbarr a b => Sys2Proof.Machine.execCbarr a b s
  | .cbwait b => Sys2Proof.Machine.execCbwait b s
  | .ptest d => Sys2Proof.Machine.execPtest d s
  | .trap b => Sys2Proof.Machine.execTrap b s
  | .tlbi a b => Sys2Proof.Machine.execTlbi a b s
  | .wfe d => Sys2Proof.Machine.execWfe d s
  | .spawn d a => Sys2Proof.Machine.execSpawn d a s
  | .slkill d a b => Sys2Proof.Machine.execSlkill d a b s
  | .resume a b => Sys2Proof.Machine.execResume a b s
  | .brk b => Sys2Proof.Machine.execBrk b s
  | .smpl b => Sys2Proof.Machine.execSmpl b s
  | .dmark a => Sys2Proof.Machine.execDmark a s
  | .vadd w => Sys2Proof.Machine.execVadd w s
  | .vsub w => Sys2Proof.Machine.execVsub w s
  | .vmul w => Sys2Proof.Machine.execVmul w s
  | .vfma w => Sys2Proof.Machine.execVfma w s
  | .vfms w => Sys2Proof.Machine.execVfms w s
  | .vfnma w => Sys2Proof.Machine.execVfnma w s
  | .vdiv w => Sys2Proof.Machine.execVdiv w s
  | .vsqrt w => Sys2Proof.Machine.execVsqrt w s
  | .vrsqrt w => Sys2Proof.Machine.execVrsqrt w s
  | .vrcp w => Sys2Proof.Machine.execVrcp w s
  | .vmin w => Sys2Proof.Machine.execVmin w s
  | .vmax w => Sys2Proof.Machine.execVmax w s
  | .vabs w => Sys2Proof.Machine.execVabs w s
  | .vneg w => Sys2Proof.Machine.execVneg w s
  | .vexp2 w => Sys2Proof.Machine.execVexp2 w s
  | .vlog2 w => Sys2Proof.Machine.execVlog2 w s
  | .vand w => Sys2Proof.Machine.execVand w s
  | .vor w => Sys2Proof.Machine.execVor w s
  | .vxor w => Sys2Proof.Machine.execVxor w s
  | .vshl w => Sys2Proof.Machine.execVshl w s
  | .vshr w => Sys2Proof.Machine.execVshr w s
  | .vsar w => Sys2Proof.Machine.execVsar w s
  | .vadds w => Sys2Proof.Machine.execVadds w s
  | .vsubs w => Sys2Proof.Machine.execVsubs w s
  | .vmulh w => Sys2Proof.Machine.execVmulh w s
  | .vpopc w => Sys2Proof.Machine.execVpopc w s
  | .vceq w => Sys2Proof.Machine.execVceq w s
  | .vcne w => Sys2Proof.Machine.execVcne w s
  | .vclt w => Sys2Proof.Machine.execVclt w s
  | .vcle w => Sys2Proof.Machine.execVcle w s
  | .vclass w => Sys2Proof.Machine.execVclass w s
  | .vsel w => Sys2Proof.Machine.execVsel w s
  | .vmov w => Sys2Proof.Machine.execVmov w s
  | .vbcst w => Sys2Proof.Machine.execVbcst w s
  | .vcvt w => Sys2Proof.Machine.execVcvt w s
  | .vtag w => Sys2Proof.Machine.execVtag w s
  | .vround w => Sys2Proof.Machine.execVround w s
  | .vscale w => Sys2Proof.Machine.execVscale w s
  | .vqnt w => Sys2Proof.Machine.execVqnt w s
  | .vdqnt w => Sys2Proof.Machine.execVdqnt w s
  | .vrsum w => Sys2Proof.Machine.execVrsum w s
  | .vrmax w => Sys2Proof.Machine.execVrmax w s
  | .vrmin w => Sys2Proof.Machine.execVrmin w s
  | .vror w => Sys2Proof.Machine.execVror w s
  | .vperm w => Sys2Proof.Machine.execVperm w s
  | .vslup w => Sys2Proof.Machine.execVslup w s
  | .vsldn w => Sys2Proof.Machine.execVsldn w s
  | .viota w => Sys2Proof.Machine.execViota w s
  | .vroll w => Sys2Proof.Machine.execVroll w s
  | .vmpop w => Sys2Proof.Machine.execVmpop w s
  | .vmfirst w => Sys2Proof.Machine.execVmfirst w s
  | .vzip w => Sys2Proof.Machine.execVzip w s
  | .vunzip w => Sys2Proof.Machine.execVunzip w s
  | .vmand w => Sys2Proof.Machine.execVmand w s
  | .vmor w => Sys2Proof.Machine.execVmor w s
  | .vmxor w => Sys2Proof.Machine.execVmxor w s
  | .vmnot w => Sys2Proof.Machine.execVmnot w s
  | .resultLanding core ctx => Sys2Proof.Machine.execResultLanding core ctx s
  | .vectorConvoyStart core ctx => Sys2Proof.Machine.execVectorConvoyStart core ctx s
  | .vectorMemberStart core ctx => Sys2Proof.Machine.execVectorMemberStart core ctx s
  | .vectorConvoyRetire core ctx => Sys2Proof.Machine.execVectorConvoyRetire core ctx s
  | .exitComplete core ctx => Sys2Proof.Machine.execExitComplete core ctx s
  | .spanClose core ctx => Sys2Proof.Machine.execSpanClose core ctx s
  | .spanOverrun core ctx => Sys2Proof.Machine.execSpanOverrun core ctx s
  | .turnStart core ctx => Sys2Proof.Machine.execTurnStart core ctx s
  | .turnGroupFlip core ctx => Sys2Proof.Machine.execTurnGroupFlip core ctx s
  | .turnComplete core ctx => Sys2Proof.Machine.execTurnComplete core ctx s
  | .matrixCommandStart core => Sys2Proof.Machine.execMatrixCommandStart core s
  | .drainSectorWrite core => Sys2Proof.Machine.execDrainSectorWrite core s
  | .matrixCommandComplete core => Sys2Proof.Machine.execMatrixCommandComplete core s
  | .parrTakesEffect core ctx => Sys2Proof.Machine.execParrTakesEffect core ctx s
  | .coreArrived core => Sys2Proof.Machine.execCoreArrived core s
  | .cbArrivalEffect core ctx bar => Sys2Proof.Machine.execCbArrivalEffect core ctx bar s
  | .cbGenerationComplete core bar => Sys2Proof.Machine.execCbGenerationComplete core bar s
  | .descriptorStart core slot => Sys2Proof.Machine.execDescriptorStart core slot s
  | .descriptorBeat core slot => Sys2Proof.Machine.execDescriptorBeat core slot s
  | .descriptorLanded core slot => Sys2Proof.Machine.execDescriptorLanded core slot s
  | .xfarHandoff core slot => Sys2Proof.Machine.execXfarHandoff core slot s
  | .farSourceRead core slot => Sys2Proof.Machine.execFarSourceRead core slot s
  | .fillLand core slot => Sys2Proof.Machine.execFillLand core slot s
  | .queueDrainEntry core queue => Sys2Proof.Machine.execQueueDrainEntry core queue s
  | .systemTrapEntry sys => Sys2Proof.Machine.execSystemTrapEntry sys s
  | .mboxSubWrite v => Sys2Proof.Machine.execMboxSubWrite v s
  | .mboxCmpWrite v => Sys2Proof.Machine.execMboxCmpWrite v s
  | .graphSliceNode walk => Sys2Proof.Machine.execGraphSliceNode walk s
  | .graphCondNode walk => Sys2Proof.Machine.execGraphCondNode walk s
  | .graphLoopNode walk => Sys2Proof.Machine.execGraphLoopNode walk s
  | .hctlHaltRequest core ctx => Sys2Proof.Machine.execHctlHaltRequest core ctx s
  | .hctlRelease core ctx => Sys2Proof.Machine.execHctlRelease core ctx s
  | .haltLanding core ctx => Sys2Proof.Machine.execHaltLanding core ctx s
  | .svdataRead core => Sys2Proof.Machine.execSvdataRead core s
  | .svdataWrite core v => Sys2Proof.Machine.execSvdataWrite core v s
  | .registerWrite bar off v => Sys2Proof.Machine.execRegisterWrite bar off v s
  | .ecccntWrite v => Sys2Proof.Machine.execEcccntWrite v s
  | .hostWindowRead off len => Sys2Proof.Machine.execHostWindowRead off len s
  | .hostWindowWrite off len v => Sys2Proof.Machine.execHostWindowWrite off len v s
  | .scUnknownCommand v => Sys2Proof.Machine.execScUnknownCommand v s
  | .slotTableWrite port entry v => Sys2Proof.Machine.execSlotTableWrite port entry v s
  | .flitTransmit port => Sys2Proof.Machine.execFlitTransmit port s
  | .flitReceive port flit => Sys2Proof.Machine.execFlitReceive port flit s
  | .powerWarn power temp => Sys2Proof.Machine.execPowerWarn power temp s
  | .powerTrip power temp => Sys2Proof.Machine.execPowerTrip power temp s
  | .patrolScrub sector => Sys2Proof.Machine.execPatrolScrub sector s
  | .notAnInstruction w => Sys2Proof.Machine.execNotAnInstruction w s
  | .nop => Sys2Proof.Machine.execNop s
  | .exit => Sys2Proof.Machine.execExit s
  | .vrel => Sys2Proof.Machine.execVrel s
  | .lfence => Sys2Proof.Machine.execLfence s
  | .twait => Sys2Proof.Machine.execTwait s
  | .mswap => Sys2Proof.Machine.execMswap s
  | .mwait => Sys2Proof.Machine.execMwait s
  | .parr => Sys2Proof.Machine.execParr s
  | .pwait => Sys2Proof.Machine.execPwait s
  | .yield => Sys2Proof.Machine.execYield s
  | .rft => Sys2Proof.Machine.execRft s
  | .straggler => Sys2Proof.Machine.execStraggler s
  | .phaseChange => Sys2Proof.Machine.execPhaseChange s
  | .budgetExhausted => Sys2Proof.Machine.execBudgetExhausted s
  | .preemption => Sys2Proof.Machine.execPreemption s
  | .sliceStart => Sys2Proof.Machine.execSliceStart s
  | .sliceResume => Sys2Proof.Machine.execSliceResume s
  | .sliceCompletion => Sys2Proof.Machine.execSliceCompletion s
  | .photonicWakeup => Sys2Proof.Machine.execPhotonicWakeup s
  | .trapRecordEnqueue => Sys2Proof.Machine.execTrapRecordEnqueue s
  | .submitSlice => Sys2Proof.Machine.execSubmitSlice s
  | .submitGraph => Sys2Proof.Machine.execSubmitGraph s
  | .submitKill => Sys2Proof.Machine.execSubmitKill s
  | .submitIgnored => Sys2Proof.Machine.execSubmitIgnored s
  | .recordWrite => Sys2Proof.Machine.execRecordWrite s
  | .traceRecord => Sys2Proof.Machine.execTraceRecord s
  | .tbwpWrite => Sys2Proof.Machine.execTbwpWrite s
  | .panicFreeze => Sys2Proof.Machine.execPanicFreeze s
  | .moduleReset => Sys2Proof.Machine.execModuleReset s
  | .powerGood => Sys2Proof.Machine.execPowerGood s
  | .firmwareVerify => Sys2Proof.Machine.execFirmwareVerify s
  | .memoryTraining => Sys2Proof.Machine.execMemoryTraining s
  | .portTraining => Sys2Proof.Machine.execPortTraining s
  | .scerathLoad => Sys2Proof.Machine.execScerathLoad s
  | .bootGo => Sys2Proof.Machine.execBootGo s
  | .scReadPublicKey => Sys2Proof.Machine.execScReadPublicKey s
  | .scAttest => Sys2Proof.Machine.execScAttest s
  | .scReadSignatureIndex => Sys2Proof.Machine.execScReadSignatureIndex s
  | .scCommandDone => Sys2Proof.Machine.execScCommandDone s
  | .rotationBoundary => Sys2Proof.Machine.execRotationBoundary s
  | .slotBoundary => Sys2Proof.Machine.execSlotBoundary s

end Sys2Proof.Machine
end

