-- ==== Sys2Proof/Machine/Arbiter.lean ====
section
/-! DEFINITION. The arbitration of the banks (R130): the accesses that lose a cycle, what that puts off (results, convoys
and those behind them, writes, arrivals, turnarounds and commands), and TIMING inside a span. -/

namespace Sys2Proof.Machine

/-! ## Who loses -/

/-- The accesses of a core that lose a cycle (R130, R153). -/
def Core.losers (k : Core) (now : Nat) : List BankUse :=
  losersAt now k.banks [] [] ((k.banks.filter fun u => u.cycle == now).foldl (fun l u => insertUse k.inSpan u l) [])

/-- The loser that raises TIMING: of those that started inside a span, whether it is still open or not (log 99), the one of
the lowest context and member (R299). -/
def firstInSpan : List BankUse → Option BankUse
  | [] => none
  | u :: r => match firstInSpan r with
    | some v => if u.origin.span.isSome && (u.origin.ctx < v.origin.ctx || (u.origin.ctx == v.origin.ctx && u.origin.midx ≤ v.origin.midx)) then some u else some v
    | none => if u.origin.span.isSome then some u else none

/-! ## What comes later -/

/-- An access a number of cycles later. -/
def BankUse.later (u : BankUse) (d : Nat) : BankUse :=
  { u with cycle := u.cycle + d, ends := match u.ends with | .lands r t g => .lands r (t + d) g | e => e }

/-- A write of a context that reaches its bank d cycles later: the cycle in which it counts as written, and the turnarounds
that drain it (R161, R163). -/
def Ctx.delayWrite (c : Ctx) (u : BankUse) (d : Nat) : Ctx :=
  ({ c with writes := c.writes.map fun q => if q == (u.sec, u.stop - 1) then (q.1, q.2 + d) else q } : Ctx).drainLater (u.later d)

/-- The same in its core, for turnarounds of the other contexts and for what reads find before it. -/
def Core.delayWrite (k : Core) (u : BankUse) (d : Nat) : Core :=
  if !u.write then k
  else
    let k := k.modCtx u.origin.ctx fun c => c.delayWrite u d
    { k with
      loc := k.loc.putOffWrite u.sec u.origin.ctx u.issued (u.stop - 1) d
      ctxs := if u.rank = 0 then k.ctxs.mapVals fun x c => if x = u.origin.ctx then c else c.drainLater (u.later d) else k.ctxs }.settle u.sec

/-- A scalar load or an atomic, which alone may be an acquire, whose result lands a cycle later. -/
def Ctx.delayLanding (c : Ctx) (atomic : Bool) (reg t : Nat) : Ctx :=
  { c with land := c.land.map fun l => if l.load && l.reg == reg && l.cycle == t then { l with cycle := t + 1 } else l
           acqAt := if atomic && c.acqAt = t then t + 1 else c.acqAt
           doneAt := if c.doneAt = t then t + 1 else c.doneAt }

/-- A VMEM member whose requests from an offset on come a cycle later: with them the element groups that it loads, its end,
and the cycles in which it reads its sources. -/
def VMember.delay (m : VMember) (off : Nat) : VMember :=
  { m with
    reqs := m.reqs.map fun r => if off ≤ r.cycle then { r with cycle := r.cycle + 1 } else r
    mem := m.mem.map fun q => (q.1.map fun g => if off + 6 ≤ g.2 then (g.1, g.2 + 1) else g, q.2 + 1)
    reads := if m.reads = 0 then 0 else m.reads + 1 }

/-- A convoy that loses a cycle, which counts in BANKC (R319). -/
def VConvoy.delay (q : VConvoy) (now : Nat) : VConvoy :=
  { q with
    vm := q.vm.map fun m => m.delay (now - q.starts.headD 0)
    vmem := q.vmem.map fun l => (enumFrom 0 l).map fun x => if x.1 = 1 then x.2 + 1 else x.2 }

/-! ## The convoys behind a delayed one (R173, R176) -/

/-- The results for scalar registers that some members with given starts owe, as (register, cycle). -/
def Ctx.redsOf (c : Ctx) (vm : List VMember) (starts : List Nat) : List (Nat × Nat) :=
  (vm.zip starts).filterMap fun p => p.1.dstReg.map fun r => (r.1, p.2 + c.steps p.1 * p.1.f + p.1.lat)

/-- The context as the schedule of a convoy sees it: the tables as they stand in `c`, the grant, the VSPAN and the span of
its issue, and the convoys before it. -/
def Ctx.behind (c : Ctx) (done : List VConvoy) (q : VConvoy) : Ctx :=
  { c with grant := q.sched.grant, vspan := q.sched.vspan, vq := done, span := if q.span.isSome then c.span else none }

/-- Move the result of a member that lands in another cycle. -/
def moveLanding (l : List Landing) (old new : Nat × Nat) : List Landing :=
  l.map fun x => if x.reg == old.1 && x.cycle == old.2 && !x.load then { x with cycle := new.2 } else x

/-- Put convoys on the schedule again behind those of `done`: a delayed one keeps its starts, later ones start as their
operands allow. Inside a span a convoy whose operand is no longer ready raises TIMING. `c` carries the tables. -/
def Ctx.replay (c : Ctx) (delayed : Nat) (done : List VConvoy) : List VConvoy → Except Exc (Ctx × List VConvoy)
  | [] => .ok (c, done)
  | q :: r =>
    let w := c.behind done q
    let (w', starts, lands, late) :=
      if q.push = delayed then
        let x := (q.vm.zip q.starts).foldl (fun (acc : Ctx × List Nat) p =>
          let y := acc.1.schedule q.origin p.1 p.2
          (y.1, acc.2 ++ [y.2])) (w, [])
        (x.1, q.starts, x.2, none)
      else w.scheduleAll q.origin (w.convoyStart q.push (q.vm.headD {})) 0 q.vm [] []
    match late with
    | some l => .error { Exc.timing 0 with midx := some l.2, origin := some (l.1.getD q.origin) }
    | none =>
      let q' := { q with starts := starts, retire := lands.foldl Nat.max q.retire, sched := w.sched }
      let land := ((w.redsOf q.vm q.starts).zip (w.redsOf q.vm starts)).foldl (fun l p => moveLanding l p.1 p.2) c.land
      Ctx.replay { c with vvalid := w'.vvalid, vread := w'.vread, mrdy := w'.mrdy, mland := w'.mland, laneFree := w'.laneFree, land := land }
        delayed (done ++ [q']) r

/-- The convoys of a context once one of them, by the cycle of its push, has lost a cycle. -/
def Ctx.reschedule (c : Ctx) (delayed now : Nat) : Except Exc Ctx :=
  let done := c.vq.takeWhile fun q => q.push != delayed
  let rest := c.vq.dropWhile fun q => q.push != delayed
  match rest with
  | [] => .ok c
  | q :: r =>
    let t := { c with vvalid := q.sched.vvalid, vread := q.sched.vread, mrdy := q.sched.mrdy, mland := q.sched.mland, laneFree := q.sched.laneFree }
    match t.replay delayed done (q.delay now :: r) with
    | .error e => .error e
    | .ok (t, vq) => .ok { t with
        vq := vq
        parrAt := if t.st == .arrived || t.st == .waiting then
            (vq.filter fun q => decide (q.push < t.parrIssued)).foldl (fun m q => Nat.max m q.retire) t.parrAt else t.parrAt
        checks := t.checks.map fun k => if k.issued = delayed && now ≤ k.cycle then { k with cycle := k.cycle + 1 } else k }

/-- A convoy that starts d cycles later takes its accesses and its checks with it (R130, R167). -/
def Core.shiftConvoy (k : Core) (ctx push d : Nat) : Core :=
  if d = 0 then k
  else
    let mine (u : BankUse) : Bool := u.origin.ctx == ctx && u.issued == push && match u.ends with | .convoy _ => true | _ => false
    let k := (k.banks.filter mine).reverse.foldl (fun k u => k.delayWrite u d) k
    ({ k with banks := k.banks.map fun u => if mine u then u.later d else u } : Core).modCtx ctx fun c =>
      { c with checks := c.checks.map fun q => if q.issued = push then { q with cycle := q.cycle + d } else q }

/-- Reschedule one context of a core, and shift the accesses of the convoys behind. -/
def Core.reschedule (k : Core) (ctx delayed now : Nat) : Except Exc Core :=
  let old := k.ctx ctx
  match old.reschedule delayed now with
  | .error e => .error e
  | .ok c =>
    let k := k.modCtx ctx fun _ => c
    .ok ((old.vq.zip c.vq).foldl (fun k p => k.shiftConvoy ctx p.1.push (p.2.starts.headD 0 - p.1.starts.headD 0)) k)

/-! ## One cycle -/

/-- What one access that comes a cycle later puts off at once: its result, an arrival (R232), its own write. -/
def Core.delayUse (k : Core) (u : BankUse) : Core :=
  (k.modCtx u.origin.ctx fun c =>
    let c := match u.ends with | .lands r t g => c.delayLanding g.isNone r t | _ => c
    if (c.st == .arrived || c.st == .waiting) && decide (u.issued < c.parrIssued) then { c with parrAt := Nat.max c.parrAt (u.later 1).ended } else c).delayWrite u 1

/-- The arrivals of a context at a barrier wait for what it had issued before (R237): the accesses that come later, and the
convoys as they now retire. -/
def Bar.delay (b : Bar) (moved : List BankUse) (vq : Nat → List VConvoy) : Bar :=
  { b with due := b.due.mapVals fun x d =>
      let t := (moved.filter fun u => u.origin.ctx == x && decide (u.issued < d.1)).foldl (fun m u => Nat.max m (u.later 1).ended) d.2
      (d.1, ((vq x).filter fun q => decide (q.push < d.1)).foldl (fun m q => Nat.max m q.retire) t) }

/-- A cycle of the banks (R130): the accesses that lose it come a cycle later, and with each all that follow in its
instruction; inside a span that raises TIMING. -/
def Core.arbitrate (k : Core) (now : Nat) : Except Exc Core :=
  let lost := k.losers now
  match firstInSpan lost with
  | some u => .error { Exc.timing 0 with origin := some u.origin }
  | none =>
    let goes (u : BankUse) : Bool := decide (now ≤ u.cycle) && lost.any (·.leads u)
    let moved := k.banks.filter goes
    let k := moved.reverse.foldl Core.delayUse k
    let k : Core := { k with banks := k.banks.map fun u => if goes u then u.later 1 else u }
    let commands := (lost.filter fun u => u.ends == .command).map fun u => (u.origin, u.issued)
    let k : Core := { k with me := commands.eraseDups.foldl (fun (e : Mat) p =>
      match e.running.find? fun m => m.origin == p.1 && m.issued == p.2 with | some m => e.later m 1 | none => e) k.me }
    let convoys := ((lost.filter fun u => match u.ends with | .convoy _ => true | _ => false).map fun u => (u.origin.ctx, u.issued)).eraseDups
    match convoys.foldlM (fun (k : Core) p => k.reschedule p.1 p.2 now) k with
    | .error e => .error e
    | .ok k => .ok { k with bars := k.bars.mapVals fun _ b => b.delay moved fun x => (k.ctx x).vq }

/-- The arbitration of a core in this cycle. -/
def State.arbitrate (s : State) (core : Nat) : Except Stop State :=
  match (s.core core).arbitrate s.now with
  | .ok k => .ok (s.setCore core k)
  | .error e => fail e

end Sys2Proof.Machine
end

