-- ==== Sys2Proof/Machine/Reread.lean ====
section
/-! DEFINITION. Loads in the cycles of their banks (R130, R153, R164): a load that has taken its value at its issue reads again
where something has come to its sector since, and what follows it takes the new value. -/

namespace Sys2Proof.Machine

/-! ## Scalar loads -/

/-- What a read of a sector through a path finds in this cycle: what stands there now, and the old content where the rules of
R164 allow it. -/
def State.mayFind (s : State) (core : Nat) (p : Path) (sec : Nat) : List (BitVec 512) :=
  let m := (s.core core).loc
  let v := m.viewSector p 0 s.now sec (s.flipOf core s.now sec)
  v.now.getD (m.content sec) :: v.old.toList

/-- A read of a sector in this cycle: its content, and the state with what has been seen. -/
def State.readNow (s : State) (core : Nat) (p : Path) (sec : Nat) : BitVec 512 × State :=
  let m := (s.core core).loc
  let q := m.ask p 0 s.now (s.flipOf core s.now sec) sec s.free
  (q.1.getD (m.content sec), { s.modCore core fun k => { k with loc := q.2.1 } with free := q.2.2 })

/-- n bits of a sector, from bit address a on. -/
def cutSector (x : BitVec 512) (a n : Nat) : Nat := x.toNat / 2 ^ (a % 512) % 2 ^ n

/-- The scalar load of an access, as its bits, its landing and its extension. -/
def BankUse.load (u : BankUse) : Option (Nat × Nat × Nat × Nat × Bool) :=
  match u.ends, u.parts with
  | .lands r t (some g), [(a, n)] => some (a, n, r, t, g)
  | _, _ => none

/-- Whether a scalar load that gets its bank in this cycle has taken a value at its issue that a read does not find any more,
because something has come to the sector in between (R130, R153). -/
def State.isStale (s : State) (core : Nat) (u : BankUse) : Bool :=
  match u.load with
  | some (a, n, r, t, g) => u.cycle == s.now && ((s.core core).ctx u.origin.ctx).land.any fun l =>
      l.load && l.reg == r && l.cycle == t && !(s.mayFind core .s (a / 512)).any fun x => extendWord g n (cutSector x a n) == l.val
  | none => false

/-- A load is read in the cycle of its bank. -/
def State.reread (s : State) (core : Nat) (u : BankUse) : State :=
  match u.load with
  | none => s
  | some (a, n, r, t, g) =>
    let (x, s) := s.readNow core .s (a / 512)
    s.modCtx core u.origin.ctx fun c =>
      { c with land := c.land.map fun l =>
          if l.load && l.reg == r && l.cycle == t then { l with val := extendWord g n (cutSector x a n) } else l }

/-! ## What a convoy does, done again -/

/-- A convoy acts on the registers that it finds: the registers after it, the convoy with its flags and results, and what it
writes to memory, as (bit address, bits, value). -/
def VConvoy.act (q : VConvoy) (t : Ctx) : Ctx × VConvoy × List (Nat × Nat × Nat) :=
  match q.work with
  | .none => (t, q, [])
  | .run l =>
    let r := t.vwalk 0 l
    (r.c, { q with flags := r.fl, vm := (q.vm.zip r.ms).map fun p => { p.1 with dstReg := p.2.dstReg } }, [])
  | .load op d code tag slot wm _ vals => (t.loaded op d code tag slot wm vals, q, [])
  | .pop d code slot wm vals => (t.popped d code slot wm vals, q, [])
  | .store op d code slot wm els => (t, q, els.map fun p => (p.2, wm, t.stored op d code slot p.1))
  | .push d slot wm es =>
    let x := t.slotBits d slot wm
    (t, q, (enumFrom 0 es).map fun p => (p.2, 512, field x (512 * p.1 + 511) (512 * p.1)))

/-- Results of a convoy that are on their way to scalar registers take their new values. -/
def Ctx.landAgain (c : Ctx) (q : VConvoy) : Ctx :=
  let rs := ((c.behind [] q).redsOf q.vm q.starts).zip (q.vm.filterMap (·.dstReg))
  { c with land := rs.foldl (fun l p => l.map fun x =>
      if x.reg == p.1.1 && x.cycle == p.1.2 && !x.load then { x with val := p.2.2 } else x) c.land }

/-- A convoy of a context acts again: in its own surroundings, on the vector registers, tags and masks as they are now. -/
def Ctx.again (c : Ctx) (q : VConvoy) : Ctx × VConvoy × List (Nat × Nat × Nat) :=
  let (t, q', ws) := q.act (c.withEnv q.env)
  let c' := { c with v := t.v, tags := t.tags, m := t.m, k := t.k }
  (c'.landAgain q', { q' with undo := { c.undoTo c' with pops := q.undo.pops } }, ws)

/-- Writes of a convoy that are still on their way take their new values. -/
def Core.rewrite (k : Core) (ctx issued : Nat) (ws : List (Nat × Nat × Nat)) : Core :=
  ws.foldl (fun (k : Core) w => (sectorsOf w.1 w.2.1).foldl (fun (k : Core) sec =>
    match SMap.get? k.loc.hist sec with
    | none => k
    | some h =>
      let n := patchOf ctx issued 0 w.1 w.2.1 w.2.2 sec
      let late := h.late.map fun p => if p.ctx == ctx && p.issued == issued && p.off == n.off && p.bits == n.bits then { p with val := n.val } else p
      if late = h.late then k else ({ k with loc := { k.loc with hist := k.loc.hist.put sec { h with late := late } } } : Core).settle sec) k) k

/-- The convoys of a context from one of them on act again, in their order; `f` is what has changed in the first. -/
def Core.redo (k : Core) (ctx push : Nat) (f : VConvoy → VConvoy) : Core :=
  let c := k.ctx ctx
  let done := c.vq.takeWhile fun q => q.push != push
  let rest := c.vq.dropWhile fun q => q.push != push
  let r := rest.foldl (fun (acc : Ctx × List VConvoy × List (Nat × List (Nat × Nat × Nat))) q =>
    let (t, q', ws) := acc.1.again (if q.push = push then f q else q)
    (t, acc.2.1 ++ [q'], acc.2.2 ++ [(q.push, ws)])) (rest.foldr (fun q t => t.undo q.undo) c, done, [])
  r.2.2.foldl (fun k w => k.rewrite ctx w.1 w.2) (k.setCtx ctx { r.1 with vq := r.2.1 })

/-! ## Vector loads -/

/-- The elements of a request, and the part of each that stands in its sector, as (element, address, first bit, bits). -/
def piecesOf (wm sec : Nat) (els : List (Nat × Nat)) : List (Nat × Nat × Nat × Nat) :=
  els.map fun p =>
    let lo := Nat.max p.2 (512 * sec)
    (p.1, p.2, lo, Nat.min (p.2 + wm) (512 * sec + 512) - lo)

/-- The convoy of a vector load with the request that an access is, and what that has read: width in memory, parts, values. -/
def Core.vloadOf (k : Core) (u : BankUse) : Option (Nat × List (Nat × Nat × Nat × Nat) × List (Nat × Nat)) :=
  match u.ends, (k.ctx u.origin.ctx).vq.find? fun q => q.push == u.issued with
  | .convoy (some _), some q => match q.work with
    | .load _ _ _ _ _ wm els vals => some (wm, piecesOf wm u.sec ((reqRuns wm none els).getD u.seq (0, [])).2, vals)
    | _ => none
  | _, _ => none

/-- Whether a request of a vector load that gets its bank in this cycle has taken other content at the push. -/
def State.isStaleV (s : State) (core : Nat) (u : BankUse) : Bool :=
  u.cycle == s.now && u.rank == 1 && !u.write && match (s.core core).vloadOf u with
  | some (_, ps, vals) => !(s.mayFind core .v u.sec).any fun x =>
      ps.all fun p => SMap.get 0 vals p.1 / 2 ^ (p.2.2.1 - p.2.1) % 2 ^ p.2.2.2 == cutSector x p.2.2.1 p.2.2.2
  | none => false

/-- A request of a vector load is read in the cycle of its bank, and its convoy acts again with those that follow. -/
def State.rereadV (s : State) (core : Nat) (u : BankUse) : State :=
  match (s.core core).vloadOf u with
  | none => s
  | some (_, ps, _) =>
    let (x, s) := s.readNow core .v u.sec
    let put (vals : List (Nat × Nat)) : List (Nat × Nat) := vals.map fun q =>
      match ps.find? fun p => p.1 == q.1 with
      | some p => (q.1, setField q.2 (p.2.2.1 - p.2.1) p.2.2.2 (cutSector x p.2.2.1 p.2.2.2))
      | none => q
    s.modCore core fun k => k.redo u.origin.ctx u.issued fun q =>
      { q with work := match q.work with
          | .load op d code tag slot wm els vals => .load op d code tag slot wm els (put vals)
          | w => w }

/-! ## A cycle of the banks -/

/-- The accesses that get their bank in this cycle. -/
def State.granted (s : State) (core : Nat) : List BankUse :=
  let lost := (s.core core).losers s.now
  (s.core core).banks.filter fun u => u.cycle == s.now && !lost.contains u

/-- Whether some load reads again in this cycle. -/
def State.readsAgain (s : State) (core : Nat) : Bool := (s.granted core).any fun u => s.isStale core u || s.isStaleV core u

/-- The arbitration of a core in this cycle, and the loads that read again in it. -/
def State.bankCycle (s : State) (core : Nat) : Except Stop State :=
  match s.arbitrate core with
  | .ok t => .ok ((t.granted core).foldl (fun t u =>
      if t.isStale core u then t.reread core u else if t.isStaleV core u then t.rereadV core u else t) t)
  | .error e => .error e

end Sys2Proof.Machine
end

