-- ==== Sys2Proof/Machine/Schedule.lean ====
section
/-! DEFINITION. What happens next. Every step of the device has an earliest cycle that its state fixes; the next move is
the first in time, and at one cycle steps come before issues, in the order of the lists below (log 1). Inputs from
outside wait in the inbox with the cycle of their arrival (log 2). -/

namespace Sys2Proof.Machine

/-- A move of the device: a step of its own, the oldest input, the arbitration of the banks of a core (R130), a check of a
load in its cycle (R167), or the issue of the next word of a context. -/
inductive Move where
  | event (i : Instr)
  | input
  | banks (core : Nat)
  | check (core ctx : Nat) (k : FaceCheck)
  | issue (core ctx : Nat)
  deriving DecidableEq, Repr

/-- The device at a cycle. -/
def State.at (s : State) (t : Nat) : State := { s with now := Nat.max s.now t }

/-- The device at a cycle with a context in focus. -/
def State.atCtx (s : State) (t core ctx : Nat) : State := { s.at t with focusCore := core, focusCtx := ctx }

/-- The word that the context in focus would issue. -/
def State.nextWord (s : State) : IWord := s.fetchWord s.cur.pc

/-! ## Inputs -/

/-- The rows that stand for something done to the device from outside (R310, R341 to R343, R351, R354, R357). -/
def isInput (i : Instr) : Bool :=
  match i with
  | .mboxSubWrite _ | .mboxCmpWrite _ | .hctlHaltRequest _ _ | .hctlRelease _ _ | .svdataRead _ | .svdataWrite _ _
  | .registerWrite _ _ _ | .ecccntWrite _ | .hostWindowRead _ _ | .hostWindowWrite _ _ _ | .scUnknownCommand _
  | .slotTableWrite _ _ _ | .flitReceive _ _ | .powerWarn _ _ | .powerTrip _ _ | .tbwpWrite
  | .moduleReset | .bootGo | .scReadPublicKey | .scAttest | .scReadSignatureIndex => true
  | _ => false

/-- The oldest input takes effect; one that finds no occasion changes nothing. -/
def State.takeInput (s : State) : State :=
  match s.inbox with
  | [] => s
  | (_, i) :: r =>
    let s := { s with inbox := r }
    if isInput i then (match exec i s with | .next t => t | _ => s) else s

/-! ## Candidates with their earliest cycles -/

/-- A candidate: cycle and move. -/
abbrev Cand := Nat × Move

/-- A step whose cycle is known. -/
def cand (t : Nat) (i : Instr) : Cand := (t, .event i)

/-- A step whose cycle may be unknown. -/
def cand? (t : Option Nat) (i : Instr) : List Cand := match t with | some t => [cand t i] | none => []

/-- The least number of a list. -/
def least : List Nat → Option Nat
  | [] => none
  | a :: r => match least r with | some b => some (Nat.min a b) | none => some a

/-- The cycle in which a clock reads n. -/
def Clock.reaches (c : Clock) (now n : Nat) : Option Nat :=
  if c.read now < n then (if c.run then some (now + (n - c.read now)) else none) else some now

/-- The next multiple of n that DTIME reaches, as a cycle; this cycle only when `done` is not it. -/
def State.boundary (s : State) (n : Nat) (done : Option Nat) : Nat :=
  let r := s.dtime.toNat % n
  if r = 0 && done != some s.now then s.now else s.now + (n - r)

/-- Boundaries of the ports' time, once DTIME runs. -/
def State.timeCands (s : State) : List Cand :=
  if s.power.on then
    [cand (s.boundary 640000 s.ports.rotated) .rotationBoundary, cand (s.boundary 10000 s.ports.slotted) .slotBoundary]
  else []

/-- The oldest input. -/
def State.inputCands (s : State) : List Cand :=
  match s.inbox with
  | (t, _) :: _ => [(t, .input)]
  | [] => []

/-- The patrol scrub, which comes after what the device does in its cycle (R347). -/
def State.scrubCands (s : State) : List Cand := if 3 ≤ s.bar.stage then [cand s.scrubAt (.patrolScrub s.scrubNext)] else []

/-- Bring-up, the security core and the photonic layer. -/
def State.unitCands (s : State) : List Cand :=
  (if s.bar.stopped then []
   else match s.bar.stage with
     | 0 => [cand s.now .powerGood] | 1 => [cand s.now .firmwareVerify] | 2 => [cand s.now .memoryTraining]
     | 3 => [cand s.now .portTraining] | 4 => [cand s.now .scerathLoad] | _ => [])
  ++ (if s.sec.busy then [cand s.sec.due .scCommandDone] else [])
  ++ cand? s.wakeAt .photonicWakeup

/-- Results and vector convoys of a context. -/
def Ctx.resultCands (t : Ctx) (core ctx : Nat) : List Cand :=
  cand? (least (t.land.map (·.cycle))) (.resultLanding core ctx)
  ++ cand? (least ((t.vq.filter fun q => q.started == 0).map fun q => q.starts.headD 0)) (.vectorConvoyStart core ctx)
  ++ cand? (least ((t.vq.filter fun q => q.started != 0 && decide (q.started < q.starts.length)).map fun q => q.starts.getD q.started 0))
      (.vectorMemberStart core ctx)
  ++ cand? (least ((t.vq.filter fun q => decide (q.starts.length ≤ q.started)).map (·.retire))) (.vectorConvoyRetire core ctx)

/-- The turn queue of a context. -/
def Ctx.turnCands (t : Ctx) (core ctx : Nat) : List Cand :=
  match t.turns with
  | [] => []
  | u :: _ =>
    (if u.start.isNone then [cand (t.turnStartAt u) (.turnStart core ctx)] else [])
    ++ cand? u.nextFlip (.turnGroupFlip core ctx) ++ cand? u.endsAt (.turnComplete core ctx)

/-- Arrival, the end and the span of a context, and its halt. -/
def Ctx.endCands (t : Ctx) (core ctx : Nat) : List Cand :=
  (if (t.st == .arrived || t.st == .waiting) && !t.parrEff then [cand t.parrAt (.parrTakesEffect core ctx)] else [])
  ++ (if t.exiting then [cand (t.writes.foldl (fun m q => Nat.max m (q.2 + 1)) (Nat.max t.issueAt t.doneAt)) (.exitComplete core ctx)] else [])
  ++ (match t.span with
      | some p => [cand t.ready (.spanClose core ctx), cand (p.start + 512) (.spanOverrun core ctx)]
      | none => [])
  ++ (if t.haltReq.isSome then [cand 0 (.haltLanding core ctx)] else [])

/-- The cycle in which a core's VCYC reads n, when it runs. -/
def State.vcycAt (s : State) (core n : Nat) : Option Nat := (s.core core).vcyc.reaches s.now n

/-- The cycle of the landing of exchange VCYC n (R261). -/
def State.landingAt (s : State) (core n : Nat) : Nat :=
  let v := s.landingCycle core
  if v < n then s.now + (n - v) else s.now

/-- The descriptors of a core that start. -/
def State.startCands (s : State) (core : Nat) : List Cand :=
  (s.core core).slots.flatMap fun p =>
    if p.2.started || p.2.kind == .xfar then [] else cand? (s.vcycAt core p.2.START) (.descriptorStart core p.1)

/-- The beats of the descriptors of a core. -/
def State.beatCands (s : State) (core : Nat) : List Cand :=
  (s.core core).slots.flatMap fun p =>
    if !p.2.started then []
    else (match p.2.nextAct with | some t => cand? (s.vcycAt core t) (.descriptorBeat core p.1) | none => [])
      ++ (match p.2.nextLaunched with
          | some a => [cand (s.landingAt core a.cycle) (.descriptorBeat core p.1)]
          | none => [])

/-- The descriptors of a core that have landed, and far descriptors that are handed over. -/
def State.landedCands (s : State) (core : Nat) : List Cand :=
  (s.core core).slots.flatMap fun p =>
    if p.2.landed.isSome then []
    else if p.2.kind == .xfar then
      (cand? (s.vcycAt core p.2.START) (.xfarHandoff core p.1)).map fun c => (Nat.max c.1 (p.2.accepted + 1), c.2)
    else if p.2.started then [cand (s.landingAt core p.2.landAt) (.descriptorLanded core p.1)] else []

/-- The fills of a core: their sources, and the landings in DEVICE space. -/
def State.farCands (s : State) (core : Nat) : List Cand :=
  (s.core core).fills.flatMap fun f =>
    if f.data.isNone then [cand (s.beatsEnd (sliceBanks f.desc.src) (Nat.max s.now f.due)) (.farSourceRead core f.desc.seq)]
    else if f.desc.toQueue.isNone then [cand (s.beatsEnd (sliceBanks f.desc.dst) (Nat.max s.now f.due)) (.fillLand core f.desc.seq)] else []

/-- The entries of the queues of a core that are filled or drained, in bank cycles that nothing else wants (R130, R145). -/
def State.entryCands (s : State) (core : Nat) : List Cand :=
  let k := s.core core
  let from0 (sec t : Nat) : Nat := s.beatsEnd [bankOf core sec] (k.freeFrom sec (Nat.max s.now t))
  (k.fills.flatMap fun f => match f.data, f.desc.toQueue with
    | some _, some q => [cand (from0 (k.fillSector q) f.due) (.fillLand core f.desc.seq)]
    | _, _ => [])
  ++ (k.queues.flatMap fun p =>
      if p.2.dir == 2 && p.2.avail != 0 then
        [cand (s.beatsEnd (s.drainBanks p.2) (from0 (p.2.entry 0 / 512) (Nat.max p.2.drainAt (k.entryWritten p.2)))) (.queueDrainEntry core p.1)]
      else [])

/-- The matrix engine of a core. -/
def State.engineCands (s : State) (core : Nat) : List Cand :=
  let e := (s.core core).me
  (match e.nextDrain with | some (_, _, _, t) => [cand t (.drainSectorWrite core)] | none => [])
  ++ (match e.nextDone with | some (_, t) => [cand t (.matrixCommandComplete core)] | none => [])
  ++ (match (s.core core).nextRead with | some (_, t) => [cand t (.matrixCommandStart core)] | none => [])
  ++ (match s.nextCommand core with | some (_, t) => [cand t (.matrixCommandStart core)] | none => [])

/-- Context barriers and the arrival of a core. -/
def State.barrierCands (s : State) (core : Nat) : List Cand :=
  let k := s.core core
  (k.bars.flatMap fun b => (b.2.due.map fun d => cand d.2.2 (.cbArrivalEffect core d.1 b.1))
    ++ [cand (b.2.last + 1) (.cbGenerationComplete core b.1)])
  ++ (if k.arrived then [] else [cand 0 (.coreArrived core)])

/-- The cycles to come in which some access wants a bank of a core. -/
def State.bankCands (s : State) (core : Nat) : List Cand :=
  ((((s.core core).banks.map (·.cycle)).filter fun t => decide (s.now ≤ t)).eraseDups).map fun t => (t, .banks core)

/-- The checks of the loads of a core that are to come. -/
def State.checkCands (s : State) (core : Nat) : List Cand :=
  (s.core core).ctxs.flatMap fun p => (p.2.checks.filter fun k => decide (s.now ≤ k.cycle)).map fun k => (k.cycle, .check core p.1 k)

/-- Every step of a core of the slice, kind by kind: at one cycle results come before flips, and flips before the writes
of exchanges, drains and commands (R163), on every core. -/
def State.coreKinds (s : State) : List (Nat → List Cand) :=
  let each (f : Ctx → Nat → Nat → List Cand) (core : Nat) : List Cand := (s.core core).ctxs.flatMap fun p => f p.2 core p.1
  [s.bankCands, each Ctx.resultCands, each Ctx.turnCands, s.startCands, s.beatCands, s.landedCands, s.farCands, s.engineCands,
    s.checkCands, each Ctx.endCands, s.barrierCands]

/-- The system cores that execute. -/
def State.sysCores (s : State) : List Nat := (rangeFrom 0 8).filter fun k => (s.core (sysCore k)).sysRun

/-- Every step of a system core. -/
def State.sysCands (s : State) (k : Nat) : List Cand :=
  s.bankCands (sysCore k)
  ++ ((s.core (sysCore k)).ctxs.flatMap fun p => p.2.resultCands (sysCore k) p.1 ++ p.2.turnCands (sysCore k) p.1 ++ p.2.endCands (sysCore k) p.1)
  ++ s.checkCands (sysCore k) ++ [cand 0 (.systemTrapEntry k)]

/-- The running slice as a whole. -/
def State.sliceCands (s : State) : List Cand :=
  match s.slice with
  | none => []
  | some r =>
    (match r.arrivedAt with | some t => [cand (t + 32 + s.spillDelay) .phaseChange] | none => [])
    ++ (if r.ending then [cand 0 .sliceCompletion] else [])
    ++ (if r.preempt then [cand 0 .preemption] else [])
    ++ (if r.lr.budget != 0 && !r.budgetPend then cand? (r.spent.reaches s.now r.budget) .budgetExhausted else [])
    ++ (if r.hgOn then cand? (r.hg.reaches s.now r.lr.hgl) .straggler else [])

/-- The dispatcher. -/
def State.dispCands (s : State) : List Cand :=
  (match leastBy Record.key s.disp.trapWait with | some r => [cand (r.cycle + 1) .trapRecordEnqueue] | none => [])
  ++ (if s.disp.waitRecs.isEmpty then [] else [cand 0 .recordWrite])
  ++ (match s.entry with
      | some (1, _) => [cand 0 .submitSlice] | some (2, _) => [cand 0 .submitGraph] | some (3, _) => [cand 0 .submitKill]
      | some _ => [cand 0 .submitIgnored] | none => [])
  ++ (s.disp.walks.flatMap fun w => [cand 0 (.graphSliceNode w.1), cand 0 (.graphCondNode w.1), cand 0 (.graphLoopNode w.1)])
  ++ (match s.disp.picked with
      | some b => [cand s.disp.startAt (if b.saved then .sliceResume else .sliceStart)] | none => [])

/-- The debug unit and the ports. -/
def State.restCands (s : State) : List Cand :=
  (match leastBy traceKey s.dbg.waiting with
    | some r => [cand (if field r.toNat 255 192 = s.dtime.toNat then s.now + 1 else s.now) .traceRecord]
    | none => [])
  ++ (if s.dbg.panic.isSome && !s.dbg.frozen then [cand 0 .panicFreeze, cand (s.dbg.panicAt + 20000) .panicFreeze] else [])
  ++ (if s.portsLive && s.ports.sendq.any fun q => !q.2.isEmpty then
        (rangeFrom 0 48).map fun p => cand (s.now + (500 - s.dtime.toNat % 10000)) (.flitTransmit p) else [])

/-- The contexts of a core that could issue, in the order in which they do so at one cycle. -/
def Core.issueCands (k : Core) (core : Nat) : List Cand :=
  k.ctxs.filterMap fun p => if p.2.stalled then none else some (p.2.issueAt, .issue core p.1)

/-- Every candidate, in the order that decides at one cycle. -/
def State.cands (s : State) : List Cand :=
  s.timeCands ++ s.inputCands ++ s.unitCands ++ (s.coreKinds.flatMap fun f => s.sliceCores.flatMap f) ++ s.sysCores.flatMap s.sysCands
  ++ s.sliceCands ++ s.dispCands ++ s.restCands
  ++ (s.sliceCores.flatMap fun c => (s.core c).issueCands c)
  ++ (s.sysCores.flatMap fun k => (s.core (sysCore k)).issueCands (sysCore k))
  ++ s.sliceCores.flatMap s.entryCands
  ++ s.scrubCands

/-! ## The next move -/

/-- Insert a candidate after every one of an earlier or the same cycle. -/
def insertCand (c : Cand) : List Cand → List Cand
  | [] => [c]
  | d :: r => if c.1 < d.1 then c :: d :: r else d :: insertCand c r

/-- The candidates by cycle, no cycle before this one; the order at one cycle stays. -/
def State.agenda (s : State) : List Cand :=
  s.cands.foldl (fun l c => insertCand (Nat.max s.now c.1, c.2) l) []

/-- Whether an outcome is a next state. -/
def isNext (o : Host.Outcome State Fault Refusal) : Bool := match o with | .next _ => true | _ => false

/-- Whether a candidate has its occasion. -/
def State.ready (s : State) (c : Cand) : Bool :=
  match c.2 with
  | .event i => isNext (exec i (s.at c.1))
  | .input => true
  | .banks core => !((s.core core).losers (Nat.max s.now c.1)).isEmpty || (s.at c.1).readsAgain core
  | .check core _ k => (s.at c.1).checkDue core k
  | .issue core ctx => (s.atCtx c.1 core ctx).fetching

/-- What a candidate leads to. -/
def State.outcome (s : State) (c : Cand) : Host.Outcome State Fault Refusal :=
  match c.2 with
  | .event i => exec i (s.at c.1)
  | .input => .next (s.at c.1).takeInput
  | .banks core => (s.at c.1).stepped {} ((s.at c.1).bankCycle core)
  | .check core ctx k => (s.at c.1).stepped k.origin ((s.at c.1).runCheck core ctx k)
  | .issue core ctx => exec (fetchInstr (s.atCtx c.1 core ctx).nextWord) (s.atCtx c.1 core ctx)

/-- The core, 1024 and up for a system core, and the context at whose place in the order of a cycle a candidate acts. -/
def moveAt (m : Move) : Option (Nat × Nat) :=
  match m with
  | .issue core ctx => some (core, ctx)
  | .banks core => some (core, 0)
  | .check core ctx _ => some (core, ctx)
  | .input => none
  | .event i => match i with
    | .resultLanding c x | .vectorConvoyStart c x | .vectorMemberStart c x | .vectorConvoyRetire c x | .turnStart c x
    | .turnGroupFlip c x | .turnComplete c x | .spanClose c x | .spanOverrun c x | .exitComplete c x | .parrTakesEffect c x
    | .haltLanding c x | .cbArrivalEffect c x _ => some (c, x)
    | .descriptorStart c _ | .descriptorBeat c _ | .descriptorLanded c _ | .xfarHandoff c _ | .farSourceRead c _ | .fillLand c _
    | .queueDrainEntry c _ | .matrixCommandStart c | .drainSectorWrite c | .matrixCommandComplete c | .coreArrived c
    | .cbGenerationComplete c _ => some (c, 0)
    | .phaseChange => some (0, 0)
    | _ => none

/-- The record of the fault by which a candidate would end the slice, if it would. An SLKILL is no fault. -/
def State.faultOf (s : State) (c : Cand) : Option Record :=
  if (match c.2 with | .issue core _ => decide (1024 ≤ core) | _ => false) then none
  else match s.slice, s.outcome c with
  | some _, .next t => if t.slice.isNone then (t.disp.waitRecs.getLast?).filter (·.rkind == 1) else none
  | _, _ => none

/-- R299: the fault on the lowest core, then the lowest context, then the lowest member. -/
def Record.precedes (a b : Record) : Bool :=
  decide (a.core < b.core) || (a.core == b.core && (decide (a.ctx < b.ctx) || (a.ctx == b.ctx && decide (a.midx < b.midx))))

/-- Of the candidates of a cycle, the fault that R299 names, given one of them. -/
def State.bestFault (s : State) (now : List Cand) (c : Cand) (r : Record) : Cand × Record :=
  now.foldl (fun (best : Cand × Record) d =>
    match s.faultOf d with
    | some q => if q.precedes best.2 then (d, q) else best
    | none => best) (c, r)

/-- The next move and its cycle: the first candidate that has its occasion. Where it would end the slice by a fault, the
fault of the same cycle that R299 names goes first; what a lower core or context does in that cycle comes before it, as it
may lead to a fault that goes first (log 50). -/
def State.nextMove (s : State) : Option Cand :=
  match s.agenda.find? s.ready with
  | none => none
  | some c =>
    match s.faultOf c with
    | none => some c
    | some r =>
      let now := s.agenda.filter fun d => d.1 == c.1 && s.ready d
      let best := s.bestFault now c r
      some ((now.find? fun d => match moveAt d.2 with
        | some (core, ctx) => (s.faultOf d).isNone && decide (core < best.2.core || (core = best.2.core && ctx < best.2.ctx))
        | none => false).getD best.1)

end Sys2Proof.Machine
end

