-- ==== Sys2Proof/Machine/Step.lean ====
section
/-! DEFINITION. One step of the device: its next move (log 1). A program comes to run through the dispatcher; how, and
what `withFetchWord` stands for, is log 2. -/

namespace Sys2Proof.Machine

/-- The next move of the device. Where nothing is due, a cycle passes. -/
def step (s : State) : Host.Outcome State Fault Refusal :=
  match s.nextMove with
  | some (t, .event i) => exec i (s.at t)
  | some (t, .input) => .next (s.at t).takeInput
  | some (t, .banks core) => (s.at t).stepped {} ((s.at t).arbitrate core)
  | some (t, .check core ctx k) => (s.at t).stepped k.origin ((s.at t).runCheck core ctx k)
  | some (t, .issue core ctx) => exec (fetchInstr (s.atCtx t core ctx).nextWord) (s.atCtx t core ctx)
  | none => .next { s with now := s.now + 1 }

/-- The launch record of a slice with one context on core 0: cluster 0, CTXMASK 1, MEOWN 0, SLICEID 1,
timing class 1, a grant of 64, and HGL at its greatest (R285). -/
def oneContext : LaunchRec :=
  { raw := BitVec.ofNat 2048 (2 ^ 1024 + 2 ^ 224 * (2 ^ 32 - 1) + 2 ^ 192 * 64 + 2 ^ 160 + 2 ^ 56 + 2 ^ 48 + 2 ^ 32 + 2 ^ 16 + 2 ^ 6) }

/-- The device after a launch that placed the words of a program at word 0 of the instruction store of core 0 (log 2). -/
def State.withFetchWord (s : State) (nbits w : Nat) : State :=
  { s with
    bar := { s.bar with stage := 6 }, power := { s.power with on := true }
    ports := { s.ports with rotated := some s.now, slotted := some s.now }
    slice := some { lr := oneContext, cores := [0], spent := { run := true, base := s.now } }
    cores := SMap.put s.cores 0
      { ctxs := [(0, freshCtx oneContext 0 0)], ist := [(0, BitVec.ofNat 32 (w % 2 ^ nbits))], vcyc := { run := true, base := s.now } } }

end Sys2Proof.Machine
end

