-- ==== Sys2Proof/Safety.lean ====
section
/-! DEFINITION. The terms in which claims about the machine are stated: when a word is taken up, what counts as left
alone, a safe run, and the canonical form of every memory. -/

namespace Sys2Proof.Safety

open Sys2Proof.Machine

/-! ## Taking up a word -/

/-- Word i of the context in focus is taken up: the context fetches (R111, R231, R300), every check before issue passes
and the scoreboard lets it issue (R54, R98, R119), and the guard of its convoy, if there is one, has passed (R116). v is
the convoy it belongs to and s1 the state in which it takes effect. -/
def Taken (i : Instr) (s : State) (v : Cv) (s1 : State) : Prop :=
  s.fetching = true ∧ s.front i = .ok (v, s1) ∧ v.failed = false

/-- Where control goes after the word at the pc, when the word itself names `pc` as the next address: the loop stack
after it and the address (R114, R150). -/
def following (s : State) (v : Cv) (loops : List LoopEnt) (pc : Nat) : List LoopEnt × Nat :=
  if v.idx + 1 < v.n then (loops, pc) else v.next s.cur.pc pc loops

/-- The convoy goes on with its next member, or its next address can be fetched (R111). -/
def Goes (s : State) (v : Cv) (loops : List LoopEnt) (pc : Nat) : Prop :=
  v.idx + 1 < v.n ∨ fetchable (following s v loops pc).2 = true

/-! ## What is left alone -/

/-- Only the context in focus differs, and whether the VCYC of its core is held. Everything else stays: every other
context and core, every memory, queue and unit, the slice, the dispatcher, the phase and the host's side. -/
def OnlyFocus (s t : State) : Prop :=
  ∃ c vc, t = s.setCore s.focusCore { s.curCore with ctxs := SMap.put s.curCore.ctxs s.focusCtx c, vcyc := vc }

/-- Bit q of a memory (R22). -/
def bitAt (m : Memory) (q : Nat) : Bool := (m.byte (q / 8)).getLsbD (q % 8)

/-- Every byte of every memory reads as before. -/
def SameMemory (s t : State) : Prop :=
  ∀ (p : Place) (a : Nat), (t.spaceAt p).bytes.byte a = (s.spaceAt p).bytes.byte a

/-- A context without what issue and retirement move in every instruction (the pc, the issue cycle, the convoy in issue,
the loop stack, a wait, and what a comparator matched inside a span leaves), without its registers and without results
still to land or to be dropped or checks of loads still to come. -/
def rest (c : Ctx) : Ctx :=
  { c with pc := 0, issueAt := 0, ready := 0, cv := none, loops := [], redo := [], stalled := false, qstall := false,
           bkPass := false, bkHeld := 0, heldTraps := [], haltReq := none, regs := [], land := [], checks := [], doneAt := 0 }

/-- What an instruction with one scalar result leaves unchanged: every other register, the flags and every special
register (all in `rest`), and every byte of memory. -/
def ScalarFrame (s t : State) (d : Reg) : Prop :=
  (∀ n, n ≠ d → t.reg n = s.reg n) ∧ rest t.cur = rest s.cur ∧ SameMemory s t ∧ OnlyFocus s t

/-! ## Safe runs -/

/-- A run of n steps from s never stops. -/
def Runs : Nat → State → Prop
  | 0, _ => True
  | n + 1, s => match step s with
    | .next t => Runs n t
    | _ => False

/-! ## The canonical form of every memory -/

/-- Every memory of the device is in canonical form (log 3). -/
structure MemoryOk (s : State) : Prop where
  loc : ∀ p ∈ s.cores, p.2.loc.bytes.wf = true
  phys : s.phys.bytes.wf = true
  host : s.host.bytes.wf = true
  peer : s.peer.bytes.wf = true
  nvme : s.nvme.wf = true
  buf : s.sec.buf.wf = true
  tables : s.sysTables.wf = true
  latched : ∀ r, s.slice = some r → r.tables.wf = true

end Sys2Proof.Safety
end

