-- ==== Sys2Proof/Certificates/Slice0/Obligations.lean ====
section
/-! DEFINITION. The claims about the machine, one `def Obligations.<Name>` each, with the tables of effects that they
cite. Each docstring names the rules of the spec it formalises; a title that says "the model's choice" rests on the log
entry it names. -/

namespace Sys2Proof.Claims

open Sys2Proof Sys2Proof.Machine Sys2Proof.Safety

/-! ## What a word needs to run -/

/-- Word i is taken up, and control goes on with its convoy or with the word that follows. -/
def Issues (i : Instr) (s : State) (v : Cv) (s1 : State) : Prop := Taken i s v s1 ∧ Goes s v s.cur.loops (s.cur.pc + 32)

/-- The address after the word, a loop end taken into account (R114). -/
def nextPc (s : State) (v : Cv) : Nat := (following s v s.cur.loops (s.cur.pc + 32)).2

/-- Scalar word i heads a convoy of its own on a compute core, outside every span and loop, and every check before those of
its operands passes: no comparator stops it, no result is on its way, no unit is taken, its store word is good and the next one
can be fetched (R41, R54, R98, R111). -/
def AtHead (i : Instr) (s : State) : Prop :=
  s.fetching = true ∧ s.onSys = false ∧ s.cur.cv = none ∧ s.cur.span = none ∧ s.cur.loops = [] ∧ s.cur.bkPass = true
  ∧ s.cur.redo = [] ∧ fetchable (s.cur.pc + 32) = true ∧ s.curCore.istBad = [] ∧ s.cur.land = [] ∧ s.scoreboard i = .ok ()

/-- The engine of the core in focus has nothing to do, or another context owns it. -/
def engineIdle (s : State) : Prop := s.focusCtx ≠ s.lr.meown ∨ (s.curCore.me.queue = [] ∧ s.curCore.me.running = [])

/-- Every earlier convoy of the context has retired and every earlier result has landed, or a span is open. -/
def retired (s : State) : Prop :=
  s.cur.span.isSome = true ∨ (s.cur.vq = [] ∧ s.cur.doneAt ≤ s.now ∧ ∀ l, l ∈ s.cur.land → l.cycle ≤ s.now)

/-- n bits at a are LOCAL, in no sync sector and not in the segment pool; race detection is off (R127, R268). -/
def InPlace (s : State) (a n : Nat) : Prop :=
  a + n ≤ 2 ^ 23 ∧ s.touchesSync a n = false ∧ s.touchesPool a n = false ∧ s.lr.racem = 0

/-- No access of the core in focus holds or will hold a bank of its scratchpad, so that none is lost (R130). -/
def BanksFree (s : State) : Prop := s.curCore.quiet s.now = true

/-- A read of n bits at a passes every check of R127, waits for no flip and no bank, and finds no other content than the
one stored (R164, R167): the words are good, and every sector is IN with no turnaround behind it. -/
def Readable (s : State) (a n : Nat) : Prop :=
  InPlace s a n ∧ s.curCore.loc.syn = [] ∧ s.curCore.loc.hist = [] ∧ (s.cur.turns = [] ∨ engineIdle s) ∧ BanksFree s
  ∧ ∀ sec, sec ∈ sectorsOf a n → s.curCore.loc.isOut sec = false

/-- A write of n bits at a passes every check of R127 and R128 and waits for nothing (R130, R163, R224). -/
def Writable (s : State) (a n : Nat) : Prop :=
  InPlace s a n ∧ s.curCore.loc.syn = [] ∧ s.cur.turns = [] ∧ engineIdle s ∧ BanksFree s

/-- t is s after a store of the low n bits of x at a in the scratchpad of the core in focus: they are read back, every
other bit keeps its value, those of a partly covered byte among them, every other memory keeps all its bytes, and every
sector touched is OUT (R128, R155). -/
def Stored (s t : State) (a n x : Nat) : Prop :=
  t.curCore.loc.bytes.bits a n = x % 2 ^ n
  ∧ (∀ q, q < a ∨ a + n ≤ q → bitAt t.curCore.loc.bytes q = bitAt s.curCore.loc.bytes q)
  ∧ (∀ c, 8 * c + 8 ≤ a ∨ a + n ≤ 8 * c → t.curCore.loc.bytes.byte c = s.curCore.loc.bytes.byte c)
  ∧ (∀ p, p ≠ Place.loc s.focusCore → t.spaceAt p = s.spaceAt p)
  ∧ (∀ sec, sec ∈ sectorsOf a n → s.isSync sec = false → s.inPool (512 * sec) = false → t.curCore.loc.isOut sec = true)

/-- t is s after a load of group d, in slots of `slot` bits: every active element e holds val e, and every other element
below VL keeps its value (R135, R177). -/
def Loaded (s t : State) (d slot : Nat) (val : Nat → Nat) : Prop :=
  ∀ e, e < s.cur.vl → t.cur.elem d slot e = if s.cur.active e = true then val e % 2 ^ slot else s.cur.elem d slot e

/-- t is s after a vector store of n bits at an address for each element of a list: the bits of an element that no later
one overlaps are read back, every bit outside them all keeps its value, those of a partly covered byte among them, every
other memory keeps all its bytes, and every sector touched is OUT (R128, R135, R155). -/
def StoredAll (s t : State) (els : List Nat) (at0 : Nat → Nat) (n : Nat) (val : Nat → Nat) : Prop :=
  (∀ e, e ∈ els → (∀ j, j ∈ els → e < j → at0 j + n ≤ at0 e ∨ at0 e + n ≤ at0 j) → t.curCore.loc.bytes.bits (at0 e) n = val e % 2 ^ n)
  ∧ (∀ q, (∀ e, e ∈ els → q < at0 e ∨ at0 e + n ≤ q) → bitAt t.curCore.loc.bytes q = bitAt s.curCore.loc.bytes q)
  ∧ (∀ p, p ≠ Place.loc s.focusCore → t.spaceAt p = s.spaceAt p)
  ∧ (∀ e sec, e ∈ els → sec ∈ sectorsOf (at0 e) n → s.isSync sec = false → s.inPool (512 * sec) = false → t.curCore.loc.isOut sec = true)

/-- The address of element e of an indexed access: g[A] plus the slot of group B, signed as its tag says, modulo 2^64 (R134). -/
def indexed (s : State) (a b : Reg) (tb e : Nat) : Nat :=
  let sb := (slotWidth tb).getD 32
  let x := s.cur.elem b.toNat sb e
  (((s.reg a).toNat + (if isSignedTag tb then signed sb x else (x : Int))) % (2 ^ 64 : Nat)).toNat

/-- Entry n of the layout table of the core in focus (R137). -/
def entryOf (s : State) (n : Nat) : BitVec 256 := BitVec.ofNat 256 (s.curCore.loc.bytes.bits (s.lr.ltbase + 256 * n) 256)

/-- The address of element e of a tensor from a starting coordinate on, if it lies within the sizes (R139, R140). -/
def tensorAt (l : BitVec 256) (start : Word) (wm e : Nat) : Option Nat :=
  (walkCoord l start e).map fun c => ltAddr l wm c.1 c.2.1 c.2.2.1 c.2.2.2

/-- The blocks of sixteen below VL that have an active element (R136). -/
def activeBlocks (c : Ctx) : List Nat := (rangeFrom 0 (c.vl / 16)).filter fun k => (rangeFrom (16 * k) 16).any c.active

/-- The element e of a block, as a slot holds it (R88, R136). -/
def blockSlot (p : PBlock) (e : Nat) : Nat := pipSlot (p.el.getD (e % 16) (false, 0)) (p.mu.getD (e % 16 / 2) 0)

/-- Every byte of every memory but the module's reads as before: the dispatcher's tables stand in the module's memory (R295). -/
def OtherMemory (s t : State) : Prop :=
  ∀ (p : Place) (a : Nat), p ≠ Place.phys → (t.spaceAt p).bytes.byte a = (s.spaceAt p).bytes.byte a

/-- No scalar register, flag or other special register changes, and no result is on its way that was not before. -/
def KeepsRegs (s t : State) : Prop := t.cur.regs = s.cur.regs ∧ t.cur.land = s.cur.land ∧ t.cur.flg = s.cur.flg ∧ t.cur.wb = s.cur.wb

/-! ## Values of the instructions with one scalar result, written from R99 to R107 -/

/-- The first k below 64 with a property, or 64. -/
def firstBit (p : Nat → Bool) : Word := BitVec.ofNat 64 (((List.range 64).find? p).getD 64)

/-- 1 or 0. -/
def bit (p : Prop) [Decidable p] : Word := if p then 1 else 0

/-- Instructions of latency 1 that write g[d] alone: the register and its value. -/
def oneCycle (i : Instr) (s : State) : Option (Reg × Word) :=
  let n (r : Reg) : Nat := (s.reg r).toNat
  let z (r : Reg) : Int := (s.reg r).toInt
  match i with
  | .add d a b => some (d, BitVec.ofNat 64 (n a + n b))
  | .sub d a b => some (d, BitVec.ofInt 64 (n a - n b))
  | .and d a b => some (d, s.reg a &&& s.reg b)
  | .or d a b => some (d, s.reg a ||| s.reg b)
  | .xor d a b => some (d, s.reg a ^^^ s.reg b)
  | .shl d a b => some (d, if n b < 64 then BitVec.ofNat 64 (n a * 2 ^ n b) else 0)
  | .shr d a b => some (d, if n b < 64 then BitVec.ofNat 64 (n a / 2 ^ n b) else 0)
  | .sar d a b => some (d, if n b < 64 then BitVec.ofInt 64 (z a / 2 ^ n b) else if z a < 0 then -1 else 0)
  | .min d a b => some (d, BitVec.ofInt 64 (Min.min (z a) (z b)))
  | .max d a b => some (d, BitVec.ofInt 64 (Max.max (z a) (z b)))
  | .minn d a b => some (d, BitVec.ofNat 64 (Min.min (n a) (n b)))
  | .maxn d a b => some (d, BitVec.ofNat 64 (Max.max (n a) (n b)))
  | .sel d a b => some (d, if n d = 0 then s.reg b else s.reg a)
  | .cmpeq d a b => some (d, bit (n a = n b))
  | .cmpne d a b => some (d, bit (n a ≠ n b))
  | .cmplt d a b => some (d, bit (z a < z b))
  | .cmpltn d a b => some (d, bit (n a < n b))
  | .cmple d a b => some (d, bit (z a ≤ z b))
  | .cmplen d a b => some (d, bit (n a ≤ n b))
  | .clz d a => some (d, firstBit fun k => (s.reg a).getLsbD (63 - k))
  | .ctz d a => some (d, firstBit fun k => (s.reg a).getLsbD k)
  | .popc d a => some (d, BitVec.ofNat 64 ((List.range 64).filter (s.reg a).getLsbD).length)
  | .bext d a b => some (d, BitVec.ofNat 64 (n a / 2 ^ (n b % 64) % 2 ^ (n b / 2 ^ 8 % 64 + 1)))
  | .bins d a b => some (d, wBins (s.reg d) (s.reg a) (s.reg b))
  | .brev d a => some (d, (s.reg a).reverse)
  | .addi d a i => some (d, BitVec.ofInt 64 (z a + i.toInt))
  | .andi d a i => some (d, s.reg a &&& BitVec.ofInt 64 i.toInt)
  | .ori d a i => some (d, s.reg a ||| BitVec.ofInt 64 i.toInt)
  | .xori d a i => some (d, s.reg a ^^^ BitVec.ofInt 64 i.toInt)
  | .shli d a i => some (d, s.reg a <<< i.toNat)
  | .shri d a i => some (d, s.reg a >>> i.toNat)
  | .sari d a i => some (d, (s.reg a).sshiftRight i.toNat)
  | .li d i => some (d, BitVec.ofInt 64 i.toInt)
  | .lis d i => some (d, BitVec.ofNat 64 (n d * 2 ^ 18 + i.toNat))
  | .padd d a b w => some (d, BitVec.ofInt 64 (z a + z b * widthOf w))
  | .psub d a b w => some (d, BitVec.ofInt 64 (z a - z b * widthOf w))
  | .paln d a b w => some (d, BitVec.ofInt 64 (z b + (s.reg a - s.reg b).toInt / widthOf w * widthOf w))
  | .pcls d a w => some (d, if packedWidth (widthOf w) then 1 else if n a % widthOf w = 0 then 0 else 2)
  | .ptest d => some (d, s.ptest)
  | .mstat d => some (d, s.curCore.me.mstate)
  | _ => none

/-- Instructions whose result lands later and that do nothing else but occupy their unit: register, value, latency and
flags (R98, R99, R104, R107, R149, R169, R248). -/
def lateResult (i : Instr) (s : State) : Option (Reg × Word × Nat × BitVec 7) :=
  let n (r : Reg) : Nat := (s.reg r).toNat
  let z (r : Reg) : Int := (s.reg r).toInt
  let fp (d : Reg) (lat : Nat) (r : Nat × BitVec 7) : Option (Reg × Word × Nat × BitVec 7) := some (d, BitVec.ofNat 64 r.1, lat, r.2)
  let rc : RC := RC.of s.cur.rmode
  let F (f64 : Bool) : Fmt := if f64 then .fp64 else .fp32
  let x (f64 : Bool) (r : Reg) : Nat := n r % 2 ^ (if f64 then 64 else 32)
  let lat (f64 : Bool) : Nat := if f64 then 6 else 4
  let slow (f64 : Bool) : Nat := if f64 then 24 else 12
  match i with
  | .mul d a b => some (d, BitVec.ofNat 64 (n a * n b), 3, 0)
  | .mulh d a b => some (d, BitVec.ofInt 64 (z a * z b / 2 ^ 64), 3, 0)
  | .mulhn d a b => some (d, BitVec.ofNat 64 (n a * n b / 2 ^ 64), 3, 0)
  | .div d a b => some (d, if z b = 0 then -1 else BitVec.ofInt 64 ((z a).tdiv (z b)), 40, 0)
  | .divn d a b => some (d, if n b = 0 then -1 else BitVec.ofNat 64 (n a / n b), 40, 0)
  | .rem d a b => some (d, if z b = 0 then s.reg a else BitVec.ofInt 64 ((z a).tmod (z b)), 40, 0)
  | .remn d a b => some (d, if n b = 0 then s.reg a else BitVec.ofNat 64 (n a % n b), 40, 0)
  | .fadd k d a b => fp d (lat k) ((F k).add rc (x k a) (x k b))
  | .fsub k d a b => fp d (lat k) ((F k).sub rc (x k a) (x k b))
  | .fmul k d a b => fp d (lat k) ((F k).mul rc (x k a) (x k b))
  | .fdiv k d a b => fp d (slow k) ((F k).div rc (x k a) (x k b))
  | .fsqrt k d a => fp d (slow k) ((F k).sqrt rc (x k a))
  | .fmin k d a b => fp d (lat k) ((F k).minmax rc false (x k a) (x k b))
  | .fmax k d a b => fp d (lat k) ((F k).minmax rc true (x k a) (x k b))
  | .fcmpeq k d a b => fp d (lat k) (fpTest ((F k).cmp rc FVal.eq (x k a) (x k b)))
  | .fcmplt k d a b => fp d (lat k) (fpTest ((F k).cmp rc FVal.lt (x k a) (x k b)))
  | .fcmple k d a b => fp d (lat k) (fpTest ((F k).cmp rc FVal.le (x k a) (x k b)))
  | .fcvtif k d a => fp d (lat k) ((F k).ofInt rc (z a))
  | .fcvtfi k d a =>
    let r := (F k).toInt rc (-2 ^ 63) (2 ^ 63 - 1) (x k a)
    some (d, BitVec.ofInt 64 r.1, lat k, r.2)
  | .fma k d a b => fp d (lat k) ((F k).fma rc (x k a) (x k b) (x k d))
  | .pdiff d a b w =>
    let t := (s.reg a - s.reg b).toInt
    if t % widthOf w = 0 then some (d, BitVec.ofInt 64 (t / widthOf w), 4, 0) else none
  | .tstat d a => if n a < 2 ^ 23 then some (d, s.turnState (n a), 2, 0) else none
  | .qstat d q => some (d, (s.curCore.queue q.toNat).stat, 2, 0)
  | .xstat b => some (b, s.xstat, 2, 0)
  | _ => none

/-! ## Values of the vector opcodes, written from R73, R79, R80, R177 to R196 -/

/-- A slot of s bits as the integer that an I or N tag makes of it. -/
def slotOf (t s x : Nat) : Int := if isSignedTag t then signed s x else ((x % 2 ^ s : Nat) : Int)

/-- The least and the greatest value of an integer tag. -/
def lowOf (t s : Nat) : Int := if isSignedTag t then -2 ^ (s - 1) else 0
def highOf (t s : Nat) : Int := if isSignedTag t then 2 ^ (s - 1) - 1 else 2 ^ s - 1

/-- A value clamped to an integer tag, with SAT where that changes it (R73). -/
def clampOf (t s : Nat) (x : Int) : Int × BitVec 7 :=
  if x < lowOf t s then (lowOf t s, flSAT) else if highOf t s < x then (highOf t s, flSAT) else (x, 0)

/-- What an opcode gives a floating-point element: a and b are its sources and d the element of D (R181, R189). -/
def floatOp (op : Nat) (f : Fmt) (rc : RC) (imm : Int) (a b d : Nat) : Option FRes :=
  let v := f.unpack a
  let half := 2 ^ (f.width - 1)
  match op with
  | 0x40 => some (f.add rc a b)
  | 0x41 => some (f.sub rc a b)
  | 0x42 => some (f.mul rc a b)
  | 0x43 => some (f.fma rc a b d)
  | 0x44 => some (f.fms rc a b d)
  | 0x45 => some (f.fnma rc a b d)
  | 0x46 => some (f.div rc a b)
  | 0x47 => some (f.sqrt rc a)
  | 0x48 => some (f.rsqrt rc a)
  | 0x49 => some (f.rcp rc a)
  | 0x4A => some (f.minmax rc false a b)
  | 0x4B => some (f.minmax rc true a b)
  | 0x4C => some (if v.isNan then (f.nan, v.opFlags) else (a % half, 0))
  | 0x4D => some (if v.isNan then (f.nan, v.opFlags) else (a % half + (1 - a / half % 2) * half, 0))
  | 0x4E => some (f.exp2 rc a)
  | 0x4F => some (f.log2 rc a)
  | 0x64 => some (f.roundIntegral (if imm = 4 then rc.mode else RMode.of imm.toNat) rc.ftz a)
  | _ => none

/-- What an opcode gives an integer element, before it wraps to its slot: n is the count of a shift (R181 to R183). -/
def intOp (op t s a b d n : Nat) : Option (Int × BitVec 7) :=
  let z : Nat → Int := slotOf t s
  match op with
  | 0x40 => some (z a + z b, 0)
  | 0x41 => some (z a - z b, 0)
  | 0x42 => some (z a * z b, 0)
  | 0x43 => some (z a * z b + z d, 0)
  | 0x44 => some (z a * z b - z d, 0)
  | 0x45 => some (z d - z a * z b, 0)
  | 0x4A => some (Min.min (z a) (z b), 0)
  | 0x4B => some (Max.max (z a) (z b), 0)
  | 0x4C => some ((z a).natAbs, 0)
  | 0x4D => some (-(z a), 0)
  | 0x53 => some (if n < s then ((a * 2 ^ n : Nat) : Int) else 0, 0)
  | 0x54 => some (if n < s then ((a % 2 ^ s / 2 ^ n : Nat) : Int) else 0, 0)
  | 0x55 => some (if n < s then signed s a / 2 ^ n else if signed s a < 0 then -1 else 0, 0)
  | 0x56 => some (clampOf t s (z a + z b))
  | 0x57 => some (clampOf t s (z a - z b))
  | 0x58 => some (z a * z b / 2 ^ s, 0)
  | 0x59 => some (((List.range s).filter a.testBit).length, 0)
  | 0x6B => some (((a % 2 ^ s / 2 ^ (n % s) + a * 2 ^ (s - n % s) : Nat) : Int), 0)
  | _ => none

/-- The bitwise opcodes (R183). -/
def bitOp (op a b : Nat) : Option Nat :=
  match op with
  | 0x50 => some (Nat.land a b)
  | 0x51 => some (Nat.lor a b)
  | 0x52 => some (Nat.xor a b)
  | _ => none

/-- VCVT of a slot of tag t to tag u (R80, R188). -/
def convOf (t u : Nat) (rc : RC) (x : Nat) : FRes :=
  let s := (slotWidth t).getD 8
  let su := (slotWidth u).getD 8
  let z : Int := if isB1 t then ((x % 2 : Nat) : Int) else slotOf t s x
  let wrap (r : Int × BitVec 7) : FRes := ((r.1 % (2 ^ su : Nat)).toNat, r.2)
  match fmtOf t, fmtOf u with
  | some f, some g => f.convert g rc x
  | some f, none => if isB1 u then (if (f.input rc.ftz x).isZero then 0 else 1, 0) else wrap (f.toInt rc (lowOf u su) (highOf u su) x)
  | none, some g => g.ofInt rc z
  | none, none => if isB1 u then (if z = 0 then 0 else 1, 0) else wrap (clampOf u su z)

/-- The opcodes that compute each element by itself: the tag that D takes, and the value and flags of element e. The
sources are read at the tag of A, of B1 bit 0 alone (R73, R178, R181 to R183, R186 to R190, R192, R194, R196). -/
def elemValue (op : Nat) (c : Ctx) (w : VWord) (e : Nat) : Option (Nat × FRes) :=
  let t := c.tag w.a.toNat
  let s := (slotWidth t).getD 8
  let rc := RC.of c.rmode
  let rd (x : Nat) : Nat := if isB1 t then x % 2 else x
  let a := rd (c.elem w.a.toNat s e)
  let b := c.bElem w t s e
  let d := c.elem w.d.toNat s e
  let u := w.imm.toNat
  let n := c.bCount w s e
  match fmtOf t, isInt t, op with
  | _, _, 0x50 | _, _, 0x51 | _, _, 0x52 =>
    if isInt t || isFlt t || isB1 t then (bitOp op a b).map fun x => (t, x % 2 ^ (if isB1 t then 1 else s), 0) else none
  | _, _, 0x5F => if isAll t then some (t, if c.maskBit c.cmsel e then a else b, 0) else none
  | _, _, 0x60 => if isAll t then some (t, a, 0) else none
  | _, _, 0x61 =>
    if w.form == .vv then (if isAll t then some (t, rd (c.elem w.a.toNat s 0), 0) else none)
    else
      let ta := w.a.toNat
      let x := c.bElem w ta ((slotWidth ta).getD 8) e
      if isInt ta || isFlt ta || isB1 ta then some (ta, if isB1 ta then x % 2 else x, 0) else none
  | _, _, 0x62 => if (isInt t || isFlt t || isB1 t) && (isInt u || isFlt u || isB1 u) then some (u, convOf t u rc a) else none
  | _, _, 0x67 =>
    match Pip.ofCode t, fmtOf u with
    | some p, some f => some (u, pipDequant p f (c.kByte w.a.toNat e) (c.elem w.a.toNat 16 (e - e % 2) / 2 ^ 14 % 2) (slotElem p (c.elem w.a.toNat 16 e)))
    | _, _ => none
  | _, _, 0x6F => if isInt u then some (u, e % 2 ^ (slotWidth u).getD 8, 0) else none
  | _, _, 0x70 =>
    let x := c.elem w.a.toNat 64 e
    let y := match w.form with | .vv => c.elem w.b.toNat 64 e | _ => (c.reg w.b).toNat
    some (7, (diceRoll c.seed c.stepr (BitVec.ofNat 32 x) (BitVec.ofNat 32 (x / 2 ^ 32)) (BitVec.ofNat 32 y) (BitVec.ofNat 32 (y / 2 ^ 32))).toNat, 0)
  | some f, _, 0x65 =>
    let k : Int := match w.form with | .vv => signed s (c.elem w.b.toNat s e) | .vs => (c.reg w.b).toInt | .vi => w.imm
    some (t, f.scale rc a k)
  | some f, _, _ => (floatOp op f rc w.imm a b d).map fun r => (t, r)
  | none, true, _ => (intOp op t s a b d n).map fun (r : Int × BitVec 7) => (t, (r.1 % (2 ^ s : Nat)).toNat, r.2)
  | none, false, _ => none

/-- The opcodes that write bits of m[D]: the bit of element e and its flags (R184, R185, R195). -/
def maskValue (op : Nat) (c : Ctx) (w : VWord) (e : Nat) : Option (Bool × BitVec 7) :=
  let t := c.tag w.a.toNat
  let s := (slotWidth t).getD 8
  let rc := RC.of c.rmode
  let a := c.elem w.a.toNat s e
  let b := c.bElem w t s e
  let x := slotOf t s a
  let y := slotOf t s b
  match op, fmtOf t, isInt t with
  | 0x5A, some f, _ => some (f.cmp rc FVal.eq a b)
  | 0x5B, some f, _ => some (!(f.cmp rc FVal.eq a b).1, (f.cmp rc FVal.eq a b).2)
  | 0x5C, some f, _ => some (f.cmp rc FVal.lt a b)
  | 0x5D, some f, _ => some (f.cmp rc FVal.le a b)
  | 0x5A, none, true => some (decide (x = y), 0)
  | 0x5B, none, true => some (decide (x ≠ y), 0)
  | 0x5C, none, true => some (decide (x < y), 0)
  | 0x5D, none, true => some (decide (x ≤ y), 0)
  | 0x5E, some f, _ => some (classOf f w.imm.toNat a, 0)
  | 0x76, _, _ => some (c.maskBit w.a.toNat e && c.maskBit w.b.toNat e, 0)
  | 0x77, _, _ => some (c.maskBit w.a.toNat e || c.maskBit w.b.toNat e, 0)
  | 0x78, _, _ => some (xor (c.maskBit w.a.toNat e) (c.maskBit w.b.toNat e), 0)
  | 0x79, _, _ => some (!c.maskBit w.a.toNat e, 0)
  | _, _, _ => none

/-- The opcodes that move elements: the source element that active element e takes, with the group it is in, or that it
takes zero, or keeps its value (R194). -/
inductive Moves where
  | from (group : Nat) (e : Nat)
  | zero
  | keeps
  deriving DecidableEq, Repr

def moveOf (op : Nat) (c : Ctx) (w : VWord) (e : Nat) : Option Moves :=
  let a := w.a.toNat
  let b := w.b.toNat
  let k := match w.form with | .vs => (c.reg w.b).toNat | _ => b
  match op with
  | 0x6C =>
    let j := match w.form with | .vv => c.elem b ((slotWidth (c.tag b)).getD 8) e | _ => k
    some (if j < c.vl then .from a j else .zero)
  | 0x6D => some (if k ≤ e then .from a (e - k) else .keeps)
  | 0x6E => some (if e + k < c.vl then .from a (e + k) else .keeps)
  | 0x73 => some (.from (if e % 2 = 0 then a else b) (e / 2))
  | 0x74 => some (if 2 * e < c.vl then .from a (2 * e) else .from b (2 * e - c.vl))
  | _ => none

/-- The sum of a block of sixteen of a VRSUM on a floating-point or pip tag, in the order of R91. -/
def blockOf (c : Ctx) (w : VWord) (b : Nat) : Nat :=
  let t := c.tag w.a.toNat
  match Pip.ofCode t, fmtOf t with
  | some p, _ => (pipBlockSum p (c.kByte w.a.toNat (16 * b)) ((rangeFrom (16 * b) 16).map fun e =>
      (c.active e, c.elem w.a.toNat 16 (e - e % 2) / 2 ^ 14 % 2, slotElem p (c.elem w.a.toNat 16 e)))).1
  | none, some f =>
    let g := if f = .fp64 then Fmt.fp64 else Fmt.fp32
    (treeSum g ((rangeFrom (16 * b) 16).map fun e => if c.active e then (f.convert g {} (c.elem w.a.toNat f.width e)).1 else 0)).1
  | none, none => 0

/-! ## Effects of the words that always complete once they are taken up -/

/-- Control transfers that are taken, with the address of the word: whether they leave loops (R109, R112, R114). -/
def branch (i : Instr) (s : State) : Option (Nat × Bool) :=
  let here : Int := s.cur.pc
  let goal (o : BitVec 18) : Nat := ((here + o.toInt * 32) % (2 ^ 64 : Nat)).toNat
  match i with
  | .br o => some (goal o, true)
  | .bz d o => if s.reg d = 0 then some (goal o, true) else none
  | .bnz d o => if s.reg d ≠ 0 then some (goal o, true) else none
  | .call _ o => some (goal o, false)
  | .jr d a => some ((s.reg a).toNat, d == 0)
  | _ => none

/-- The register that receives the link (R109). -/
def link (i : Instr) : Reg := match i with | .call d _ => d | .jr d _ => d | _ => 0

/-- Words that change only the context in focus, and how (R55, R117, R120, R123, R125, R318). -/
def ctxEffect (i : Instr) (s : State) : Option (Ctx → Ctx) :=
  match i with
  | .nop => some id
  | .exit => some fun c => { c with exiting := true }
  | .span n => some fun c => { c with span := some { word := s.cur.pc, first := s.cur.pc + 32, last := s.cur.pc + 32 * n.toNat
                                                     start := s.now + 1 } }
  | .vpart a => some fun c => { c with vpart := some (s.reg a).toNat }
  | .msel b => some fun c => { c with cmsel := b.toNat }
  | .win n => some fun c => { c with wb := ((c.wb + n.toInt * 16) % 512).toNat }
  | .bz d _ => if s.reg d ≠ 0 then some id else none
  | .bnz d _ => if s.reg d = 0 then some id else none
  | .smpl b => some fun c => if c.span.isSome then { c with heldSmpl := some b.toNat } else { c with smpl := some b.toNat }
  | _ => none

/-! ## Atomics (R275) -/

/-- The atomics: width, flavour, result register, address register, cycles to the result, whether they read and whether
they store, and the new value and flags from the old value, g[B] and g[DR], all of the atomic's width. -/
def atomOf (i : Instr) (s : State) : Option (Bool × BitVec 2 × BitVec 5 × Reg × Nat × Bool × Bool × (Nat → Nat × BitVec 7)) :=
  let w (k : Bool) : Nat := if k then 32 else 64
  let x (k : Bool) (r : Reg) : Nat := (s.reg r).toNat % 2 ^ w k
  match i with
  | .aadd k f r a b => some (k, f, r, a, 5, true, true, fun old => ((old + x k b) % 2 ^ w k, 0))
  | .aand k f r a b => some (k, f, r, a, 5, true, true, fun old => (old &&& x k b, 0))
  | .aor k f r a b => some (k, f, r, a, 5, true, true, fun old => (old ||| x k b, 0))
  | .axor k f r a b => some (k, f, r, a, 5, true, true, fun old => (old ^^^ x k b, 0))
  | .amin k f r a b => some (k, f, r, a, 5, true, true, fun old => (if signed (w k) old ≤ signed (w k) (x k b) then old else x k b, 0))
  | .amax k f r a b => some (k, f, r, a, 5, true, true, fun old => (if signed (w k) old ≤ signed (w k) (x k b) then x k b else old, 0))
  | .aminn k f r a b => some (k, f, r, a, 5, true, true, fun old => (Min.min old (x k b), 0))
  | .amaxn k f r a b => some (k, f, r, a, 5, true, true, fun old => (Max.max old (x k b), 0))
  | .axchg k f r a b => some (k, f, r, a, 5, true, true, fun _ => (x k b, 0))
  | .acas k f r a b => some (k, f, r, a, 5, true, true, fun old => (if old = x k (r.setWidth 7) then x k b else old, 0))
  | .afadd k f r a b => some (k, f, r, a, 7, true, true, fun old => (if k then Fmt.fp32 else Fmt.fp64).addRne old (x k b))
  | .ald k f r a => some (k, f, r, a, 5, true, false, fun old => (old, 0))
  | .ast k f a b => some (k, f, 0, a, 5, false, true, fun _ => (x k b, 0))
  | _ => none

/-! ## Words that queue or issue something -/

/-- The matrix commands: kind, and the checks that the word makes with what it then does (R205, R208 to R220). -/
def matrixWord (i : Instr) : Option (MKind × (State → Except Stop State)) :=
  match i with
  | .mldw a => some (.ldw, fun s => s.loadWeights a false)
  | .mldws a => some (.ldws, fun s => s.loadWeights a true)
  | .mswap => some (.swap, fun s => s.mswap)
  | .mfwd a => some (.fwd, fun s => s.streamRows a .fwd)
  | .mbwd a => some (.bwd, fun s => s.streamRows a .bwd)
  | .mgrd a b => some (.grd, fun s => s.mgrd a b)
  | .mdrain a b => some (.drain, fun s => s.mdrain a b)
  | .mzero b => some (.zero, fun s => s.mzero b)
  | _ => none

/-- The tensor that a register pair names: the layout entry of the first register and the coordinates of the second (R202). -/
def tensorOf (s : State) (r : Reg) : MOperand := { lte := entryOf s (s.reg r).toNat, coord := s.reg (regPlus r 1) }

/-- The format of that tensor. -/
def tensorFmt (s : State) (r : Reg) : Nat := lteFmt (entryOf s (s.reg r).toNat)

/-- The command that a matrix word of convoy v stands for: the operands that its registers name, the shape granted, and of
MDRAIN and MZERO the fields of their control words (R202, R205, R207, R216, R220). -/
def commandOf (i : Instr) (s : State) (v : Cv) : Option MCmd :=
  let e := s.curCore.me
  let o : Origin := { core := s.focusCore, ctx := s.focusCtx, head := v.head, members := v.n, midx := v.idx, phc := s.phc.toNat }
  let m (k : MKind) : MCmd := { kind := k, origin := o, issued := s.now, gm := e.gm, gn := e.gn, gk := e.gk, sp := e.sp }
  let on (k : MKind) (a : Reg) : MCmd := { m k with a := tensorOf s a, fmt := BitVec.ofNat 7 (tensorFmt s a) }
  match i with
  | .mldw a => some (on .ldw a)
  | .mldws a => some (on .ldws a)
  | .mswap => some (m .swap)
  | .mfwd a => some (on .fwd a)
  | .mbwd a => some (on .bwd a)
  | .mgrd a b => some { on .grd a with b := tensorOf s b }
  | .mdrain a b =>
    let r := (s.reg b).toNat
    some { on .drain a with pl := r % 2, rows := r / 2 ^ 8 % 2 ^ 7 + 1, cols := r / 2 ^ 16 % 2 ^ 7 + 1 }
  | .mzero b => some { m .zero with pl := b.toNat }
  | _ => none

/-- A tensor of rows times cols elements, or of bundles of sixteen, passes its checks: a format among those given, a good
entry in LOCAL space, whole blocks of sixteen for a pip format, and all its elements within the sizes (R139, R202 to R204). -/
def TensorOk (s : State) (r : Reg) (fmts : List Nat) (bundles : Bool) (rows cols : Nat) : Prop :=
  let l := entryOf s (s.reg r).toNat
  let c := s.reg (regPlus r 1)
  lteFmt l ∈ fmts ∧ (isPip (lteFmt l) = true → cols % 16 = 0 ∧ (bundles = false → coordOf c 0 % 16 = 0)) ∧ lteBad l = false
  ∧ spaceOf (lteBase l) = 0 ∧ coordOf c 0 + (if bundles then cols / 16 else cols) ≤ lteSize l 0 + 1
  ∧ coordOf c 1 + rows ≤ lteSize l 1 + 1

/-- The operands of a matrix word pass every check on them, and W-active carries the format that a stream command needs
(R208, R210, R212, R216). -/
def CommandOk (i : Instr) (s : State) : Prop :=
  let e := s.curCore.me
  match i with
  | .mldw a => TensorOk s a [0x0A, 0x0B, 0x0C, 0x10, 0x11, 0x12] false e.gn e.gk
  | .mldws a => TensorOk s a [0x0A, 0x0B, 0x10, 0x11, 0x12] true e.gn e.gk
  | .mfwd a => TensorOk s a [0x0A, 0x0B, 0x0C, 0x10, 0x11, 0x12] false e.gm e.gk ∧ e.ptact.toNat = tensorFmt s a
  | .mbwd a => TensorOk s a [0x0A, 0x0B, 0x0C, 0x10, 0x11, 0x12] false e.gm e.gn ∧ e.ptact.toNat = tensorFmt s a
  | .mgrd a b => TensorOk s a [0x0A, 0x0B, 0x0C] false e.gm e.gk ∧ TensorOk s b [0x0A, 0x0B, 0x0C] false e.gm e.gn
      ∧ tensorFmt s a = tensorFmt s b
  | .mdrain a b =>
    let rows := (s.reg b).toNat / 2 ^ 8 % 2 ^ 7 + 1
    let cols := (s.reg b).toNat / 2 ^ 16 % 2 ^ 7 + 1
    TensorOk s a [0x0A, 0x0B, 0x0C, 0x10, 0x11, 0x12] false rows cols
      ∧ ∀ row u, row < rows → u ∈ (tensorOf s a).rowUnits (tensorFmt s a) false cols row →
        u.1 + u.2 ≤ 2 ^ 23 ∧ s.touchesSync u.1 u.2 = false ∧ s.touchesPool u.1 u.2 = false
  | _ => True

/-- The words that issue descriptors: kind, mask register and command group (R246). -/
def exchWordOf (i : Instr) : Option (DKind × Reg × Reg) :=
  match i with
  | .xfer d a => some (.xfer, d, a)
  | .halo d a => some (.halo, d, a)
  | .xred d a => some (.xred, d, a)
  | .xcast d a => some (.xcast, d, a)
  | .xfar d a => some (.xfar, d, a)
  | _ => none

/-- The descriptors in the active slots of a command group (R246). -/
def descsOf (s : State) (k : DKind) (a : Reg) : List Desc :=
  s.cur.activeElems.map fun e => { kind := k, bits := s.cur.elem a.toNat 256 e, e := e, origin := s.origin }

/-- t is s after a turnaround of n bits at a has joined the queue of the context in focus; no facing changes yet (R160). -/
def TurnAdded (s t : State) (level : Nat) (paths : BitVec 4) (a n : Nat) : Prop :=
  ∃ u, t.cur.turns = s.cur.turns ++ [u] ∧ u.level = level ∧ u.paths = paths ∧ u.lo = a / 512 * 512
    ∧ u.count = (if n = 0 then 0 else (a + n + 511) / 512 - a / 512) ∧ u.start = none ∧ u.groups = 0 ∧ u.exch = s.exchange
    ∧ KeepsRegs s t ∧ SameMemory s t ∧ ∀ p, (t.spaceAt p).out = (s.spaceAt p).out ∧ (t.spaceAt p).pend = (s.spaceAt p).pend

/-! ## Special registers, written from R68 to R70, R223, R285 and R301 -/

/-- A field of the launch record of R285, as a compute core reads it; a system core has none and reads 0 (log 11). -/
def launchField (s : State) (hi lo : Nat) : Word :=
  match s.onSys, s.slice with
  | false, some r => BitVec.ofNat 64 (r.lr.raw.toNat / 2 ^ lo % 2 ^ (hi + 1 - lo))
  | _, _ => 0

/-- MSTATE, written from the fields of R223. -/
def mstateOf (e : Mat) : Word :=
  let runs (p : MKind → Bool) : Nat := if e.running.any (fun c => p c.kind) = true then 1 else 0
  let loads (k : MKind) : Bool := k == .ldw || k == .ldws
  BitVec.ofNat 64 (e.gm + e.gn * 2 ^ 8 + e.gk * 2 ^ 16 + (if e.sp = true then 2 ^ 24 else 0)
    + e.ptact.toNat % 2 ^ 6 * 2 ^ 28 + e.ptsh.toNat % 2 ^ 6 * 2 ^ 34
    + (if e.pspact = true then 2 ^ 40 else 0) + (if e.pspsh = true then 2 ^ 41 else 0)
    + runs (fun k => k != .drain && !loads k) * 2 ^ 42 + runs loads * 2 ^ 43 + runs (· == .drain) * 2 ^ 44
    + Min.min e.queue.length 4 * 2 ^ 45)

/-- The special registers that MFS may read and their values, row by row from R68, R69, R70 and R301: FLG is 7 bits wide,
RMODE 3, AMAX 32. Rows 0x19 to 0x1B are those of a system core. On a system core CORE, PHC and the registers of the launch record
follow log 11. -/
def specialValue (s : State) (n : Nat) : Option Word :=
  let c := s.cur
  match n with
  | 0x00 => some (BitVec.ofNat 64 (s.focusCore % 1024))
  | 0x01 => some (match s.onSys, s.slice with | false, some r => BitVec.ofNat 64 r.cores.length | _, _ => 0)
  | 0x02 => some (BitVec.ofNat 64 s.focusCtx)
  | 0x03 => some (launchField s 47 32)
  | 0x04 => some (if s.onSys = true then s.phc else c.view)
  | 0x05 => some (BitVec.ofNat 64 (Min.min (s.curCore.vcyc.read s.now) (2 ^ 64 - 1)))
  | 0x06 => some (BitVec.ofNat 64 s.now + s.dtoff)
  | 0x07 => some (match s.onSys, s.slice with
      | false, some r => if launchField s 319 256 = 0 then -1 else BitVec.ofNat 64 (r.budget - r.spent.read s.now)
      | _, _ => 0)
  | 0x08 => some (match s.onSys, s.slice with | false, some r => BitVec.ofNat 64 r.deadline | _, _ => 0)
  | 0x09 => some (launchField s 255 224)
  | 0x0A => some (BitVec.ofNat 64 c.wb)
  | 0x0B => some (BitVec.ofNat 64 c.vl)
  | 0x0C => some (BitVec.ofNat 64 c.vspan)
  | 0x0D => some (BitVec.ofNat 64 c.grant)
  | 0x0E => some (BitVec.ofNat 64 c.cmsel)
  | 0x0F => some (BitVec.ofNat 64 c.flg.toNat)
  | 0x10 => some (BitVec.ofNat 64 c.rmode.toNat)
  | 0x11 => some c.seed
  | 0x12 => some c.stepr
  | 0x13 => some (BitVec.ofNat 64 ((c.loops.head?.map (·.count)).getD 0))
  | 0x14 => some (BitVec.ofNat 64 c.loops.length)
  | 0x15 => some (BitVec.ofNat 64 c.turncur)
  | 0x16 => some (BitVec.ofNat 64 (c.xacc - ((c.xaccLate.filter fun q => decide (s.now < q.1)).map (·.2)).sum))
  | 0x17 => some (mstateOf s.curCore.me)
  | 0x18 => some (BitVec.ofNat 64 s.curCore.me.amax.toNat)
  | 0x19 => some (BitVec.ofNat 64 (c.cause.toNat + (if c.inh = true then 2 ^ 62 else 0) + (if c.pprv = true then 2 ^ 63 else 0)))
  | 0x1A => some c.trappc
  | 0x1B => some c.trapinfo
  | 0x1C => some (BitVec.ofNat 64 ((if c.priv = true then 1 else 0) + (if c.span.isSome = true then 2 else 0)
      + (if c.st = .arrived ∨ c.st = .waiting then 4 else 0) + (if s.onSys = true then 8 else 0)))
  | 0x1D => some (launchField s 470 448)
  | 0x1E => some (launchField s 13 12)
  | 0x1F => some (BitVec.ofNat 64 (0x3C4 * 2 ^ 32 + 2 ^ 16 + 0x01 * 2 ^ 8 + (if Config.stepB0 = true then 1 else 0)))
  | 0x20 => some (launchField s 55 48)
  | _ => none

/-! ## Rings, written from R143 and R147 -/

/-- The address of entry k from the head of a ring of segments, each with 63 entries of 512 bits (R143). -/
def ringAt (qu : Queue) (k : Nat) : Nat :=
  qu.segs.getD ((qu.head + k) / 63 % qu.segs.length) 0 + 512 * ((qu.head + k) % 63)

/-- n bits of the entries from the head on, concatenated in queue order, from bit i on (R147). -/
def ringBits (m : Memory) (qu : Queue) (i n : Nat) : Nat :=
  ((List.range n).map fun j => if bitAt m (ringAt qu ((i + j) / 512) + (i + j) % 512) = true then 2 ^ j else 0).sum

/-- The ring is well laid out: its head stands in its first segment, and its segments lie apart (R143). -/
def RingOk (qu : Queue) : Prop := qu.head < 63 ∧ qu.segs.Pairwise fun a b => a + 2 ^ 15 ≤ b ∨ b + 2 ^ 15 ≤ a

/-! ## Matrix commands, written from R82 to R84, R90, R202, R203, R208 to R213 -/

/-- Element b of row a of a tensor operand, as the number that it stands for (R82 to R84, R139, R202, R203). -/
def operandVal (mem : Memory) (o : MOperand) (fmt a b : Nat) : FVal :=
  let at0 (wm c : Nat) : Nat := ltAddr o.lte wm (coordOf o.coord 0 + c) (coordOf o.coord 1 + a) (coordOf o.coord 2) (coordOf o.coord 3)
  match Pip.ofCode fmt, fmtOf fmt with
  | some p, _ =>
    let x := mem.bits (at0 (p.bs / 16) (b / 16 * 16)) p.bs
    let j := b % 16
    pipValue p (x % 2 ^ 8) (x / 2 ^ (8 + j / 2) % 2) (decide (x / 2 ^ (16 + p.w * j + p.w - 1) % 2 = 1), x / 2 ^ (16 + p.w * j) % 2 ^ p.k)
  | none, some f => f.unpack (mem.bits (at0 f.width b) f.width)
  | none, none => .nan false

/-- Bundle t of row n of a sparse operand (R203, R209). -/
def bundleOf (mem : Memory) (o : MOperand) (fmt n t : Nat) : Nat :=
  let size := match Pip.ofCode fmt with | some p => p.bundle | none => 144
  mem.bits (ltAddr o.lte size (coordOf o.coord 0 + t) (coordOf o.coord 1 + n) (coordOf o.coord 2) (coordOf o.coord 3)) size

/-- The route of kept value v of a bundle, and the number that it stands for (R209). -/
def routeOf (fmt x v : Nat) : Nat := x / 2 ^ ((if (Pip.ofCode fmt).isSome then 8 else 0) + 2 * v) % 4
def keptOf (fmt x v : Nat) : FVal :=
  match Pip.ofCode fmt, fmtOf fmt with
  | some p, _ => pipValue p (x % 2 ^ 8) (x / 2 ^ (24 + v / 2) % 2) (decide (x / 2 ^ (32 + p.w * v + p.w - 1) % 2 = 1), x / 2 ^ (32 + p.w * v) % 2 ^ p.k)
  | none, some f => f.unpack (x / 2 ^ (16 * v + 16) % 2 ^ 16)
  | none, none => .nan false

/-- A bundle is well formed: the routes of each quad rise, and its reserved bits are zero (R209). -/
def BundleOk (fmt x : Nat) : Prop :=
  (∀ q, q < 4 → routeOf fmt x (2 * q) < routeOf fmt x (2 * q + 1)) ∧ (0x10 ≤ fmt → x / 2 ^ 28 % 2 ^ 4 = 0)

/-- What a command has read of its operands is what a memory holds there. -/
def RowsRead (m : MCmd) (mem : Memory) : Prop :=
  ∀ q p row, q ∈ m.reads → row < q.2.1 → p ∈ enumFrom 0 (m.rowSectors q row) →
    SMap.get 0 m.got (readKey (m.rowCycle row p.1) p.2) = BitVec.ofNat 512 (mem.bits (512 * p.2) 512)

/-- The shape and format of a load or stream command are those that its checks admit (R203, R204, R207 to R212), and the
bundles of a sparse load are well formed (R209). -/
def RowsOk (m : MCmd) (mem : Memory) : Prop :=
  m.kind ∈ [MKind.ldw, .ldws, .fwd, .bwd, .grd] ∧ m.fmt.toNat ∈ [0x0A, 0x0B, 0x0C, 0x10, 0x11, 0x12] ∧ m.gm ≤ 64 ∧ m.gn ≤ 64
  ∧ (m.sp = false → m.gk ≤ 64) ∧ (m.sp = true → m.gk ≤ 128 ∧ m.gk % 16 = 0) ∧ (0x10 ≤ m.fmt.toNat → m.gk % 16 = 0)
  ∧ (m.kind = .bwd → 0x10 ≤ m.fmt.toNat → m.gn % 16 = 0) ∧ (m.kind = .grd → m.fmt.toNat ≤ 0x0C)
  ∧ (m.kind ∈ [MKind.ldw, .bwd, .grd] → m.sp = false)
  ∧ (m.kind = .ldws → m.sp = true ∧ m.fmt.toNat ≠ 0x0C ∧ ∀ n, n < m.gn → ∀ t, t < m.gk / 16 →
      BundleOk m.fmt.toNat (bundleOf mem m.a m.fmt.toNat n t))

/-- The weight at reduced position κ of row n of the active plane: in a sparse plane the kept value of its quad that routes
to κ, if there is one; a quad whose second route is 0 has not been loaded (R209, R210, R213). -/
def weightAt (e : Mat) (n k : Nat) : Option FVal :=
  let cell (c : Nat) : Nat := (SMap.get 0 e.wact (64 * n + c)).toNat
  let route (c : Nat) : Nat := cell c / 2 ^ 32 % 4
  let c := k / 16 * 8 + k % 16 / 4 * 2
  if e.spact = false then some (cellVal e.tact.toNat (cell k))
  else if route (c + 1) = 0 then none
  else if route c = k % 4 then some (cellVal e.tact.toNat (cell c))
  else if route (c + 1) = k % 4 then some (cellVal e.tact.toNat (cell (c + 1)))
  else none

/-- The cells that a load or stream command gives, from the rows that it has read: W-shadow of a load, ACC of MFWD and MBWD, DW
of MGRD (R90, R208 to R210, R213). -/
def RowsGive (e : Mat) (m : MCmd) (mem : Memory) (res : SMap (BitVec 64)) : Prop :=
  let f := m.fmt.toNat
  let cell (i j : Nat) : BitVec 64 := SMap.get 0 res (64 * i + j)
  let x : Nat → Nat → FVal := operandVal mem m.a f
  let g : Nat → Nat → FVal := operandVal mem m.b f
  let sum (p : SMap (BitVec 32)) (i j n : Nat) (term : Nat → Option FVal) : BitVec 64 :=
    BitVec.ofNat 64 (gsum (SMap.get 0 p (64 * i + j)).toNat ((List.range n).map term))
  match m.kind with
  | .ldw => ∀ n k, n < 64 → k < 64 → if n < m.gn ∧ k < m.gk then cellVal f (cell n k).toNat = x n k else cell n k = 0
  | .ldws => ∀ n t v, n < 64 → t < 8 → v < 8 →
    if n < m.gn ∧ t < m.gk / 16 then cellVal f (cell n (8 * t + v)).toNat = keptOf f (bundleOf mem m.a f n t) v
      ∧ (cell n (8 * t + v)).toNat / 2 ^ 32 % 4 = routeOf f (bundleOf mem m.a f n t) v
    else cell n (8 * t + v) = 0
  | .fwd => ∀ i n, i < m.gm → n < m.gn → cell i n = sum e.acc i n m.gk fun k => (weightAt e n k).map (exactMul (x i k))
  | .bwd => e.spact = false → ∀ i k, i < m.gm → k < m.gk → cell i k = sum e.acc i k m.gn fun n => (weightAt e n k).map (exactMul (x i n))
  | .grd => ∀ n k, n < m.gn → k < m.gk → cell n k = sum e.dw n k m.gm fun i => some (exactMul (g i n) (x i k))
  | _ => True

/-- A finite value in units of 2^u. -/
def unitsOf (u : Int) : FVal → Int
  | .fin n m e => (if n = true then -1 else 1) * ((m * 2 ^ (e - u).toNat : Nat) : Int)
  | _ => 0

/-- R90: the sum of one group of products, exact in a unit that all of them are multiples of, and rounded once. -/
def GroupRule (ps : List FVal) (r : Nat) : Prop :=
  let nan := (∃ v, v ∈ ps ∧ v.isNan = true) ∨ (FVal.inf false ∈ ps ∧ FVal.inf true ∈ ps)
  (nan → r = 0x7FC00000) ∧ (¬nan → FVal.inf false ∈ ps → r = 0x7F800000) ∧ (¬nan → FVal.inf true ∈ ps → r = 0xFF800000)
  ∧ ((∀ v, v ∈ ps → v.isNan = false ∧ v.isInf = false) →
    ∃ u : Int, (∀ n k e, FVal.fin n k e ∈ ps → u ≤ e) ∧
      let total := (ps.map (unitsOf u)).sum
      (total = 0 → r = if ps ≠ [] ∧ ∀ v, v ∈ ps → v.neg = true then 0x80000000 else 0)
      ∧ (total ≠ 0 → r = (Fmt.fp32.round {} (decide (total < 0)) total.natAbs u false).1))

/-! ## Timed descriptors, written from R249, R253, R255 to R257 -/

/-- Whether cluster c holds the token of slice s in cycle t (R257). -/
def Holds (c s t : Nat) : Prop := ((t / 4 : Nat) : Int) % 16 = ((c : Int) - s) % 16

/-- h gives, in order, the cycles from t on in which cluster c holds the token of slice s: Hj of R257. -/
def TokenCycles (c s t : Nat) (h : Nat → Nat) : Prop :=
  t ≤ h 0 ∧ (∀ j, Holds c s (h j) ∧ h j < h (j + 1)) ∧ (∀ u, t ≤ u → u < h 0 → ¬Holds c s u)
  ∧ ∀ j u, h j < u → u < h (j + 1) → ¬Holds c s u

/-- The acts of a descriptor of n beats: each beat is read once and is written once for each of some clusters, in the cycles
given, and the descriptor lands in a cycle given. -/
def BeatsAt (d : Desc) (cores : List Nat) (n : Nat) (reads : Nat → Nat → Prop) (cls : Nat → Prop) (writes : Nat → Nat → Nat)
    (lands : Nat → Prop) : Prop :=
  (∀ a, a ∈ d.allActs cores → a.beat < n ∧
    if a.write = true then cls a.cluster ∧ a.cycle = writes a.beat a.cluster else reads a.beat a.cycle)
  ∧ (∀ j, j < n → (∃ a, a ∈ d.allActs cores ∧ a.write = false ∧ a.beat = j)
    ∧ ∀ c, cls c → ∃ a, a ∈ d.allActs cores ∧ a.write = true ∧ a.beat = j ∧ a.cluster = c)
  ∧ lands (d.landing cores)

/-- The cycles of the beats of a descriptor that moves something, kind by kind (R255 to R257): i is the issuing core, b the core of
a LOCAL or CLUSTER end, t0 its START, and a beat carries 512 bits, on a neighbour link 256. -/
def BeatCycles (d : Desc) (cores : List Nat) : Prop :=
  let i := d.origin.core
  let t0 := d.START
  let w := if d.kind = .halo then 256 else 512
  let n := (d.DST % w + d.LEN + (w - 1)) / w
  let one (reads writes : Nat → Nat) (land : Nat) : Prop :=
    BeatsAt d cores n (fun j t => t = reads j) (fun c => c = 0) (fun j _ => writes j) (fun t => t = land)
  let sliceAt (pa : Nat) : Nat := pa / 2 ^ 27 % 2 ^ 6
  let toSlice (b : Nat) : Prop := ∀ pa k r h, d.dst = (.phys, pa, k) :: r → TokenCycles (b / 64) (sliceAt pa) (t0 + 2 * hops i b + 8) h →
    one (fun j => h j - 8) (fun j => h j + 6) (h (n - 1) + 6)
  match d.kind with
  | .halo => ∀ x, neighbour i d.DIR = some x →
    let lat := if i / 64 = x / 64 then 4 else 8
    one (fun j => t0 + j) (fun j => t0 + 1 + j + lat) (t0 + n + lat)
  | .xred => toSlice i
  | .xfer =>
    let a := endCore i d.SRC
    let b := endCore i d.DST
    (spaceOf d.SRC ≤ 1 → spaceOf d.DST ≤ 1 →
      one (fun j => t0 + 2 * hops i a + j) (fun j => t0 + 2 * hops i a + 2 * hops a b + 1 + j) (t0 + 2 * hops i a + 2 * hops a b + n))
    ∧ (spaceOf d.SRC ≤ 1 → spaceOf d.DST = 2 → toSlice a)
    ∧ (spaceOf d.SRC = 2 → spaceOf d.DST ≤ 1 → ∀ pa k r h u, d.src = (.phys, pa, k) :: r →
      TokenCycles (b / 64) (sliceAt pa) (t0 + 2 * hops i b + 8) h → TokenCycles (b / 64) (sliceAt pa) (h 0 + 6) u →
      one (fun j => u j - 2) (fun j => u j + 12) (u (n - 1) + 12))
  | .xcast =>
    let cls (c : Nat) : Prop := ∃ x, x ∈ cores ∧ d.SETLO ≤ x ∧ x ≤ d.SETHI ∧ x / 64 = c
    ((¬∃ c, cls c) → d.allActs cores = [] ∧ d.landing cores = t0)
    ∧ ((∃ c, cls c) → ∀ pa k r h (u : Nat → Nat → Nat), d.src = (.phys, pa, k) :: r → TokenCycles (i / 64) (sliceAt pa) (t0 + 8) h →
      (∀ c, TokenCycles c (sliceAt pa) (h 0 + 6) (u c)) →
      BeatsAt d cores n (fun j t => (∃ c, cls c ∧ t = u c j - 2) ∧ ∀ c, cls c → t ≤ u c j - 2) cls (fun j c => u c j + 12)
        fun t => (∃ c, cls c ∧ t = u c (n - 1) + 12) ∧ ∀ c, cls c → u c (n - 1) + 12 ≤ t)
  | .xfar => True

/-- Terms of 16 or 32 bits widen to FP32, and integers keep their width (R253). -/
def termWidths (rop rfmt : Nat) : Option (Nat × Nat) :=
  if rop = 0 then (if rfmt = 0x0C then some (32, 32) else if rfmt = 0x0A ∨ rfmt = 0x0B then some (16, 32) else none)
  else if 6 < rop then none
  else if rfmt = 0x06 ∨ rfmt = 0x07 then some (32, 32)
  else if rfmt = 0x08 ∨ rfmt = 0x09 then some (64, 64)
  else none

/-- y is the pending element x after one more term, or after its first (R93, R253, R281). -/
def TermAdded (rop rfmt : Nat) (x : Option SauEnt) (term : Nat) (y : SauEnt) : Prop :=
  let old : SauEnt := x.getD { addr := y.addr, rop := rop, rfmt := BitVec.ofNat 7 rfmt }
  y.rop = rop ∧ y.rfmt = BitVec.ofNat 7 rfmt ∧ y.terms = old.terms + 1
  ∧ if rop = 0 then
      let f := if rfmt = 0x0C then Fmt.fp32 else if rfmt = 0x0A then Fmt.fp16 else Fmt.bf16
      match f.unpack term with
      | .nan _ => y.nan = true ∧ y.sum = old.sum ∧ y.pinf = old.pinf ∧ y.ninf = old.ninf
      | .inf neg => y.nan = old.nan ∧ y.sum = old.sum ∧ y.pinf = (old.pinf || !neg) ∧ y.ninf = (old.ninf || neg)
      | .fin neg m e => y.nan = old.nan ∧ y.sum = old.sum + unitsOf (-149) (.fin neg m e) ∧ y.pinf = old.pinf ∧ y.ninf = old.ninf
          ∧ y.allNegZero = (old.allNegZero && neg && m == 0)
    else
      let w := if rfmt ≤ 7 then 32 else 64
      let was := (old.sum % (2 ^ w : Nat)).toNat
      let num (v : Nat) : Int := if rfmt % 2 = 0 then signed w v else ((v % 2 ^ w : Nat) : Int)
      (y.sum % (2 ^ w : Nat)).toNat =
        if x = none then term
        else match rop with
          | 1 => (was + term) % 2 ^ w
          | 2 => Nat.lor was term
          | 3 => Nat.land was term
          | 4 => Nat.xor was term
          | 5 => if num was ≤ num term then term else was
          | _ => if num was ≤ num term then was else term

/-! ## The view of a core, written from R304, R310 and R316 -/

/-- Word i of a value. -/
def wordIn (x i : Nat) : Nat := x / 2 ^ (64 * i) % 2 ^ 64

/-- Whether HST of a context is 2, 4 or 6 (R314, R316). -/
def partOpen (c : Ctx) : Prop := c.halted = true ∨ c.aborted = true

/-- A status word of a context (R304, R316); none for the arrival entry, word 28. -/
def statusOf (s : State) (core x i : Nat) : Option Nat :=
  let k := s.core core
  let c := s.ctx core x
  match i with
  | 0 => some c.pc
  | 1 => some (if c.frozen = true then 7 else match c.st with
      | .run => 0 | .arrived => 1 | .waiting => 2 | .released => 3 | .exited => 4 | .absent => 5)
  | 2 => some c.wb
  | 3 => some c.flg.toNat
  | 4 => some c.rmode.toNat
  | 5 => some c.seed.toNat
  | 6 => some c.stepr.toNat
  | 7 => some c.vl
  | 8 => some c.vspan
  | 9 => some c.grant
  | 10 => some (match c.vpart with | some n => 2 ^ 63 + n | none => 0)
  | 11 => some c.cmsel
  | 12 => some c.loops.length
  | 13 => some c.view.toNat
  | 14 => some c.turncur
  | 15 => some (((List.range 4).map fun b =>
      let r := SMap.get {} k.bars b
      r.mask.toNat * 2 ^ (4 * b) + (if r.pending.getLsbD x = true ∨ r.effect.getLsbD x = true then 2 ^ (16 + b) else 0)).sum)
  | 29 => some (match s.slice with
      | some r => if core ∈ r.cores then r.hg.read s.now else k.hgLeft
      | none => k.hgLeft)
  | 30 => some 0
  | 31 => some 0
  | _ =>
    if 16 ≤ i ∧ i ≤ 27 then
      match c.loops.reverse[(i - 16) / 3]? with
      | some e => some (if (i - 16) % 3 = 0 then e.start else if (i - 16) % 3 = 1 then e.stop else e.count)
      | none => some 0
    else none

/-- The word at a bit offset of the view of a core, as SVDATA reads it: the core block, the scratchpad, the store. -/
def debugWord (s : State) (core at0 : Nat) : Option Nat :=
  let k := s.core core
  let sec := at0 / 512
  let ones : Option Nat := some (2 ^ 64 - 1)
  let pair (p : SMap (BitVec 32)) (i : Nat) : Option Nat := some ((SMap.get 0 p i).toNat + (SMap.get 0 p (i + 1)).toNat * 2 ^ 32)
  if sec < 2560 then
    let c := s.ctx core (sec / 640)
    let i := at0 / 64 % 5120
    if c.halted = false ∧ c.aborted = false then ones
    else if i < 32 then statusOf s core (sec / 640) i
    else if i < 32 + 528 then some (SMap.get 0 c.regs (i - 32)).toNat
    else if i < 576 then some (((List.range 8).map fun j => c.tag (8 * (i - 560) + j) * 256 ^ j).sum)
    else if i < 832 then some (wordIn (c.mask ((i - 576) / 32)).toNat ((i - 576) % 32))
    else if i < 960 then some (wordIn (c.kreg ((i - 832) / 8)).toNat ((i - 832) % 8))
    else if i < 5056 then some (wordIn (c.vreg ((i - 960) / 32)).toNat ((i - 960) % 32))
    else some 0
  else if sec < 4097 then
    if (k.ctx k.meown).halted = false ∨ (k.ctx k.meown).aborted = true then ones
    else if k.me.undef = true then none
    else
      let i := at0 / 64
      if i = 2560 * 8 then some (k.me.gm + k.me.gn * 2 ^ 8 + k.me.gk * 2 ^ 16 + (if k.me.sp = true then 2 ^ 24 else 0))
      else if i = 2560 * 8 + 1 then some ((mstateOf k.me).toNat / 2 ^ 28 % 2 ^ 20 * 2 ^ 28)
      else if i = 2560 * 8 + 2 then some k.me.amax.toNat
      else if sec = 2560 then some 0
      else if sec < 3073 then some (SMap.get 0 k.me.wact (i - 2561 * 8)).toNat
      else if sec < 3585 then some (SMap.get 0 k.me.wsh (i - 3073 * 8)).toNat
      else if sec < 3841 then pair k.me.acc (2 * (i - 3585 * 8))
      else pair k.me.dw (2 * (i - 3841 * 8))
  else if sec < 4129 then some (((List.range 64).map fun j => if k.loc.isIn (at0 / 64 * 64 - 4097 * 512 + j) s.now = true then 2 ^ j else 0).sum)
  else if sec < 4133 then
    let q := k.queue ((at0 / 64 - 4129 * 8) / 2)
    let tail := q.segs.getD (Nat.max 1 (Nat.min q.segs.length ((q.head + q.avail + 62) / 63)) - 1) 0
    some (if q.dir = 0 then 0
      else wordIn (q.dir + (q.segs.length - 1) * 2 ^ 2 + q.cov * 2 ^ 10 + q.avail * 2 ^ 26 + tail * 2 ^ 42 + ringAt q 0 * 2 ^ 65) (at0 / 64 % 2))
  else if sec < 4160 then some 0
  else if at0 < (4160 + 16384) * 512 then
    if k.ctxs.all (fun p => (p.2.halted && !p.2.aborted) || p.2.st == .exited || p.2.st == .absent) = false then ones
    else if k.loc.syn = [] then some (k.loc.bytes.bits (at0 - 4160 * 512) 64)
    else none
  else if at0 < (4160 + 16384) * 512 + 2 ^ 20 then pair k.ist ((at0 - (4160 + 16384) * 512) / 32)
  else none

end Sys2Proof.Claims

open Sys2Proof Sys2Proof.Machine Sys2Proof.Safety Sys2Proof.Claims

/-! ## Encoding -/

/-- R34 to R53: the word that encodes a well-formed instruction decodes to that instruction, with every operand. -/
def Obligations.EncodeThenDecode : Prop :=
  ∀ (i : Instr) (w : IWord), WellFormed i = true → encode i = some w → decode w = .ok i

/-- R34 to R53: every word that decodes is the word of a well-formed instruction; so no two words mean the same, and a
word with a reserved opcode, a reserved subfunction, a nonzero unused field or an unlisted form is no instruction. -/
def Obligations.DecodeThenEncode : Prop :=
  ∀ (i : Instr) (w : IWord), decode w = .ok i → WellFormed i = true ∧ encode i = some w

/-- Words written out from the tables of R35 and R44 to R52. -/
def Obligations.DecodedWords : Prop :=
  decode 0b0000001_0000001_0000010_0000011_0000 = .ok (.add 1 2 3)
  ∧ decode 0b0000101_0000001_0000010_11111111111 = .ok (.addi 1 2 0x7FF)
  ∧ decode 0b0100000_0010000_0010001_0000000_1001 = .ok (.ld 16 17 0 9)
  ∧ decode 0b0011101_0000111_000000000000000011 = .ok (.loop 7 3)
  ∧ decode 0b1000000_0000001_0000010_0000011_1000 = .ok (.vadd ⟨1, 2, 3, true, 0⟩)
  ∧ decode 0b0000000_0000000_0000000_0000000_0000 = .error .reservedOpcode

/-! ## Steps -/

/-- R34, R111, with the model's own order of moves (log 1): when the next move is the issue of a context, the step is the
instruction that the word at its pc decodes to, in the cycle of the move, or the word that is no instruction; when it is a
step of the device, that step; when it is an input from outside, the oldest one; and where nothing is due one cycle passes.
The step adds nothing but the cycle and the focus. -/
def Obligations.StepRunsMove : Prop :=
  ∀ (s : State) (t : Nat),
    (∀ core ctx i, s.nextMove = some (t, .issue core ctx) → decode (SMap.get 0 (s.core core).ist ((s.ctx core ctx).pc / 32)) = .ok i →
      step s = exec i { s with now := Nat.max s.now t, focusCore := core, focusCtx := ctx })
    ∧ (∀ core ctx e, s.nextMove = some (t, .issue core ctx) → decode (SMap.get 0 (s.core core).ist ((s.ctx core ctx).pc / 32)) = .error e →
      step s = exec (.notAnInstruction (SMap.get 0 (s.core core).ist ((s.ctx core ctx).pc / 32)))
        { s with now := Nat.max s.now t, focusCore := core, focusCtx := ctx })
    ∧ (∀ i, s.nextMove = some (t, .event i) → step s = exec i { s with now := Nat.max s.now t })
    ∧ (s.nextMove = some (t, .input) → step s = .next ({ s with now := Nat.max s.now t } : State).takeInput)
    ∧ (s.nextMove = none → step s = .next { s with now := s.now + 1 })

/-- R53, R54, R111: a word that is no instruction, at the head of a convoy of a compute core with no armed comparator on it,
ends the slice with one record of cause ILLEGAL-OP, or ILLEGAL-OPERAND when only its form is unlisted, naming the convoy; in
the last word of the instruction store it is the fetch fault, ILLEGAL-OP with the unreachable address, that comes first.
Completion, exec answers a next state, of: notAnInstruction. -/
def Obligations.NotAnInstruction : Prop :=
  ∀ (s : State) (w : IWord) (r : SliceRun) (e : Reject), s.fetching = true → s.onSys = false → s.slice = some r → s.cur.cv = none →
    s.cur.span = none → s.cur.bkPass = true → s.curCore.istBad = [] → s.form s.cur.pc (.notAnInstruction w) = ([.notAnInstruction w], false) →
    s.cur.loops = [] → s.cur.redo = [] → decode w = .error e →
    ∃ t x, exec (.notAnInstruction w) s = .next t ∧ t.slice = none ∧ t.disp.waitRecs = s.disp.waitRecs ++ [x]
      ∧ x.cause = (if e = .unlistedForm ∧ fetchable (s.cur.pc + 32) = true then 2 else 1)
      ∧ (fetchable (s.cur.pc + 32) = false → x.addr = s.cur.pc + 32) ∧ x.rkind = 1 ∧ x.head = s.cur.pc ∧ x.core = s.focusCore ∧ x.ctx = s.focusCtx

/-! ## Scalar instructions -/

/-- R55: g0 reads as zero and discards what is written to it, and a write to another register is read back and leaves
the others alone. -/
def Obligations.RegisterFile : Prop :=
  ∀ (c : Ctx) (m n : Reg) (x : Word), c.reg 0 = 0 ∧ c.setReg 0 x = c
    ∧ (n ≠ 0 → (c.setReg n x).reg n = x) ∧ (m ≠ n → (c.setReg n x).reg m = c.reg m)

/-- R97 to R102, R106, R107, R223, R236: ADD to LIS, PADD, PSUB, PALN, PCLS, PTEST and MSTAT write their value to g[D]
alone. g0 discards it; every other register, every flag and every byte of memory stays.
Completion, exec answers a next state, of: add, sub, and, or, xor, shl, shr, sar, min, max, minn, maxn, sel, cmpeq, cmpne,
cmplt, cmpltn, cmple, cmplen, clz, ctz, popc, bext, bins, brev, addi, andi, ori, xori, shli, shri, sari, li, lis, padd, psub,
paln, pcls, ptest, mstat. -/
def Obligations.OneCycleResult : Prop :=
  ∀ (i : Instr) (s s1 : State) (v : Cv) (d : Reg) (x : Word), oneCycle i s = some (d, x) → Issues i s v s1 →
    ∃ t, exec i s = .next t ∧ t.reg d = (if d = 0 then 0 else x) ∧ ScalarFrame s t d ∧ t.cur.pc = nextPc s v

/-- R98, R99, R104, R107, R149, R169, R248: MUL to REMN, the scalar floating-point instructions, PDIFF, TSTAT, QSTAT and
XSTAT put one result on its way to g[D] and occupy their unit; no register, flag or byte of memory changes yet.
Completion, exec answers a next state, of: mul, mulh, mulhn, div, divn, rem, remn, fadd, fsub, fmul, fdiv, fsqrt, fmin, fmax,
fcmpeq, fcmplt, fcmple, fcvtif, fcvtfi, fma, pdiff, tstat, qstat, xstat. -/
def Obligations.LateResult : Prop :=
  ∀ (i : Instr) (s s1 : State) (v : Cv) (d : Reg) (x : Word) (lat : Nat) (fl : BitVec 7), lateResult i s = some (d, x, lat, fl) →
    Issues i s v s1 →
    ∃ t, exec i s = .next t
      ∧ t.cur.land = s.cur.land ++ (if d = 0 then [] else
          [{ cycle := s.now + lat, reg := physReg s.cur.wb d.toNat, val := x, flags := fl, inSpan := s.cur.span.isSome }])
      ∧ (∀ n, t.reg n = s.reg n) ∧ t.cur.flg = s.cur.flg
      ∧ (∀ u, i.unit = some u → SMap.get 0 t.cur.unitFree u = s.now + lat)
      ∧ SameMemory s t ∧ OnlyFocus s t

/-- R69, R98: a result that has come due is in its register after RESULT_LANDING, and its flags are ORed into FLG.
Completion, exec answers a next state, of: resultLanding. -/
def Obligations.ResultLands : Prop :=
  ∀ (s : State) (core ctx : Nat) (l : Landing), s.ctxLive core ctx = true → (s.ctx core ctx).land = [l] → l.cycle ≤ s.now → l.reg ≠ 0 →
    ∃ t, exec (.resultLanding core ctx) s = .next t ∧ SMap.get 0 (t.ctx core ctx).regs l.reg = l.val
      ∧ (t.ctx core ctx).flg = (s.ctx core ctx).flg ||| l.flags ∧ (t.ctx core ctx).land = []
      ∧ (∀ n, n ≠ l.reg → SMap.get 0 (t.ctx core ctx).regs n = SMap.get 0 (s.ctx core ctx).regs n)
      ∧ SameMemory s t

/-- R77, R79: a NaN operand gives the canonical quiet NaN of the format in every rounding mode, flushed or not. -/
def Obligations.CanonicalNan : Prop :=
  ∀ (f : Fmt) (rc : RC) (x y z : Nat), (f.unpack x).isNan = true ∨ (f.unpack y).isNan = true →
    (f.add rc x y).1 = f.nan ∧ (f.sub rc x y).1 = f.nan ∧ (f.mul rc x y).1 = f.nan ∧ (f.div rc x y).1 = f.nan
    ∧ (f.fma rc x y z).1 = f.nan ∧ (f.minmax rc true x y).1 = f.nan ∧ (f.minmax rc false x y).1 = f.nan
    ∧ (f.cmp rc FVal.eq x y).1 = false ∧ (f.cmp rc FVal.lt x y).1 = false ∧ (f.cmp rc FVal.le x y).1 = false

/-! ## Control flow -/

/-- R109, R112, R114: BR, CALL and JR, and BZ and BNZ when taken, go to their target with one bubble, and the next convoy
forms there; CALL and JR write the address of the next word to the link register, JR after reading its target; BR, BZ, BNZ
and a JR with link g0 leave the loops whose body holds the branch and not the target. BZ and BNZ not taken go on to the next
word. No branch stands in the convoy of a loop's end word (R115).
Completion, exec answers a next state, of: br, bz, bnz, call, jr. -/
def Obligations.Branches : Prop :=
  ∀ (i : Instr) (s s1 : State) (v : Cv), Taken i s v s1 → v.n ≤ v.idx + 1 → v.back = none →
    (∀ e ∈ s.cur.loops, ¬(v.head ≤ e.stop ∧ e.stop ≤ s.cur.pc)) →
    (∀ target leaves, branch i s = some (target, leaves) → fetchable target = true →
      ∃ t, exec i s = .next t ∧ t.cur.pc = target ∧ t.cur.cv = none ∧ t.cur.issueAt = s.now + 2
        ∧ t.reg (link i) = (if link i = 0 then 0 else BitVec.ofNat 64 (s.cur.pc + 32))
        ∧ (∀ n, n ≠ link i → t.reg n = s.reg n)
        ∧ t.cur.loops = (if leaves then leaveLoops s.cur.pc target s.cur.loops else s.cur.loops)
        ∧ t.cur.flg = s.cur.flg ∧ SameMemory s t ∧ OnlyFocus s t)
    ∧ (∀ d o, (i = .bz d o ∧ s.reg d ≠ 0) ∨ (i = .bnz d o ∧ s.reg d = 0) → fetchable (s.cur.pc + 32) = true →
      ∃ t, exec i s = .next t ∧ t.cur.pc = s.cur.pc + 32 ∧ t.cur.cv = none ∧ t.cur.loops = s.cur.loops
        ∧ (∀ n, t.reg n = s.reg n) ∧ t.cur.flg = s.cur.flg ∧ SameMemory s t ∧ OnlyFocus s t)

/-- R113, R114: LOOP with a count pushes an entry for the body that follows on the up to three that are active, and with a
count of 0 goes past the body and leaves them (a convoy that holds the end word of an active loop is none of these, R115); a
fifth nested LOOP on a compute core ends the slice with LOOP-DEPTH (0Ch). At the end of a body control goes back to its
start while iterations are left, and past it, with the entry gone, after the last one.
Completion, exec answers a next state, of: loop. -/
def Obligations.Loops : Prop :=
  ∀ (d : Reg) (o : BitVec 18) (s s1 : State) (v : Cv), v.n ≤ v.idx + 1 → v.back = none →
    (Taken (.loop d o) s v s1 → s.cur.loops.length < 4 → s.reg d ≠ 0 → 1 ≤ o.toInt → fetchable (s.cur.pc + 32) = true →
      ∃ t, exec (.loop d o) s = .next t ∧ t.cur.pc = s.cur.pc + 32 ∧ KeepsRegs s t ∧ SameMemory s t
        ∧ t.cur.loops = { start := s.cur.pc + 32, stop := s.cur.pc + 32 * o.toInt.toNat, count := (s.reg d).toNat } :: s.cur.loops)
    ∧ (Taken (.loop d o) s v s1 → s.cur.loops.length < 4 → s.reg d = 0 →
      (∀ e, e ∈ s.cur.loops → s.cur.pc < e.stop ∨ e.stop < v.head) → fetchable (s.cur.pc + 32 * (o.toInt.toNat + 1)) = true →
      ∃ t, exec (.loop d o) s = .next t ∧ t.cur.pc = s.cur.pc + 32 * (o.toInt.toNat + 1) ∧ t.cur.loops = s.cur.loops ∧ KeepsRegs s t ∧ SameMemory s t)
    ∧ (∀ r, Taken (.loop d o) s v s1 → 4 ≤ s.cur.loops.length → s.focusCore < 1024 → s.slice = some r →
      ∃ t x, exec (.loop d o) s = .next t ∧ t.slice = none ∧ t.disp.waitRecs = s.disp.waitRecs ++ [x] ∧ x.cause = 0x0C ∧ x.rkind = 1)
    ∧ (∀ e r, Taken .nop s v s1 → s.cur.loops = e :: r → v.head ≤ e.stop → e.stop = s.cur.pc → 1 < e.count → fetchable e.start = true →
      ∃ t, exec .nop s = .next t ∧ t.cur.pc = e.start ∧ t.cur.loops = { e with count := e.count - 1 } :: r)
    ∧ (∀ e r, Taken .nop s v s1 → s.cur.loops = e :: r → v.head ≤ e.stop → e.stop = s.cur.pc → e.count = 1 →
      (∀ x, x ∈ r → s.cur.pc < x.stop ∨ x.stop < v.head) → fetchable (s.cur.pc + 32) = true →
      ∃ t, exec .nop s = .next t ∧ t.cur.pc = s.cur.pc + 32 ∧ t.cur.loops = r)

/-- R116: GUARD.NZ and GUARD.Z let the members of their convoy take effect, or suppress them, as g[A] says; a suppressed
member changes nothing but where control stands.
Completion, exec answers a next state, of: guardNz, guardZ. -/
def Obligations.Guards : Prop :=
  ∀ (a : Reg) (s s1 : State) (v : Cv),
    (v.idx + 1 < v.n → Taken (.guardNz a) s v s1 → ∃ t, exec (.guardNz a) s = .next t ∧ OnlyFocus s t ∧ rest t.cur = rest s.cur
      ∧ t.cur.regs = s.cur.regs ∧ t.cur.cv = some { v with failed := decide (s.reg a = 0), idx := v.idx + 1 } ∧ t.cur.pc = s.cur.pc + 32)
    ∧ (v.idx + 1 < v.n → Taken (.guardZ a) s v s1 → ∃ t, exec (.guardZ a) s = .next t ∧ OnlyFocus s t ∧ rest t.cur = rest s.cur
      ∧ t.cur.regs = s.cur.regs ∧ t.cur.cv = some { v with failed := decide (s.reg a ≠ 0), idx := v.idx + 1 } ∧ t.cur.pc = s.cur.pc + 32)
    ∧ (∀ i, (encode i).isSome = true → s.fetching = true → s.front i = .ok (v, s1) → v.failed = true →
      Goes s v s.cur.loops (s.cur.pc + 32) → ∃ t, exec i s = .next t ∧ OnlyFocus s t ∧ rest t.cur = rest s.cur
      ∧ t.cur.regs = s.cur.regs ∧ t.cur.land = s.cur.land ∧ t.cur.pc = nextPc s v)

/-- R55, R109, R117, R120, R123 to R125, R318: NOP, EXIT, SPAN, VPART, MSEL, WIN, SMPL, and BZ and BNZ when not taken,
change the one thing the spec names in their context.
Completion, exec answers a next state, of: nop, exit, span, vpart, msel, win, smpl, bz, bnz. -/
def Obligations.ContextWords : Prop :=
  ∀ (i : Instr) (s s1 : State) (v : Cv) (f : Ctx → Ctx), ctxEffect i s = some f → Issues i s v s1 →
    ∃ t, exec i s = .next t ∧ rest t.cur = rest (f s.cur) ∧ t.cur.regs = s.cur.regs ∧ t.cur.land = s.cur.land
      ∧ t.cur.pc = nextPc s v ∧ SameMemory s t ∧ OnlyFocus s t

/-- R120: VPART records a request of a multiple of 8 from 0 to 64 lanes in place of any earlier one and changes nothing else;
any other value ends the slice with ILLEGAL-OPERAND.
Completion, exec answers a next state, of: vpart. -/
def Obligations.LaneRequest : Prop :=
  ∀ (a : Reg) (s s1 : State) (v : Cv),
    (Issues (.vpart a) s v s1 → (s.reg a).toNat ≤ 64 → (s.reg a).toNat % 8 = 0 →
      ∃ t, exec (.vpart a) s = .next t ∧ t.cur.vpart = some (s.reg a).toNat ∧ rest t.cur = rest { s.cur with vpart := t.cur.vpart }
        ∧ t.cur.regs = s.cur.regs ∧ t.cur.land = s.cur.land ∧ t.cur.pc = nextPc s v ∧ SameMemory s t ∧ OnlyFocus s t)
    ∧ (∀ r, AtHead (.vpart a) s → s.slice = some r → ¬((s.reg a).toNat ≤ 64 ∧ (s.reg a).toNat % 8 = 0) →
      ∃ t x, exec (.vpart a) s = .next t ∧ t.slice = none ∧ t.disp.waitRecs = s.disp.waitRecs ++ [x] ∧ x.cause = 0x02 ∧ x.rkind = 1)

/-- R120 to R122: SETL grants lanes as a pending VPART asks, sets VL to the smaller of the request and what the grant and span
hold, and returns it; a smaller grant waits for the convoys already pushed (log 30), and a system core is granted none, both
the model's choice (log 11: R16 has system cores run scalar code). VREL gives up the lanes, the vector registers, their tags
and masks once every pushed convoy has retired.
Completion, exec answers a next state, of: setl, vrel. -/
def Obligations.Lanes : Prop :=
  ∀ (d a b : Reg) (s s1 : State) (v : Cv),
    (Issues (.setl d a b) s v s1 → b.toNat ≤ 3 → (s.cur.vq = [] ∨ s.cur.grant ≤ s1.newGrant) →
      let g := s1.newGrant
      let vl := Nat.min ((s.reg a).toNat % 2 ^ 48) (2 ^ b.toNat * g * 32 / setlWidth (s.reg a))
      ∃ t, exec (.setl d a b) s = .next t ∧ t.cur.vl = vl ∧ t.cur.vspan = 2 ^ b.toNat ∧ t.cur.grant = g ∧ t.cur.vpart = none
        ∧ (s.cur.vpart = none → g = s.cur.grant) ∧ (∀ p, s.cur.vpart = some p → g = Nat.min p (s.cur.grant + if s.onSys then 0 else s1.curCore.freeLanes))
        ∧ t.reg d = (if d = 0 then 0 else BitVec.ofNat 64 vl) ∧ (∀ n, n ≠ d → t.reg n = s.reg n) ∧ SameMemory s t ∧ OnlyFocus s t)
    ∧ (Issues .vrel s v s1 → s.cur.vq = [] →
      ∃ t, exec .vrel s = .next t ∧ t.cur.grant = 0 ∧ t.cur.vl = 0 ∧ t.cur.cmsel = 0 ∧ t.cur.tags = [] ∧ t.cur.v = []
        ∧ t.cur.m = [] ∧ KeepsRegs s t ∧ SameMemory s t ∧ OnlyFocus s t)

/-- R67 to R71, R103, R301, R329: MFS n puts the value of special register n to g[D] and changes nothing else, for every number of
the table of R68; FLG, MSTATE and AMAX are read once earlier convoys have retired and earlier results have landed, and a
read of AMAX while drains run takes some of their groups first (R218). MTS takes from g[D]: WB, 9 bits, a multiple of 16; CMSEL, 3
bits; FLG, 7 bits, which replace all of it, but inside a span keep what arrives in the same cycle; RMODE, 3 bits; SEED and
STEP, 64 bits; on a privileged system core TRAPCAUSE (bits 63, 62 and [7:0]), TRAPPC and TRAPINFO, 64 bits; other bits are ignored and
every other register is kept. A number that R68 leaves unassigned, the trap registers on a compute core, an MTS to an RO
register and one to WB of a value that is no multiple of 16 end the slice with ILLEGAL-OPERAND.
Completion, exec answers a next state, of: mfs, mts. -/
def Obligations.SpecialRegisters : Prop :=
  ∀ (d : Reg) (n : BitVec 11) (s s1 : State) (v : Cv),
    (∀ x, Issues (.mfs d n) s v s1 → specialValue s n.toNat = some x → (n = 0x0F ∨ n = 0x17 ∨ n = 0x18 → retired s) →
      (n = 0x18 → s.curCore.me.running = []) →
      ∃ t, exec (.mfs d n) s = .next t ∧ t.reg d = (if d = 0 then 0 else x) ∧ ScalarFrame s t d ∧ t.cur.pc = nextPc s v)
    ∧ (Issues (.mfs d 0x18) s v s1 → retired s →
      ∃ t k, exec (.mfs d 0x18) s = .next t ∧ t.reg d = (if d = 0 then 0 else (s.curCore.me.takeGroups k).amax.setWidth 64)
        ∧ (∀ n, n ≠ d → t.reg n = s.reg n) ∧ rest t.cur = rest s.cur ∧ SameMemory s t ∧ t.cur.pc = nextPc s v)
    ∧ (let x := s.reg d
      let sets (n : BitVec 11) (c : Ctx) : Prop := Issues (.mts d n) s v s1 →
        ∃ t, exec (.mts d n) s = .next t ∧ rest t.cur = rest c ∧ t.cur.regs = s.cur.regs ∧ t.cur.land = s.cur.land
          ∧ t.cur.pc = nextPc s v ∧ SameMemory s t ∧ OnlyFocus s t
      let meets : Prop := s.cur.span.isSome = true ∧ s.cur.flagsAt = s.now
      sets 0x0A { s.cur with wb := x.toNat % 512 } ∧ sets 0x0E { s.cur with cmsel := x.toNat % 8 }
      ∧ (retired s → ¬ meets → sets 0x0F { s.cur with flg := BitVec.ofNat 7 x.toNat })
      ∧ (meets → sets 0x0F { s.cur with flg := BitVec.ofNat 7 x.toNat ||| s.cur.flagsIn })
      ∧ sets 0x10 { s.cur with rmode := BitVec.ofNat 3 x.toNat } ∧ sets 0x11 { s.cur with seed := x } ∧ sets 0x12 { s.cur with stepr := x }
      ∧ sets 0x19 { s.cur with cause := BitVec.ofNat 8 x.toNat, inh := decide (x.toNat / 2 ^ 62 % 2 = 1), pprv := decide (x.toNat / 2 ^ 63 = 1) }
      ∧ sets 0x1A { s.cur with trappc := x } ∧ sets 0x1B { s.cur with trapinfo := x })
    ∧ (∀ r i, AtHead i s → s.slice = some r →
      (i = .mfs d n ∧ (specialValue s n.toNat = none ∨ 0x19 ≤ n.toNat ∧ n.toNat ≤ 0x1B))
        ∨ (i = .mts d n ∧ (¬ n.toNat ∈ [0x0A, 0x0E, 0x0F, 0x10, 0x11, 0x12] ∨ n.toNat = 0x0A ∧ (s.reg d).toNat % 16 ≠ 0)) →
      ∃ t x, exec i s = .next t ∧ t.slice = none ∧ t.disp.waitRecs = s.disp.waitRecs ++ [x] ∧ x.cause = 0x02 ∧ x.rkind = 1)

/-! ## Memory -/

/-- R22, R23: n bits written at a bit address are read back there, and every bit outside them keeps its
value; the canonical form stays (log 3). R155, R160: a store makes every ordinary sector it touches OUT, and the flip of
a turnaround makes a sector IN. -/
def Obligations.MemoryBits : Prop :=
  ∀ (m : Memory) (p : Space) (a n x sec level : Nat) (paths : BitVec 4), (m.setBits a n x).bits a n = x % 2 ^ n
    ∧ (∀ b, 8 * b + 8 ≤ a ∨ a + n ≤ 8 * b → (m.setBits a n x).byte b = m.byte b)
    ∧ (∀ q, q < a ∨ a + n ≤ q → bitAt (m.setBits a n x) q = bitAt m q) ∧ (m.wf = true → (m.setBits a n x).wf = true)
    ∧ (sec ∈ sectorsOf a n → (p.store a n x).isOut sec = true) ∧ (p.goIn sec paths level).isOut sec = false

/-- R131, R132, R98: LD, LDN and LDO of bits that may be read send the value stored there to g[D], extended, to land 4
cycles later; no register and no byte of memory changes yet. Cause ALIGNMENT (04h): an LD that crosses a word, or of 8 bits or more
at an address that is no multiple of its width, ends the slice of a compute core.
Completion, exec answers a next state, of: ld, ldn, ldo. -/
def Obligations.ScalarLoads : Prop :=
  ∀ (s s1 : State) (v : Cv) (d a b : Reg) (w : BitVec 4) (k : BitVec 11),
    let loads (i : Instr) (at0 n : Nat) (val : Nat → Word) : Prop := Issues i s v s1 → misaligned at0 n = false → Readable s at0 n →
      ∃ t, exec i s = .next t
        ∧ t.cur.land = s.cur.land ++ (if d = 0 then [] else
            [{ cycle := s.now + 4, reg := physReg s.cur.wb d.toNat, val := val (s.curCore.loc.bytes.bits at0 n), load := true
               inSpan := s.cur.span.isSome }])
        ∧ t.cur.regs = s.cur.regs ∧ t.cur.flg = s.cur.flg ∧ t.cur.pc = nextPc s v ∧ SameMemory s t
    loads (.ld d a b w) (s.reg a + s.reg b).toNat (widthOf w) (fun x => BitVec.ofInt 64 (signed (widthOf w) x))
    ∧ loads (.ldn d a b w) (s.reg a + s.reg b).toNat (widthOf w) (fun x => BitVec.ofNat 64 x)
    ∧ loads (.ldo d a k) (s.reg a + BitVec.ofInt 64 (k.toInt * 64)).toNat 64 (fun x => BitVec.ofNat 64 x)
    ∧ (∀ r, Taken (.ld d a b w) s v s1 → s.focusCore < 1024 → s.slice = some r →
      (64 < (s.reg a + s.reg b).toNat % 64 + widthOf w ∨ (8 ≤ widthOf w ∧ (s.reg a + s.reg b).toNat % widthOf w ≠ 0)) →
      ∃ t x, exec (.ld d a b w) s = .next t ∧ t.slice = none ∧ t.disp.waitRecs = s.disp.waitRecs ++ [x] ∧ x.cause = 0x04 ∧ x.rkind = 1
        ∧ x.addr = (s.reg a + s.reg b).toNat)

/-- R127, R128, R131, R132, R155, with the model's own time of a store, its issue (log 5): ST and STO of bits that may be
written store the low bits of g[D] at their address: exactly those bits change. They
are read back there, every bit outside them keeps its value, those of a partly covered byte among them, no register or flag
changes, and every ordinary sector touched is OUT.
Completion, exec answers a next state, of: st, sto. -/
def Obligations.ScalarStores : Prop :=
  ∀ (s s1 : State) (v : Cv) (d a b : Reg) (w : BitVec 4) (k : BitVec 11),
    let stores (i : Instr) (at0 n : Nat) : Prop := Issues i s v s1 → misaligned at0 n = false → Writable s at0 n →
      ∃ t, exec i s = .next t ∧ Stored s t at0 n (s.reg d).toNat ∧ KeepsRegs s t ∧ t.cur.pc = nextPc s v
    stores (.st d a b w) (s.reg a + s.reg b).toNat (widthOf w)
    ∧ stores (.sto d a k) (s.reg a + BitVec.ofInt 64 (k.toInt * 64)).toNat 64

/-- R141, R142: LTSET stores the four registers from g[A] as entry g[D] of the layout table; LTGET sends the four quarters
of an entry to four registers, 3 cycles later where the cache holds it and 9 otherwise; an LFENCE outside a span, with no
store of the context unwritten, empties the cache and takes 4 cycles.
Completion, exec answers a next state, of: ltset, ltget, lfence. -/
def Obligations.LayoutTable : Prop :=
  ∀ (d a : Reg) (s s1 : State) (v : Cv),
    (Issues (.ltset d a) s v s1 → Writable s (s.lr.ltbase + 256 * (s.reg d).toNat) 256 →
      ∃ t, exec (.ltset d a) s = .next t ∧ KeepsRegs s t ∧ t.cur.pc = nextPc s v
        ∧ Stored s t (s.lr.ltbase + 256 * (s.reg d).toNat) 256
          (s.reg (regPlus a 3) ++ s.reg (regPlus a 2) ++ s.reg (regPlus a 1) ++ s.reg a : BitVec 256).toNat)
    ∧ (Issues (.ltget d a) s v s1 → s.curCore.loc.syn = [] → s.curCore.stale = [] →
      ∃ t, exec (.ltget d a) s = .next t ∧ t.cur.regs = s.cur.regs ∧ t.cur.flg = s.cur.flg ∧ SameMemory s t
        ∧ ∀ k, k < 4 → regPlus d k ≠ 0 →
          { cycle := s.now + (if SMap.get? s.curCore.lcache ((s.reg a).toNat % 64) = some (s.reg a).toNat then 3 else 9)
            reg := physReg s.cur.wb (regPlus d k).toNat, load := true, inSpan := s.cur.span.isSome
            val := BitVec.ofNat 64 (s.curCore.loc.bytes.bits (s.lr.ltbase + 256 * (s.reg a).toNat) 256 / 2 ^ (64 * k)) } ∈ t.cur.land)
    ∧ (Issues .lfence s v s1 → s.cur.writes = [] → s.cur.span = none → engineIdle s →
      ∃ t, exec .lfence s = .next t ∧ t.curCore.lcache = [] ∧ t.curCore.stale = [] ∧ t.cur.issueAt = s.now + 4 ∧ KeepsRegs s t
        ∧ SameMemory s t)

/-! ## Vectors -/

/-- R128, R133 to R136, R140: the eight VMEM words, outside a span, once the dispatch queue has room, no bank is held and
every active element has passed its checks: the access is done, at issue as the model has it (log 5), and its convoy is on
the schedule. A load changes no memory; a store changes no vector register and, where no word needs correction, no byte
outside its elements. VST, VSTX,
VSTT and VSTB store the slots of their active elements, in ascending order, at the addresses that base and width, the index
group, the layout entry and the block size give, and change no other bit.
Completion, exec answers a next state, of: vld, vst, vldx, vstx, vldt, vstt, vldb, vstb. -/
def Obligations.VectorMemory : Prop :=
  (∀ (i : Instr) (op : VMOp) (d a b : Reg) (s s1 s2 s3 : State) (v : Cv) (x : VMAcc) (m : VMember) (st : List Nat) (wk : VWork),
    i.vmem = some (op, d, a, b) → Issues i s v s1 → s.cur.span = none → BanksFree s → s1.queueRoom = .ok () → s1.vmemAccess op d a b = .ok (x, s2) →
    s1.vmemRun op d a b = .ok (s3, m, st, wk) →
    ∃ t, exec i s = .next t ∧ t.cur.v = s3.cur.v ∧ t.cur.tags = s3.cur.tags ∧ t.cur.k = s3.cur.k ∧ (∀ p, t.spaceAt p = s3.spaceAt p)
      ∧ t.cur.vq.length = s.cur.vq.length + 1 ∧ KeepsRegs s t ∧ t.cur.pc = nextPc s v
      ∧ (op.isLoad = true → SameMemory s t)
      ∧ (op.isLoad = false → t.cur.v = s.cur.v ∧ t.cur.tags = s.cur.tags ∧ (∀ p, p ≠ Place.loc s.focusCore → t.spaceAt p = s.spaceAt p)
        ∧ (s.curCore.loc.syn = [] → ∀ c, (∀ e, e ∈ x.els → 8 * c + 8 ≤ e.2 ∨ e.2 + x.wm ≤ 8 * c) →
          t.curCore.loc.bytes.byte c = s.curCore.loc.bytes.byte c)))
  ∧ ∀ (d a b : Reg) (s s1 : State) (v : Cv), s.cur.span = none → BanksFree s → s1.queueRoom = .ok () → s.cur.grant ≤ 64 →
    let r := (s.reg a).toNat
    (∀ w g, Issues (.vst d a b) s v s1 → memWidth b.toNat = some w → s.cur.groupTag d.toNat = .ok g → g = loadTag b.toNat ∨ g = 0 →
      (∀ j, s.cur.active j = true → Writable s (r + j * w) w) →
      ∃ t, exec (.vst d a b) s = .next t ∧ KeepsRegs s t
        ∧ StoredAll s t s.cur.activeElems (fun e => r + e * w) w (s.cur.elem d.toNat ((slotWidth (loadTag b.toNat)).getD 8)))
    ∧ (∀ w g tb, Issues (.vstx d a b) s v s1 → s.cur.groupTag d.toNat = .ok g → (isB1 g || isInt g || isFlt g) = true → memWidth g = some w →
      s.cur.groupTag b.toNat = .ok tb → 6 ≤ tb → tb ≤ 9 → (∀ j, s.cur.active j = true → Writable s (indexed s a b tb j) w) →
      ∃ t, exec (.vstx d a b) s = .next t ∧ KeepsRegs s t
        ∧ StoredAll s t s.cur.activeElems (indexed s a b tb) w (s.cur.elem d.toNat ((slotWidth g).getD 8)))
    ∧ (∀ w g, let l := entryOf s r; let slot := (slotWidth (loadTag (lteFmt l))).getD 8
      Issues (.vstt d a b) s v s1 → s.curCore.stale = [] → s.curCore.loc.syn = [] → memWidth (lteFmt l) = some w → s.cur.capOk slot = true →
      s.cur.groupTag d.toNat = .ok g → g = loadTag (lteFmt l) ∨ g = 0 → lteBad l = false → startBeyond l (s.reg b) = false →
      spaceOf (lteBase l) = 0 → (∀ j, s.cur.active j = true → ∃ x, tensorAt l (s.reg b) w j = some x ∧ Writable s x w) →
      ∃ t, exec (.vstt d a b) s = .next t ∧ KeepsRegs s t
        ∧ StoredAll s t s.cur.activeElems (fun e => (tensorAt l (s.reg b) w e).getD 0) w (s.cur.elem d.toNat slot))
    ∧ (∀ p, Issues (.vstb d a b) s v s1 → Pip.ofCode b.toNat = some p → s.cur.groupTag d.toNat = .ok b.toNat → s.cur.vl % 16 = 0 →
      (∀ k, k ∈ activeBlocks s.cur → Writable s (r + k * p.bs) p.bs) →
      ∃ t, exec (.vstb d a b) s = .next t ∧ KeepsRegs s t
        ∧ StoredAll s t (activeBlocks s.cur) (fun k => r + k * p.bs) p.bs fun k => PBlock.bits p
          { e := s.cur.kByte d.toNat (16 * k), mu := (rangeFrom 0 8).map fun i => s.cur.elem d.toNat 16 (16 * k + 2 * i) / 2 ^ 14 % 2
            el := (rangeFrom 0 16).map fun j => slotElem p (s.cur.elem d.toNat 16 (16 * k + j)) })

/-- R134 to R136, R140: VLD puts the value at base + e · w, extended, into the slot of every active element e, and leaves
the others; VLDX takes it from the address that the index group gives, VLDT from the element of the tensor that e steps from
the starting coordinate reach, and VLDB takes the elements, micro-exponents and exponent of every block with an active
element.
Completion, exec answers a next state, of: vld, vldx, vldt, vldb. -/
def Obligations.VectorLoad : Prop :=
  (∀ (d a b : Reg) (s s1 : State) (v : Cv) (w e : Nat), Issues (.vld d a b) s v s1 → s.cur.span = none → BanksFree s → s1.queueRoom = .ok () →
    memWidth b.toNat = some w → (∀ j, s.cur.active j = true → Readable s ((s.reg a).toNat + j * w) w) →
    s.cur.grant ≤ 64 → s.cur.vl ≤ s.cur.vspan * s.cur.slots ((slotWidth (loadTag b.toNat)).getD 8) →
    e < s.cur.vl →
    let slot := (slotWidth (loadTag b.toNat)).getD 8
    ∃ t, exec (.vld d a b) s = .next t
      ∧ t.cur.elem d.toNat slot e = (if s.cur.active e = true then
          extendTo b.toNat w slot (s.curCore.loc.bytes.bits ((s.reg a).toNat + e * w) w) % 2 ^ slot else s.cur.elem d.toNat slot e))
  ∧ ∀ (d a b : Reg) (s s1 : State) (v : Cv), s.cur.span = none → BanksFree s → s1.queueRoom = .ok () → s.cur.grant ≤ 64 →
    let r := (s.reg a).toNat
    let bits := s.curCore.loc.bytes.bits
    (∀ w g tb, let slot := (slotWidth g).getD 8
      Issues (.vldx d a b) s v s1 → s.cur.groupTag d.toNat = .ok g → (isB1 g || isInt g || isFlt g) = true → memWidth g = some w →
      s.cur.groupTag b.toNat = .ok tb → 6 ≤ tb → tb ≤ 9 → s.cur.vl ≤ s.cur.vspan * s.cur.slots slot →
      (∀ j, s.cur.active j = true → Readable s (indexed s a b tb j) w) →
      ∃ t, exec (.vldx d a b) s = .next t ∧ KeepsRegs s t ∧ SameMemory s t
        ∧ Loaded s t d.toNat slot fun e => bits (indexed s a b tb e) w)
    ∧ (∀ w, let l := entryOf s r; let slot := (slotWidth (loadTag (lteFmt l))).getD 8
      Issues (.vldt d a b) s v s1 → s.curCore.stale = [] → s.curCore.loc.syn = [] → memWidth (lteFmt l) = some w → s.cur.capOk slot = true →
      lteBad l = false → startBeyond l (s.reg b) = false → spaceOf (lteBase l) = 0 → s.cur.vl ≤ s.cur.vspan * s.cur.slots slot →
      (∀ j, s.cur.active j = true → ∃ x, tensorAt l (s.reg b) w j = some x ∧ Readable s x w) →
      ∃ t, exec (.vldt d a b) s = .next t ∧ KeepsRegs s t ∧ SameMemory s t
        ∧ Loaded s t d.toNat slot fun e => extendTo (lteFmt l) w slot (bits ((tensorAt l (s.reg b) w e).getD 0) w))
    ∧ (∀ p, Issues (.vldb d a b) s v s1 → Pip.ofCode b.toNat = some p → s.cur.grant % 8 = 0 → s.cur.vl % 16 = 0 → s.cur.vl ≤ s.cur.vspan * s.cur.slots 16 →
      (∀ k, k ∈ activeBlocks s.cur → Readable s (r + k * p.bs) p.bs) →
      let block (k : Nat) : PBlock := PBlock.ofBits p (bits (r + k * p.bs) p.bs)
      ∃ t, exec (.vldb d a b) s = .next t ∧ KeepsRegs s t ∧ SameMemory s t
        ∧ Loaded s t d.toNat 16 (fun e => blockSlot (block (e / 16)) e)
        ∧ ∀ k, k ∈ activeBlocks s.cur → t.cur.kByte d.toNat (16 * k) = (block k).e)

/-- R43, R172 to R176, R195: a vector word that is not the last of its run joins it; the last one, outside a span, takes
the whole run into effect, and pushes the convoy. One statement for every vector opcode 40h to 79h. The run has the effect
of its members in order, each on what those before it leave, and the flags of all of them; the count or index of VMPOP or
VMFIRST is on its way to g[D].
Completion, exec answers a next state, of: vadd, vsub, vmul, vfma, vfms, vfnma, vdiv, vsqrt, vrsqrt, vrcp, vmin, vmax, vabs,
vneg, vexp2, vlog2, vand, vor, vxor, vshl, vshr, vsar, vadds, vsubs, vmulh, vpopc, vceq, vcne, vclt, vcle, vclass, vsel,
vmov, vbcst, vcvt, vtag, vround, vscale, vqnt, vdqnt, vrsum, vrmax, vrmin, vror, vperm, vslup, vsldn, viota, vroll, vmpop,
vmfirst, vzip, vunzip, vmand, vmor, vmxor, vmnot. -/
def Obligations.VectorRun : Prop :=
  (∀ (k : Nat) (c : Ctx) (run : List (Nat × VWord)), (c.vwalk k run).c = run.foldl (fun c p => (vecEffect p.1 c p.2).c) c
    ∧ ∀ op w, (c.vwalk k ((op, w) :: run)).fl = (vecEffect op c w).fl ||| ((vecEffect op c w).c.vwalk (k + 1) run).fl)
  ∧ ∀ (i : Instr) (op : Nat) (w : VWord) (s s1 : State) (v : Cv), i.vec = some (op, w) → Issues i s v s1 →
    (v.idx + 1 < v.n → ∃ t, exec i s = .next t ∧ OnlyFocus s t ∧ rest t.cur = rest s.cur ∧ KeepsRegs s t ∧ t.cur.pc = s.cur.pc + 32
      ∧ t.cur.cv = some { v with pend := v.pend ++ [(op, w)], idx := v.idx + 1 })
    ∧ (v.n ≤ v.idx + 1 → s.cur.span = none → s.cur.land = [] → s1.queueRoom = .ok () →
      let r := s1.cur.vwalk (v.n - (v.pend ++ [(op, w)]).length) (v.pend ++ [(op, w)])
      r.opBad = none → r.tagBad = none →
      ∃ t q, exec i s = .next t ∧ t.cur.v = r.c.v ∧ t.cur.tags = r.c.tags ∧ t.cur.m = r.c.m ∧ t.cur.k = r.c.k
        ∧ t.cur.vq = s.cur.vq ++ [q] ∧ q.head = v.head ∧ q.members = v.n ∧ q.push = s.now ∧ q.flags = r.fl
        ∧ t.cur.regs = s.cur.regs ∧ t.cur.flg = s.cur.flg ∧ t.cur.pc = nextPc s v ∧ SameMemory s t ∧ OnlyFocus s t
        ∧ ∀ x, v.pend = [] → op = 0x71 ∨ op = 0x72 → (vecEffect op s1.cur w).g = some x → w.d ≠ 0 →
          ∃ l, l ∈ t.cur.land ∧ l.reg = physReg s.cur.wb w.d.toNat ∧ l.val = x)

/-- R73, R77 to R80, R91, R177, R178, R181 to R196, one clause per kind of opcode. VADD, VSUB, VMUL on an integer tag write,
in every active element, the operation modulo 2 to the slot width, and leave the others; they set no flag. Arithmetic on
every tag, logic, shifts, counts, conversions, moves, dequantisation, VIOTA and VROLL write the value of each active element
(VSEL of every one), tag the group and raise the flags of the active elements. Compares, VCLASS and mask logic write the mask
bits below VL, compares and VCLASS those of active elements. Permutes, slides and interleaves take their source elements.
VQNT writes the quantised blocks, VMPOP counts and VMFIRST finds the picked elements, VRSUM, VRMAX and VRMIN write slot 0,
and VTAG, and VMOV of a NONE group, copy whole registers. -/
def Obligations.VectorElements : Prop :=
  (∀ (c : Ctx) (w : VWord) (e op : Nat) (f : Int → Int → Int), (op, f) ∈ [(0x40, (· + ·)), (0x41, (· - ·)), (0x42, (· * ·))] →
    isInt (c.tag w.a.toNat) = true → c.grant ≤ 64 →
    let s := (slotWidth (c.tag w.a.toNat)).getD 8
    c.vl ≤ c.vspan * c.slots s → e < c.vl →
    (vecEffect op c w).fl = 0
    ∧ (vecEffect op c w).c.elem w.d.toNat s e = (if c.active e = true then
        (f (c.elem w.a.toNat s e) (c.bElem w (c.tag w.a.toNat) s e) % (2 ^ s : Nat)).toNat else c.elem w.d.toNat s e))
  ∧ ∀ (c : Ctx) (w : VWord) (op e : Nat), c.grant ≤ 64 → c.grant % 8 = 0 → c.vl ≤ 2048 → e < c.vl →
    let r := vecEffect op c w
    let t := c.tag w.a.toNat
    let s := (slotWidth t).getD 8
    let d := w.d.toNat
    (∀ u x, elemValue op c w e = some (u, x) → let su := (slotWidth u).getD 8
      c.vl ≤ c.vspan * c.slots su →
      r.c.elem d su e = (if op = 0x5F ∨ c.active e = true then x.1 % 2 ^ su else c.elem d su e)
      ∧ (∀ k, k < c.vspan → r.c.tag (d + k) = u)
      ∧ r.fl = c.activeElems.foldl (fun fl j => fl ||| ((elemValue op c w j).map fun y => y.2.2).getD 0) 0)
    ∧ (∀ x, maskValue op c w e = some x →
      r.c.maskBit d e = (if 0x76 ≤ op ∨ c.active e = true then x.1 else c.maskBit d e)
      ∧ (∀ j, c.vl ≤ j → j < 2048 → r.c.maskBit d j = c.maskBit d j)
      ∧ r.fl = c.activeElems.foldl (fun fl j => fl ||| ((maskValue op c w j).map Prod.snd).getD 0) 0)
    ∧ (∀ m, moveOf op c w e = some m → isAll t = true → c.vl ≤ c.vspan * c.slots s →
      let rd (x : Nat) : Nat := if isB1 t then x % 2 else x
      r.c.elem d s e = (if c.active e = true then
          (match m with | .from g j => rd (c.elem g s j) | .zero => 0 | .keeps => c.elem d s e) else c.elem d s e)
      ∧ r.fl = 0)
    ∧ (∀ p f, op = 0x66 → Pip.ofCode w.imm.toNat = some p → fmtOf t = some f → c.vl % 16 = 0 → c.vl ≤ c.vspan * c.slots 16 →
      let q := quantise p ((rangeFrom (e / 16 * 16) 16).map fun j =>
        let x := c.elem w.a.toNat s j
        (x / 2 ^ (f.width - 1) % 2 == 1, f.input (RC.of c.rmode).ftz x))
      if e / 16 ∈ activeBlocks c then r.c.elem d 16 e = blockSlot q.1 e ∧ r.c.kByte d e = q.1.e % 256
      else r.c.elem d 16 e = c.elem d 16 e ∧ r.c.kByte d e = c.kByte d e)
    ∧ (op = 0x71 → r.c = c ∧ r.g = some (BitVec.ofNat 64 ((rangeFrom 0 c.vl).filter fun j => c.active j && c.maskBit w.a.toNat j).length))
    ∧ (op = 0x72 → r.c = c ∧ r.g = some (match (rangeFrom 0 c.vl).find? fun j => c.active j && c.maskBit w.a.toNat j with
        | some j => BitVec.ofNat 64 j | none => BitVec.allOnes 64))
    ∧ (8 ≤ c.grant → op = 0x68 → isInt t = true → r.c.elem d 64 0 =
        ((c.activeElems.map fun j => slotOf t s (c.elem w.a.toNat s j)).sum % (2 ^ 64 : Nat)).toNat ∧ r.fl = 0)
    ∧ (8 ≤ c.grant → op = 0x68 → (isFlt t || isPip t) = true → let g := if t = 0x0D then Fmt.fp64 else Fmt.fp32
        r.c.elem d g.width 0 = (rangeFrom 1 (ceilDiv c.vl 16 - 1)).foldl (fun acc b => (g.addRne acc (blockOf c w b)).1) (blockOf c w 0) % 2 ^ g.width)
    ∧ (8 ≤ c.grant → op = 0x69 → isInt t = true → r.c.elem d s 0 =
        ((c.activeElems.map fun j => slotOf t s (c.elem w.a.toNat s j)).foldl Max.max (lowOf t s) % (2 ^ s : Nat)).toNat ∧ r.fl = 0)
    ∧ (8 ≤ c.grant → op = 0x6A → isInt t = true → r.c.elem d s 0 =
        ((c.activeElems.map fun j => slotOf t s (c.elem w.a.toNat s j)).foldl Min.min (highOf t s) % (2 ^ s : Nat)).toNat ∧ r.fl = 0)
    ∧ (∀ f, 8 ≤ c.grant → op = 0x69 ∨ op = 0x6A → fmtOf t = some f →
        let xs := c.activeElems.map fun j => c.elem w.a.toNat s j
        let best (x y : Nat) : Nat := (f.minmax (RC.of c.rmode) (decide (op = 0x69)) x y).1
        r.c.elem d s 0 = (if xs.any (fun x => (f.unpack x).isNan) then f.nan
          else match xs with
            | [] => f.inf (decide (op = 0x69))
            | x :: l => l.foldl best (f.flush (RC.of c.rmode).ftz x)) % 2 ^ s)
    ∧ (∀ k, op = 0x63 ∨ (op = 0x60 ∧ t = 0) → k < c.vspan → d + c.vspan ≤ 128 →
        (r.c.vreg (d + k)).toNat % 2 ^ (c.grant * 32) = (c.vreg (w.a.toNat + k)).toNat % 2 ^ (c.grant * 32)
        ∧ r.c.tag (d + k) = (if op = 0x63 then w.imm.toNat % 64 else 0))

/-! ## Queues -/

/-- R143, R146, R147: QWAIT on an inbound queue that holds enough entries covers them, and on an outbound queue that holds few
enough goes on; either takes 2 cycles when it is satisfied at once, else until it is satisfied (R130). QPOP takes the elements
from the concatenated bits of the covered entries at the head into the slots of a group, and the entry behind them is the
head then; QPUSH writes the low bits of the slots of a group as one bit string, filled up with zeros, into the entries behind
those held, and no other bit. R150, cause QUEUE-OVERFLOW (22h): a QPUSH outside a span on a compute core that
finds too little room stops its context before the word, with a trap record that names the queue, and pushes nothing.
Completion, exec answers a next state, of: qwait, qpop, qpush. -/
def Obligations.Queues : Prop :=
  ∀ (d a q : Reg) (s s1 : State) (v : Cv),
    let qu := s.curCore.queue q.toNat
    let n := (s.reg a).toNat
    let wm := (memWidth n).getD 8
    let slot := (slotWidth (loadTag n)).getD 8
    let need := ceilDiv (s.cur.vl * wm) 512
    (Issues (.qwait a q) s v s1 → qu.dir = 1 → n ≤ qu.avail →
      ∃ t, exec (.qwait a q) s = .next t ∧ t.curCore.queue q.toNat = { qu with cov := Nat.max qu.cov n }
        ∧ t.cur.issueAt = (if s.cur.qstall = true then s.now else s.now + 2)
        ∧ KeepsRegs s t ∧ SameMemory s t)
    ∧ (Issues (.qwait a q) s v s1 → qu.dir = 2 → qu.avail ≤ n →
      ∃ t, exec (.qwait a q) s = .next t ∧ t.curCore.queues = s.curCore.queues
        ∧ t.cur.issueAt = (if s.cur.qstall = true then s.now else s.now + 2) ∧ KeepsRegs s t ∧ SameMemory s t)
    ∧ (Issues (.qpop d a q) s v s1 → s.cur.span = none → BanksFree s → s1.queueRoom = .ok () → qu.dir = 1 → need ≤ qu.cov →
      s.curCore.loc.syn = [] → s.lr.racem = 0 →
      ∃ t, exec (.qpop d a q) s = .next t ∧ t.curCore.queue q.toNat = { qu.advance need with cov := qu.cov - need, avail := qu.avail - need }
        ∧ t.cur.v = (s.cur.setElems d.toNat slot ((rangeFrom 0 s.cur.vl).map fun e =>
            (e, extendTo n wm slot ((s.curCore.entryBits qu need >>> (e * wm)) % 2 ^ wm)))).v
        ∧ (s.cur.grant ≤ 64 → s.cur.vl ≤ s.cur.vspan * s.cur.slots slot → ∀ e, e < s.cur.vl →
          t.cur.elem d.toNat slot e = extendTo n wm slot (ringBits s.curCore.loc.bytes qu (e * wm) wm) % 2 ^ slot)
        ∧ (RingOk qu → ∀ k, ringAt (t.curCore.queue q.toNat) k = ringAt qu (need + k))
        ∧ t.cur.vq.length = s.cur.vq.length + 1 ∧ KeepsRegs s t ∧ SameMemory s t)
    ∧ (∀ g, Issues (.qpush d a q) s v s1 → s.cur.span = none → BanksFree s → s1.queueRoom = .ok () → qu.dir = 2 → s.cur.groupTag d.toNat = .ok g →
      g = loadTag n ∨ g = 0 → need ≤ qu.capacity - qu.avail → s.lr.racem = 0 →
      ∃ t, exec (.qpush d a q) s = .next t ∧ t.curCore.queue q.toNat = { qu with avail := qu.avail + need, pushed := qu.pushed + need }
        ∧ t.curCore.loc.bytes = (s.curCore.putEntries qu qu.avail need (s.cur.slotBits d.toNat slot wm)).loc.bytes
        ∧ (RingOk qu → ∀ b, b < 512 * need → bitAt t.curCore.loc.bytes (ringAt qu (qu.avail + b / 512) + b % 512) =
            (decide (b < s.cur.vl * wm) && (s.cur.elem d.toNat slot (b / wm)).testBit (b % wm)))
        ∧ (∀ i, (∀ k, k < need → i < ringAt qu (qu.avail + k) ∨ ringAt qu (qu.avail + k) + 512 ≤ i) →
            bitAt t.curCore.loc.bytes i = bitAt s.curCore.loc.bytes i)
        ∧ t.cur.vq.length = s.cur.vq.length + 1 ∧ KeepsRegs s t ∧ t.cur.v = s.cur.v)
    ∧ (∀ g, Taken (.qpush d a q) s v s1 → s.onSys = false → s.cur.span = none → s1.queueRoom = .ok () → qu.dir = 2 →
      s.cur.groupTag d.toNat = .ok g → g = loadTag n ∨ g = 0 → qu.capacity - qu.avail < need →
      ∃ t x, exec (.qpush d a q) s = .next t ∧ t.cur.trapped = true ∧ t.cur.pc = s.origin.head ∧ t.cur.cv = none
        ∧ t.disp.trapWait = s.disp.trapWait ++ [x] ∧ x.cause = 0x22 ∧ x.info = q.toNat + 256 ∧ t.curCore.queues = s.curCore.queues
        ∧ SameMemory s t)

/-! ## Turnaround -/

/-- R158 to R160, R168: TURN queues a turnaround of the whole sectors of its region once the region passes its checks and
the queue has room, TURNT of the region of a layout entry; TWAIT goes on when none is left.
Completion, exec answers a next state, of: turn, turnt, twait. -/
def Obligations.Turnarounds : Prop :=
  ∀ (lvl : BitVec 3) (paths : BitVec 4) (a b : Reg) (s s1 : State) (v : Cv),
    (Issues (.turn lvl paths a b) s v s1 → s.cur.turns.length < 4 → s1.checkRegion (s.reg a).toNat (s.reg b).toNat lvl.toNat = .ok () →
      ∃ t, exec (.turn lvl paths a b) s = .next t ∧ TurnAdded s t lvl.toNat paths (s.reg a).toNat (s.reg b).toNat)
    ∧ (∀ l s2 wm, Issues (.turnt lvl paths a) s v s1 → s.cur.turns.length < 4 → s1.checkEntry s.focusCore (s.reg a).toNat = .ok () →
      s1.useEntry s.focusCore (s.reg a).toNat = (l, s2) → lteBad l = false → lteWidth (lteFmt l) = some wm →
      s2.checkRegion (lteRegion l wm).1 (lteRegion l wm).2 lvl.toNat = .ok () →
      ∃ t, exec (.turnt lvl paths a) s = .next t ∧ TurnAdded s t lvl.toNat paths (lteRegion l wm).1 (lteRegion l wm).2)
    ∧ (Issues .twait s v s1 → s.cur.turns = [] →
      ∃ t, exec .twait s = .next t ∧ rest t.cur = rest s.cur ∧ KeepsRegs s t ∧ t.cur.pc = nextPc s v ∧ OnlyFocus s t)

/-- R160 to R163, R165: the oldest turnaround of a context starts once what it drains is written; each group of 32 sectors
flips in a cycle of its own: of the group, every sector that has a facing, and that no write still on its way reaches, is IN
afterwards, and in an exchange superstep its flip is pending instead; the turnaround leaves the queue when the last group
has flipped. X(L) is fixed at the start; at SYSTEM level it is free (log 9).
Completion, exec answers a next state, of: turnStart, turnGroupFlip, turnComplete. -/
def Obligations.TurnSteps : Prop :=
  ∀ (s : State) (core ctx : Nat) (u : TurnRec) (r : List TurnRec), (s.ctx core ctx).turns = u :: r → s.turnLive core ctx = true →
    (u.start = none → s.drainsLeft core ctx u = false → (s.ctx core ctx).turnStartAt u ≤ s.now → u.level ≠ 4 →
      ∃ t, exec (.turnStart core ctx) s = .next t
        ∧ (t.ctx core ctx).turns = { u with start := some s.now, x := turnX u.level } :: r ∧ SameMemory s t)
    ∧ (u.start = none → s.drainsLeft core ctx u = false → (s.ctx core ctx).turnStartAt u ≤ s.now → u.level = 4 →
      ∃ t, exec (.turnStart core ctx) s = .next t
        ∧ (t.ctx core ctx).turns = { u with start := some s.now, x := Config.freeNat s.free } :: r ∧ SameMemory s t)
    ∧ (∀ c, u.nextFlip = some c → c ≤ s.now →
      ∃ t, exec (.turnGroupFlip core ctx) s = .next t ∧ (t.ctx core ctx).turncur = u.lo + 512 * 32 * (u.groups + 1)
        ∧ (t.ctx core ctx).turns = { u with groups := u.groups + 1 } :: r ∧ SameMemory s t
        ∧ ∀ i p a, 32 * u.groups ≤ i → i < 32 * (u.groups + 1) → i < u.count → s.locate core (u.lo + 512 * i) = some (p, a) →
          s.exempt p (a / 512) = false → (∀ k, p = .loc k → (s.core k).nextWrite (a / 512) s.now = none) →
          (u.exch = false → (t.spaceAt p).isOut (a / 512) = false)
          ∧ (u.exch = true → (s.spaceAt p).isOut (a / 512) = true → (t.spaceAt p).isOut (a / 512) = true ∧ (t.spaceAt p).isPend (a / 512) = true))
    ∧ (∀ c, u.endsAt = some c → c ≤ s.now →
      ∃ t, exec (.turnComplete core ctx) s = .next t ∧ (t.ctx core ctx).turns = r ∧ (t.ctx core ctx).turncur = 0
        ∧ (t.ctx core ctx).turnAt = s.now ∧ SameMemory s t)

/-! ## Atomics -/

/-- R272 to R280: each of the thirteen atomics, on a word of a declared sync sector, LOCAL on a compute core and DEVICE on
a system core, replaces it by the new value, where it stores, and sends the old one to g[DR], where it reads; every other
byte keeps its value, and no register changes yet. The result of a system core takes a free time longer (log 9).
Completion, exec answers a next state, of: aadd, aand, aor, axor, amin, amax, aminn, amaxn, axchg, acas, afadd, ald, ast. -/
def Obligations.Atomics : Prop :=
  ∀ (i : Instr) (k : Bool) (fl : BitVec 2) (dr : BitVec 5) (a : Reg) (lat : Nat) (reads store : Bool) (f : Nat → Nat × BitVec 7)
    (s s1 : State) (v : Cv) (p : Place) (at0 : Nat),
    atomOf i s = some (k, fl, dr, a, lat, reads, store, f) → Issues i s v s1 → s.cur.atomAt = none → BanksFree s →
    (fl = 2 → s.cur.turns = [] ∧ s.cur.writes = [] ∧ engineIdle s) →
    let w := if k then 32 else 64
    s.mailWord (s.reg a).toNat = none → s.atomPlace (s.reg a).toNat w = .ok (p, at0) → (s.reg a).toNat % w = 0 → s.atomSync p (at0 / 512) = true → (s.spaceAt p).syn = [] →
    let old := (s.spaceAt p).bytes.bits at0 w
    ∃ t, exec i s = .next t
      ∧ (t.spaceAt p).bytes.bits at0 w = (if store then (f old).1 % 2 ^ w else old)
      ∧ (∀ c, 8 * c + 8 ≤ at0 ∨ at0 + w ≤ 8 * c → (t.spaceAt p).bytes.byte c = (s.spaceAt p).bytes.byte c)
      ∧ (∀ q, q ≠ p → t.spaceAt q = s.spaceAt q)
      ∧ (reads = true → dr ≠ 0 → { cycle := s.now + lat + (if s.onSys then Config.freeNat s.free else 0)
                                   reg := physReg s.cur.wb dr.toNat, val := BitVec.ofNat 64 old
                                   flags := (f old).2, load := true, inSpan := s.cur.span.isSome } ∈ t.cur.land)
      ∧ t.cur.regs = s.cur.regs ∧ t.cur.flg = s.cur.flg ∧ t.cur.pc = nextPc s v

/-! ## The matrix engine -/

/-- R200, R202, R205 to R212, R216, R220 to R222: outside a span a matrix command that has passed its checks joins the queue
of its engine, and nothing else of the context changes. With a queue that has room, entries that no write has left in doubt
(R142) and operands that pass the checks, that is what happens, and the command queued holds the layout entry that g[A] names
and the coordinates of the register after it, for MGRD those of g[B] as well, with the shape granted and, for MDRAIN and
MZERO, the fields of their control words. MWAIT goes on when the engine has nothing left to do; MAMAX, with no drain left, returns AMAX
and clears it.
Completion, exec answers a next state, of: mldw, mldws, mswap, mfwd, mbwd, mgrd, mdrain, mzero, mwait, mamax. -/
def Obligations.MatrixWords : Prop :=
  ∀ (i : Instr) (s s1 : State) (v : Cv),
    let queues (m : MCmd) : Prop :=
      ∃ t, exec i s = .next t ∧ t.curCore.me.queue = s.curCore.me.queue ++ [m] ∧ t.curCore.me.running = s.curCore.me.running
        ∧ t.curCore.me.acc = s.curCore.me.acc ∧ t.curCore.me.dw = s.curCore.me.dw ∧ t.curCore.me.wact = s.curCore.me.wact
        ∧ t.curCore.me.wsh = s.curCore.me.wsh ∧ rest t.cur = rest s.cur ∧ KeepsRegs s t ∧ t.cur.pc = nextPc s v ∧ SameMemory s t
    (∀ k f s2, matrixWord i = some (k, f) → Issues i s v s1 → s.cur.span = none → f s1 = .ok s2 →
      ∃ m, queues m ∧ m.kind = k ∧ m.issued = s.now ∧ m.start = none)
    ∧ (∀ m, commandOf i s v = some m → Issues i s v s1 → s.cur.span = none → s.curCore.me.queue.length < 4 →
      s.curCore.stale = [] → s.curCore.loc.syn = [] → CommandOk i s → queues m)
    ∧ (Issues .mwait s v s1 → s.curCore.me.queue = [] → s.curCore.me.running = [] →
      ∃ t, exec .mwait s = .next t ∧ rest t.cur = rest s.cur ∧ KeepsRegs s t ∧ t.cur.pc = nextPc s v ∧ OnlyFocus s t)
    ∧ (∀ d, Issues (.mamax d) s v s1 → (∀ m, m ∈ s.curCore.me.queue ++ s.curCore.me.running → m.kind ≠ .drain) →
      ∃ t, exec (.mamax d) s = .next t ∧ t.curCore.me.amax = 0 ∧ t.curCore.me.queue = s.curCore.me.queue
        ∧ t.curCore.me.running = s.curCore.me.running ∧ t.cur.regs = s.cur.regs ∧ rest t.cur = rest s.cur ∧ t.cur.pc = nextPc s v
        ∧ SameMemory s t
        ∧ (d ≠ 0 → { cycle := s.now + 2, reg := physReg s.cur.wb d.toNat, val := s.curCore.me.amax.setWidth 64
                     inSpan := s.cur.span.isSome } ∈ t.cur.land))

/-- R207: MSHAPE grants at most 64 rows and columns, and at most 64 of K, or 128 in whole sixteens for sparse weights, and
returns the grant at once; commands already issued keep the shape they captured, and every one issued after it captures the
grant. A request with a reserved bit, a zero M, N or K, or a sparse K below 16 ends the slice with ILLEGAL-OPERAND. The
shape is 64 in each dimension at reset.
Completion, exec answers a next state, of: mshape. -/
def Obligations.ShapeGrant : Prop :=
  ∀ (d a : Reg) (s s1 : State) (v : Cv),
    let r := (s.reg a).toNat
    let sp := r / 2 ^ 24 % 2 = 1
    let gm := Min.min (r % 2 ^ 7) 64
    let gn := Min.min (r / 2 ^ 8 % 2 ^ 7) 64
    let gk := if sp then Min.min (r / 2 ^ 16 % 2 ^ 8) 128 / 16 * 16 else Min.min (r / 2 ^ 16 % 2 ^ 8) 64
    (Issues (.mshape d a) s v s1 →
      ∃ t, exec (.mshape d a) s = .next t ∧ t.curCore.me.gm = gm ∧ t.curCore.me.gn = gn ∧ t.curCore.me.gk = gk
        ∧ t.curCore.me.sp = decide sp ∧ t.curCore.me.queue = s.curCore.me.queue ∧ t.curCore.me.running = s.curCore.me.running
        ∧ t.reg d = (if d = 0 then 0 else BitVec.ofNat 64 (gm + 2 ^ 8 * gn + 2 ^ 16 * gk + 2 ^ 24 * (if sp then 1 else 0)))
        ∧ (∀ n, n ≠ d → t.reg n = s.reg n) ∧ SameMemory s t)
    ∧ (∀ i k f s2, matrixWord i = some (k, f) → Issues i s v s1 → s.cur.span = none → f s1 = .ok s2 →
      ∃ t m, exec i s = .next t ∧ t.curCore.me.queue = s.curCore.me.queue ++ [m] ∧ m.gm = s.curCore.me.gm ∧ m.gn = s.curCore.me.gn
        ∧ m.gk = s.curCore.me.gk ∧ m.sp = s.curCore.me.sp)
    ∧ (∀ q, AtHead (.mshape d a) s → s.slice = some q →
      (r / 2 ^ 25 ≠ 0 ∨ r / 2 ^ 15 % 2 = 1 ∨ r / 2 ^ 7 % 2 = 1 ∨ r % 2 ^ 7 = 0 ∨ r / 2 ^ 8 % 2 ^ 7 = 0 ∨ r / 2 ^ 16 % 2 ^ 8 = 0
        ∨ (sp ∧ r / 2 ^ 16 % 2 ^ 8 < 16)) →
      ∃ t x, exec (.mshape d a) s = .next t ∧ t.slice = none ∧ t.disp.waitRecs = s.disp.waitRecs ++ [x] ∧ x.cause = 0x02 ∧ x.rkind = 1)
    ∧ ({} : Mat).gm = 64 ∧ ({} : Mat).gn = 64 ∧ ({} : Mat).gk = 64 ∧ ({} : Mat).sp = false

/-- R90, R205, R208 to R211, R213 to R217, R219, R222, R228: when no running command has a request due, the oldest queued command
starts once its port is free: MSWAP exchanges the weight planes and MZERO clears accumulators in that cycle, a drain takes
its cells, and a load or stream command puts its requests on the schedule. A request that is due reads its sector in its
cycle. Once the last row is read, the cells of the command are those of its rows: W-shadow takes the values of MLDW and the kept
values and routes of MLDWS, and MFWD, MBWD and MGRD add the products to ACC and DW group by group, each group summed exactly
and rounded once. A drain writes sector after sector; a command that is due completes, and its plane takes its cells.
Completion, exec answers a next state, of: matrixCommandStart, drainSectorWrite, matrixCommandComplete. -/
def Obligations.MatrixSteps : Prop :=
  ∀ (s s2 : State) (core : Nat) (m : MCmd) (t row sec : Nat), s.engineLive core = true →
    let e := (s.core core).me
    let starts (kinds : List MKind) (holds : State → Prop) : Prop :=
      s.readDue core = none → s.nextCommand core = some (m, t) → t ≤ s.now → m.kind ∈ kinds →
      ∃ u, exec (.matrixCommandStart core) s = .next u ∧ (u.core core).me.queue = e.queue.drop 1 ∧ SameMemory s u ∧ holds u
    (s.readDue core = none → s.nextCommand core = some (m, t) → t ≤ s.now → s.startCommand core m = .ok s2 →
      exec (.matrixCommandStart core) s = .next ((s2.modCore core fun k => { k with me := { k.me with queue := k.me.queue.drop 1 } }).wake core))
    ∧ starts [.swap] (fun u => (u.core core).me.wact = e.wsh ∧ (u.core core).me.wsh = e.wact ∧ (u.core core).me.tact = e.tsh
      ∧ (u.core core).me.tsh = e.tact ∧ (u.core core).me.acc = e.acc ∧ (u.core core).me.dw = e.dw)
    ∧ starts [.zero] (fun u => (u.core core).me.acc = (if m.selects 0 = true then [] else e.acc)
      ∧ (u.core core).me.dw = (if m.selects 1 = true then [] else e.dw))
    ∧ starts [.drain] (fun u => ∃ x, (u.core core).me.running = e.running ++ [x] ∧ x.start = some s.now ∧ x.origin = m.origin
      ∧ ∀ r c, r < m.rows → c < m.cols → c < 64 →
        SMap.get 0 x.res (64 * r + c) = (SMap.get 0 (if m.pl = 0 then e.acc else e.dw) (64 * r + c)).setWidth 64)
    ∧ ((s.core core).quiet s.now = true → starts [.ldw, .ldws, .fwd, .bwd, .grd] fun u => ∃ x, (u.core core).me.running = e.running ++ [x]
      ∧ x.start = some s.now ∧ x.kind = m.kind ∧ x.origin = m.origin ∧ x.a = m.a ∧ x.gm = m.gm ∧ x.gn = m.gn ∧ x.gk = m.gk)
    ∧ (s.readDue core = some m → s.readNext core m m.plan = .ok s2 → exec (.matrixCommandStart core) s = .next s2)
    ∧ (∀ q, s.readDue core = some m → m.plan = [q] → s.lr.racem = 0 → (∀ p n, (p, n) ∈ m.unitsAt q.i → InPlace s p n) →
      (s.core core).loc.syn = [] → (s.core core).loc.hist = [] → (s.core core).loc.isOut q.sec = false →
      (s.ctx core m.origin.ctx).turns = [] → m.kind ≠ .ldws →
      ∃ u x, exec (.matrixCommandStart core) s = .next u ∧ x ∈ (u.core core).me.running ∧ x.plan = [] ∧ x.origin = m.origin
        ∧ SMap.get 0 x.got (readKey q.i q.sec) = BitVec.ofNat 512 ((s.core core).loc.bytes.bits (512 * q.sec) 512) ∧ SameMemory s u)
    ∧ (∀ q mem, s.readDue core = some m → m.plan = [q] → s.lr.racem = 0 → (∀ p n, (p, n) ∈ m.unitsAt q.i → InPlace s p n) →
      (s.core core).loc.syn = [] → (s.core core).loc.hist = [] → (s.core core).loc.isOut q.sec = false →
      (s.ctx core m.origin.ctx).turns = [] →
      RowsRead { m with got := m.got.put (readKey q.i q.sec) (BitVec.ofNat 512 ((s.core core).loc.bytes.bits (512 * q.sec) 512)) } mem →
      RowsOk m mem → (∀ r, r ∈ e.running → r.kind ∈ [MKind.fwd, .bwd, .grd] → r.res = []) →
      ∃ u x, exec (.matrixCommandStart core) s = .next u ∧ x ∈ (u.core core).me.running ∧ x.plan = [] ∧ x.origin = m.origin ∧ x.kind = m.kind
        ∧ RowsGive e m mem x.res)
    ∧ (∀ acc ps, gsum acc [] = acc ∧ (ps ≠ [] → ps.length ≤ 128 →
      gsum acc ps = gsum (Fmt.fp32.addRne acc (groupSum ((ps.take 16).filterMap id))).1 (ps.drop 16)))
    ∧ (∀ ps, GroupRule ps (groupSum ps))
    ∧ ((s.core core).me.nextDrain = some (m, row, sec, t) → t ≤ s.now → s.drainHeld core m row sec = false → s.drainWrite core m row sec = .ok s2 →
      exec (.drainSectorWrite core) s = .next s2)
    ∧ (e.nextDrain = some (m, row, sec, t) → t ≤ s.now → s.drainHeld core m row sec = false → (s.core core).banks = [] →
      (s.core core).loc.syn = [] → s.lr.racem = 0 →
      ∃ u, exec (.drainSectorWrite core) s = .next u
        ∧ (u.core core).loc.bytes = (piecesIn sec (m.drainRow row).1).foldl (fun b p => b.setBits p.1 p.2.1 p.2.2) (s.core core).loc.bytes
        ∧ ∀ p, p ≠ Place.loc core → u.spaceAt p = s.spaceAt p)
    ∧ ((s.core core).me.nextDone = some (m, t) → t ≤ s.now →
      let took (p q : SMap (BitVec 32)) : Prop := ∀ i, SMap.get 0 q i =
        if i ∈ m.kept then SMap.get 0 p i else match SMap.get? m.res i with | some x => x.setWidth 32 | none => SMap.get 0 p i
      ∃ u, exec (.matrixCommandComplete core) s = .next u ∧ (u.core core).me = (s.core core).me.complete m
        ∧ (m.kind ∈ [MKind.ldw, .ldws] → (u.core core).me.wsh = m.res ∧ (u.core core).me.tsh = m.fmt
          ∧ (u.core core).me.spsh = decide (m.kind = .ldws) ∧ (u.core core).me.acc = e.acc ∧ (u.core core).me.dw = e.dw)
        ∧ ((m.res.map (·.1)).Nodup → m.kind ∈ [MKind.fwd, .bwd] → took e.acc (u.core core).me.acc ∧ (u.core core).me.dw = e.dw
          ∧ (u.core core).me.wsh = e.wsh)
        ∧ ((m.res.map (·.1)).Nodup → m.kind = .grd → took e.dw (u.core core).me.dw ∧ (u.core core).me.acc = e.acc
          ∧ (u.core core).me.wsh = e.wsh)
        ∧ (u.ctx core m.origin.ctx).flg = (s.ctx core m.origin.ctx).flg ||| m.flags ∧ SameMemory s u)

/-! ## Supersteps -/

/-- R232, R233, R237, R239: PARR makes its context ARRIVED; PWAIT makes an ARRIVED context WAITING and a RELEASED one run on
with its view of PHC taken up; CBARR notes a pending arrival under the mask of the generation; CBWAIT goes on when none is
left; YIELD sets the request.
Completion, exec answers a next state, of: parr, pwait, cbarr, cbwait, yield. -/
def Obligations.PhaseWords : Prop :=
  ∀ (a b : Reg) (s s1 : State) (v : Cv), s.onSys = false →
    (Issues .parr s v s1 → ∃ t, exec .parr s = .next t ∧ t.cur.st = .arrived ∧ t.cur.parrEff = false ∧ t.cur.parrIssued = s.now
      ∧ s.now < t.cur.parrAt ∧ KeepsRegs s t ∧ t.cur.pc = nextPc s v ∧ OnlyFocus s t)
    ∧ (Issues .pwait s v s1 → s.cur.st = .arrived → ∃ t, exec .pwait s = .next t ∧ t.cur.st = .waiting ∧ t.cur.view = s.cur.view
      ∧ KeepsRegs s t ∧ t.cur.pc = nextPc s v ∧ OnlyFocus s t)
    ∧ (Issues .pwait s v s1 → s.cur.st = .released → ∃ t, exec .pwait s = .next t ∧ t.cur.st = .run ∧ t.cur.view = s.phc
      ∧ t.cur.issueAt = s.now + 2 ∧ KeepsRegs s t ∧ t.cur.pc = nextPc s v ∧ OnlyFocus s t)
    ∧ (Issues (.cbarr a b) s v s1 → s.focusCtx < 4 → ∃ t, exec (.cbarr a b) s = .next t
      ∧ (SMap.get {} t.curCore.bars b.toNat).mask = (s.reg a).setWidth 4
      ∧ (SMap.get {} t.curCore.bars b.toNat).pending.getLsbD s.focusCtx = true
      ∧ (∀ n, n ≠ b.toNat → SMap.get {} t.curCore.bars n = SMap.get {} s.curCore.bars n) ∧ KeepsRegs s t ∧ SameMemory s t)
    ∧ (Issues (.cbwait b) s v s1 → (SMap.get {} s.curCore.bars b.toNat).pending.getLsbD s.focusCtx = false →
      (SMap.get {} s.curCore.bars b.toNat).effect.getLsbD s.focusCtx = false →
      ∃ t, exec (.cbwait b) s = .next t ∧ rest t.cur = rest s.cur ∧ KeepsRegs s t ∧ t.cur.pc = nextPc s v ∧ OnlyFocus s t)
    ∧ (∀ r, Issues .yield s v s1 → s.slice = some r → ∃ t, exec .yield s = .next t ∧ t.slice = some { r with yreq := true }
      ∧ rest t.cur = rest s.cur ∧ KeepsRegs s t ∧ SameMemory s t)

/-- R232, R234, R237: a PARR takes effect when the conditions of R232 hold; a core is ARRIVED when all its contexts have
arrived and nothing is queued; barrier arrivals take effect alike, and a full generation completes in the next cycle and
adds one to the core's order count.
Completion, exec answers a next state, of: parrTakesEffect, coreArrived, cbArrivalEffect, cbGenerationComplete. -/
def Obligations.ArrivalSteps : Prop :=
  ∀ (s : State) (core ctx bar : Nat),
    (s.parrDue core ctx = true → ∃ t, exec (.parrTakesEffect core ctx) s = .next t ∧ (t.ctx core ctx).parrEff = true ∧ SameMemory s t)
    ∧ (s.arriveDue core = true → ∃ t, exec (.coreArrived core) s = .next t ∧ (t.core core).arrived = true ∧ (t.core core).arrivedAt = s.now
      ∧ (∀ r, t.slice = some r → r.hgOn = true) ∧ SameMemory s t)
    ∧ (s.barDue core ctx bar = true → ctx < 4 → ∃ t, exec (.cbArrivalEffect core ctx bar) s = .next t
      ∧ (SMap.get {} (t.core core).bars bar).pending.getLsbD ctx = false ∧ (SMap.get {} (t.core core).bars bar).effect.getLsbD ctx = true
      ∧ SameMemory s t)
    ∧ (s.inSlice core = true → s.dbg.frozen = false → (s.core core).barFull (SMap.get {} (s.core core).bars bar) = true →
      (SMap.get {} (s.core core).bars bar).last < s.now →
      ∃ t, exec (.cbGenerationComplete core bar) s = .next t ∧ (t.core core).order = (s.core core).order + 1
        ∧ SMap.get {} (t.core core).bars bar = {} ∧ SameMemory s t)

/-- R165, R229, R235, R243, R253, R282: a phase change that neither ends nor pre-empts the slice adds one to PHC, makes pending
flips IN on every core, a system core too, and, on every core of the slice, empties the layout cache, cancels the barriers,
zeroes XACC, starts VCYC again at 0, turns ARRIVED contexts to RELEASED and WAITING ones to RUN, and leaves no core ARRIVED; of
any other core nothing but its pending flips changes. It first writes
the pending reduction results: where no poisoned word stands in their way, races are off and no two of them overlap, each is
read back at its destination, every bit outside them keeps its value, and a sector outside facing is left aside while any
other ends OUT, or IN where the results in it name a turn level.
Completion, exec answers a next state, of: phaseChange. -/
def Obligations.PhaseChange : Prop :=
  ∀ (s : State) (r : SliceRun), s.slice = some r → s.changeDue = true → s.allExited r = false → r.chosen = false → s.preempts r = false →
    let opened (t : State) : Prop :=
      exec .phaseChange s = .next t ∧ t.phc = s.phc + 1 ∧ t.sau = [] ∧ t.groups = []
        ∧ (∀ core, core ∉ r.cores → t.core core = { s.core core with loc := (t.core core).loc })
        ∧ (∀ core, (t.core core).loc.pend = [] ∧ (∀ sec, sec ∈ (s.core core).loc.pend → (t.core core).loc.isOut sec = false)
          ∧ (t.core core).loc.bytes = (s.core core).loc.bytes)
        ∧ ∀ core, core ∈ r.cores → (t.core core).arrived = false ∧ (t.core core).vcyc.read t.now = 0
          ∧ (t.core core).lcache = [] ∧ (t.core core).bars = []
          ∧ ∀ x, (t.ctx core x).xacc = 0
            ∧ ((s.ctx core x).st = .arrived → (t.ctx core x).st = .released)
            ∧ ((s.ctx core x).st = .waiting → (t.ctx core x).st = .run ∧ (t.ctx core x).view = s.phc + 1)
            ∧ ((s.ctx core x).st ≠ .arrived → (s.ctx core x).st ≠ .waiting → (t.ctx core x).st = (s.ctx core x).st)
    (∀ s2, s.writeResults s.sau = .ok s2 → ∃ t, opened t ∧ ∀ p, (t.spaceAt p).bytes = (s2.spaceAt p).bytes)
    ∧ (s.phys.syn = [] → s.lr.racem = 0 →
      (∀ x y, x ∈ s.sau → y ∈ s.sau → x ≠ y → x.addr + x.value.2 ≤ y.addr ∨ y.addr + y.value.2 ≤ x.addr) →
      ∃ t, opened t
        ∧ (∀ x, x ∈ s.sau → t.phys.bytes.bits x.addr x.value.2 = x.value.1 % 2 ^ x.value.2)
        ∧ (∀ q, (∀ x, x ∈ s.sau → q < x.addr ∨ x.addr + x.value.2 ≤ q) → bitAt t.phys.bytes q = bitAt s.phys.bytes q)
        ∧ ∀ x sec, x ∈ s.sau → sectorsOf x.addr x.value.2 = [sec] → s.syncAt .phys sec = false →
          (∀ y, y ∈ s.sau → sec ∈ sectorsOf y.addr y.value.2 → y.toll = x.toll ∧ sectorsOf y.addr y.value.2 = [sec]) →
          t.phys.isOut sec = x.toll.isNone)

/-- R235, R292: a phase change that finds every context EXITED or ABSENT ends the slice; SLICE_COMPLETION then sends its
record of RKIND 02h, when every page of its copy-out can be written.
Completion, exec answers a next state, of: phaseChange, sliceCompletion. -/
def Obligations.SliceEnds : Prop :=
  ∀ (s : State) (r : SliceRun), s.slice = some r →
    (s.changeDue = true → s.sau = [] → s.allExited r = true → r.chosen = false → s.preempts r = false →
      ∃ t q, exec .phaseChange s = .next t ∧ t.slice = some q ∧ q.ending = true ∧ t.phc = s.phc)
    ∧ (r.ending = true → s.farSettled r = true → s.dbg.frozen = false → s.copyFault r = none →
      ∃ t x, exec .sliceCompletion s = .next t ∧ t.slice = none ∧ t.disp.waitRecs = s.disp.waitRecs ++ [x] ∧ x.rkind = 2
        ∧ x.sliceid = r.lr.sliceid ∧ x.hosttag = r.lr.hosttag)

/-- R240, R241, R264, R296: an expired hourglass aborts a slice whose policy says so, and else traps once and runs again;
a spent BUDGET is held until an odd-to-even change and runs the hourglass; the photonic layer wakes.
Completion, exec answers a next state, of: straggler, budgetExhausted, photonicWakeup. -/
def Obligations.WatchSteps : Prop :=
  ∀ (s : State) (r : SliceRun), s.slice = some r →
    (s.expired = true → (r.lr.hglpol = true ∨ r.hgExtended = true) → (∀ c, c ∈ r.cores → c < 1024) → r.cores ≠ [] → s.missing r ≠ [] →
      ∃ t x, exec .straggler s = .next t ∧ t.slice = none ∧ t.disp.waitRecs = s.disp.waitRecs ++ [x] ∧ x.cause = 0x24 ∧ x.rkind = 1)
    ∧ (s.expired = true → r.lr.hglpol = false → r.hgExtended = false →
      ∃ t q x, exec .straggler s = .next t ∧ t.slice = some q ∧ q.hgExtended = true ∧ t.disp.trapWait = s.disp.trapWait ++ [x] ∧ x.cause = 0x24)
    ∧ (s.budgetOut = true → ∃ t q, exec .budgetExhausted s = .next t ∧ t.slice = some q ∧ q.budgetPend = true ∧ q.hgOn = true)
    ∧ (∀ c, s.wakeAt = some c → c ≤ s.now → ∃ t, exec .photonicWakeup s = .next t ∧ t.photonic = true ∧ t.wakeAt = none)

/-- The core block of core c stands at physical bit address at0: of every context that is not absent its PC, state, bank, VL,
scalar, mask and vector registers, the planes and accumulators of the engine, the facing of every sector, and the live
regions and the pool (R304). -/
def BlockAt (s : State) (m : Memory) (r : LaunchRec) (c at0 : Nat) : Prop :=
  let k := s.core c
  let word (w : Nat) : Nat := m.bits (at0 + 64 * w) 64
  (∀ x, x < 4 → (s.ctx c x).st ≠ .absent →
    let y := s.ctx c x
    word (5120 * x) = y.pc % 2 ^ 64 ∧ (y.frozen = false → word (5120 * x + 1) = y.st.code) ∧ word (5120 * x + 2) = y.wb % 2 ^ 64
    ∧ word (5120 * x + 7) = y.vl % 2 ^ 64 ∧ (∀ n, n < 528 → word (5120 * x + 32 + n) = (SMap.get 0 y.regs n).toNat)
    ∧ (∀ n j, n < 8 → j < 32 → word (5120 * x + 576 + 32 * n + j) = (y.mask n).toNat / 2 ^ (64 * j) % 2 ^ 64)
    ∧ ∀ n j, n < 128 → j < 32 → word (5120 * x + 960 + 32 * n + j) = (y.vreg n).toNat / 2 ^ (64 * j) % 2 ^ 64)
  ∧ (∀ n, n < 4096 → word (8 * 2561 + n) = (SMap.get 0 k.me.wact n).toNat ∧ word (8 * 3073 + n) = (SMap.get 0 k.me.wsh n).toNat
    ∧ m.bits (at0 + 512 * 3585 + 32 * n) 32 = (SMap.get 0 k.me.acc n).toNat
    ∧ m.bits (at0 + 512 * 3841 + 32 * n) 32 = (SMap.get 0 k.me.dw n).toNat)
  ∧ (∀ sec, sec < 2 ^ 14 → m.bits (at0 + 512 * 4097 + sec) 1 = if k.loc.isOut sec = true then 0 else 1)
  ∧ (k.loc.syn = [] → ∀ i sec, r.savedSectors[i]? = some sec → m.bits (at0 + 512 * (4160 + i)) 512 = k.loc.bytes.bits (512 * sec) 512)

/-- R242, R295, R296, R304: a pre-empted slice whose contexts are quiet is saved and queued again, with SAVED set and its
deadline, DLSTEP later where a BUDGET trap has pre-empted it, and leaves the device; where it goes first itself, it is
picked at once. When it joins the ready queue, its save area holds the header, SLICEID, VALID, the even PHC, the remaining
BUDGET and the deadline, and, where the area lies in consecutive frames, the block of every core.
Completion, exec answers a next state, of: preemption. -/
def Obligations.Preemption : Prop :=
  ∀ (s : State) (r : SliceRun), s.slice = some r → r.preempt = true → s.quiet r = true → s.dbg.frozen = false →
    let deadline := if r.budgetPend = true then (r.deadline + r.lr.dlstep) % 2 ^ 64 else r.deadline
    let budget := if r.budgetPend = true then r.lr.budget else r.budgetLeft s.now
    ∃ (t u : State) (b : Ready), exec .preemption s = .next t ∧ t = u.requeue b ∧ b.lr = r.lr ∧ b.saved = true ∧ b.deadline = deadline ∧ b.walk = r.walk
      ∧ t.slice = none
      ∧ ((∃ y, y ∈ t.disp.ready ∧ y.lr = r.lr ∧ y.saved = true ∧ y.deadline = deadline)
        ∨ ∃ p, t.disp.picked = some p ∧ p.lr.sliceid = r.lr.sliceid)
      ∧ u.slice = none ∧ (∀ c, c ∈ r.cores → (u.core c).ctxs = [] ∧ (u.core c).queues = [])
      ∧ (if r.budgetPend = true then ∃ x, u.disp.trapWait = s.disp.trapWait ++ [x] ∧ x.cause = 0x23
         else u.disp.trapWait = s.disp.trapWait)
      ∧ (∀ pa, r.lr.state ≠ 0 → s.xlate r.lr.state false = some pa →
        u.phys.bytes.bits pa 512
          = (r.lr.sliceid + 2 ^ 63 + 2 ^ 64 * s.phc.toNat + 2 ^ 128 * budget + 2 ^ 192 * deadline) % 2 ^ 512)
      ∧ ∀ pa, r.lr.state ≠ 0 → pa % 512 = 0 →
        (∀ k, k < 1 + r.cores.length * r.lr.blockSectors → s.xlate (r.lr.state + 512 * k) false = some (pa + 512 * k)) →
        (∀ c, c ∈ r.cores → (s.core c).index < r.cores.length ∧ ∀ d, d ∈ r.cores → (s.core d).index = (s.core c).index → d = c) →
        ∀ c, c ∈ r.cores → BlockAt s u.phys.bytes r.lr c (pa + 512 * (1 + (s.core c).index * r.lr.blockSectors))

/-! ## The exchange and far traffic -/

/-- R246 to R248, R250: XFER, HALO, XRED, XCAST and XFAR, when every register of their command group carries the CMD tag
and every active descriptor passes its checks, take the active descriptors in ascending order as far as slots of the core are
free, and no further one: each that is taken holds a slot beside those already held, XACC counts them, and the bit of every
element below VL of m[D] says whether its descriptor was taken.
Completion, exec answers a next state, of: xfer, halo, xred, xcast, xfar. -/
def Obligations.ExchangeWords : Prop :=
  ∀ (i : Instr) (k : DKind) (d a : Reg) (s s1 s2 : State) (v : Cv) (ds : List Desc), exchWordOf i = some (k, d, a) → Issues i s v s1 →
    (∀ r, a.toNat ≤ r → r < a.toNat + s.cur.vspan → s.cur.tag r = 0x1C) → s.cur.descsReady a.toNat ≤ s.now → s.cur.vl ≤ 2048 →
    s1.checkDescs (descsOf s1 k a) = .ok (ds, s2) →
    let took := s.cur.activeElems.take (48 - s.curCore.holding)
    ∃ t, exec i s = .next t ∧ t.curCore.holding = s.curCore.holding + took.length ∧ t.cur.xacc = s.cur.xacc + took.length
      ∧ (∀ e, e ∈ took → ∃ n x, SMap.get? t.curCore.slots n = some x ∧ SMap.get? s.curCore.slots n = none ∧ x.kind = k ∧ x.e = e
        ∧ x.bits = s.cur.elem a.toNat 256 e ∧ x.accepted = s.now + 1 ∧ x.landed = none ∧ x.started = false
        ∧ x.acts = x.allActs s.sliceCores ∧ x.landAt = x.landing s.sliceCores)
      ∧ (∀ n x, SMap.get? s.curCore.slots n = some x → ∃ y, SMap.get? t.curCore.slots n = some y ∧ y.bits = x.bits ∧ y.e = x.e
        ∧ y.landed = x.landed ∧ y.started = x.started)
      ∧ (∀ e, e < s.cur.vl → t.cur.maskBit d.toNat e = took.contains e)
      ∧ (∀ e, s.cur.vl ≤ e → t.cur.maskBit d.toNat e = s.cur.maskBit d.toNat e)
      ∧ KeepsRegs s t ∧ SameMemory s t ∧ t.cur.pc = nextPc s v

/-- R251 to R253, R255 to R257, R259, R359: a timed descriptor starts at VCYC = START and binds its group, acts in its computed
cycles and no earlier, reading a beat from its source and writing it to its destination, an XCAST in every core of its set, and
has landed after its last act: beat j of a HALO is read at START + j, written at START + 1 + j + λ and lands at START + B + λ, and
the beats of the other kinds go by the hops of the mesh and the token of the slice. That an XCAST reads a beat once, for the
cluster that it reaches first, is the model's reading (log 96). A beat of an XRED adds its terms to the pending elements. With
LEN = 0 nothing moves.
Completion, exec answers a next state, of: descriptorStart, descriptorBeat, descriptorLanded. -/
def Obligations.DescriptorSteps : Prop :=
  ∀ (s s2 : State) (core slot : Nat) (d : Desc), (s.core core).slot? slot = some d → s.exchLive core = true → d.kind ≠ .xfar →
    (d.started = false → d.START ≤ s.vcycOf core → s.bindGroup d = .ok s2 →
      exec (.descriptorStart core slot) s = .next (s2.setSlot core slot { d with started := true }))
    ∧ (d.started = false → d.START ≤ s.vcycOf core → d.kind = .xfer ∨ d.kind = .halo →
      exec (.descriptorStart core slot) s = .next (s.setSlot core slot { d with started := true }))
    ∧ (d.started = false → d.START ≤ s.vcycOf core → d.kind = .xred ∨ d.kind = .xcast → s.groups = [] →
      ∃ t x g, exec (.descriptorStart core slot) s = .next t ∧ (t.core core).slot? slot = some x ∧ x.started = true
        ∧ SMap.get? t.groups d.GROUP = some g ∧ g.kind = d.kind ∧ g.fields = d.bound ∧ SameMemory s t)
    ∧ (s.actDue core d = true → s.act core slot d = .ok s2 → exec (.descriptorBeat core slot) s = .next s2)
    ∧ (∀ a pos p at0 n, d.started = true → d.clash = none → s.dueAct core d = some a → a.write = false →
      cutPieces 0 d.src (d.srcRange a.beat).1 (d.srcRange a.beat).2 = [(pos, p, at0, n)] → s.lr.racem = 0 → (s.spaceAt p).syn = [] →
      (s.spaceAt p).hist = [] → (∀ sec, sec ∈ sectorsOf at0 n → (s.spaceAt p).isOut sec = false ∧ (s.spaceAt p).isPend sec = false) →
      ∃ t x, exec (.descriptorBeat core slot) s = .next t ∧ (t.core core).slot? slot = some x ∧ x.acts = d.acts.erase a
        ∧ SMap.get 0 x.buf a.beat = (s.spaceAt p).bytes.bits at0 n * 2 ^ pos ∧ SameMemory s t)
    ∧ (∀ a pos p at0 n, d.started = true → d.clash = none → s.dueAct core d = some a → a.write = true → d.kind = .xfer ∨ d.kind = .halo →
      cutPieces 0 d.dst (d.beatRange a.beat).1 (d.beatRange a.beat).2 = [(pos, p, at0, n)] → d.ends s.sliceCores a = [d.dst] →
      s.lr.racem = 0 → (s.spaceAt p).syn = [] → s.noise = [] →
      ∃ t x, exec (.descriptorBeat core slot) s = .next t ∧ (t.core core).slot? slot = some x ∧ x.acts = d.acts.erase a
        ∧ (t.spaceAt p).bytes.bits at0 n = SMap.get 0 d.buf a.beat / 2 ^ pos % 2 ^ n
        ∧ (∀ q, q < at0 ∨ at0 + n ≤ q → bitAt (t.spaceAt p).bytes q = bitAt (s.spaceAt p).bytes q)
        ∧ ∀ q, q ≠ p → (t.spaceAt q).bytes = (s.spaceAt q).bytes)
    ∧ (∀ a lo hi, let x := SMap.get 0 d.buf a.beat
      let base := d.DST % 2 ^ 23
      let dests (c : Nat) : Prop := c ∈ s.sliceCores ∧ d.SETLO ≤ c ∧ c ≤ d.SETHI ∧ c / 64 = a.cluster
      d.started = true → d.clash = none → s.dueAct core d = some a → a.write = true → d.kind = .xcast → d.LEN ≠ 0 → d.srcRange a.beat = (lo, hi) →
      lo ≤ hi → (∃ c, dests c) → (∀ c, c ∈ s.sliceCores → c < 1024) → (∀ c, dests c → (s.core c).loc.syn = []) → s.lr.racem = 0 → s.noise = [] →
      ∃ t y, exec (.descriptorBeat core slot) s = .next t ∧ (t.core core).slot? slot = some y ∧ y.acts = d.acts.erase a
        ∧ (∀ c, dests c → (t.core c).loc.bytes.bits (base + lo) (hi - lo) = x % 2 ^ (hi - lo)
          ∧ ∀ q, q < base + lo ∨ base + hi ≤ q → bitAt (t.core c).loc.bytes q = bitAt (s.core c).loc.bytes q)
        ∧ ∀ p, (∀ c, p = Place.loc c → ¬dests c) → (t.spaceAt p).bytes = (s.spaceAt p).bytes)
    ∧ (∀ a lo hi wt wr pa, let x := SMap.get 0 d.buf a.beat
      d.started = true → d.clash = none → s.dueAct core d = some a → a.write = true → d.kind = .xred → d.LEN ≠ 0 → d.srcRange a.beat = (lo, hi) →
      lo ≤ hi → termWidths d.ROP d.RFMT = some (wt, wr) → d.LEN % wt = 0 → d.DST % wr = 0 → d.dst = [(.phys, pa, d.LEN / wt * wr)] → s.noise = [] →
      (∀ y, y ∈ s.sau → pa ≤ y.addr → y.addr < pa + d.LEN / wt * wr → y.rop = d.ROP ∧ y.rfmt = BitVec.ofNat 7 d.RFMT ∧ 0 < y.terms) →
      ∃ t z, exec (.descriptorBeat core slot) s = .next t ∧ (t.core core).slot? slot = some z ∧ z.acts = d.acts.erase a
        ∧ SameMemory s t
        ∧ ∀ k, lo / wt ≤ k → k < hi / wt →
          let at0 := pa + k * wr
          let term := x / 2 ^ ((k - lo / wt) * wt) % 2 ^ wt
          (∀ y, y ∈ s.sau → y.addr = at0 → ∃ v, v ∈ t.sau ∧ v.addr = at0 ∧ TermAdded d.ROP d.RFMT (some y) term v)
          ∧ ((∀ y, y ∈ s.sau → y.addr ≠ at0) → ∃ v, v ∈ t.sau ∧ v.addr = at0 ∧ TermAdded d.ROP d.RFMT none term v))
    ∧ (∀ a r, d.clash = none → d.acts = a :: r → (∀ b, b ∈ r → a.cycle ≤ b.cycle) → s.vcycOf core < a.cycle → s.landingCycle core = s.vcycOf core →
      exec (.descriptorBeat core slot) s = .fault .notEnabled)
    ∧ (∀ cores : List Nat, (∀ c, c ∈ cores → c < 1024) → (d.LEN ≠ 0 → BeatCycles d cores)
      ∧ (d.LEN = 0 → d.allActs cores = [] ∧ d.landing cores = d.START))
    ∧ (d.started = true → d.landed = none → d.acts = [] → d.landAt ≤ s.landingCycle core →
      ∃ t x, exec (.descriptorLanded core slot) s = .next t ∧ (t.core core).slot? slot = some x ∧ x.landed = some s.now ∧ SameMemory s t)

/-- R145, R148, R254: the far engine takes an XFAR over, reads its source, lands its fill in DEVICE space or, entry by entry,
in a queue, and drains outbound queues, each at a time that the model leaves free (log 9); a queue entry takes a bank cycle
that nothing else wants (R130, R145), and the race detector, where it is on, checks it as its descriptor's write (R269). A DEVICE destination is OUT after
the fill, or IN with a turn-on-land level; the sector of a drained entry is IN.
Completion, exec answers a next state, of: xfarHandoff, farSourceRead, fillLand, queueDrainEntry. -/
def Obligations.FarSteps : Prop :=
  ∀ (s s2 : State) (core slot : Nat),
    (∀ d, s.handoff? core slot = some d → d.LEN ≠ 0 → s.peerOk d.SRC = true →
      ∃ t f, exec (.xfarHandoff core slot) s = .next t ∧ f ∈ (t.core core).fills ∧ f.desc = d ∧ SameMemory s t)
    ∧ (∀ f x, (s.core core).fill? slot = some f → s.farLive core = true → f.data = none → f.due ≤ s.now →
      s.awaited core f.desc.seq = false → s.beatsEnd (sliceBanks f.desc.src) s.now = s.now → s.readSrc f.desc 0 f.desc.LEN = .ok (x, s2) → ∃ t, exec (.farSourceRead core slot) s = .next t ∧ SameMemory s2 t)
    ∧ (∀ f p a, (s.core core).fill? slot = some f → s.farLive core = true → f.data = none → f.due ≤ s.now → s.awaited core f.desc.seq = false →
      s.taken = [] → s.noise = [] → f.desc.src = [(p, a, f.desc.LEN)] →
      s.lr.racem = 0 → (s.spaceAt p).syn = [] → (s.spaceAt p).hist = [] →
      (∀ sec, sec ∈ sectorsOf a f.desc.LEN → (s.spaceAt p).isOut sec = false ∧ (s.spaceAt p).isPend sec = false) →
      ∃ t x, exec (.farSourceRead core slot) s = .next t ∧ (t.core core).fill? slot = some x ∧ x.desc = f.desc
        ∧ x.data = some ((s.spaceAt p).bytes.bits a f.desc.LEN) ∧ SameMemory s t)
    ∧ (∀ f, (s.core core).fill? slot = some f → s.fillDue core f = true → f.desc.toQueue = none →
      s.writePieces f.desc (cutPieces 0 f.desc.dst 0 f.desc.dstLen) 0 (f.data.getD 0) = .ok s2 → f.desc.EXP24 = false → f.bad = [] →
      ∃ t, exec (.fillLand core slot) s = .next t ∧ SameMemory s2 t)
    ∧ (∀ f a, (s.core core).fill? slot = some f → s.fillDue core f = true → f.desc.toQueue = none → f.desc.dst = [(.phys, a, f.desc.dstLen)] →
      f.desc.EXP24 = false → f.bad = [] → s.lr.racem = 0 → s.phys.syn = [] →
      ∃ t, exec (.fillLand core slot) s = .next t ∧ (t.core core).fill? slot = none
        ∧ t.phys.bytes.bits a f.desc.dstLen = f.data.getD 0 % 2 ^ f.desc.dstLen
        ∧ (∀ q, q < a ∨ a + f.desc.dstLen ≤ q → bitAt t.phys.bytes q = bitAt s.phys.bytes q)
        ∧ ∀ sec, sec ∈ sectorsOf a f.desc.dstLen → s.exempt .phys sec = false → t.phys.isOut sec = !f.desc.TOLV)
    ∧ (∀ f q, (s.core core).fill? slot = some f → s.fillDue core f = true → f.desc.toQueue = some q →
      s.fillEntry core f q = .ok s2 → exec (.fillLand core slot) s = .next s2)
    ∧ (∀ f q, (s.core core).fill? slot = some f → s.fillDue core f = true → f.desc.toQueue = some q → f.bad = [] → (s.core core).loc.syn = [] →
      (s.lr.racem = 0 ∨ SMap.get? (s.core core).shadow ((s.core core).fillSector q) = none) →
      ((s.core core).queue q).avail < ((s.core core).queue q).capacity →
      ∃ t, exec (.fillLand core slot) s = .next t
        ∧ (t.core core).queue q = { (s.core core).queue q with avail := ((s.core core).queue q).avail + 1 }
        ∧ (t.core core).loc.bytes.bits (((s.core core).queue q).entry ((s.core core).queue q).avail) 512 =
            f.data.getD 0 / 2 ^ (512 * f.pos) % 2 ^ 512)
    ∧ (∀ q, s.drainDue core q = true → s.drainEntry core q = .ok s2 → exec (.queueDrainEntry core q) s = .next s2)
    ∧ (∀ q pa, let w := (s.core core).queue q; let goal := w.dest + 512 * w.drained
      s.drainDue core q = true → spaceOf goal = 2 → inField goal 512 = true → s.xlate goal true = some pa → (s.core core).loc.syn = [] →
      s.phys.syn = [] → s.noise = [] →
      ∃ t, exec (.queueDrainEntry core q) s = .next t ∧ t.phys.bytes.bits pa 512 = (s.core core).loc.bytes.bits (w.entry 0) 512
        ∧ (∀ b, b < pa ∨ pa + 512 ≤ b → bitAt t.phys.bytes b = bitAt s.phys.bytes b)
        ∧ (∀ sec, sec ∈ sectorsOf pa 512 → t.phys.isOut sec = false)
        ∧ ((t.core core).queue q).avail = w.avail - 1 ∧ ((t.core core).queue q).drained = w.drained + 1)

/-! ## Jobs -/

/-- R242, R288, R305: a picked slice whose code and images translate starts in PHC 0: on each of its cores every present
context runs from ENTRY, with the argument address in g2, the core's index in g3 and every other register zero, and the
core's VCYC starts at 0. A saved slice that still translates resumes with the PHC, budget and deadline of its header.
Completion, exec answers a next state, of: sliceStart, sliceResume. -/
def Obligations.SliceBegins : Prop :=
  ∀ (s : State) (b : Ready), s.disp.picked = some b → s.startable b = true →
    (s.startDue false = true →
      ∃ t r, exec .sliceStart s = .next t ∧ t.slice = some r ∧ r.lr = b.lr ∧ t.phc = 0
        ∧ ∀ i core, b.lr.cores[i]? = some core → (t.core core).vcyc.read t.now = 0
          ∧ (∀ x, x ∈ b.lr.contexts → (t.ctx core x).st = .run ∧ (t.ctx core x).pc = 32 * b.lr.entry
            ∧ (t.ctx core x).reg 2 = BitVec.ofNat 64 b.lr.argaddr ∧ (t.ctx core x).reg 3 = BitVec.ofNat 64 i
            ∧ ∀ n, n ≠ 2 → n ≠ 3 → (t.ctx core x).reg n = 0)
          ∧ (∀ x, x ∉ b.lr.contexts → (t.ctx core x).st = .absent))
    ∧ (s.startDue true = true →
      ∃ t r, exec .sliceResume s = .next t ∧ t.slice = some r ∧ r.lr = b.lr ∧ t.disp.picked = none
        ∧ t.phc = BitVec.ofNat 64 ((s.deviceBits b.lr.ttroot (b.lr.state + 64) 64).getD 0)
        ∧ r.budget = (s.deviceBits b.lr.ttroot (b.lr.state + 128) 64).getD 0
        ∧ r.deadline = (s.deviceBits b.lr.ttroot (b.lr.state + 192) 64).getD 0)

/-- R287, R290 to R293, R303: the dispatcher takes the entries of the submission ring in order, and TAKEN counts each. A slice
entry whose record passes its checks joins the ready queue, a further segment linked where every linked one is full, and is
picked at once on an idle device; a record that cannot be read or fails a check sends its LAUNCH record. A graph entry begins
a walk at node 0, or sends a LAUNCH record of subcode 14. A kill aborts the running slice or removes a ready one, with a
record of RKIND 04h, and does nothing where there is none. An entry of another kind is ignored. While 1024 slices are ready a
slice entry stays untaken, and so does a graph entry while 16 graphs are walked.
Completion, exec answers a next state, of: submitSlice, submitGraph, submitKill, submitIgnored. -/
def Obligations.Submissions : Prop :=
  ∀ (s : State) (a kind : Nat),
    let untaken : Prop := exec .submitSlice s = .fault .notEnabled ∧ exec .submitGraph s = .fault .notEnabled
      ∧ exec .submitKill s = .fault .notEnabled ∧ exec .submitIgnored s = .fault .notEnabled
    let takes (i : Instr) (holds : State → Prop) : Prop := ∃ t, exec i s = .next t ∧ t.disp.taken = s.disp.taken + 1 ∧ holds t
    let launch (i : Instr) (holds : Record → Prop) : Prop := takes i fun t => ∃ x, t.disp.waitRecs = s.disp.waitRecs ++ [x] ∧ x.rkind = 1
      ∧ x.cause = 0x14 ∧ t.disp.ready = s.disp.ready ∧ t.disp.walks = s.disp.walks ∧ t.slice = s.slice ∧ holds x
    (s.entry = some (1, a) → 1024 ≤ s.disp.ready.length → untaken)
    ∧ (s.entry = some (2, a) → (∀ k, k < 16 → (SMap.get? s.disp.walks k).isSome = true) → untaken)
    ∧ (s.entry = some (kind, a) → kind = 0 ∨ 3 < kind → takes .submitIgnored fun t => t.disp.ready = s.disp.ready
      ∧ t.disp.waitRecs = s.disp.waitRecs ∧ t.disp.walks = s.disp.walks ∧ t.slice = s.slice)
    ∧ (∀ r live q, let u := s.roomReady
      s.entry = some (1, a) → s.disp.ready.length < 1024 → s.phys.syn = [] → s.readLaunch a = some (r, live, q, false) →
      u.readLaunch a = some (r, live, q, false) → s.launchCheck r live q false = 0 → u.launchCheck r live q false = 0 →
      (s.slice.isSome = true ∨ s.disp.picked.isSome = true →
        takes .submitSlice fun t => ∃ y, t.disp.ready = s.disp.ready ++ [y] ∧ y.lr = { r with pred := [] } ∧ y.deadline = r.deadline
          ∧ y.saved = r.fromsave ∧ y.walk = none ∧ t.disp.waitRecs = s.disp.waitRecs ∧ t.slice = s.slice ∧ t.disp.picked = s.disp.picked
          ∧ t.disp.segs = (if 64 * s.disp.segs = s.disp.ready.length ∧ s.disp.segs < 16 then s.disp.segs + 1 else s.disp.segs))
      ∧ (s.slice = none → s.disp.picked = none → s.disp.ready = [] →
        takes .submitSlice fun t => ∃ y, t.disp.picked = some y ∧ y.lr = { r with pred := [] } ∧ y.saved = r.fromsave ∧ t.disp.ready = []
          ∧ s.now < t.disp.startAt ∧ t.disp.waitRecs = s.disp.waitRecs ∧ t.slice = none))
    ∧ (s.entry = some (1, a) → s.disp.ready.length < 1024 → s.readLaunch a = none → launch .submitSlice fun x => x.addr = a ∧ x.sliceid = 0
      ∧ x.info = if s.power.trip = true then 15 else 12)
    ∧ (∀ r live q bad, s.entry = some (1, a) → s.disp.ready.length < 1024 → s.phys.syn = [] → s.readLaunch a = some (r, live, q, bad) →
      s.launchCheck r live q bad ≠ 0 → launch .submitSlice fun x => x.sliceid = r.sliceid ∧ x.hosttag = r.hosttag ∧ x.vec = r.msivec
        ∧ x.info = s.launchCheck r live q bad + if r.deadline < s.dtime.toNat then 2 ^ 63 else 0)
    ∧ (∀ k hdr l, s.entry = some (2, a) → s.disp.freeWalk = some k → s.phys.syn = [] → s.deviceBits s.sysroot a 512 = some hdr →
      hdr % 2 ^ 16 ≤ 4096 → s.readTable s.sysroot (a + 512) (hdr % 2 ^ 16) 256 = some l →
      let code := l.map (BitVec.ofNat 256)
      (s.power.trip = false → graphBad hdr code = false →
        takes .submitGraph fun t => ∃ w, t.disp.walks = s.disp.walks.put k w ∧ w.code = code ∧ w.node = 0 ∧ w.loops = [] ∧ w.result = none
          ∧ w.waiting = false ∧ w.loopmax = false ∧ w.hosttag = hdr / 2 ^ 160 % 2 ^ 32 ∧ w.vec = hdr / 2 ^ 192 % 2 ^ 11
          ∧ w.predBase = hdr / 2 ^ 64 % 2 ^ 64 ∧ w.predN = hdr / 2 ^ 128 % 2 ^ 5
          ∧ t.disp.waitRecs = s.disp.waitRecs ∧ t.disp.ready = s.disp.ready)
      ∧ (s.power.trip = false → graphBad hdr code = true → launch .submitGraph fun x => x.info = 14 ∧ x.addr = a))
    ∧ (∀ r, s.entry = some (3, a) → s.slice = some r → r.lr.sliceid = a % 2 ^ 16 →
      takes .submitKill fun t => t.slice = none ∧ ∃ x, t.disp.waitRecs = s.disp.waitRecs ++ [x] ∧ x.rkind = 4 ∧ x.cause = 0
        ∧ x.sliceid = r.lr.sliceid ∧ x.hosttag = r.lr.hosttag)
    ∧ (∀ b, s.entry = some (3, a) → (∀ r, s.slice = some r → r.lr.sliceid ≠ a % 2 ^ 16) → s.disp.picked = none → b ∈ s.disp.ready →
      b.lr.sliceid = a % 2 ^ 16 → (∀ c, c ∈ s.disp.ready → c.lr.sliceid = a % 2 ^ 16 → c = b) →
      takes .submitKill fun t => (∀ c, c ∈ t.disp.ready → c.lr.sliceid ≠ a % 2 ^ 16) ∧ t.slice = s.slice
        ∧ ∃ x, t.disp.waitRecs = s.disp.waitRecs ++ [x] ∧ x.rkind = 4 ∧ x.cause = 0 ∧ x.sliceid = b.lr.sliceid ∧ x.hosttag = b.lr.hosttag)
    ∧ (s.entry = some (3, a) → (∀ r, s.slice = some r → r.lr.sliceid ≠ a % 2 ^ 16) →
      (∀ b, b ∈ s.disp.picked.toList ++ s.disp.ready → b.lr.sliceid ≠ a % 2 ^ 16) →
      takes .submitKill fun t => t.disp.ready = s.disp.ready ∧ t.disp.picked = s.disp.picked ∧ t.slice = s.slice
        ∧ t.disp.waitRecs = s.disp.waitRecs)

/-- R290: a read of SUB returns the entries taken; entries are taken while that differs from WRITTEN. A write to SUB that
names no more entries than the ring holds becomes WRITTEN; any other one keeps WRITTEN, takes nothing and sends a record of
RKIND 01h, cause LAUNCH, subcode 16, SLICEID 0, HOSTTAG 0, on vector 0. Completion record n goes to slot n modulo the slots,
while n − CMP is below them, and waits otherwise; its vector follows (R292). A write to CMP is taken when it names no more
than the slots hold unread, and is ignored otherwise.
Completion, exec answers a next state, of: mboxSubWrite, mboxCmpWrite, recordWrite. -/
def Obligations.Rings : Prop :=
  ∀ (s : State) (x : BitVec 32), s.bar.stage = 6 →
    (s.readBar0 0).setWidth 32 = s.disp.taken
    ∧ (s.entry.isSome = true ↔ s.dbg.panic = none ∧ s.disp.taken ≠ s.disp.written)
    ∧ ((x - s.disp.taken).toNat ≤ s.bar.subSlots → ∃ t, exec (.mboxSubWrite x) s = .next t ∧ t.disp.written = x
      ∧ t.disp.taken = s.disp.taken ∧ t.disp.waitRecs = s.disp.waitRecs)
    ∧ (s.bar.subSlots < (x - s.disp.taken).toNat → ∃ t r, exec (.mboxSubWrite x) s = .next t ∧ t.disp.written = s.disp.written
      ∧ t.disp.taken = s.disp.taken ∧ t.disp.waitRecs = s.disp.waitRecs ++ [r] ∧ r.cause = 0x14 ∧ r.rkind = 1 ∧ r.info = 16
      ∧ r.sliceid = 0 ∧ r.hosttag = 0 ∧ r.vec = 0)
    ∧ ((s.disp.recs - x).toNat ≤ s.bar.cmpSlots → ∃ t, exec (.mboxCmpWrite x) s = .next t ∧ t.disp.cmp = x)
    ∧ (s.bar.cmpSlots < (s.disp.recs - x).toNat → exec (.mboxCmpWrite x) s = .next s)
    ∧ (∀ r q, s.disp.waitRecs = r :: q → (s.disp.recs - s.disp.cmp).toNat < s.bar.cmpSlots → s.host.syn = [] →
      ∃ t, exec .recordWrite s = .next t ∧ t.disp.waitRecs = q ∧ t.disp.recs = s.disp.recs + 1 ∧ t.disp.msix = s.disp.msix ++ [r.vec]
        ∧ t.host.bytes.bits (s.bar.cqbase.toNat % 2 ^ 61 + 512 * (s.disp.recs.toNat % s.bar.cmpSlots)) 512 = r.bits % 2 ^ 512)
    ∧ (s.bar.cmpSlots ≤ (s.disp.recs - s.disp.cmp).toNat → exec .recordWrite s = .fault .notEnabled)

/-- R294, R309: how a walk of a graph goes on. A slice node queues its record for the walk, with the predicate sectors of the
graph; it waits while 1024 slices are ready, a rejected record ends the walk, and so does a slice that did not complete, with
bit 17 of INFO. A condition node goes to NEXT when its predicate is nonzero and to ALT when it is 0. A loop node that has run
its body i times runs it again while i is below MAXC and the predicate is nonzero, and goes to NEXT otherwise, with LOOPMAX
set where i is MAXC and the predicate is nonzero still; a loop inside another counts for itself. FFFFh goes back to the
innermost loop node, and outside every loop it ends the walk. A predicate that cannot be read ends the walk too. The graph-end
record holds RKIND 03h, the last node, LOOPMAX and the graph's HOSTTAG.
Completion, exec answers a next state, of: graphSliceNode, graphCondNode, graphLoopNode. -/
def Obligations.GraphNodes : Prop :=
  ∀ (s : State) (k : Nat) (w : Walk) (x : BitVec 256),
    let ended (t : State) (records : List Record) (loopmax : Bool) (cause addr : Nat) (failed : Bool) : Prop :=
      t.disp.walks = s.disp.walks.del k ∧ ∃ y, t.disp.waitRecs = records ++ [y] ∧ y.rkind = 3 ∧ y.cause = cause ∧ y.addr = addr
        ∧ y.sliceid = 0 ∧ y.hosttag = w.hosttag ∧ y.vec = w.vec
        ∧ y.info = w.node + (if loopmax = true then 2 ^ 16 else 0) + (if failed = true then 2 ^ 17 else 0)
    let goes (i : Instr) (u : Walk) (next : Nat) : Prop :=
      ∃ t, exec i s = .next t ∧ t.disp.ready = s.disp.ready
        ∧ (next ≠ 0xFFFF → t.disp.walks = s.disp.walks.put k { u with node := next, last := w.node, result := none }
          ∧ t.disp.waitRecs = s.disp.waitRecs)
        ∧ (∀ l n r, next = 0xFFFF → u.loops = (l, n) :: r →
          t.disp.walks = s.disp.walks.put k { u with node := l, last := w.node, result := none } ∧ t.disp.waitRecs = s.disp.waitRecs)
        ∧ (next = 0xFFFF → u.loops = [] → ended t s.disp.waitRecs u.loopmax 0 0 false)
    let queued (t : State) : Prop := t.disp.walks = s.disp.walks.put k { w with waiting := true }
    (s.walkAt k 1 = some (w, x) →
      (w.result = some true → goes (.graphSliceNode k) w (nodeNext x))
      ∧ (w.result = some false → ∃ t, exec (.graphSliceNode k) s = .next t ∧ ended t s.disp.waitRecs w.loopmax 0 0 true)
      ∧ (w.result = none →
        (∀ s2, ({ s with disp := { s.disp with walks := s.disp.walks.put k { w with waiting := true } } } : State).enqueue (nodeRef x) (some k)
          w.preds = (.ready, s2) → exec (.graphSliceNode k) s = .next s2)
        ∧ (∀ r live q, s.readLaunch (nodeRef x) = some (r, live, q, false) → s.launchCheck r live q false = 0 → s.phys.syn = [] →
          (1024 ≤ s.disp.ready.length → exec (.graphSliceNode k) s = .fault .notEnabled)
          ∧ (s.disp.ready.length < 1024 → 64 * s.disp.segs ≠ s.disp.ready.length → s.slice.isSome = true ∨ s.disp.picked.isSome = true →
            ∃ t y, exec (.graphSliceNode k) s = .next t ∧ queued t ∧ t.disp.ready = s.disp.ready ++ [y] ∧ y.walk = some k
              ∧ y.lr = { r with pred := (rangeFrom 0 w.predN).map fun i => w.predBase + 512 * i } ∧ y.deadline = r.deadline
              ∧ t.disp.waitRecs = s.disp.waitRecs))
        ∧ (∀ r live q bad, s.readLaunch (nodeRef x) = some (r, live, q, bad) → s.launchCheck r live q bad ≠ 0 → s.phys.syn = [] →
          ∃ t y, exec (.graphSliceNode k) s = .next t ∧ ended t (s.disp.waitRecs ++ [y]) w.loopmax 0 0 true ∧ y.rkind = 1 ∧ y.cause = 0x14
            ∧ y.sliceid = r.sliceid)))
    ∧ (∀ v, s.walkAt k 2 = some (w, x) → s.predicate (nodeRef x) = .ok v →
      goes (.graphCondNode k) w (if v = 0 then nodeAlt x else nodeNext x))
    ∧ (∀ v n outer, s.walkAt k 3 = some (w, x) → s.predicate (nodeRef x) = .ok v →
      (w.loops = (w.node, n) :: outer ∨ (n = 0 ∧ outer = w.loops ∧ ∀ l j r, w.loops = (l, j) :: r → l ≠ w.node)) →
      (n < nodeMax x → v ≠ 0 → goes (.graphLoopNode k) { w with loops := (w.node, n + 1) :: outer } (nodeAlt x))
      ∧ (n ≤ nodeMax x → v = 0 → goes (.graphLoopNode k) { w with loops := outer } (nodeNext x))
      ∧ (n = nodeMax x → v ≠ 0 → goes (.graphLoopNode k) { w with loops := outer, loopmax := true } (nodeNext x)))
    ∧ (∀ c, s.predicate (nodeRef x) = .error c →
      (s.walkAt k 2 = some (w, x) → ∃ t, exec (.graphCondNode k) s = .next t ∧ ended t s.disp.waitRecs w.loopmax c (nodeRef x) false)
      ∧ (s.walkAt k 3 = some (w, x) → ∃ t, exec (.graphLoopNode k) s = .next t ∧ ended t s.disp.waitRecs w.loopmax c (nodeRef x) false))

/-! ## Faults, traps and system instructions -/

/-- R31, R299, R301, R323: a fault of a compute core ends the slice with one record of RKIND 01h that names the cause and
the convoy, that of the step or the one that the exception itself names; a fault of a system core is a panic: system cores 0 to 6 stop, and at the freeze the rest stops too and
system core 7 runs the crash kernel from word 0, privileged, with traps inhibited.
Completion, exec answers a next state, of: panicFreeze. -/
def Obligations.Faults : Prop :=
  ∀ (s : State) (at0 : Origin) (e : Exc),
    let o := e.origin.getD at0
    (∀ r, o.core < 1024 → s.slice = some r →
      ∃ x, (s.raiseFault at0 e).slice = none ∧ (s.raiseFault at0 e).disp.waitRecs = s.disp.waitRecs ++ [x]
        ∧ x.cause = e.cause ∧ x.rkind = 1 ∧ x.core = o.core ∧ x.ctx = o.ctx ∧ x.head = o.head ∧ x.addr = e.addr
        ∧ (s.raiseFault at0 e).phc = s.phc)
    ∧ (1024 ≤ o.core → s.dbg.panic = none → (s.raiseFault at0 e).dbg.panic.isSome = true
      ∧ ∀ k, k < 7 → ((s.raiseFault at0 e).core (sysCore k)).sysRun = false)
    ∧ (s.freezeDue = true → ∃ t, exec .panicFreeze s = .next t ∧ t.dbg.frozen = true ∧ (t.core (sysCore 7)).sysRun = true
      ∧ (t.ctx (sysCore 7) 0).pc = 0 ∧ (t.ctx (sysCore 7) 0).priv = true ∧ (t.ctx (sysCore 7) 0).inh = true)

/-- R300, R303, R318: on a compute core TRAP stops its context with a record of cause SOFT-TRAP and its code, and BRK, with
BRKH 0, with a record of cause BREAKPOINT; the context stands after the word. With BRKH and EN set BRK asks for a halt.
Completion, exec answers a next state, of: trap, brk. -/
def Obligations.TrapWords : Prop :=
  ∀ (b : Reg) (s s1 : State) (v : Cv), s.onSys = false →
    let stops (i : Instr) (cause : Nat) : Prop := Issues i s v s1 →
      ∃ t x, exec i s = .next t ∧ t.cur.trapped = true ∧ t.cur.pc = nextPc s v
        ∧ t.disp.trapWait = s.disp.trapWait ++ [x] ∧ x.cause = cause ∧ x.rkind = 5 ∧ x.info = b.toNat ∧ x.core = s.focusCore
        ∧ x.ctx = s.focusCtx ∧ x.head = v.head ∧ KeepsRegs s t ∧ SameMemory s t
    stops (.trap b) 0x21 ∧ (s.dbg.brkh = false → stops (.brk b) 0x20)
    ∧ (s.dbg.brkh = true → s.dbg.en = true → s.cur.haltReq = none → Issues (.brk b) s v s1 →
      ∃ t, exec (.brk b) s = .next t ∧ t.cur.haltReq.isSome = true ∧ KeepsRegs s t ∧ t.cur.pc = nextPc s v ∧ OnlyFocus s t)

/-- R150, R300, R301, R303: the oldest trap record, and of those of one cycle the one of the lowest core, then context, enters
the trap queue while it holds fewer than 64, and waits with 64; that it takes the lowest free of 64 places is the model's
choice (log 15). A QUEUE-OVERFLOW of the running slice with the pool of its core exhausted ends the slice with QUEUE (13h).
A system core at a boundary takes the oldest trap of its own: TRAPPC, PPRIV, CAUSE and TRAPINFO are saved, traps are
inhibited, and it runs privileged from word 0.
Completion, exec answers a next state, of: trapRecordEnqueue, systemTrapEntry. -/
def Obligations.Traps : Prop :=
  ∀ (s : State),
    (∀ x, x ∈ s.disp.trapWait → (∀ y, y ∈ s.disp.trapWait → y ≠ x → x.key < y.key) → s.disp.trapq.length < 64 →
      let exhausted : Prop := x.cause = 0x22 ∧ (s.core x.core).pool.isEmpty = true ∧ ∃ r, s.slice = some r ∧ x.sliceid = r.lr.sliceid
      (¬ exhausted →
        ∃ t, exec .trapRecordEnqueue s = .next t ∧ t.disp.trapq = s.disp.trapq ++ [{ x with place := s.disp.freeTrap }]
          ∧ t.disp.trapWait = s.disp.trapWait.erase x ∧ t.slice = s.slice ∧ t.cores = s.cores)
      ∧ (exhausted →
        ∃ t y, exec .trapRecordEnqueue s = .next t ∧ t.slice = none ∧ t.disp.waitRecs = s.disp.waitRecs ++ [y] ∧ y.cause = 0x13 ∧ y.rkind = 1))
    ∧ (64 ≤ s.disp.trapq.length → exec .trapRecordEnqueue s = .fault .notEnabled)
    ∧ (∀ k cause info r, k < 8 → s.trapBoundary k = true → (s.ctx (sysCore k) 0).sysTraps = (cause, info) :: r →
      (s.ctx (sysCore k) 0).cv = none →
      ∃ t, exec (.systemTrapEntry k) s = .next t
        ∧ (t.ctx (sysCore k) 0).pc = 0 ∧ (t.ctx (sysCore k) 0).priv = true ∧ (t.ctx (sysCore k) 0).inh = true
        ∧ (t.ctx (sysCore k) 0).trappc = BitVec.ofNat 64 (s.ctx (sysCore k) 0).pc
        ∧ (t.ctx (sysCore k) 0).pprv = (s.ctx (sysCore k) 0).priv ∧ (t.ctx (sysCore k) 0).cause = BitVec.ofNat 8 cause
        ∧ (t.ctx (sysCore k) 0).trapinfo = BitVec.ofNat 64 info ∧ (t.ctx (sysCore k) 0).sysTraps = r
        ∧ (t.ctx (sysCore k) 0).regs = (s.ctx (sysCore k) 0).regs ∧ SameMemory s t)

/-- R303, R307: RFT returns to TRAPPC in the mode that PPRIV holds and lets traps in again; WFE returns the pending events and
clears them; TLBI marks translations while a slice runs, and when none does renews those of the system cores at once, all of
them or the page that g[A] names (log 44, the model's reading); SPAWN returns how the queueing ended, the record that passes
its checks joining the ready queue, and with every linked segment full takes QUEUE-OVERFLOW (22h) and has no effect; SLKILL
returns whether there was such a slice, ends the running one, or removes a ready one, with a record of the cause that g[B]
gives; RESUME lets a context that a trap stopped go on, and has no effect on a core outside the slice. R51, R302: all six
raise ILLEGAL-OP on a compute core, whose slice ends with a record of cause 01h, and on a system core in user mode, which
panics.
Completion, exec answers a next state, of: rft, tlbi, wfe, spawn, slkill, resume. -/
def Obligations.SystemWords : Prop :=
  ∀ (a b d : Reg) (s s1 : State) (v : Cv),
    (Taken .rft s v s1 → v.n ≤ v.idx + 1 → v.back = none → s.cur.loops = [] → fetchable s.cur.trappc.toNat = true →
      ∃ t, exec .rft s = .next t ∧ t.cur.pc = s.cur.trappc.toNat ∧ t.cur.priv = s.cur.pprv ∧ t.cur.inh = false
        ∧ KeepsRegs s t ∧ OnlyFocus s t)
    ∧ (Issues (.wfe d) s v s1 → s.curCore.events ≠ 0 → ∃ t, exec (.wfe d) s = .next t ∧ t.curCore.events = 0
      ∧ t.reg d = (if d = 0 then 0 else s.curCore.events.setWidth 64) ∧ (∀ n, n ≠ d → t.reg n = s.reg n) ∧ SameMemory s t)
    ∧ (Issues (.tlbi a b) s v s1 → s.slice.isSome = true → ∃ t, exec (.tlbi a b) s = .next t
      ∧ t.tlbiAll = (s.tlbiAll || decide (b = 0)) ∧ t.tlbi = s.tlbi ++ (if b = 0 then [] else [(s.reg a).toNat % 2 ^ 57])
      ∧ KeepsRegs s t ∧ SameMemory s t)
    ∧ (Issues (.tlbi a b) s v s1 → s.slice = none → s.phys.syn = [] → ∃ t, exec (.tlbi a b) s = .next t ∧ KeepsRegs s t ∧ SameMemory s t
      ∧ t.tlbiAll = false ∧ t.tlbi = [] ∧ (b = 0 → t.sysTables = s.phys.bytes)
      ∧ ∀ va w, va < 2 ^ 57 → va / 2 ^ 24 = (s.reg a).toNat % 2 ^ 57 / 2 ^ 24 →
        Machine.translate t.sysTables s.sysroot va w = Machine.translate s.phys.bytes s.sysroot va w)
    ∧ (∀ r u, Issues (.spawn d a) s v s1 → s1.queueRecord (s.reg a).toNat none [] = (r, u) → r ≠ .unlinked →
      ∃ t, exec (.spawn d a) s = .next t ∧ t.disp = u.disp
        ∧ t.reg d = (if d = 0 then 0 else match r with | .ready => 0 | .rejected => 1 | _ => 2) ∧ (∀ n, n ≠ d → t.reg n = s.reg n)
        ∧ OtherMemory s t)
    ∧ (∀ r live q, Issues (.spawn d a) s v s1 → s.phys.syn = [] → s.readLaunch (s.reg a).toNat = some (r, live, q, false) →
      s.launchCheck r live q false = 0 → s.disp.ready.length < 1024 → 64 * s.disp.segs ≠ s.disp.ready.length →
      s.slice.isSome = true ∨ s.disp.picked.isSome = true →
      ∃ t y, exec (.spawn d a) s = .next t ∧ t.reg d = 0 ∧ t.disp.ready = s.disp.ready ++ [y] ∧ y.lr = { r with pred := [] }
        ∧ y.deadline = r.deadline ∧ y.saved = r.fromsave ∧ t.disp.waitRecs = s.disp.waitRecs ∧ t.slice = s.slice)
    ∧ (∀ r live q bad, Issues (.spawn d a) s v s1 → s.phys.syn = [] → s.readLaunch (s.reg a).toNat = some (r, live, q, bad) →
      s.launchCheck r live q bad ≠ 0 →
      ∃ t y, exec (.spawn d a) s = .next t ∧ t.reg d = (if d = 0 then 0 else 1) ∧ t.disp.ready = s.disp.ready
        ∧ t.disp.waitRecs = s.disp.waitRecs ++ [y] ∧ y.rkind = 1 ∧ y.cause = 0x14 ∧ y.sliceid = r.sliceid)
    ∧ (∀ u, Taken (.spawn d a) s v s1 → s.onSys = true → s1.queueRecord (s.reg a).toNat none [] = (.unlinked, u) →
      ∃ t, exec (.spawn d a) s = .next t ∧ t.cur.sysTraps = s.cur.sysTraps ++ [(0x22, 2 ^ 63)] ∧ t.disp = s.disp ∧ KeepsRegs s t ∧ SameMemory s t)
    ∧ (Issues (.slkill d a b) s v s1 → s.onSys = true → (∀ r, s.slice = some r → r.cores.contains s.focusCore = false) → ∃ t, exec (.slkill d a b) s = .next t
      ∧ t.reg d = (if d = 0 then 0 else if (s1.kill (s.reg a).toNat (s.reg b).toNat).1 = true then 1 else 0)
      ∧ t.slice = (s1.kill (s.reg a).toNat (s.reg b).toNat).2.slice ∧ (∀ n, n ≠ d → t.reg n = s.reg n) ∧ OtherMemory s t)
    ∧ (Issues (.slkill d a b) s v s1 → s.onSys = true → (∀ r, s.slice = some r → r.cores.contains s.focusCore = false) →
      let id := (s.reg a).toNat
      let sent (t : State) (lr : LaunchRec) : Prop := ∃ y, t.disp.waitRecs = s.disp.waitRecs ++ [y] ∧ y.cause = (s.reg b).toNat
        ∧ y.rkind = (if (s.reg b).toNat = 0 then 4 else 1) ∧ y.sliceid = lr.sliceid ∧ y.hosttag = lr.hosttag
      (∀ r, s.slice = some r → r.lr.sliceid = id →
        ∃ t, exec (.slkill d a b) s = .next t ∧ t.slice = none ∧ t.reg d = (if d = 0 then 0 else 1) ∧ sent t r.lr)
      ∧ (∀ x, (∀ r, s.slice = some r → r.lr.sliceid ≠ id) → s.disp.picked = none → x ∈ s.disp.ready → x.lr.sliceid = id →
        (∀ y, y ∈ s.disp.ready → y.lr.sliceid = id → y = x) →
        ∃ t, exec (.slkill d a b) s = .next t ∧ (∀ y, y ∈ t.disp.ready → y.lr.sliceid ≠ id) ∧ t.slice = s.slice
          ∧ t.reg d = (if d = 0 then 0 else 1) ∧ sent t x.lr)
      ∧ ((∀ r, s.slice = some r → r.lr.sliceid ≠ id) → (∀ x, x ∈ s.disp.picked.toList ++ s.disp.ready → x.lr.sliceid ≠ id) →
        ∃ t, exec (.slkill d a b) s = .next t ∧ t.reg d = 0 ∧ t.disp = s.disp ∧ t.slice = s.slice))
    ∧ (∀ core ctx, Issues (.resume a b) s v s1 → core < 1024 → ctx < 4 → s.reg a = BitVec.ofNat 64 (core + 1024 * ctx) → s.reg b = 0 →
      s.focusCore ≠ core → s.inSlice core = true → (s.ctx core ctx).trapped = true →
      ∃ t, exec (.resume a b) s = .next t ∧ (t.ctx core ctx).trapped = false ∧ (t.ctx core ctx).regs = (s.ctx core ctx).regs
        ∧ KeepsRegs s t ∧ SameMemory s t)
    ∧ (Issues (.resume a b) s v s1 → s.inSlice ((s.reg a).toNat % 1024) = false → ∃ t, exec (.resume a b) s = .next t ∧ KeepsRegs s t ∧ OnlyFocus s t)
    ∧ ∀ i, i ∈ [.rft, .tlbi a b, .wfe d, .spawn d a, .slkill d a b, .resume a b] →
      (∀ r, AtHead i s → s.slice = some r →
        ∃ t x, exec i s = .next t ∧ t.slice = none ∧ t.disp.waitRecs = s.disp.waitRecs ++ [x] ∧ x.cause = 0x01 ∧ x.rkind = 1)
      ∧ (s.fetching = true → s.onSys = true → s.cur.priv = false → s.cur.cv = none → s.curCore.istBad = [] → s.dbg.panic = none →
        ∃ t, exec i s = .next t ∧ t.dbg.panic.isSome = true ∧ ∀ k, k < 7 → (t.core (sysCore k)).sysRun = false)

/-! ## What a context does between its issues -/

/-- R118, R125, R173: convoys of the vector unit start, go on and retire in their cycles, and a retiring one ORs its flags
into FLG; a context that has issued EXIT is EXITED when nothing of it is left. A span closes in the first cycle in which the
next convoy lies outside it and its results have landed; one that is open at s = 512 ends the slice of a compute core with
SPAN-OVERRUN (09h) and the address of its SPAN word.
Completion, exec answers a next state, of: vectorConvoyStart, vectorMemberStart, vectorConvoyRetire, exitComplete, spanClose,
spanOverrun. -/
def Obligations.ContextSteps : Prop :=
  ∀ (s : State) (core ctx : Nat), s.ctxLive core ctx = true →
    (∀ q, (s.ctx core ctx).vq = [q] → q.started = 0 → q.starts.headD 0 ≤ s.now →
      ∃ t, exec (.vectorConvoyStart core ctx) s = .next t ∧ (t.ctx core ctx).vq = [{ q with started := 1 }] ∧ SameMemory s t)
    ∧ (∀ q, (s.ctx core ctx).vq = [q] → q.started ≠ 0 → q.started < q.starts.length → q.starts.getD q.started 0 ≤ s.now →
      ∃ t, exec (.vectorMemberStart core ctx) s = .next t ∧ (t.ctx core ctx).vq = [{ q with started := q.started + 1 }] ∧ SameMemory s t)
    ∧ (∀ q, (s.ctx core ctx).vq = [q] → q.starts.length ≤ q.started → q.retire ≤ s.now →
      ∃ t, exec (.vectorConvoyRetire core ctx) s = .next t ∧ (t.ctx core ctx).vq = []
        ∧ (t.ctx core ctx).flg = (s.ctx core ctx).flg ||| q.flags ∧ SameMemory s t)
    ∧ (s.exitDue core ctx = true → ∃ t, exec (.exitComplete core ctx) s = .next t ∧ (t.ctx core ctx).st = .exited
      ∧ (t.ctx core ctx).exiting = false ∧ SameMemory s t)
    ∧ ((s.ctx core ctx).spanDone s.now = true →
      ∃ t, exec (.spanClose core ctx) s = .next t ∧ (t.ctx core ctx).span = none ∧ (t.ctx core ctx).regs = (s.ctx core ctx).regs ∧ SameMemory s t)
    ∧ (∀ r w, (s.ctx core ctx).overrun s.now = some w → core < 1024 → s.slice = some r →
      ∃ t x, exec (.spanOverrun core ctx) s = .next t ∧ t.slice = none ∧ t.disp.waitRecs = s.disp.waitRecs ++ [x]
        ∧ x.cause = 0x09 ∧ x.addr = w)

/-! ## Debug -/

/-- R310, R312 to R315: a halt is requested while EN = 1 and not while EN = 0; it lands at a boundary, where the context is
halted and a record of cause DEBUG-HALT waits for the trap queue; a release lets it run again.
Completion, exec answers a next state, of: hctlHaltRequest, haltLanding, hctlRelease. -/
def Obligations.Halts : Prop :=
  ∀ (s : State) (core ctx : Nat),
    (s.dbg.en = true → s.haltable core ctx = true → ∃ t, exec (.hctlHaltRequest core ctx) s = .next t
      ∧ (t.ctx core ctx).haltReq = some .hctl ∧ SameMemory s t)
    ∧ (s.dbg.en = false → exec (.hctlHaltRequest core ctx) s = .next s)
    ∧ (s.haltDue core ctx = true → s.dbg.allstop = false → ∃ t x, exec (.haltLanding core ctx) s = .next t
      ∧ (t.ctx core ctx).halted = true ∧ (t.ctx core ctx).haltReq = none ∧ t.disp.trapWait = s.disp.trapWait ++ [x] ∧ x.cause = 0x25
      ∧ (t.ctx core ctx).regs = (s.ctx core ctx).regs)
    ∧ ((s.ctx core ctx).halted = true → ∃ t, exec (.hctlRelease core ctx) s = .next t ∧ (t.ctx core ctx).halted = false
      ∧ (t.ctx core ctx).regs = (s.ctx core ctx).regs)

/-- R304, R310, R316 to R318, R321: DMARK puts a marker on its way to the trace buffer while EN = 1, and inside a span it holds the
marker for the closure; the oldest trace record, and of those of one cycle the one of the lowest core, then context, goes to
its place of the ring, and TBWP moves on; that TBBASE is a physical bit address, so that the place is TBBASE + 256 · slot
untranslated, is the model's reading (log 40). A write to TBWP starts a fresh fill. SVDATA reads the word at SVADDR: in the core
block a register, tag, mask or status word of a halted context (g4 of context 0 stands at 2304), a cell of a plane, the
facing and the queues, behind it the scratchpad and the instruction store, and all ones where a part may not be read. It
writes it under the same conditions, but for status words 0 to 2: a write to the scratchpad changes no facing. Either access
moves SVADDR on.
Completion, exec answers a next state, of: dmark, traceRecord, tbwpWrite, svdataRead, svdataWrite. -/
def Obligations.DebugSteps : Prop :=
  ∀ (s s1 : State) (a : Reg) (v : Cv) (core : Nat) (x : Word),
    (Taken (.dmark a) s v s1 → Goes s v s.cur.loops (s.cur.pc + 32) → s.dbg.en = true → s1.cur.span = none → ∃ t, exec (.dmark a) s = .next t
      ∧ t.dbg.waiting = s.dbg.waiting ++ [s1.marker (s.reg a)] ∧ t.cur.regs = s.cur.regs ∧ SameMemory s t)
    ∧ (Taken (.dmark a) s v s1 → Goes s v s.cur.loops (s.cur.pc + 32) → s1.cur.span.isSome = true → ∃ t, exec (.dmark a) s = .next t
      ∧ t.cur.heldTrace = s1.cur.heldTrace ++ [s1.marker (s.reg a)] ∧ t.dbg.waiting = s.dbg.waiting ∧ t.cur.regs = s.cur.regs ∧ SameMemory s t)
    ∧ (∀ r, r ∈ s.dbg.waiting → (∀ y, y ∈ s.dbg.waiting → y ≠ r → traceKey r < traceKey y) → s.dbg.tbsize ≠ 0 → s.dbg.tbstop = false → s.phys.syn = [] → ∃ t, exec .traceRecord s = .next t
      ∧ t.dbg.waiting = s.dbg.waiting.erase r ∧ t.dbg.tbwp = s.dbg.tbwp + 1
      ∧ t.phys.bytes.bits (s.dbg.tbbase.toNat + 256 * (s.dbg.tbwp % s.dbg.tbsize.toNat)) 256 = r.toNat)
    ∧ (∃ t, exec .tbwpWrite s = .next t ∧ t.dbg.tbwp = 0 ∧ t.cores = s.cores ∧ SameMemory s t)
    ∧ (∃ t, exec (.svdataRead core) s = .next t ∧ (t.core core).svaddr = ((s.core core).svaddr + 64) % 2 ^ 64 ∧ SameMemory s t
      ∧ ∀ y, (s.core core).svaddr % 64 = 0 → debugWord s core (s.core core).svaddr = some y → t.dbg.svread = BitVec.ofNat 64 y)
    ∧ (partOpen (s.ctx core 0) → debugWord s core 2304 = some (SMap.get 0 (s.ctx core 0).regs 4).toNat)
    ∧ (let at0 := (s.core core).svaddr
      let word (c i : Nat) : Prop := c < 4 ∧ at0 = 512 * 640 * c + 64 * i
      let halted : Prop := (s.core core).ctxs.all (fun p => (p.2.halted && !p.2.aborted) || p.2.st == .exited || p.2.st == .absent) = true
      ∃ t, exec (.svdataWrite core x) s = .next t ∧ (t.core core).svaddr = ((s.core core).svaddr + 64) % 2 ^ 64
        ∧ (∀ c n, word c (32 + n) → partOpen (s.ctx core c) → 0 < n → n < 528 → SMap.get 0 (t.ctx core c).regs n = x
          ∧ (∀ m, m ≠ n → SMap.get 0 (t.ctx core c).regs m = SMap.get 0 (s.ctx core c).regs m) ∧ (t.ctx core c).flg = (s.ctx core c).flg)
        ∧ (∀ c i, word c i → i < 3 ∨ (i < 5120 ∧ ¬partOpen (s.ctx core c)) → t.ctx core c = s.ctx core c)
        ∧ (∀ c, word c 3 → partOpen (s.ctx core c) → t.ctx core c = { s.ctx core c with flg := BitVec.ofNat 7 x.toNat })
        ∧ (∀ c, word c 4 → partOpen (s.ctx core c) → t.ctx core c = { s.ctx core c with rmode := BitVec.ofNat 3 x.toNat })
        ∧ (∀ c, word c 5 → partOpen (s.ctx core c) → t.ctx core c = { s.ctx core c with seed := x })
        ∧ (∀ c, word c 6 → partOpen (s.ctx core c) → t.ctx core c = { s.ctx core c with stepr := x })
        ∧ (∀ a, at0 = 4160 * 512 + a → a < 2 ^ 23 → a % 64 = 0 →
          (halted → (t.core core).loc.bytes.bits a 64 = x.toNat
            ∧ ∀ q, q < a ∨ a + 64 ≤ q → bitAt (t.core core).loc.bytes q = bitAt (s.core core).loc.bytes q)
          ∧ (¬halted → (t.core core).loc.bytes = (s.core core).loc.bytes) ∧ (t.core core).loc.out = (s.core core).loc.out)
        ∧ (∀ a, at0 = (4160 + 16384) * 512 + a → a < 2 ^ 20 → a % 64 = 0 →
          SMap.get 0 (t.core core).ist (a / 32) = BitVec.ofNat 32 x.toNat
          ∧ SMap.get 0 (t.core core).ist (a / 32 + 1) = BitVec.ofNat 32 (x.toNat / 2 ^ 32)
          ∧ ∀ n, n ≠ a / 32 → n ≠ a / 32 + 1 → SMap.get 0 (t.core core).ist n = SMap.get 0 (s.core core).ist n))

/-! ## The host's side -/

/-- R342, R343, R347, R353: SQBASE takes a multiple of 512 before GO and nothing after it; a write of 0 to a half of ECCCNT
clears it; a slot-table write waits for the rotation boundary; a scrub of good words changes nothing. The host window reads
and writes physical memory at HWBASE + 8 · offset; past the end of a memory a read is an Unsupported Request and a write is
dropped, and no write changes facing.
Completion, exec answers a next state, of: registerWrite, ecccntWrite, slotTableWrite, patrolScrub, hostWindowRead,
hostWindowWrite. -/
def Obligations.HostAccess : Prop :=
  ∀ (s : State) (x : Word) (port entry sector off y : Nat),
    let pa := s.bar.hwbase.toNat + 8 * off
    (s.bar.stage ≠ 6 → ∃ t, exec (.registerWrite 0 0x008 x) s = .next t ∧ t.bar.sqbase = x >>> 9 <<< 9 ∧ t.cores = s.cores)
    ∧ (s.bar.stage = 6 → exec (.registerWrite 0 0x008 x) s = .next s)
    ∧ (∃ t, exec (.ecccntWrite x) s = .next t ∧ (x.toNat % 2 ^ 32 = 0 → t.bar.corrected = 0) ∧ (x.toNat / 2 ^ 32 = 0 → t.bar.poisoned = 0)
      ∧ SameMemory s t)
    ∧ (port < 48 → entry < 64 → ∃ t, exec (.slotTableWrite port entry x) s = .next t ∧ t.ports.table = s.ports.table
      ∧ SMap.get? t.ports.held (64 * port + entry) = some (BitVec.ofNat 64 (x.toNat % 2 ^ 13 + 2 ^ 32 * (x.toNat / 2 ^ 32 % 2 ^ 13))))
    ∧ (512 * sector < moduleBits → 3 ≤ s.bar.stage → s.phys.syn = [] → ∃ t, exec (.patrolScrub sector) s = .next t ∧ t.phys = s.phys
      ∧ t.bar.corrected = s.bar.corrected ∧ t.bar.poisoned = s.bar.poisoned)
    ∧ (s.windowOk off 8 = true → s.phys.syn = [] → ∃ t, exec (.hostWindowRead off 8) s = .next t ∧ t.hostRead.data = s.phys.bytes.bits pa 64
      ∧ t.hostRead.ur = false ∧ t.phys = s.phys)
    ∧ (s.windowOk off 8 = false → ∃ t, exec (.hostWindowRead off 8) s = .next t ∧ t.hostRead.ur = true)
    ∧ (s.windowOk off 8 = true → pa % 64 = 0 → s.phys.syn = [] → ∃ t, exec (.hostWindowWrite off 8 y) s = .next t
      ∧ t.phys.bytes.bits pa 64 = y % 2 ^ 64 ∧ t.phys.out = s.phys.out ∧ t.cores = s.cores)
    ∧ (s.windowOk off 8 = false → exec (.hostWindowWrite off 8 y) s = .next s)

/-- R355: each stage of bring-up leads to the next; a rejected firmware or a failed memory training stops at its stage with
its ERR bit; a dark port sets ERR bit 2 and a missing drive ERR bit 3, and bring-up goes on; GO at stage 5 applies DTADJ,
latches the translation roots and starts the dispatcher. How each stage ends on this module is a constant (log 59). A module
reset returns to stage 0; that memory then reads 0 is the model's choice, and what it keeps the model's reading (logs 3, 53).
Completion, exec answers a next state, of: powerGood, firmwareVerify, memoryTraining, portTraining, scerathLoad, bootGo,
moduleReset. -/
def Obligations.BringUp : Prop :=
  ∀ (s : State), s.bar.stopped = false →
    (s.bar.stage = 0 → ∃ t, exec .powerGood s = .next t ∧ (Config.powerOk = true → t.bar.stage = 1 ∧ t.dtime = 0)
      ∧ (Config.powerOk = false → t.bar.stage = 0))
    ∧ (s.bar.stage = 1 → ∃ t, exec .firmwareVerify s = .next t ∧ (Config.firmwareOk = true → t.bar.stage = 2 ∧ t.bar.err = s.bar.err)
      ∧ (Config.firmwareOk = false → t.bar.stage = 1 ∧ t.bar.stopped = true ∧ t.bar.err.getLsbD 0 = true))
    ∧ (s.bar.stage = 2 → ∃ t, exec .memoryTraining s = .next t
      ∧ (Config.memoryOk = true → t.bar.stage = 3 ∧ t.phys = {} ∧ t.bar.err = s.bar.err)
      ∧ (Config.memoryOk = false → t.bar.stage = 2 ∧ t.bar.stopped = true ∧ t.bar.err.getLsbD 1 = true))
    ∧ (s.bar.stage = 3 → ∃ t, exec .portTraining s = .next t ∧ t.bar.stage = 4 ∧ t.bar.stopped = false ∧ t.ports.trained = true
      ∧ (∀ p, p < 48 → (p ∈ t.ports.dark ↔ Config.portLocks p = false))
      ∧ (∀ p, p < 48 → Config.portLocks p = false → t.bar.err.getLsbD 2 = true)
      ∧ ((∀ p, p < 48 → Config.portLocks p = true) → t.bar.err = s.bar.err))
    ∧ (s.bar.stage = 4 → ∃ t, exec .scerathLoad s = .next t ∧ t.bar.stage = 5 ∧ t.bar.stopped = false
      ∧ (Config.driveOk = false → t.bar.err.getLsbD 3 = true) ∧ (Config.driveOk = true → t.bar.err = s.bar.err)
      ∧ ∀ k, k < 8 → (t.ctx (sysCore k) 0).priv = true ∧ (t.ctx (sysCore k) 0).pc = 0)
    ∧ (s.bar.stage = 5 → ∃ t, exec .bootGo s = .next t ∧ t.bar.stage = 6 ∧ t.dtime = s.dtime + s.bar.dtadj
      ∧ (s.phys.syn = [] → t.sysTables = s.phys.bytes) ∧ (s.dbg.panic = none → t.dispLive = true))
    ∧ (∃ t, exec .moduleReset s = .next t ∧ t.bar = {} ∧ t.slice = none ∧ t.cores = [] ∧ t.phys = {} ∧ t.host = s.host
      ∧ t.nvme = s.nvme ∧ t.sec.left = s.sec.left)

/-- R356 to R358: a security command makes SCSTAT busy; a second one meanwhile is dropped with ERR 2; an attestation uses up
one signature, and without any left ends with ERR 3; an unknown command ends with ERR 1.
Completion, exec answers a next state, of: scReadPublicKey, scReadSignatureIndex, scAttest, scUnknownCommand, scCommandDone. -/
def Obligations.SecurityCore : Prop :=
  ∀ (s : State) (x : Word),
    (s.sec.busy = false → ∃ t, exec .scReadPublicKey s = .next t ∧ t.sec.busy = true ∧ t.sec.resultLen = 68 ∧ t.sec.resultErr = 0)
    ∧ (s.sec.busy = true → ∃ t, exec .scReadPublicKey s = .next t ∧ t.sec.err = 2 ∧ t.sec.result = s.sec.result)
    ∧ (s.sec.busy = false → ∃ t, exec .scReadSignatureIndex s = .next t ∧ t.sec.busy = true ∧ t.sec.result = 2 ^ 20 - s.sec.left)
    ∧ (s.sec.busy = false → s.sec.left ≠ 0 → ∃ t, exec .scAttest s = .next t ∧ t.sec.left = s.sec.left - 1 ∧ t.sec.resultErr = 0)
    ∧ (s.sec.busy = false → s.sec.left = 0 → ∃ t, exec .scAttest s = .next t ∧ t.sec.left = 0 ∧ t.sec.resultErr = 3)
    ∧ (s.sec.busy = false → ∃ t, exec (.scUnknownCommand x) s = .next t ∧ t.sec.busy = true ∧ t.sec.resultErr = 1)
    ∧ (s.sec.busy = true → s.sec.due ≤ s.now → ∃ t, exec .scCommandDone s = .next t ∧ t.sec.busy = false ∧ t.sec.err = s.sec.resultErr
      ∧ t.disp.msix = s.disp.msix ++ [0] ∧ SameMemory s t)

/-- R266, R267, R351, R353: at a rotation boundary the held slot-table entries take effect; at a slot boundary the slot
moves on; a port sends the oldest flit of its slot's module with the next sequence number; a flit in sequence, for this
slot, with a good CRC, outside the guard interval, is delivered.
Completion, exec answers a next state, of: rotationBoundary, slotBoundary, flitTransmit, flitReceive. -/
def Obligations.PortSteps : Prop :=
  ∀ (s : State) (port : Nat),
    (s.dtime.toNat % 640000 = 0 → s.ports.rotated ≠ some s.now → ∃ t, exec .rotationBoundary s = .next t ∧ t.ports.held = []
      ∧ (∀ x, s.ports.held = [(64 * port, x)] → SMap.get 0 t.ports.table (64 * port) = x))
    ∧ (s.dtime.toNat % 10000 = 0 → s.ports.slotted ≠ some s.now → ∃ t, exec .slotBoundary s = .next t
      ∧ t.slot = s.dtime.toNat % 640000 / 10000 ∧ t.ports.failed = [])
    ∧ (∀ m cls body r, s.nextFlit port = some (m, cls, body, r) → ∃ t, exec (.flitTransmit port) s = .next t
      ∧ t.ports.sent = s.ports.sent ++ [(port, mkFlit cls (SMap.get 0 s.ports.txseq m) m body)])
    ∧ (∀ m cls body, port < 48 → s.portsLive = true → s.ports.dark = [] → slotRx (s.ports.entry port s.slot) = some m → m < 4096 → cls < 8 →
      inGuard s.dtime.toNat = false → SMap.get 0 s.ports.rxseq m < 8192 →
      ∃ t, exec (.flitReceive port (mkFlit cls (SMap.get 0 s.ports.rxseq m) m body)) s = .next t
        ∧ t.ports.received = s.ports.received ++ [(m, body)])

/-- R354: a measurement above 2.9 kW or 100 °C sets WARN and changes nothing that executes; above 3.1 kW for 1 ms, or from
110 °C on, the compute dies trip: the running slice is gone, the ready queue is empty, and TRIP is set. That POWER_TRIP stands
for a power that has stayed above 3.1 kW for 1 ms, and that a measurement of 110 °C by POWER_WARN trips as well, is the model's
reading (log 52).
Completion, exec answers a next state, of: powerWarn, powerTrip. -/
def Obligations.PowerSteps : Prop :=
  ∀ (s : State) (power temp : Nat),
    (temp < 110 → ∃ t, exec (.powerWarn power temp) s = .next t ∧ t.power.warn = (decide (2900 < power) || decide (100 < temp)) ∧ t.cores = s.cores
      ∧ t.slice = s.slice ∧ SameMemory s t)
    ∧ (3100 < power ∨ 110 ≤ temp → s.power.trip = false → ∃ t, exec (.powerTrip power temp) s = .next t ∧ t.power.trip = true
      ∧ t.slice = none ∧ t.disp.ready = [])
    ∧ (110 ≤ temp → s.power.trip = false → ∃ t, exec (.powerWarn power temp) s = .next t ∧ t.power.trip = true ∧ t.slice = none)

/-! ## Reset and invariants -/

/-- R68, R310, R342, R354, R355, R357: the device after power-on reset: bring-up stage 0, no slice, the debug unit off,
2^20 signatures left, PHC 0. -/
def Obligations.ResetValues : Prop :=
  State.reset.bar = {} ∧ State.reset.slice = none ∧ State.reset.dbg.en = false ∧ State.reset.sec.left = 2 ^ 20
  ∧ State.reset.phc = 0 ∧ State.reset.power.trip = false ∧ State.reset.disp.taken = 0 ∧ State.reset.disp.cmp = 0

/-- Log 3: every memory is in canonical form after reset. -/
def Obligations.ResetMemoryOk : Prop := MemoryOk State.reset

/-- R22, log 3: every step keeps every memory in canonical form: a byte is listed once, in ascending order, and only where
it is not 0. -/
def Obligations.StepKeepsMemoryOk : Prop :=
  ∀ (s t : State), MemoryOk s → step s = .next t → MemoryOk t
end

