-- ==== Sys2Proof/Laws/Tables.lean ====
section
/-! SUPPORT. Laws of the tables: a lookup after an update gives the value put or what stood there before, and a second
update of one place replaces the first. -/

namespace Sys2Proof.Laws

open Sys2Proof Sys2Proof.Machine

variable {α : Type}

@[simp] theorem get_put_self (d : α) (m : SMap α) (n : Nat) (x : α) : SMap.get d (m.put n x) n = x := by
  induction m with
  | nil => simp [SMap.put, SMap.get]
  | cons p r ih =>
    obtain ⟨k, v⟩ := p
    simp only [SMap.put]
    split
    · simp [SMap.get]
    · split
      · simp [SMap.get]
      · rename_i h; simp [SMap.get, h, ih]

theorem get_put_ne (d : α) (m : SMap α) {n k : Nat} (x : α) (h : k ≠ n) : SMap.get d (m.put n x) k = SMap.get d m k := by
  induction m with
  | nil => simp [SMap.put, SMap.get, Ne.symm h]
  | cons p r ih =>
    obtain ⟨j, v⟩ := p
    simp only [SMap.put]
    split
    · simp [SMap.get, Ne.symm h]
    · split
      · rename_i e; subst e; simp [SMap.get, Ne.symm h]
      · simp only [SMap.get, ih]

@[simp] theorem get?_put_self (m : SMap α) (n : Nat) (x : α) : SMap.get? (m.put n x) n = some x := by
  induction m with
  | nil => simp [SMap.put, SMap.get?]
  | cons p r ih =>
    obtain ⟨k, v⟩ := p
    simp only [SMap.put]
    split
    · simp [SMap.get?]
    · split
      · simp [SMap.get?]
      · rename_i h; simp [SMap.get?, h, ih]

theorem get?_put_ne (m : SMap α) {n k : Nat} (x : α) (h : k ≠ n) : SMap.get? (m.put n x) k = SMap.get? m k := by
  induction m with
  | nil => simp [SMap.put, SMap.get?, Ne.symm h]
  | cons p r ih =>
    obtain ⟨j, v⟩ := p
    simp only [SMap.put]
    split
    · simp [SMap.get?, Ne.symm h]
    · split
      · rename_i e; subst e; simp [SMap.get?, Ne.symm h]
      · simp only [SMap.get?, ih]

@[simp] theorem put_put (m : SMap α) (n : Nat) (x y : α) : (m.put n x).put n y = m.put n y := by
  induction m with
  | nil => simp [SMap.put]
  | cons p r ih =>
    obtain ⟨k, v⟩ := p
    simp only [SMap.put]
    split
    · simp [SMap.put]
    · rename_i h
      split
      · simp [SMap.put]
      · rename_i e; simp [SMap.put, h, e, ih]

@[simp] theorem get_del_self (d : α) (m : SMap α) (n : Nat) : SMap.get d (m.del n) n = d := by
  induction m with
  | nil => rfl
  | cons p r ih =>
    obtain ⟨k, v⟩ := p
    simp only [SMap.del, List.filter] at *
    split
    · rename_i h; simp at h; simp [SMap.get, h, ih]
    · exact ih

theorem get_del_ne (d : α) (m : SMap α) {n k : Nat} (h : k ≠ n) : SMap.get d (m.del n) k = SMap.get d m k := by
  induction m with
  | nil => rfl
  | cons p r ih =>
    obtain ⟨j, v⟩ := p
    simp only [SMap.del, List.filter] at *
    split
    · simp only [SMap.get, ih]
    · rename_i e; simp at e; subst e; simp [SMap.get, Ne.symm h, ih]

@[simp] theorem get_set_self [DecidableEq α] (d : α) (m : SMap α) (n : Nat) (x : α) : SMap.get d (SMap.set d m n x) n = x := by
  unfold SMap.set
  split
  · rename_i h; simp [h]
  · simp

theorem get_set_ne [DecidableEq α] (d : α) (m : SMap α) {n k : Nat} (x : α) (h : k ≠ n) :
    SMap.get d (SMap.set d m n x) k = SMap.get d m k := by
  unfold SMap.set
  split
  · exact get_del_ne d m h
  · exact get_put_ne d m x h

/-- A lookup in a mapped table maps what was listed. -/
theorem get_mapVals (d : α) (m : SMap α) (f : Nat → α → α) (n : Nat) (h : f n d = d) :
    SMap.get d (m.mapVals f) n = f n (SMap.get d m n) := by
  induction m with
  | nil => simp [SMap.mapVals, SMap.get, h]
  | cons p r ih =>
    obtain ⟨k, v⟩ := p
    simp only [SMap.mapVals, List.map, SMap.get] at *
    split
    · rename_i e; rw [e]
    · exact ih

/-- Every entry that a condition holds of, after an update. -/
theorem forall_put {P : α → Prop} {m : SMap α} (h : ∀ p ∈ m, P p.2) {n : Nat} {x : α} (hx : P x) : ∀ p ∈ m.put n x, P p.2 := by
  induction m with
  | nil => simpa [SMap.put] using hx
  | cons q r ih =>
    obtain ⟨k, v⟩ := q
    have hv : P v := h (k, v) (by simp)
    have hr : ∀ p ∈ r, P p.2 := fun p hp => h p (by simp [hp])
    simp only [SMap.put]
    split
    · intro p hp
      rcases List.mem_cons.1 hp with rfl | hp
      · exact hx
      · exact h p hp
    · split
      · intro p hp
        rcases List.mem_cons.1 hp with rfl | hp
        · exact hx
        · exact hr p hp
      · intro p hp
        rcases List.mem_cons.1 hp with rfl | hp
        · exact hv
        · exact ih hr p hp

/-- What a lookup finds, when a condition holds of the default and of every entry. -/
theorem get_of_forall {P : α → Prop} {d : α} (hd : P d) {m : SMap α} (h : ∀ p ∈ m, P p.2) (n : Nat) : P (SMap.get d m n) := by
  induction m with
  | nil => exact hd
  | cons q r ih =>
    obtain ⟨k, v⟩ := q
    simp only [SMap.get]
    split
    · exact h (k, v) (by simp)
    · exact ih fun p hp => h p (by simp [hp])

end Sys2Proof.Laws
end

