-- ==== Sys2Proof/Laws/State.lean ====
section
/-! SUPPORT. One lemma per field for each update of the state: the updates of a core or of a context change the
cores alone. -/

namespace Sys2Proof.Laws

open Sys2Proof Sys2Proof.Machine

/-! ## Fields that an update of a core or a context leaves alone -/

@[simp] theorem setCore_now (s : State) (c : Nat) (k : Core) : (s.setCore c k).now = s.now := rfl
@[simp] theorem setCore_dtoff (s : State) (c : Nat) (k : Core) : (s.setCore c k).dtoff = s.dtoff := rfl
@[simp] theorem setCore_focusCore (s : State) (c : Nat) (k : Core) : (s.setCore c k).focusCore = s.focusCore := rfl
@[simp] theorem setCore_focusCtx (s : State) (c : Nat) (k : Core) : (s.setCore c k).focusCtx = s.focusCtx := rfl
@[simp] theorem setCore_phc (s : State) (c : Nat) (k : Core) : (s.setCore c k).phc = s.phc := rfl
@[simp] theorem setCore_free (s : State) (c : Nat) (k : Core) : (s.setCore c k).free = s.free := rfl
@[simp] theorem setCore_inbox (s : State) (c : Nat) (k : Core) : (s.setCore c k).inbox = s.inbox := rfl
@[simp] theorem setCore_slice (s : State) (c : Nat) (k : Core) : (s.setCore c k).slice = s.slice := rfl
@[simp] theorem setCore_disp (s : State) (c : Nat) (k : Core) : (s.setCore c k).disp = s.disp := rfl
@[simp] theorem setCore_phys (s : State) (c : Nat) (k : Core) : (s.setCore c k).phys = s.phys := rfl
@[simp] theorem setCore_host (s : State) (c : Nat) (k : Core) : (s.setCore c k).host = s.host := rfl
@[simp] theorem setCore_peer (s : State) (c : Nat) (k : Core) : (s.setCore c k).peer = s.peer := rfl
@[simp] theorem setCore_nvme (s : State) (c : Nat) (k : Core) : (s.setCore c k).nvme = s.nvme := rfl
@[simp] theorem setCore_sau (s : State) (c : Nat) (k : Core) : (s.setCore c k).sau = s.sau := rfl
@[simp] theorem setCore_groups (s : State) (c : Nat) (k : Core) : (s.setCore c k).groups = s.groups := rfl
@[simp] theorem setCore_descSeq (s : State) (c : Nat) (k : Core) : (s.setCore c k).descSeq = s.descSeq := rfl
@[simp] theorem setCore_taken (s : State) (c : Nat) (k : Core) : (s.setCore c k).taken = s.taken := rfl
@[simp] theorem setCore_noise (s : State) (c : Nat) (k : Core) : (s.setCore c k).noise = s.noise := rfl
@[simp] theorem setCore_scrubs (s : State) (c : Nat) (k : Core) : (s.setCore c k).scrubs = s.scrubs := rfl
@[simp] theorem setCore_scrubFrom (s : State) (c : Nat) (k : Core) : (s.setCore c k).scrubFrom = s.scrubFrom := rfl
@[simp] theorem setCore_photonic (s : State) (c : Nat) (k : Core) : (s.setCore c k).photonic = s.photonic := rfl
@[simp] theorem setCore_wakeAt (s : State) (c : Nat) (k : Core) : (s.setCore c k).wakeAt = s.wakeAt := rfl
@[simp] theorem setCore_shadow (s : State) (c : Nat) (k : Core) : (s.setCore c k).shadow = s.shadow := rfl
@[simp] theorem setCore_raceLog (s : State) (c : Nat) (k : Core) : (s.setCore c k).raceLog = s.raceLog := rfl
@[simp] theorem setCore_raceDrop (s : State) (c : Nat) (k : Core) : (s.setCore c k).raceDrop = s.raceDrop := rfl
@[simp] theorem setCore_bar (s : State) (c : Nat) (k : Core) : (s.setCore c k).bar = s.bar := rfl
@[simp] theorem setCore_power (s : State) (c : Nat) (k : Core) : (s.setCore c k).power = s.power := rfl
@[simp] theorem setCore_sec (s : State) (c : Nat) (k : Core) : (s.setCore c k).sec = s.sec := rfl
@[simp] theorem setCore_ports (s : State) (c : Nat) (k : Core) : (s.setCore c k).ports = s.ports := rfl
@[simp] theorem setCore_dbg (s : State) (c : Nat) (k : Core) : (s.setCore c k).dbg = s.dbg := rfl
@[simp] theorem setCore_sysTables (s : State) (c : Nat) (k : Core) : (s.setCore c k).sysTables = s.sysTables := rfl
@[simp] theorem setCore_tlbiAll (s : State) (c : Nat) (k : Core) : (s.setCore c k).tlbiAll = s.tlbiAll := rfl
@[simp] theorem setCore_tlbi (s : State) (c : Nat) (k : Core) : (s.setCore c k).tlbi = s.tlbi := rfl
@[simp] theorem setCore_hostRead (s : State) (c : Nat) (k : Core) : (s.setCore c k).hostRead = s.hostRead := rfl
@[simp] theorem modCore_now (s : State) (c : Nat) (f : Core → Core) : (s.modCore c f).now = s.now := rfl
@[simp] theorem modCore_dtoff (s : State) (c : Nat) (f : Core → Core) : (s.modCore c f).dtoff = s.dtoff := rfl
@[simp] theorem modCore_focusCore (s : State) (c : Nat) (f : Core → Core) : (s.modCore c f).focusCore = s.focusCore := rfl
@[simp] theorem modCore_focusCtx (s : State) (c : Nat) (f : Core → Core) : (s.modCore c f).focusCtx = s.focusCtx := rfl
@[simp] theorem modCore_phc (s : State) (c : Nat) (f : Core → Core) : (s.modCore c f).phc = s.phc := rfl
@[simp] theorem modCore_free (s : State) (c : Nat) (f : Core → Core) : (s.modCore c f).free = s.free := rfl
@[simp] theorem modCore_inbox (s : State) (c : Nat) (f : Core → Core) : (s.modCore c f).inbox = s.inbox := rfl
@[simp] theorem modCore_slice (s : State) (c : Nat) (f : Core → Core) : (s.modCore c f).slice = s.slice := rfl
@[simp] theorem modCore_disp (s : State) (c : Nat) (f : Core → Core) : (s.modCore c f).disp = s.disp := rfl
@[simp] theorem modCore_phys (s : State) (c : Nat) (f : Core → Core) : (s.modCore c f).phys = s.phys := rfl
@[simp] theorem modCore_host (s : State) (c : Nat) (f : Core → Core) : (s.modCore c f).host = s.host := rfl
@[simp] theorem modCore_peer (s : State) (c : Nat) (f : Core → Core) : (s.modCore c f).peer = s.peer := rfl
@[simp] theorem modCore_nvme (s : State) (c : Nat) (f : Core → Core) : (s.modCore c f).nvme = s.nvme := rfl
@[simp] theorem modCore_sau (s : State) (c : Nat) (f : Core → Core) : (s.modCore c f).sau = s.sau := rfl
@[simp] theorem modCore_groups (s : State) (c : Nat) (f : Core → Core) : (s.modCore c f).groups = s.groups := rfl
@[simp] theorem modCore_descSeq (s : State) (c : Nat) (f : Core → Core) : (s.modCore c f).descSeq = s.descSeq := rfl
@[simp] theorem modCore_taken (s : State) (c : Nat) (f : Core → Core) : (s.modCore c f).taken = s.taken := rfl
@[simp] theorem modCore_noise (s : State) (c : Nat) (f : Core → Core) : (s.modCore c f).noise = s.noise := rfl
@[simp] theorem modCore_scrubs (s : State) (c : Nat) (f : Core → Core) : (s.modCore c f).scrubs = s.scrubs := rfl
@[simp] theorem modCore_scrubFrom (s : State) (c : Nat) (f : Core → Core) : (s.modCore c f).scrubFrom = s.scrubFrom := rfl
@[simp] theorem modCore_photonic (s : State) (c : Nat) (f : Core → Core) : (s.modCore c f).photonic = s.photonic := rfl
@[simp] theorem modCore_wakeAt (s : State) (c : Nat) (f : Core → Core) : (s.modCore c f).wakeAt = s.wakeAt := rfl
@[simp] theorem modCore_shadow (s : State) (c : Nat) (f : Core → Core) : (s.modCore c f).shadow = s.shadow := rfl
@[simp] theorem modCore_raceLog (s : State) (c : Nat) (f : Core → Core) : (s.modCore c f).raceLog = s.raceLog := rfl
@[simp] theorem modCore_raceDrop (s : State) (c : Nat) (f : Core → Core) : (s.modCore c f).raceDrop = s.raceDrop := rfl
@[simp] theorem modCore_bar (s : State) (c : Nat) (f : Core → Core) : (s.modCore c f).bar = s.bar := rfl
@[simp] theorem modCore_power (s : State) (c : Nat) (f : Core → Core) : (s.modCore c f).power = s.power := rfl
@[simp] theorem modCore_sec (s : State) (c : Nat) (f : Core → Core) : (s.modCore c f).sec = s.sec := rfl
@[simp] theorem modCore_ports (s : State) (c : Nat) (f : Core → Core) : (s.modCore c f).ports = s.ports := rfl
@[simp] theorem modCore_dbg (s : State) (c : Nat) (f : Core → Core) : (s.modCore c f).dbg = s.dbg := rfl
@[simp] theorem modCore_sysTables (s : State) (c : Nat) (f : Core → Core) : (s.modCore c f).sysTables = s.sysTables := rfl
@[simp] theorem modCore_tlbiAll (s : State) (c : Nat) (f : Core → Core) : (s.modCore c f).tlbiAll = s.tlbiAll := rfl
@[simp] theorem modCore_tlbi (s : State) (c : Nat) (f : Core → Core) : (s.modCore c f).tlbi = s.tlbi := rfl
@[simp] theorem modCore_hostRead (s : State) (c : Nat) (f : Core → Core) : (s.modCore c f).hostRead = s.hostRead := rfl
@[simp] theorem setCtx_now (s : State) (c x : Nat) (t : Ctx) : (s.setCtx c x t).now = s.now := rfl
@[simp] theorem setCtx_dtoff (s : State) (c x : Nat) (t : Ctx) : (s.setCtx c x t).dtoff = s.dtoff := rfl
@[simp] theorem setCtx_focusCore (s : State) (c x : Nat) (t : Ctx) : (s.setCtx c x t).focusCore = s.focusCore := rfl
@[simp] theorem setCtx_focusCtx (s : State) (c x : Nat) (t : Ctx) : (s.setCtx c x t).focusCtx = s.focusCtx := rfl
@[simp] theorem setCtx_phc (s : State) (c x : Nat) (t : Ctx) : (s.setCtx c x t).phc = s.phc := rfl
@[simp] theorem setCtx_free (s : State) (c x : Nat) (t : Ctx) : (s.setCtx c x t).free = s.free := rfl
@[simp] theorem setCtx_inbox (s : State) (c x : Nat) (t : Ctx) : (s.setCtx c x t).inbox = s.inbox := rfl
@[simp] theorem setCtx_slice (s : State) (c x : Nat) (t : Ctx) : (s.setCtx c x t).slice = s.slice := rfl
@[simp] theorem setCtx_disp (s : State) (c x : Nat) (t : Ctx) : (s.setCtx c x t).disp = s.disp := rfl
@[simp] theorem setCtx_phys (s : State) (c x : Nat) (t : Ctx) : (s.setCtx c x t).phys = s.phys := rfl
@[simp] theorem setCtx_host (s : State) (c x : Nat) (t : Ctx) : (s.setCtx c x t).host = s.host := rfl
@[simp] theorem setCtx_peer (s : State) (c x : Nat) (t : Ctx) : (s.setCtx c x t).peer = s.peer := rfl
@[simp] theorem setCtx_nvme (s : State) (c x : Nat) (t : Ctx) : (s.setCtx c x t).nvme = s.nvme := rfl
@[simp] theorem setCtx_sau (s : State) (c x : Nat) (t : Ctx) : (s.setCtx c x t).sau = s.sau := rfl
@[simp] theorem setCtx_groups (s : State) (c x : Nat) (t : Ctx) : (s.setCtx c x t).groups = s.groups := rfl
@[simp] theorem setCtx_descSeq (s : State) (c x : Nat) (t : Ctx) : (s.setCtx c x t).descSeq = s.descSeq := rfl
@[simp] theorem setCtx_taken (s : State) (c x : Nat) (t : Ctx) : (s.setCtx c x t).taken = s.taken := rfl
@[simp] theorem setCtx_noise (s : State) (c x : Nat) (t : Ctx) : (s.setCtx c x t).noise = s.noise := rfl
@[simp] theorem setCtx_scrubs (s : State) (c x : Nat) (t : Ctx) : (s.setCtx c x t).scrubs = s.scrubs := rfl
@[simp] theorem setCtx_scrubFrom (s : State) (c x : Nat) (t : Ctx) : (s.setCtx c x t).scrubFrom = s.scrubFrom := rfl
@[simp] theorem setCtx_photonic (s : State) (c x : Nat) (t : Ctx) : (s.setCtx c x t).photonic = s.photonic := rfl
@[simp] theorem setCtx_wakeAt (s : State) (c x : Nat) (t : Ctx) : (s.setCtx c x t).wakeAt = s.wakeAt := rfl
@[simp] theorem setCtx_shadow (s : State) (c x : Nat) (t : Ctx) : (s.setCtx c x t).shadow = s.shadow := rfl
@[simp] theorem setCtx_raceLog (s : State) (c x : Nat) (t : Ctx) : (s.setCtx c x t).raceLog = s.raceLog := rfl
@[simp] theorem setCtx_raceDrop (s : State) (c x : Nat) (t : Ctx) : (s.setCtx c x t).raceDrop = s.raceDrop := rfl
@[simp] theorem setCtx_bar (s : State) (c x : Nat) (t : Ctx) : (s.setCtx c x t).bar = s.bar := rfl
@[simp] theorem setCtx_power (s : State) (c x : Nat) (t : Ctx) : (s.setCtx c x t).power = s.power := rfl
@[simp] theorem setCtx_sec (s : State) (c x : Nat) (t : Ctx) : (s.setCtx c x t).sec = s.sec := rfl
@[simp] theorem setCtx_ports (s : State) (c x : Nat) (t : Ctx) : (s.setCtx c x t).ports = s.ports := rfl
@[simp] theorem setCtx_dbg (s : State) (c x : Nat) (t : Ctx) : (s.setCtx c x t).dbg = s.dbg := rfl
@[simp] theorem setCtx_sysTables (s : State) (c x : Nat) (t : Ctx) : (s.setCtx c x t).sysTables = s.sysTables := rfl
@[simp] theorem setCtx_tlbiAll (s : State) (c x : Nat) (t : Ctx) : (s.setCtx c x t).tlbiAll = s.tlbiAll := rfl
@[simp] theorem setCtx_tlbi (s : State) (c x : Nat) (t : Ctx) : (s.setCtx c x t).tlbi = s.tlbi := rfl
@[simp] theorem setCtx_hostRead (s : State) (c x : Nat) (t : Ctx) : (s.setCtx c x t).hostRead = s.hostRead := rfl
@[simp] theorem modCtx_now (s : State) (c x : Nat) (f : Ctx → Ctx) : (s.modCtx c x f).now = s.now := rfl
@[simp] theorem modCtx_dtoff (s : State) (c x : Nat) (f : Ctx → Ctx) : (s.modCtx c x f).dtoff = s.dtoff := rfl
@[simp] theorem modCtx_focusCore (s : State) (c x : Nat) (f : Ctx → Ctx) : (s.modCtx c x f).focusCore = s.focusCore := rfl
@[simp] theorem modCtx_focusCtx (s : State) (c x : Nat) (f : Ctx → Ctx) : (s.modCtx c x f).focusCtx = s.focusCtx := rfl
@[simp] theorem modCtx_phc (s : State) (c x : Nat) (f : Ctx → Ctx) : (s.modCtx c x f).phc = s.phc := rfl
@[simp] theorem modCtx_free (s : State) (c x : Nat) (f : Ctx → Ctx) : (s.modCtx c x f).free = s.free := rfl
@[simp] theorem modCtx_inbox (s : State) (c x : Nat) (f : Ctx → Ctx) : (s.modCtx c x f).inbox = s.inbox := rfl
@[simp] theorem modCtx_slice (s : State) (c x : Nat) (f : Ctx → Ctx) : (s.modCtx c x f).slice = s.slice := rfl
@[simp] theorem modCtx_disp (s : State) (c x : Nat) (f : Ctx → Ctx) : (s.modCtx c x f).disp = s.disp := rfl
@[simp] theorem modCtx_phys (s : State) (c x : Nat) (f : Ctx → Ctx) : (s.modCtx c x f).phys = s.phys := rfl
@[simp] theorem modCtx_host (s : State) (c x : Nat) (f : Ctx → Ctx) : (s.modCtx c x f).host = s.host := rfl
@[simp] theorem modCtx_peer (s : State) (c x : Nat) (f : Ctx → Ctx) : (s.modCtx c x f).peer = s.peer := rfl
@[simp] theorem modCtx_nvme (s : State) (c x : Nat) (f : Ctx → Ctx) : (s.modCtx c x f).nvme = s.nvme := rfl
@[simp] theorem modCtx_sau (s : State) (c x : Nat) (f : Ctx → Ctx) : (s.modCtx c x f).sau = s.sau := rfl
@[simp] theorem modCtx_groups (s : State) (c x : Nat) (f : Ctx → Ctx) : (s.modCtx c x f).groups = s.groups := rfl
@[simp] theorem modCtx_descSeq (s : State) (c x : Nat) (f : Ctx → Ctx) : (s.modCtx c x f).descSeq = s.descSeq := rfl
@[simp] theorem modCtx_taken (s : State) (c x : Nat) (f : Ctx → Ctx) : (s.modCtx c x f).taken = s.taken := rfl
@[simp] theorem modCtx_noise (s : State) (c x : Nat) (f : Ctx → Ctx) : (s.modCtx c x f).noise = s.noise := rfl
@[simp] theorem modCtx_scrubs (s : State) (c x : Nat) (f : Ctx → Ctx) : (s.modCtx c x f).scrubs = s.scrubs := rfl
@[simp] theorem modCtx_scrubFrom (s : State) (c x : Nat) (f : Ctx → Ctx) : (s.modCtx c x f).scrubFrom = s.scrubFrom := rfl
@[simp] theorem modCtx_photonic (s : State) (c x : Nat) (f : Ctx → Ctx) : (s.modCtx c x f).photonic = s.photonic := rfl
@[simp] theorem modCtx_wakeAt (s : State) (c x : Nat) (f : Ctx → Ctx) : (s.modCtx c x f).wakeAt = s.wakeAt := rfl
@[simp] theorem modCtx_shadow (s : State) (c x : Nat) (f : Ctx → Ctx) : (s.modCtx c x f).shadow = s.shadow := rfl
@[simp] theorem modCtx_raceLog (s : State) (c x : Nat) (f : Ctx → Ctx) : (s.modCtx c x f).raceLog = s.raceLog := rfl
@[simp] theorem modCtx_raceDrop (s : State) (c x : Nat) (f : Ctx → Ctx) : (s.modCtx c x f).raceDrop = s.raceDrop := rfl
@[simp] theorem modCtx_bar (s : State) (c x : Nat) (f : Ctx → Ctx) : (s.modCtx c x f).bar = s.bar := rfl
@[simp] theorem modCtx_power (s : State) (c x : Nat) (f : Ctx → Ctx) : (s.modCtx c x f).power = s.power := rfl
@[simp] theorem modCtx_sec (s : State) (c x : Nat) (f : Ctx → Ctx) : (s.modCtx c x f).sec = s.sec := rfl
@[simp] theorem modCtx_ports (s : State) (c x : Nat) (f : Ctx → Ctx) : (s.modCtx c x f).ports = s.ports := rfl
@[simp] theorem modCtx_dbg (s : State) (c x : Nat) (f : Ctx → Ctx) : (s.modCtx c x f).dbg = s.dbg := rfl
@[simp] theorem modCtx_sysTables (s : State) (c x : Nat) (f : Ctx → Ctx) : (s.modCtx c x f).sysTables = s.sysTables := rfl
@[simp] theorem modCtx_tlbiAll (s : State) (c x : Nat) (f : Ctx → Ctx) : (s.modCtx c x f).tlbiAll = s.tlbiAll := rfl
@[simp] theorem modCtx_tlbi (s : State) (c x : Nat) (f : Ctx → Ctx) : (s.modCtx c x f).tlbi = s.tlbi := rfl
@[simp] theorem modCtx_hostRead (s : State) (c x : Nat) (f : Ctx → Ctx) : (s.modCtx c x f).hostRead = s.hostRead := rfl
@[simp] theorem setCur_now (s : State) (t : Ctx) : (s.setCur t).now = s.now := rfl
@[simp] theorem setCur_dtoff (s : State) (t : Ctx) : (s.setCur t).dtoff = s.dtoff := rfl
@[simp] theorem setCur_focusCore (s : State) (t : Ctx) : (s.setCur t).focusCore = s.focusCore := rfl
@[simp] theorem setCur_focusCtx (s : State) (t : Ctx) : (s.setCur t).focusCtx = s.focusCtx := rfl
@[simp] theorem setCur_phc (s : State) (t : Ctx) : (s.setCur t).phc = s.phc := rfl
@[simp] theorem setCur_free (s : State) (t : Ctx) : (s.setCur t).free = s.free := rfl
@[simp] theorem setCur_inbox (s : State) (t : Ctx) : (s.setCur t).inbox = s.inbox := rfl
@[simp] theorem setCur_slice (s : State) (t : Ctx) : (s.setCur t).slice = s.slice := rfl
@[simp] theorem setCur_disp (s : State) (t : Ctx) : (s.setCur t).disp = s.disp := rfl
@[simp] theorem setCur_phys (s : State) (t : Ctx) : (s.setCur t).phys = s.phys := rfl
@[simp] theorem setCur_host (s : State) (t : Ctx) : (s.setCur t).host = s.host := rfl
@[simp] theorem setCur_peer (s : State) (t : Ctx) : (s.setCur t).peer = s.peer := rfl
@[simp] theorem setCur_nvme (s : State) (t : Ctx) : (s.setCur t).nvme = s.nvme := rfl
@[simp] theorem setCur_sau (s : State) (t : Ctx) : (s.setCur t).sau = s.sau := rfl
@[simp] theorem setCur_groups (s : State) (t : Ctx) : (s.setCur t).groups = s.groups := rfl
@[simp] theorem setCur_descSeq (s : State) (t : Ctx) : (s.setCur t).descSeq = s.descSeq := rfl
@[simp] theorem setCur_taken (s : State) (t : Ctx) : (s.setCur t).taken = s.taken := rfl
@[simp] theorem setCur_noise (s : State) (t : Ctx) : (s.setCur t).noise = s.noise := rfl
@[simp] theorem setCur_scrubs (s : State) (t : Ctx) : (s.setCur t).scrubs = s.scrubs := rfl
@[simp] theorem setCur_scrubFrom (s : State) (t : Ctx) : (s.setCur t).scrubFrom = s.scrubFrom := rfl
@[simp] theorem setCur_photonic (s : State) (t : Ctx) : (s.setCur t).photonic = s.photonic := rfl
@[simp] theorem setCur_wakeAt (s : State) (t : Ctx) : (s.setCur t).wakeAt = s.wakeAt := rfl
@[simp] theorem setCur_shadow (s : State) (t : Ctx) : (s.setCur t).shadow = s.shadow := rfl
@[simp] theorem setCur_raceLog (s : State) (t : Ctx) : (s.setCur t).raceLog = s.raceLog := rfl
@[simp] theorem setCur_raceDrop (s : State) (t : Ctx) : (s.setCur t).raceDrop = s.raceDrop := rfl
@[simp] theorem setCur_bar (s : State) (t : Ctx) : (s.setCur t).bar = s.bar := rfl
@[simp] theorem setCur_power (s : State) (t : Ctx) : (s.setCur t).power = s.power := rfl
@[simp] theorem setCur_sec (s : State) (t : Ctx) : (s.setCur t).sec = s.sec := rfl
@[simp] theorem setCur_ports (s : State) (t : Ctx) : (s.setCur t).ports = s.ports := rfl
@[simp] theorem setCur_dbg (s : State) (t : Ctx) : (s.setCur t).dbg = s.dbg := rfl
@[simp] theorem setCur_sysTables (s : State) (t : Ctx) : (s.setCur t).sysTables = s.sysTables := rfl
@[simp] theorem setCur_tlbiAll (s : State) (t : Ctx) : (s.setCur t).tlbiAll = s.tlbiAll := rfl
@[simp] theorem setCur_tlbi (s : State) (t : Ctx) : (s.setCur t).tlbi = s.tlbi := rfl
@[simp] theorem setCur_hostRead (s : State) (t : Ctx) : (s.setCur t).hostRead = s.hostRead := rfl
@[simp] theorem modCur_now (s : State) (f : Ctx → Ctx) : (s.modCur f).now = s.now := rfl
@[simp] theorem modCur_dtoff (s : State) (f : Ctx → Ctx) : (s.modCur f).dtoff = s.dtoff := rfl
@[simp] theorem modCur_focusCore (s : State) (f : Ctx → Ctx) : (s.modCur f).focusCore = s.focusCore := rfl
@[simp] theorem modCur_focusCtx (s : State) (f : Ctx → Ctx) : (s.modCur f).focusCtx = s.focusCtx := rfl
@[simp] theorem modCur_phc (s : State) (f : Ctx → Ctx) : (s.modCur f).phc = s.phc := rfl
@[simp] theorem modCur_free (s : State) (f : Ctx → Ctx) : (s.modCur f).free = s.free := rfl
@[simp] theorem modCur_inbox (s : State) (f : Ctx → Ctx) : (s.modCur f).inbox = s.inbox := rfl
@[simp] theorem modCur_slice (s : State) (f : Ctx → Ctx) : (s.modCur f).slice = s.slice := rfl
@[simp] theorem modCur_disp (s : State) (f : Ctx → Ctx) : (s.modCur f).disp = s.disp := rfl
@[simp] theorem modCur_phys (s : State) (f : Ctx → Ctx) : (s.modCur f).phys = s.phys := rfl
@[simp] theorem modCur_host (s : State) (f : Ctx → Ctx) : (s.modCur f).host = s.host := rfl
@[simp] theorem modCur_peer (s : State) (f : Ctx → Ctx) : (s.modCur f).peer = s.peer := rfl
@[simp] theorem modCur_nvme (s : State) (f : Ctx → Ctx) : (s.modCur f).nvme = s.nvme := rfl
@[simp] theorem modCur_sau (s : State) (f : Ctx → Ctx) : (s.modCur f).sau = s.sau := rfl
@[simp] theorem modCur_groups (s : State) (f : Ctx → Ctx) : (s.modCur f).groups = s.groups := rfl
@[simp] theorem modCur_descSeq (s : State) (f : Ctx → Ctx) : (s.modCur f).descSeq = s.descSeq := rfl
@[simp] theorem modCur_taken (s : State) (f : Ctx → Ctx) : (s.modCur f).taken = s.taken := rfl
@[simp] theorem modCur_noise (s : State) (f : Ctx → Ctx) : (s.modCur f).noise = s.noise := rfl
@[simp] theorem modCur_scrubs (s : State) (f : Ctx → Ctx) : (s.modCur f).scrubs = s.scrubs := rfl
@[simp] theorem modCur_scrubFrom (s : State) (f : Ctx → Ctx) : (s.modCur f).scrubFrom = s.scrubFrom := rfl
@[simp] theorem modCur_photonic (s : State) (f : Ctx → Ctx) : (s.modCur f).photonic = s.photonic := rfl
@[simp] theorem modCur_wakeAt (s : State) (f : Ctx → Ctx) : (s.modCur f).wakeAt = s.wakeAt := rfl
@[simp] theorem modCur_shadow (s : State) (f : Ctx → Ctx) : (s.modCur f).shadow = s.shadow := rfl
@[simp] theorem modCur_raceLog (s : State) (f : Ctx → Ctx) : (s.modCur f).raceLog = s.raceLog := rfl
@[simp] theorem modCur_raceDrop (s : State) (f : Ctx → Ctx) : (s.modCur f).raceDrop = s.raceDrop := rfl
@[simp] theorem modCur_bar (s : State) (f : Ctx → Ctx) : (s.modCur f).bar = s.bar := rfl
@[simp] theorem modCur_power (s : State) (f : Ctx → Ctx) : (s.modCur f).power = s.power := rfl
@[simp] theorem modCur_sec (s : State) (f : Ctx → Ctx) : (s.modCur f).sec = s.sec := rfl
@[simp] theorem modCur_ports (s : State) (f : Ctx → Ctx) : (s.modCur f).ports = s.ports := rfl
@[simp] theorem modCur_dbg (s : State) (f : Ctx → Ctx) : (s.modCur f).dbg = s.dbg := rfl
@[simp] theorem modCur_sysTables (s : State) (f : Ctx → Ctx) : (s.modCur f).sysTables = s.sysTables := rfl
@[simp] theorem modCur_tlbiAll (s : State) (f : Ctx → Ctx) : (s.modCur f).tlbiAll = s.tlbiAll := rfl
@[simp] theorem modCur_tlbi (s : State) (f : Ctx → Ctx) : (s.modCur f).tlbi = s.tlbi := rfl
@[simp] theorem modCur_hostRead (s : State) (f : Ctx → Ctx) : (s.modCur f).hostRead = s.hostRead := rfl
@[simp] theorem setCurCore_now (s : State) (k : Core) : (s.setCurCore k).now = s.now := rfl
@[simp] theorem setCurCore_dtoff (s : State) (k : Core) : (s.setCurCore k).dtoff = s.dtoff := rfl
@[simp] theorem setCurCore_focusCore (s : State) (k : Core) : (s.setCurCore k).focusCore = s.focusCore := rfl
@[simp] theorem setCurCore_focusCtx (s : State) (k : Core) : (s.setCurCore k).focusCtx = s.focusCtx := rfl
@[simp] theorem setCurCore_phc (s : State) (k : Core) : (s.setCurCore k).phc = s.phc := rfl
@[simp] theorem setCurCore_free (s : State) (k : Core) : (s.setCurCore k).free = s.free := rfl
@[simp] theorem setCurCore_inbox (s : State) (k : Core) : (s.setCurCore k).inbox = s.inbox := rfl
@[simp] theorem setCurCore_slice (s : State) (k : Core) : (s.setCurCore k).slice = s.slice := rfl
@[simp] theorem setCurCore_disp (s : State) (k : Core) : (s.setCurCore k).disp = s.disp := rfl
@[simp] theorem setCurCore_phys (s : State) (k : Core) : (s.setCurCore k).phys = s.phys := rfl
@[simp] theorem setCurCore_host (s : State) (k : Core) : (s.setCurCore k).host = s.host := rfl
@[simp] theorem setCurCore_peer (s : State) (k : Core) : (s.setCurCore k).peer = s.peer := rfl
@[simp] theorem setCurCore_nvme (s : State) (k : Core) : (s.setCurCore k).nvme = s.nvme := rfl
@[simp] theorem setCurCore_sau (s : State) (k : Core) : (s.setCurCore k).sau = s.sau := rfl
@[simp] theorem setCurCore_groups (s : State) (k : Core) : (s.setCurCore k).groups = s.groups := rfl
@[simp] theorem setCurCore_descSeq (s : State) (k : Core) : (s.setCurCore k).descSeq = s.descSeq := rfl
@[simp] theorem setCurCore_taken (s : State) (k : Core) : (s.setCurCore k).taken = s.taken := rfl
@[simp] theorem setCurCore_noise (s : State) (k : Core) : (s.setCurCore k).noise = s.noise := rfl
@[simp] theorem setCurCore_scrubs (s : State) (k : Core) : (s.setCurCore k).scrubs = s.scrubs := rfl
@[simp] theorem setCurCore_scrubFrom (s : State) (k : Core) : (s.setCurCore k).scrubFrom = s.scrubFrom := rfl
@[simp] theorem setCurCore_photonic (s : State) (k : Core) : (s.setCurCore k).photonic = s.photonic := rfl
@[simp] theorem setCurCore_wakeAt (s : State) (k : Core) : (s.setCurCore k).wakeAt = s.wakeAt := rfl
@[simp] theorem setCurCore_shadow (s : State) (k : Core) : (s.setCurCore k).shadow = s.shadow := rfl
@[simp] theorem setCurCore_raceLog (s : State) (k : Core) : (s.setCurCore k).raceLog = s.raceLog := rfl
@[simp] theorem setCurCore_raceDrop (s : State) (k : Core) : (s.setCurCore k).raceDrop = s.raceDrop := rfl
@[simp] theorem setCurCore_bar (s : State) (k : Core) : (s.setCurCore k).bar = s.bar := rfl
@[simp] theorem setCurCore_power (s : State) (k : Core) : (s.setCurCore k).power = s.power := rfl
@[simp] theorem setCurCore_sec (s : State) (k : Core) : (s.setCurCore k).sec = s.sec := rfl
@[simp] theorem setCurCore_ports (s : State) (k : Core) : (s.setCurCore k).ports = s.ports := rfl
@[simp] theorem setCurCore_dbg (s : State) (k : Core) : (s.setCurCore k).dbg = s.dbg := rfl
@[simp] theorem setCurCore_sysTables (s : State) (k : Core) : (s.setCurCore k).sysTables = s.sysTables := rfl
@[simp] theorem setCurCore_tlbiAll (s : State) (k : Core) : (s.setCurCore k).tlbiAll = s.tlbiAll := rfl
@[simp] theorem setCurCore_tlbi (s : State) (k : Core) : (s.setCurCore k).tlbi = s.tlbi := rfl
@[simp] theorem setCurCore_hostRead (s : State) (k : Core) : (s.setCurCore k).hostRead = s.hostRead := rfl
@[simp] theorem modCurCore_now (s : State) (f : Core → Core) : (s.modCurCore f).now = s.now := rfl
@[simp] theorem modCurCore_dtoff (s : State) (f : Core → Core) : (s.modCurCore f).dtoff = s.dtoff := rfl
@[simp] theorem modCurCore_focusCore (s : State) (f : Core → Core) : (s.modCurCore f).focusCore = s.focusCore := rfl
@[simp] theorem modCurCore_focusCtx (s : State) (f : Core → Core) : (s.modCurCore f).focusCtx = s.focusCtx := rfl
@[simp] theorem modCurCore_phc (s : State) (f : Core → Core) : (s.modCurCore f).phc = s.phc := rfl
@[simp] theorem modCurCore_free (s : State) (f : Core → Core) : (s.modCurCore f).free = s.free := rfl
@[simp] theorem modCurCore_inbox (s : State) (f : Core → Core) : (s.modCurCore f).inbox = s.inbox := rfl
@[simp] theorem modCurCore_slice (s : State) (f : Core → Core) : (s.modCurCore f).slice = s.slice := rfl
@[simp] theorem modCurCore_disp (s : State) (f : Core → Core) : (s.modCurCore f).disp = s.disp := rfl
@[simp] theorem modCurCore_phys (s : State) (f : Core → Core) : (s.modCurCore f).phys = s.phys := rfl
@[simp] theorem modCurCore_host (s : State) (f : Core → Core) : (s.modCurCore f).host = s.host := rfl
@[simp] theorem modCurCore_peer (s : State) (f : Core → Core) : (s.modCurCore f).peer = s.peer := rfl
@[simp] theorem modCurCore_nvme (s : State) (f : Core → Core) : (s.modCurCore f).nvme = s.nvme := rfl
@[simp] theorem modCurCore_sau (s : State) (f : Core → Core) : (s.modCurCore f).sau = s.sau := rfl
@[simp] theorem modCurCore_groups (s : State) (f : Core → Core) : (s.modCurCore f).groups = s.groups := rfl
@[simp] theorem modCurCore_descSeq (s : State) (f : Core → Core) : (s.modCurCore f).descSeq = s.descSeq := rfl
@[simp] theorem modCurCore_taken (s : State) (f : Core → Core) : (s.modCurCore f).taken = s.taken := rfl
@[simp] theorem modCurCore_noise (s : State) (f : Core → Core) : (s.modCurCore f).noise = s.noise := rfl
@[simp] theorem modCurCore_scrubs (s : State) (f : Core → Core) : (s.modCurCore f).scrubs = s.scrubs := rfl
@[simp] theorem modCurCore_scrubFrom (s : State) (f : Core → Core) : (s.modCurCore f).scrubFrom = s.scrubFrom := rfl
@[simp] theorem modCurCore_photonic (s : State) (f : Core → Core) : (s.modCurCore f).photonic = s.photonic := rfl
@[simp] theorem modCurCore_wakeAt (s : State) (f : Core → Core) : (s.modCurCore f).wakeAt = s.wakeAt := rfl
@[simp] theorem modCurCore_shadow (s : State) (f : Core → Core) : (s.modCurCore f).shadow = s.shadow := rfl
@[simp] theorem modCurCore_raceLog (s : State) (f : Core → Core) : (s.modCurCore f).raceLog = s.raceLog := rfl
@[simp] theorem modCurCore_raceDrop (s : State) (f : Core → Core) : (s.modCurCore f).raceDrop = s.raceDrop := rfl
@[simp] theorem modCurCore_bar (s : State) (f : Core → Core) : (s.modCurCore f).bar = s.bar := rfl
@[simp] theorem modCurCore_power (s : State) (f : Core → Core) : (s.modCurCore f).power = s.power := rfl
@[simp] theorem modCurCore_sec (s : State) (f : Core → Core) : (s.modCurCore f).sec = s.sec := rfl
@[simp] theorem modCurCore_ports (s : State) (f : Core → Core) : (s.modCurCore f).ports = s.ports := rfl
@[simp] theorem modCurCore_dbg (s : State) (f : Core → Core) : (s.modCurCore f).dbg = s.dbg := rfl
@[simp] theorem modCurCore_sysTables (s : State) (f : Core → Core) : (s.modCurCore f).sysTables = s.sysTables := rfl
@[simp] theorem modCurCore_tlbiAll (s : State) (f : Core → Core) : (s.modCurCore f).tlbiAll = s.tlbiAll := rfl
@[simp] theorem modCurCore_tlbi (s : State) (f : Core → Core) : (s.modCurCore f).tlbi = s.tlbi := rfl
@[simp] theorem modCurCore_hostRead (s : State) (f : Core → Core) : (s.modCurCore f).hostRead = s.hostRead := rfl
@[simp] theorem result_now (s : State) (d : Reg) (v : Word) (n : Nat) (fl : BitVec 7) (b : Bool) : (s.result d v n fl b).now = s.now := rfl
@[simp] theorem result_dtoff (s : State) (d : Reg) (v : Word) (n : Nat) (fl : BitVec 7) (b : Bool) : (s.result d v n fl b).dtoff = s.dtoff := rfl
@[simp] theorem result_focusCore (s : State) (d : Reg) (v : Word) (n : Nat) (fl : BitVec 7) (b : Bool) : (s.result d v n fl b).focusCore = s.focusCore := rfl
@[simp] theorem result_focusCtx (s : State) (d : Reg) (v : Word) (n : Nat) (fl : BitVec 7) (b : Bool) : (s.result d v n fl b).focusCtx = s.focusCtx := rfl
@[simp] theorem result_phc (s : State) (d : Reg) (v : Word) (n : Nat) (fl : BitVec 7) (b : Bool) : (s.result d v n fl b).phc = s.phc := rfl
@[simp] theorem result_free (s : State) (d : Reg) (v : Word) (n : Nat) (fl : BitVec 7) (b : Bool) : (s.result d v n fl b).free = s.free := rfl
@[simp] theorem result_inbox (s : State) (d : Reg) (v : Word) (n : Nat) (fl : BitVec 7) (b : Bool) : (s.result d v n fl b).inbox = s.inbox := rfl
@[simp] theorem result_slice (s : State) (d : Reg) (v : Word) (n : Nat) (fl : BitVec 7) (b : Bool) : (s.result d v n fl b).slice = s.slice := rfl
@[simp] theorem result_disp (s : State) (d : Reg) (v : Word) (n : Nat) (fl : BitVec 7) (b : Bool) : (s.result d v n fl b).disp = s.disp := rfl
@[simp] theorem result_phys (s : State) (d : Reg) (v : Word) (n : Nat) (fl : BitVec 7) (b : Bool) : (s.result d v n fl b).phys = s.phys := rfl
@[simp] theorem result_host (s : State) (d : Reg) (v : Word) (n : Nat) (fl : BitVec 7) (b : Bool) : (s.result d v n fl b).host = s.host := rfl
@[simp] theorem result_peer (s : State) (d : Reg) (v : Word) (n : Nat) (fl : BitVec 7) (b : Bool) : (s.result d v n fl b).peer = s.peer := rfl
@[simp] theorem result_nvme (s : State) (d : Reg) (v : Word) (n : Nat) (fl : BitVec 7) (b : Bool) : (s.result d v n fl b).nvme = s.nvme := rfl
@[simp] theorem result_sau (s : State) (d : Reg) (v : Word) (n : Nat) (fl : BitVec 7) (b : Bool) : (s.result d v n fl b).sau = s.sau := rfl
@[simp] theorem result_groups (s : State) (d : Reg) (v : Word) (n : Nat) (fl : BitVec 7) (b : Bool) : (s.result d v n fl b).groups = s.groups := rfl
@[simp] theorem result_descSeq (s : State) (d : Reg) (v : Word) (n : Nat) (fl : BitVec 7) (b : Bool) : (s.result d v n fl b).descSeq = s.descSeq := rfl
@[simp] theorem result_taken (s : State) (d : Reg) (v : Word) (n : Nat) (fl : BitVec 7) (b : Bool) : (s.result d v n fl b).taken = s.taken := rfl
@[simp] theorem result_noise (s : State) (d : Reg) (v : Word) (n : Nat) (fl : BitVec 7) (b : Bool) : (s.result d v n fl b).noise = s.noise := rfl
@[simp] theorem result_scrubs (s : State) (d : Reg) (v : Word) (n : Nat) (fl : BitVec 7) (b : Bool) : (s.result d v n fl b).scrubs = s.scrubs := rfl
@[simp] theorem result_scrubFrom (s : State) (d : Reg) (v : Word) (n : Nat) (fl : BitVec 7) (b : Bool) : (s.result d v n fl b).scrubFrom = s.scrubFrom := rfl
@[simp] theorem result_photonic (s : State) (d : Reg) (v : Word) (n : Nat) (fl : BitVec 7) (b : Bool) : (s.result d v n fl b).photonic = s.photonic := rfl
@[simp] theorem result_wakeAt (s : State) (d : Reg) (v : Word) (n : Nat) (fl : BitVec 7) (b : Bool) : (s.result d v n fl b).wakeAt = s.wakeAt := rfl
@[simp] theorem result_shadow (s : State) (d : Reg) (v : Word) (n : Nat) (fl : BitVec 7) (b : Bool) : (s.result d v n fl b).shadow = s.shadow := rfl
@[simp] theorem result_raceLog (s : State) (d : Reg) (v : Word) (n : Nat) (fl : BitVec 7) (b : Bool) : (s.result d v n fl b).raceLog = s.raceLog := rfl
@[simp] theorem result_raceDrop (s : State) (d : Reg) (v : Word) (n : Nat) (fl : BitVec 7) (b : Bool) : (s.result d v n fl b).raceDrop = s.raceDrop := rfl
@[simp] theorem result_bar (s : State) (d : Reg) (v : Word) (n : Nat) (fl : BitVec 7) (b : Bool) : (s.result d v n fl b).bar = s.bar := rfl
@[simp] theorem result_power (s : State) (d : Reg) (v : Word) (n : Nat) (fl : BitVec 7) (b : Bool) : (s.result d v n fl b).power = s.power := rfl
@[simp] theorem result_sec (s : State) (d : Reg) (v : Word) (n : Nat) (fl : BitVec 7) (b : Bool) : (s.result d v n fl b).sec = s.sec := rfl
@[simp] theorem result_ports (s : State) (d : Reg) (v : Word) (n : Nat) (fl : BitVec 7) (b : Bool) : (s.result d v n fl b).ports = s.ports := rfl
@[simp] theorem result_dbg (s : State) (d : Reg) (v : Word) (n : Nat) (fl : BitVec 7) (b : Bool) : (s.result d v n fl b).dbg = s.dbg := rfl
@[simp] theorem result_sysTables (s : State) (d : Reg) (v : Word) (n : Nat) (fl : BitVec 7) (b : Bool) : (s.result d v n fl b).sysTables = s.sysTables := rfl
@[simp] theorem result_tlbiAll (s : State) (d : Reg) (v : Word) (n : Nat) (fl : BitVec 7) (b : Bool) : (s.result d v n fl b).tlbiAll = s.tlbiAll := rfl
@[simp] theorem result_tlbi (s : State) (d : Reg) (v : Word) (n : Nat) (fl : BitVec 7) (b : Bool) : (s.result d v n fl b).tlbi = s.tlbi := rfl
@[simp] theorem result_hostRead (s : State) (d : Reg) (v : Word) (n : Nat) (fl : BitVec 7) (b : Bool) : (s.result d v n fl b).hostRead = s.hostRead := rfl

/-! ## Cores and contexts -/

@[simp] theorem core_setCore_self (s : State) (c : Nat) (k : Core) : (s.setCore c k).core c = k := get_put_self _ _ _ _

theorem core_setCore_ne (s : State) {c d : Nat} (k : Core) (h : d ≠ c) : (s.setCore c k).core d = s.core d :=
  get_put_ne _ _ _ h

@[simp] theorem core_modCore_self (s : State) (c : Nat) (f : Core → Core) : (s.modCore c f).core c = f (s.core c) :=
  core_setCore_self _ _ _

theorem core_modCore_ne (s : State) {c d : Nat} (f : Core → Core) (h : d ≠ c) : (s.modCore c f).core d = s.core d :=
  core_setCore_ne _ _ h

@[simp] theorem setCore_setCore (s : State) (c : Nat) (k l : Core) : (s.setCore c k).setCore c l = s.setCore c l := by
  simp [State.setCore]

@[simp] theorem ctx_setCtx_core (k : Core) (x : Nat) (t : Ctx) : (k.setCtx x t).ctx x = t := get_put_self _ _ _ _

theorem ctx_setCtx_core_ne (k : Core) {x y : Nat} (t : Ctx) (h : y ≠ x) : (k.setCtx x t).ctx y = k.ctx y := get_put_ne _ _ _ h

@[simp] theorem setCtx_setCtx_core (k : Core) (x : Nat) (t u : Ctx) : (k.setCtx x t).setCtx x u = k.setCtx x u := by
  simp [Core.setCtx]

@[simp] theorem ctx_setCtx_self (s : State) (c x : Nat) (t : Ctx) : (s.setCtx c x t).ctx c x = t := by
  simp [State.ctx, State.setCtx]

theorem ctx_setCtx_ne (s : State) {c x d y : Nat} (t : Ctx) (h : d ≠ c ∨ y ≠ x) : (s.setCtx c x t).ctx d y = s.ctx d y := by
  by_cases e : d = c
  · subst e
    have g : y ≠ x := by simpa using h
    simp [State.ctx, State.setCtx, ctx_setCtx_core_ne _ _ g]
  · simp [State.ctx, State.setCtx, core_setCore_ne _ _ e]

@[simp] theorem setCtx_setCtx (s : State) (c x : Nat) (t u : Ctx) : (s.setCtx c x t).setCtx c x u = s.setCtx c x u := by
  simp [State.setCtx]

@[simp] theorem cur_setCur (s : State) (t : Ctx) : (s.setCur t).cur = t := by simp [State.cur, State.setCur]

@[simp] theorem setCur_setCur (s : State) (t u : Ctx) : (s.setCur t).setCur u = s.setCur u := by simp [State.setCur]

@[simp] theorem cur_modCur (s : State) (f : Ctx → Ctx) : (s.modCur f).cur = f s.cur := by simp [State.modCur]

theorem modCur_setCur (s : State) (t : Ctx) (f : Ctx → Ctx) : (s.setCur t).modCur f = s.setCur (f t) := by simp [State.modCur]

@[simp] theorem curCore_setCurCore (s : State) (k : Core) : (s.setCurCore k).curCore = k := by simp [State.curCore, State.setCurCore]

@[simp] theorem curCore_modCurCore (s : State) (f : Core → Core) : (s.modCurCore f).curCore = f s.curCore := by
  simp [State.modCurCore]

/-- The core in focus after an update of the context in focus. -/
theorem curCore_setCur (s : State) (t : Ctx) : (s.setCur t).curCore = s.curCore.setCtx s.focusCtx t := by
  simp [State.curCore, State.setCur, State.setCtx]

/-- Registers after an update of the context in focus. -/
@[simp] theorem reg_setCur (s : State) (t : Ctx) (n : Reg) : (s.setCur t).reg n = t.reg n := by simp [State.reg]

/-! ## Registers (R55) -/

@[simp] theorem reg_zero (c : Ctx) : c.reg 0 = 0 := by simp [Ctx.reg]

@[simp] theorem setReg_zero (c : Ctx) (v : Word) : c.setReg 0 v = c := by simp [Ctx.setReg]

/-- Distinct register numbers stand in distinct places. -/
theorem physReg_inj (wb : Nat) {m n : Reg} (h : physReg wb m.toNat = physReg wb n.toNat) : m = n := by
  have hm := m.isLt
  have hn := n.isLt
  apply BitVec.eq_of_toNat_eq
  simp only [physReg] at h
  split at h <;> split at h <;> omega

theorem reg_setReg_self (c : Ctx) {n : Reg} (h : n ≠ 0) (v : Word) : (c.setReg n v).reg n = v := by
  simp only [Ctx.setReg, Ctx.reg, Ctx.setPhys, if_neg h, get_set_self]

theorem reg_setReg_ne (c : Ctx) {m n : Reg} (h : m ≠ n) (v : Word) : (c.setReg n v).reg m = c.reg m := by
  unfold Ctx.setReg
  split
  · rfl
  · simp only [Ctx.reg, Ctx.setPhys]
    split
    · rfl
    · exact get_set_ne _ _ _ fun e => h (physReg_inj _ e)

end Sys2Proof.Laws
end

