-- ==== Sys2Proof/Laws/Banks.lean ====
section
/-! SUPPORT. What the reservation of bank cycles can do. -/

namespace Sys2Proof.Laws

open Sys2Proof Sys2Proof.Machine

/-- A reservation changes the core alone. -/
theorem claim_changes {s t : State} {c : Nat} {us : List BankUse} (h : s.claim c us = .ok t) :
    t = s ∨ ∃ k, t = s.setCore c k := by
  unfold State.claim at h
  split at h
  · left; cases h; rfl
  · right; cases h; exact ⟨_, rfl⟩

/-- Where no access holds a bank after this cycle, a reservation is granted as it stands. -/
theorem claim_quiet {s : State} {c : Nat} {us : List BankUse} (h : (s.core c).quiet s.now = true) :
    s.claim c us = .ok (if us.isEmpty then s else s.setCore c { s.core c with banks := us }) := by
  have e : (s.core c).held s.now = [] := by
    simp only [Core.held, Core.quiet, List.all_eq_true, decide_eq_true_eq, List.filter_eq_nil_iff] at *
    intro u hu; have := h u hu; omega
  unfold State.claim
  simp only [e, List.nil_append]
  split <;> rfl

end Sys2Proof.Laws
end

