-- ==== Sys2Proof/Laws/Encoding.lean ====
section
/-! SUPPORT. The fields of a packed word: what the decoder takes apart is what the encoder put together (R35). -/

namespace Sys2Proof.Laws

open Sys2Proof

theorem packR_fields (op : BitVec 7) (d a b : Reg) (f : BitVec 4) :
    let w : IWord := op ++ (d ++ (a ++ (b ++ f)))
    IWord.op w = op ∧ IWord.d w = d ∧ IWord.a w = a ∧ IWord.b w = b ∧ IWord.f w = f := by
  refine ⟨?_, ?_, ?_, ?_, ?_⟩ <;>
  · simp only [IWord.op, IWord.d, IWord.a, IWord.b, IWord.f]
    apply BitVec.eq_of_getLsbD_eq
    intro i hi
    simp only [BitVec.getLsbD_extractLsb', BitVec.getLsbD_append, hi, decide_true, Bool.true_and]
    repeat' split
    all_goals first | (exfalso; omega) | (congr 1; omega)

/-- Decoding a packed word looks at the fields that were packed. -/
theorem decode_pack (op : BitVec 7) (d a b : Reg) (f : BitVec 4) :
    decode (op ++ (d ++ (a ++ (b ++ f)))) = decodeFields op.toNat d a b f := by
  obtain ⟨h1, h2, h3, h4, h5⟩ := packR_fields op d a b f
  simp only [decode, h1, h2, h3, h4, h5]

theorem split11 (i : BitVec 11) : i.extractLsb' 4 7 ++ i.extractLsb' 0 4 = i := by
  apply BitVec.eq_of_getLsbD_eq
  intro k hk
  simp only [BitVec.getLsbD_append, BitVec.getLsbD_extractLsb']
  by_cases h : k < 4
  · simp [h]
  · have e : 4 + (k - 4) = k := by omega
    have l : k - 4 < 7 := by omega
    simp [h, e, l]

theorem split18 (i : BitVec 18) : i.extractLsb' 11 7 ++ (i.extractLsb' 4 7 ++ i.extractLsb' 0 4) = i := by
  apply BitVec.eq_of_getLsbD_eq
  intro k hk
  simp only [BitVec.getLsbD_append, BitVec.getLsbD_extractLsb']
  by_cases h : k < 4
  · have g : k < 11 := by omega
    simp [h, g]
  · have e : 4 + (k - 4) = k := by omega
    by_cases g : k < 11
    · have l : k - 4 < 7 := by omega
      simp [h, g, e, l]
    · have e : 11 + (k - 11) = k := by omega
      have l : k - 11 < 7 := by omega
      simp [g, e, l]

theorem decode_packI (op : BitVec 7) (d a : Reg) (i : BitVec 11) :
    decode (op ++ (d ++ (a ++ i))) = decodeFields op.toNat d a (i.extractLsb' 4 7) (i.extractLsb' 0 4) := by
  rw [← decode_pack, split11]

theorem decode_packL (op : BitVec 7) (d : Reg) (i : BitVec 18) :
    decode (op ++ (d ++ i)) = decodeFields op.toNat d (i.extractLsb' 11 7) (i.extractLsb' 4 7) (i.extractLsb' 0 4) := by
  rw [← decode_pack, split18]

/-- The two parts of a packed D field. -/
theorem parts (m n : Nat) (x : BitVec m) (y : BitVec n) : (x ++ y).extractLsb' n m = x ∧ (x ++ y).extractLsb' 0 n = y := by
  constructor
  · apply BitVec.eq_of_getLsbD_eq
    intro k hk
    have e : ¬ n + k < n := by omega
    simp only [BitVec.getLsbD_extractLsb', BitVec.getLsbD_append, hk, e, decide_true, Bool.true_and]
    simp
  · apply BitVec.eq_of_getLsbD_eq
    intro k hk
    simp only [BitVec.getLsbD_extractLsb', BitVec.getLsbD_append, hk, decide_true, Bool.true_and]
    simp [hk]

/-- The vector word that the decoder forms of the packed fields. -/
theorem vword_fields (w : VWord) :
    (⟨w.d, w.a, w.b, (BitVec.ofBool w.e ++ w.fc).getLsbD 3, (BitVec.ofBool w.e ++ w.fc).extractLsb' 0 3⟩ : VWord) = w := by
  have h : (BitVec.ofBool w.e ++ w.fc).extractLsb' 0 3 = w.fc := by
    apply BitVec.eq_of_getLsbD_eq
    intro k hk
    simp only [BitVec.getLsbD_extractLsb', BitVec.getLsbD_append, hk, decide_true, Bool.true_and]
    simp
    omega
  have g : (BitVec.ofBool w.e ++ w.fc).getLsbD 3 = w.e := by
    simp only [BitVec.getLsbD_append]
    simp
  rw [h, g]

/-- A vector word whose form is listed decodes to the instruction of its opcode. -/
theorem decode_packV (op : BitVec 7) (w : VWord) (i : Instr) (hop : 0x40 ≤ op.toNat) (hv : vecOf op.toNat w = some i)
    (hc : vecCheckForm op.toNat w = .ok ()) :
    decode (op ++ (w.d ++ (w.a ++ (w.b ++ (BitVec.ofBool w.e ++ w.fc))))) = .ok i := by
  rw [decode_pack]
  have h : decodeFields op.toNat w.d w.a w.b (BitVec.ofBool w.e ++ w.fc) = decodeVec op.toNat w.d w.a w.b (BitVec.ofBool w.e ++ w.fc) := by
    unfold decodeFields
    split <;> first | omega | rfl
  rw [h]
  simp only [decodeVec, vword_fields, hv, hc]

/-- The form check of a well-formed vector instruction. -/
theorem form_ok {i : Instr} {op : Nat} {w : VWord} (hi : i.vec = some (op, w)) (h : WellFormed i = true) :
    vecCheckForm op w = .ok () := by
  simp only [WellFormed, hi] at h
  split at h
  · assumption
  · cases h

end Sys2Proof.Laws
end

