-- ==== Sys2Proof/Laws/Issue.lean ====
section
/-! SUPPORT. What taking up a word and retiring it can do, said once: `front` moves the front-end fields of the context
in focus and nothing else, `retire` closes the convoy, and `issue` puts an effect between the two. -/

namespace Sys2Proof.Laws

open Sys2Proof Sys2Proof.Machine Sys2Proof.Safety

/-! ## Only the context in focus -/

theorem onlyFocus_setCur (s : State) (c : Ctx) : OnlyFocus s (s.setCur c) := ⟨c, s.curCore.vcyc, rfl⟩

theorem onlyFocus_focusCore {s t : State} (h : OnlyFocus s t) : t.focusCore = s.focusCore := by
  obtain ⟨c, vc, rfl⟩ := h; rfl

theorem onlyFocus_focusCtx {s t : State} (h : OnlyFocus s t) : t.focusCtx = s.focusCtx := by
  obtain ⟨c, vc, rfl⟩ := h; rfl

theorem onlyFocus_now {s t : State} (h : OnlyFocus s t) : t.now = s.now := by
  obtain ⟨c, vc, rfl⟩ := h; rfl

theorem onlyFocus_set {s t : State} (h : OnlyFocus s t) (c : Ctx) : OnlyFocus s (t.setCur c) := by
  obtain ⟨d, vc, rfl⟩ := h
  refine ⟨c, vc, ?_⟩
  simp [State.setCur, State.setCtx, Core.setCtx]

theorem onlyFocus_mod {s t : State} (h : OnlyFocus s t) (f : Ctx → Ctx) : OnlyFocus s (t.modCur f) := onlyFocus_set h _

theorem onlyFocus_fixVcyc {s t : State} (h : OnlyFocus s t) : OnlyFocus s (t.fixVcyc s.focusCore) := by
  obtain ⟨d, vc, rfl⟩ := h
  refine ⟨d, ?_, ?_⟩
  rotate_left
  · simp only [State.fixVcyc, State.modCore, core_setCore_self, setCore_setCore]
    rfl

theorem onlyFocus_result {s t : State} (h : OnlyFocus s t) (d : Reg) (v : Word) (n : Nat) (fl : BitVec 7) (b : Bool) :
    OnlyFocus s (t.result d v n fl b) := onlyFocus_set h _

/-- A place reads as before when only the context in focus differs. -/
theorem onlyFocus_spaceAt {s t : State} (h : OnlyFocus s t) (p : Place) : t.spaceAt p = s.spaceAt p := by
  obtain ⟨c, vc, rfl⟩ := h
  cases p with
  | loc d =>
    by_cases e : d = s.focusCore
    · subst e; simp [State.spaceAt, State.curCore]
    · simp [State.spaceAt, core_setCore_ne _ _ e]
  | phys => rfl
  | host => rfl
  | peer => rfl

theorem onlyFocus_sameMemory {s t : State} (h : OnlyFocus s t) : SameMemory s t := fun p a => by rw [onlyFocus_spaceAt h]

theorem onlyFocus_other {s t : State} (h : OnlyFocus s t) {c x : Nat} (n : c ≠ s.focusCore ∨ x ≠ s.focusCtx) : t.ctx c x = s.ctx c x := by
  obtain ⟨d, vc, rfl⟩ := h
  by_cases e : c = s.focusCore
  · subst e
    have g : x ≠ s.focusCtx := by simpa using n
    simp [State.ctx, Core.ctx, State.curCore, get_put_ne _ _ _ g]
  · simp [State.ctx, core_setCore_ne _ _ e]

/-! ## Taking up a word -/

/-- What taking up a word leaves of the context in focus. -/
structure Fronted (s : State) (v : Cv) (s1 : State) : Prop where
  only : OnlyFocus s s1
  rest : rest s1.cur = rest s.cur
  regs : s1.cur.regs = s.cur.regs
  land : s1.cur.land = s.cur.land
  loops : s1.cur.loops = s.cur.loops
  pc : s1.cur.pc = s.cur.pc + 32
  issueAt : s1.cur.issueAt = s.now + 1
  cv : s1.cur.cv = some v

theorem fronted_advance (s : State) (v : Cv) : Fronted s v (s.setCur (s.cur.advance s.now s.cur.pc v)) where
  only := onlyFocus_setCur _ _
  rest := by simp [Safety.rest, Ctx.advance]
  regs := by simp [Ctx.advance]
  land := by simp [Ctx.advance]
  loops := by simp [Ctx.advance]
  pc := by simp [Ctx.advance]
  issueAt := by simp [Ctx.advance]
  cv := by simp [Ctx.advance]

theorem cur_fixVcyc (s : State) (c : Nat) : (s.fixVcyc c).cur = s.cur := by
  simp only [State.cur, State.ctx, State.fixVcyc]
  by_cases e : s.focusCore = c
  · simp only [modCore_focusCore, modCore_focusCtx, e, core_modCore_self]; rfl
  · simp only [modCore_focusCore, modCore_focusCtx, core_modCore_ne _ _ e]

theorem Fronted.fixVcyc {s s1 : State} {v : Cv} (h : Fronted s v s1) : Fronted s v (s1.fixVcyc s.focusCore) where
  only := onlyFocus_fixVcyc h.only
  rest := by rw [cur_fixVcyc, h.rest]
  regs := by rw [cur_fixVcyc, h.regs]
  land := by rw [cur_fixVcyc, h.land]
  loops := by rw [cur_fixVcyc, h.loops]
  pc := by rw [cur_fixVcyc, h.pc]
  issueAt := by rw [cur_fixVcyc, h.issueAt]
  cv := by rw [cur_fixVcyc, h.cv]

theorem Fronted.holdBreak {s s1 : State} {v : Cv} (h : Fronted s v s1) (a : Nat) (m : BitVec 4) : Fronted s v (s1.holdBreak a m) where
  only := onlyFocus_mod h.only _
  rest := by simpa [State.holdBreak, Safety.rest] using h.rest
  regs := by simpa [State.holdBreak] using h.regs
  land := by simpa [State.holdBreak] using h.land
  loops := by simpa [State.holdBreak] using h.loops
  pc := by simpa [State.holdBreak] using h.pc
  issueAt := by simpa [State.holdBreak] using h.issueAt
  cv := by simpa [State.holdBreak] using h.cv

/-- What `front` can answer when a word is taken up. -/
theorem front_ok {s s1 : State} {i : Instr} {v : Cv} (h : s.front i = .ok (v, s1)) : Fronted s v s1 := by
  have base : ∀ w : Cv, Fronted s w (if s.cur.qstall then (s.setCur (s.cur.advance s.now s.cur.pc w)).fixVcyc s.focusCore
      else s.setCur (s.cur.advance s.now s.cur.pc w)) := by
    intro w
    split
    · exact (fronted_advance s w).fixVcyc
    · exact fronted_advance s w
  unfold State.front at h
  dsimp only at h
  split at h
  · split at h
    · cases h; exact base _
    · split at h
      · cases h
      · split at h
        · cases h
        · split at h
          · cases h
          · cases h; exact base _
  · split at h
    · cases h
    · generalize (if s.cur.bkPass = true then 0 else s.matches s.cur.pc) = m at h
      split at h
      · cases h
      · split at h
        · cases h
        · split at h
          · cases h
          · split at h
            · cases h
            · simp only [Except.ok.injEq, Prod.mk.injEq] at h
              obtain ⟨rfl, rfl⟩ := h
              split
              · exact (base _).holdBreak _ _
              · exact base _

/-! ## Retirement -/

/-- What `retire` does, in terms of where control goes. -/
theorem retire_eq (s s2 : State) (v : Cv) :
    s2.retire v s.cur.pc =
      if v.idx + 1 < v.n then .ok (s2.setCur { s2.cur with cv := some { (s2.cur.cv.getD v) with idx := v.idx + 1 } })
      else
        let r := following s v s2.cur.loops s2.cur.pc
        if fetchable r.2 || s2.cur.exiting then .ok (s2.setCur { s2.cur with cv := none, loops := r.1, pc := r.2 })
        else .error r.2 := by
  unfold State.retire following
  split <;> simp_all

/-- Only the convoy, the loop stack and the pc of the context in focus move at retirement. -/
theorem retire_ok {s s2 t : State} {v : Cv} (h : s2.retire v s.cur.pc = .ok t) :
    ∃ cv, t = s2.setCur { s2.cur with cv := cv, loops := (following s v s2.cur.loops s2.cur.pc).1
                                      pc := (following s v s2.cur.loops s2.cur.pc).2 } := by
  rw [retire_eq] at h
  split at h
  · rename_i g
    cases h
    exact ⟨_, by simp [following, g]; rfl⟩
  · dsimp only at h
    split at h
    · cases h; exact ⟨none, rfl⟩
    · cases h

theorem retire_goes {s s2 : State} {v : Cv} (h : Goes s v s2.cur.loops s2.cur.pc) : ∃ t, s2.retire v s.cur.pc = .ok t := by
  rw [retire_eq]
  rcases h with h | h
  · simp [h]
  · split
    · exact ⟨_, rfl⟩
    · simp [h]

/-! ## Issue -/

/-- A word that is taken up, whose effect passes its own checks and whose convoy goes on, completes. -/
theorem issue_ok {i : Instr} {s s1 s2 t : State} {v : Cv} {body : Nat → Body} (h : Taken i s v s1)
    (hb : body s.cur.pc s1 = .ok s2) (hr : s2.retire v s.cur.pc = .ok t) : issue i s body = .next t := by
  obtain ⟨hf, hq, hv⟩ := h
  simp [issue, hf, hq, hv, hb, hr]

/-- A context that fetches always gets a next state: a stop is one too. -/
theorem issue_next {i : Instr} {s : State} {body : Nat → Body} (h : s.fetching = true) : ∃ t, issue i s body = .next t := by
  unfold issue
  simp only [h, Bool.not_true, Bool.false_eq_true, if_false]
  split
  · exact ⟨_, rfl⟩
  · split
    · exact ⟨_, rfl⟩
    · split <;> exact ⟨_, rfl⟩

theorem issue_stopped {i : Instr} {s : State} {body : Nat → Body} (h : s.fetching = false) : issue i s body = .fault .noContext := by
  simp [issue, h]

end Sys2Proof.Laws
end

