-- ==== Sys2Proof/Laws/Memory.lean ====
section
/-! SUPPORT. Laws of the memories: a read after a write, the bytes a write leaves alone, and the canonical form, which
every memory operation keeps (log 3). -/

namespace Sys2Proof.Laws

open Sys2Proof Sys2Proof.Machine

/-! ## Bytes -/

@[simp] theorem byte_put_self (m : Memory) (a : Nat) (x : Byte) : (m.put a x).byte a = x := by
  induction m with
  | nil => simp [Memory.put, Memory.byte]
  | cons p r ih =>
    obtain ⟨k, v⟩ := p
    simp only [Memory.put]
    split
    · simp [Memory.byte]
    · split
      · simp [Memory.byte]
      · rename_i h; simp [Memory.byte, h, ih]

theorem byte_put_ne (m : Memory) {a b : Nat} (x : Byte) (h : b ≠ a) : (m.put a x).byte b = m.byte b := by
  induction m with
  | nil => simp [Memory.put, Memory.byte, Ne.symm h]
  | cons p r ih =>
    obtain ⟨k, v⟩ := p
    simp only [Memory.put]
    split
    · simp [Memory.byte, Ne.symm h]
    · split
      · rename_i e; subst e; simp [Memory.byte, Ne.symm h]
      · simp only [Memory.byte, ih]

@[simp] theorem byte_del_self (m : Memory) (a : Nat) : (m.del a).byte a = 0 := by
  induction m with
  | nil => rfl
  | cons p r ih =>
    obtain ⟨k, v⟩ := p
    simp only [Memory.del, List.filter] at *
    split
    · rename_i h; simp at h; simp [Memory.byte, h, ih]
    · exact ih

theorem byte_del_ne (m : Memory) {a b : Nat} (h : b ≠ a) : (m.del a).byte b = m.byte b := by
  induction m with
  | nil => rfl
  | cons p r ih =>
    obtain ⟨k, v⟩ := p
    simp only [Memory.del, List.filter] at *
    split
    · simp only [Memory.byte, ih]
    · rename_i e; simp at e; subst e; simp [Memory.byte, Ne.symm h, ih]

@[simp] theorem byte_setByte_self (m : Memory) (a : Nat) (x : Byte) : (m.setByte a x).byte a = x := by
  unfold Memory.setByte
  split
  · rename_i h; simp [h]
  · simp

theorem byte_setByte_ne (m : Memory) {a b : Nat} (x : Byte) (h : b ≠ a) : (m.setByte a x).byte b = m.byte b := by
  unfold Memory.setByte
  split
  · exact byte_del_ne m h
  · exact byte_put_ne m x h

/-- A write of n bytes leaves every other byte alone. -/
theorem byte_setBytes_out (n : Nat) : ∀ (m : Memory) (a x b : Nat), (b < a ∨ a + n ≤ b) → (m.setBytes a n x).byte b = m.byte b := by
  induction n with
  | zero => intros; rfl
  | succ n ih =>
    intro m a x b h
    rw [Memory.setBytes, ih _ _ _ _ (by omega), byte_setByte_ne _ _ (by omega)]

theorem bytes_congr (n : Nat) : ∀ (m m' : Memory) (a : Nat), (∀ b, a ≤ b → b < a + n → m.byte b = m'.byte b) → m.bytes a n = m'.bytes a n := by
  induction n with
  | zero => intros; rfl
  | succ n ih =>
    intro m m' a h
    simp only [Memory.bytes]
    rw [h a (by omega) (by omega), ih m m' (a + 1) fun b h1 h2 => h b (by omega) (by omega)]

/-- A read of the bytes just written gives what was written. -/
theorem bytes_setBytes (n : Nat) : ∀ (m : Memory) (a x : Nat), (m.setBytes a n x).bytes a n = x % 256 ^ n := by
  induction n with
  | zero => intro m a x; simp [Memory.bytes, Nat.mod_one]
  | succ n ih =>
    intro m a x
    simp only [Memory.bytes, Memory.setBytes]
    rw [byte_setBytes_out n _ _ _ _ (by omega), byte_setByte_self, ih, Nat.pow_succ']
    rw [Nat.mod_mul]
    simp

theorem bytes_lt (n : Nat) : ∀ (m : Memory) (a : Nat), m.bytes a n < 256 ^ n := by
  induction n with
  | zero => intros; simp [Memory.bytes]
  | succ n ih =>
    intro m a
    have h := ih m (a + 1)
    have g : (m.byte a).toNat < 256 := (m.byte a).isLt
    simp only [Memory.bytes, Nat.pow_succ]
    omega

/-! ## Bits -/

theorem shift_mod (x p n : Nat) : (x >>> p) % 2 ^ n = x / 2 ^ p % 2 ^ n := by rw [Nat.shiftRight_eq_div_pow]

theorem setField_field (x p n v : Nat) : (setField x p n v >>> p) % 2 ^ n = v % 2 ^ n := by
  simp only [setField, Nat.shiftRight_eq_div_pow, Nat.shiftLeft_eq]
  have e : x / 2 ^ (p + n) * 2 ^ (p + n) + v % 2 ^ n * 2 ^ p + x % 2 ^ p
      = x % 2 ^ p + 2 ^ p * (v % 2 ^ n + 2 ^ n * (x / 2 ^ (p + n))) := by rw [pow_add]; ring
  rw [e, Nat.add_mul_div_left _ _ (Nat.two_pow_pos p), Nat.div_eq_of_lt (Nat.mod_lt _ (Nat.two_pow_pos p)), Nat.zero_add,
    Nat.add_mul_mod_self_left, Nat.mod_mod]

theorem setField_lt (x p n v q : Nat) (hx : x < 2 ^ q) (hq : p + n ≤ q) : setField x p n v < 2 ^ q := by
  obtain ⟨r, rfl⟩ := Nat.exists_eq_add_of_le hq
  simp only [setField, Nat.shiftRight_eq_div_pow, Nat.shiftLeft_eq]
  have h1 : x / 2 ^ (p + n) < 2 ^ r := by
    rw [Nat.div_lt_iff_lt_mul (Nat.two_pow_pos _), ← pow_add, Nat.add_comm]; exact hx
  have h2 : v % 2 ^ n * 2 ^ p + x % 2 ^ p < 2 ^ (p + n) := by
    have a := Nat.mod_lt v (Nat.two_pow_pos n)
    have b := Nat.mod_lt x (Nat.two_pow_pos p)
    have c : (v % 2 ^ n + 1) * 2 ^ p ≤ 2 ^ n * 2 ^ p := Nat.mul_le_mul_right _ (by omega)
    rw [pow_add, Nat.mul_comm (2 ^ p)]
    nlinarith
  have h3 : (x / 2 ^ (p + n) + 1) * 2 ^ (p + n) ≤ 2 ^ r * 2 ^ (p + n) := Nat.mul_le_mul_right _ (by omega)
  rw [pow_add _ (p + n) r, Nat.mul_comm (2 ^ (p + n)) (2 ^ r)]
  nlinarith

/-- A read of the bits just written gives what was written (R22, R23). -/
theorem bits_setBits (m : Memory) (a n x : Nat) : (m.setBits a n x).bits a n = x % 2 ^ n := by
  unfold Memory.bits Memory.setBits
  rw [bytes_setBytes]
  have e : (256 : Nat) ^ byteSpan a n = 2 ^ (8 * byteSpan a n) := by rw [pow_mul]; norm_num
  have l : setField (m.bytes (firstByte a) (byteSpan a n)) (a % 8) n x < 256 ^ byteSpan a n := by
    rw [e]
    apply setField_lt
    · rw [← e]; exact bytes_lt _ _ _
    · simp only [byteSpan]; omega
  rw [Nat.mod_eq_of_lt l, setField_field]

/-- The bytes that no written bit lies in keep their values. -/
theorem byte_setBits_out (m : Memory) (a n x b : Nat) (h : 8 * b + 8 ≤ a ∨ a + n ≤ 8 * b) : (m.setBits a n x).byte b = m.byte b := by
  unfold Memory.setBits
  apply byte_setBytes_out
  simp only [firstByte, byteSpan]
  omega

/-! ## Single bits -/

theorem testBit_setField (x p n v k : Nat) :
    (setField x p n v).testBit k = if p ≤ k ∧ k < p + n then v.testBit (k - p) else x.testBit k := by
  have e : setField x p n v = 2 ^ (p + n) * (x / 2 ^ (p + n)) + (2 ^ p * (v % 2 ^ n) + x % 2 ^ p) := by
    simp only [setField, Nat.shiftRight_eq_div_pow, Nat.shiftLeft_eq]; ring
  have hlow : 2 ^ p * (v % 2 ^ n) + x % 2 ^ p < 2 ^ (p + n) := by
    have a := Nat.mod_lt v (Nat.two_pow_pos n)
    have b := Nat.mod_lt x (Nat.two_pow_pos p)
    have c : (v % 2 ^ n + 1) * 2 ^ p ≤ 2 ^ n * 2 ^ p := Nat.mul_le_mul_right _ (by omega)
    rw [pow_add, Nat.mul_comm (2 ^ p) (2 ^ n)]; nlinarith
  rw [e, Nat.testBit_two_pow_mul_add _ hlow, Nat.testBit_two_pow_mul_add _ (Nat.mod_lt _ (Nat.two_pow_pos p))]
  by_cases h1 : k < p
  · simp [show k < p + n by omega, h1, show ¬ (p ≤ k) by omega, Nat.testBit_mod_two_pow]
  · by_cases h2 : k < p + n
    · simp [h1, h2, show p ≤ k by omega, Nat.testBit_mod_two_pow, show k - p < n by omega]
    · simp [h2, Nat.testBit_div_two_pow, show k - (p+n) + (p+n) = k by omega]

theorem testBit_bytes (n : Nat) : ∀ (m : Memory) (a i j : Nat), i < n → j < 8 →
    (m.bytes a n).testBit (8 * i + j) = (m.byte (a + i)).getLsbD j := by
  induction n with
  | zero => intro m a i j hi; omega
  | succ n ih =>
    intro m a i j hi hj
    have g : (m.byte a).toNat < 2 ^ 8 := (m.byte a).isLt
    have e : m.bytes a (n + 1) = 2 ^ 8 * m.bytes (a + 1) n + (m.byte a).toNat := by simp only [Memory.bytes]; omega
    rw [e, Nat.testBit_two_pow_mul_add _ g]
    cases i with
    | zero => simp [hj, BitVec.getLsbD]
    | succ i =>
      rw [if_neg (by omega), show 8 * (i + 1) + j - 8 = 8 * i + j by omega, ih m (a + 1) i j (by omega) hj,
        show a + 1 + i = a + (i + 1) by omega]

/-- The bits of the bytes just written. -/
theorem byte_setBytes_in (n : Nat) : ∀ (m : Memory) (a x i j : Nat), i < n → j < 8 →
    ((m.setBytes a n x).byte (a + i)).getLsbD j = x.testBit (8 * i + j) := by
  induction n with
  | zero => intro m a x i j hi; omega
  | succ n ih =>
    intro m a x i j hi hj
    cases i with
    | zero =>
      simp only [Memory.setBytes, Nat.add_zero]
      rw [byte_setBytes_out _ _ _ _ _ (by omega), byte_setByte_self]
      simp only [BitVec.getLsbD, BitVec.toNat_ofNat, Nat.mul_zero, Nat.zero_add, Nat.testBit_mod_two_pow, hj, decide_true, Bool.true_and]
    | succ i =>
      simp only [Memory.setBytes]
      rw [show a + (i + 1) = a + 1 + i by omega, ih _ (a + 1) _ i j (by omega) hj,
        show (256 : Nat) = 2 ^ 8 by norm_num, Nat.testBit_div_two_pow]
      congr 1; omega

/-- Every bit outside the bits just written keeps its value, in a partly covered byte too (R23, R128). -/
theorem bit_setBits_out (m : Memory) (a n x q : Nat) (h : q < a ∨ a + n ≤ q) :
    ((m.setBits a n x).byte (q / 8)).getLsbD (q % 8) = (m.byte (q / 8)).getLsbD (q % 8) := by
  by_cases o : q / 8 < firstByte a ∨ firstByte a + byteSpan a n ≤ q / 8
  · unfold Memory.setBits; rw [byte_setBytes_out _ _ _ _ _ o]
  · simp only [not_or, Nat.not_lt, Nat.not_le] at o
    obtain ⟨i, hi⟩ := Nat.exists_eq_add_of_le o.1
    have hj : q % 8 < 8 := by omega
    have hk : i < byteSpan a n := by omega
    unfold Memory.setBits
    rw [hi, byte_setBytes_in _ _ _ _ i _ hk hj, testBit_setField, testBit_bytes _ _ _ i _ hk hj, if_neg]
    simp only [firstByte] at *; omega

/-! ## The canonical form -/

theorem wfFrom_mono {lo lo' : Nat} {m : Memory} (h : Memory.wfFrom lo m = true) (hl : lo' ≤ lo) : Memory.wfFrom lo' m = true := by
  cases m with
  | nil => rfl
  | cons p r =>
    obtain ⟨k, v⟩ := p
    simp only [Memory.wfFrom, Bool.and_eq_true, decide_eq_true_eq] at *
    exact ⟨⟨by omega, h.1.2⟩, h.2⟩

theorem wfFrom_put {m : Memory} {a : Nat} {x : Byte} (hx : x ≠ 0) :
    ∀ {lo : Nat}, Memory.wfFrom lo m = true → lo ≤ a → Memory.wfFrom lo (m.put a x) = true := by
  induction m with
  | nil => intro lo _ h; simpa [Memory.put, Memory.wfFrom, h] using hx
  | cons p r ih =>
    obtain ⟨k, v⟩ := p
    intro lo h hl
    simp only [Memory.wfFrom, Bool.and_eq_true, decide_eq_true_eq] at h
    simp only [Memory.put]
    split
    · rename_i g
      simp only [Memory.wfFrom, Bool.and_eq_true, decide_eq_true_eq]
      exact ⟨⟨hl, by simpa using hx⟩, ⟨by omega, h.1.2⟩, h.2⟩
    · split
      · rename_i e; subst e
        simp only [Memory.wfFrom, Bool.and_eq_true, decide_eq_true_eq]
        exact ⟨⟨hl, by simpa using hx⟩, h.2⟩
      · simp only [Memory.wfFrom, Bool.and_eq_true, decide_eq_true_eq]
        exact ⟨h.1, ih h.2 (by omega)⟩

theorem wfFrom_del {m : Memory} (a : Nat) : ∀ {lo : Nat}, Memory.wfFrom lo m = true → Memory.wfFrom lo (m.del a) = true := by
  induction m with
  | nil => intro lo h; exact h
  | cons p r ih =>
    obtain ⟨k, v⟩ := p
    intro lo h
    simp only [Memory.wfFrom, Bool.and_eq_true, decide_eq_true_eq] at h
    simp only [Memory.del, List.filter] at *
    split
    · simp only [Memory.wfFrom, Bool.and_eq_true, decide_eq_true_eq]
      exact ⟨h.1, ih h.2⟩
    · exact wfFrom_mono (ih h.2) (by omega)

theorem wf_setByte {m : Memory} (h : m.wf = true) (a : Nat) (x : Byte) : (m.setByte a x).wf = true := by
  unfold Memory.setByte Memory.wf at *
  split
  · exact wfFrom_del a h
  · rename_i g; exact wfFrom_put g h (Nat.zero_le _)

theorem wf_setBytes (n : Nat) : ∀ {m : Memory} (_ : m.wf = true) (a x : Nat), (m.setBytes a n x).wf = true := by
  induction n with
  | zero => intro m h a x; exact h
  | succ n ih => intro m h a x; exact ih (wf_setByte h a _) _ _

theorem wf_setBits {m : Memory} (h : m.wf = true) (a n x : Nat) : (m.setBits a n x).wf = true := wf_setBytes _ h _ _

theorem wf_nil : Memory.wf [] = true := rfl

/-! ## Spaces -/

theorem wf_repair {m : Space} (h : m.bytes.wf = true) (w : Nat) : (m.repair w).bytes.wf = true := by
  unfold Space.repair
  split
  · exact wf_setBytes _ h _ _
  · exact h
  · exact h

theorem wf_repairs {l : List Nat} : ∀ {m : Space} (_ : m.bytes.wf = true), (l.foldl Space.repair m).bytes.wf = true := by
  induction l with
  | nil => intro m h; exact h
  | cons a r ih => intro m h; exact ih (wf_repair h a)

theorem wf_writeRaw {m : Space} (h : m.bytes.wf = true) (a n x : Nat) : (m.writeRaw a n x).bytes.wf = true := by
  unfold Space.writeRaw
  apply wf_setBits
  split
  · exact h
  · exact wf_repairs h

theorem wf_poison {m : Space} (h : m.bytes.wf = true) (w : Nat) : (m.poison w).bytes.wf = true := h

theorem goOut_bytes (m : Space) (sec : Nat) : (m.goOut sec).bytes = m.bytes := by unfold Space.goOut; split <;> rfl
theorem goIn_bytes (m : Space) (sec : Nat) (p : BitVec 4) (l : Nat) : (m.goIn sec p l).bytes = m.bytes := rfl
theorem joinTurn_bytes (m : Space) (sec : Nat) (p : BitVec 4) (l : Nat) : (m.joinTurn sec p l).bytes = m.bytes := rfl
theorem mark_bytes (m : Space) (sec : Nat) (p : BitVec 4) (l : Nat) : (m.mark sec p l).bytes = m.bytes := by
  unfold Space.mark; split <;> rfl
theorem applyPending_bytes (m : Space) : m.applyPending.bytes = m.bytes := rfl
theorem sawNew_bytes (m : Space) (p : Path) (sec : Nat) (f : Bool) : (m.sawNew p sec f).bytes = m.bytes := by unfold Space.sawNew; split <;> rfl

theorem goOuts_bytes (l : List Nat) : ∀ m : Space, (l.foldl Space.goOut m).bytes = m.bytes := by
  induction l with
  | nil => intro m; rfl
  | cons a r ih => intro m; rw [List.foldl_cons, ih, goOut_bytes]

end Sys2Proof.Laws
end

