-- ==== Sys2Proof/Laws/PerInstr.lean ====
section
/-! SUPPORT. Lemmas made one per instruction. RoundTrip: a well-formed instruction is what its own word decodes to
(R34 to R53). -/

namespace Sys2Proof.Laws.RoundTrip

open Sys2Proof Sys2Proof.Laws

/-- The word that encodes a well-formed instruction decodes to it. -/
def Statement (i : Instr) : Prop := ∀ w, WellFormed i = true → encode i = some w → decode w = .ok i

theorem add (d a b : Reg) : Statement (.add d a b) := by
  intro w hw h
  cases h
  rw [decode_pack]
  rfl

theorem sub (d a b : Reg) : Statement (.sub d a b) := by
  intro w hw h
  cases h
  rw [decode_pack]
  rfl

theorem and (d a b : Reg) : Statement (.and d a b) := by
  intro w hw h
  cases h
  rw [decode_pack]
  rfl

theorem or (d a b : Reg) : Statement (.or d a b) := by
  intro w hw h
  cases h
  rw [decode_pack]
  rfl

theorem xor (d a b : Reg) : Statement (.xor d a b) := by
  intro w hw h
  cases h
  rw [decode_pack]
  rfl

theorem shl (d a b : Reg) : Statement (.shl d a b) := by
  intro w hw h
  cases h
  rw [decode_pack]
  rfl

theorem shr (d a b : Reg) : Statement (.shr d a b) := by
  intro w hw h
  cases h
  rw [decode_pack]
  rfl

theorem sar (d a b : Reg) : Statement (.sar d a b) := by
  intro w hw h
  cases h
  rw [decode_pack]
  rfl

theorem min (d a b : Reg) : Statement (.min d a b) := by
  intro w hw h
  cases h
  rw [decode_pack]
  rfl

theorem max (d a b : Reg) : Statement (.max d a b) := by
  intro w hw h
  cases h
  rw [decode_pack]
  rfl

theorem minn (d a b : Reg) : Statement (.minn d a b) := by
  intro w hw h
  cases h
  rw [decode_pack]
  rfl

theorem maxn (d a b : Reg) : Statement (.maxn d a b) := by
  intro w hw h
  cases h
  rw [decode_pack]
  rfl

theorem sel (d a b : Reg) : Statement (.sel d a b) := by
  intro w hw h
  cases h
  rw [decode_pack]
  rfl

theorem mul (d a b : Reg) : Statement (.mul d a b) := by
  intro w hw h
  cases h
  rw [decode_pack]
  rfl

theorem mulh (d a b : Reg) : Statement (.mulh d a b) := by
  intro w hw h
  cases h
  rw [decode_pack]
  rfl

theorem mulhn (d a b : Reg) : Statement (.mulhn d a b) := by
  intro w hw h
  cases h
  rw [decode_pack]
  rfl

theorem div (d a b : Reg) : Statement (.div d a b) := by
  intro w hw h
  cases h
  rw [decode_pack]
  rfl

theorem divn (d a b : Reg) : Statement (.divn d a b) := by
  intro w hw h
  cases h
  rw [decode_pack]
  rfl

theorem rem (d a b : Reg) : Statement (.rem d a b) := by
  intro w hw h
  cases h
  rw [decode_pack]
  rfl

theorem remn (d a b : Reg) : Statement (.remn d a b) := by
  intro w hw h
  cases h
  rw [decode_pack]
  rfl

theorem cmpeq (d a b : Reg) : Statement (.cmpeq d a b) := by
  intro w hw h
  cases h
  rw [decode_pack]
  rfl

theorem cmpne (d a b : Reg) : Statement (.cmpne d a b) := by
  intro w hw h
  cases h
  rw [decode_pack]
  rfl

theorem cmplt (d a b : Reg) : Statement (.cmplt d a b) := by
  intro w hw h
  cases h
  rw [decode_pack]
  rfl

theorem cmpltn (d a b : Reg) : Statement (.cmpltn d a b) := by
  intro w hw h
  cases h
  rw [decode_pack]
  rfl

theorem cmple (d a b : Reg) : Statement (.cmple d a b) := by
  intro w hw h
  cases h
  rw [decode_pack]
  rfl

theorem cmplen (d a b : Reg) : Statement (.cmplen d a b) := by
  intro w hw h
  cases h
  rw [decode_pack]
  rfl

theorem clz (d a : Reg) : Statement (.clz d a) := by
  intro w hw h
  cases h
  rw [decode_pack]
  rfl

theorem ctz (d a : Reg) : Statement (.ctz d a) := by
  intro w hw h
  cases h
  rw [decode_pack]
  rfl

theorem popc (d a : Reg) : Statement (.popc d a) := by
  intro w hw h
  cases h
  rw [decode_pack]
  rfl

theorem bext (d a b : Reg) : Statement (.bext d a b) := by
  intro w hw h
  cases h
  rw [decode_pack]
  rfl

theorem bins (d a b : Reg) : Statement (.bins d a b) := by
  intro w hw h
  cases h
  rw [decode_pack]
  rfl

theorem brev (d a : Reg) : Statement (.brev d a) := by
  intro w hw h
  cases h
  rw [decode_pack]
  rfl

theorem addi (d a : Reg) (i : BitVec 11) : Statement (.addi d a i) := by
  intro w hw h
  cases h
  rw [decode_packI]
  exact congrArg (fun x => Except.ok (Instr.addi d a x)) (split11 _)

theorem andi (d a : Reg) (i : BitVec 11) : Statement (.andi d a i) := by
  intro w hw h
  cases h
  rw [decode_packI]
  exact congrArg (fun x => Except.ok (Instr.andi d a x)) (split11 _)

theorem ori (d a : Reg) (i : BitVec 11) : Statement (.ori d a i) := by
  intro w hw h
  cases h
  rw [decode_packI]
  exact congrArg (fun x => Except.ok (Instr.ori d a x)) (split11 _)

theorem xori (d a : Reg) (i : BitVec 11) : Statement (.xori d a i) := by
  intro w hw h
  cases h
  rw [decode_packI]
  exact congrArg (fun x => Except.ok (Instr.xori d a x)) (split11 _)

theorem shli (d a : Reg) (i : BitVec 11) : Statement (.shli d a i) := by
  intro w hw h
  cases h
  rw [decode_packI]
  exact congrArg (fun x => Except.ok (Instr.shli d a x)) (split11 _)

theorem shri (d a : Reg) (i : BitVec 11) : Statement (.shri d a i) := by
  intro w hw h
  cases h
  rw [decode_packI]
  exact congrArg (fun x => Except.ok (Instr.shri d a x)) (split11 _)

theorem sari (d a : Reg) (i : BitVec 11) : Statement (.sari d a i) := by
  intro w hw h
  cases h
  rw [decode_packI]
  exact congrArg (fun x => Except.ok (Instr.sari d a x)) (split11 _)

theorem li (d : Reg) (i : BitVec 18) : Statement (.li d i) := by
  intro w hw h
  cases h
  rw [decode_packL]
  exact congrArg (fun x => Except.ok (Instr.li d x)) (split18 _)

theorem lis (d : Reg) (i : BitVec 18) : Statement (.lis d i) := by
  intro w hw h
  cases h
  rw [decode_packL]
  exact congrArg (fun x => Except.ok (Instr.lis d x)) (split18 _)

theorem mfs (d : Reg) (n : BitVec 11) : Statement (.mfs d n) := by
  intro w hw h
  cases h
  rw [decode_packI]
  exact congrArg (fun x => Except.ok (Instr.mfs d x)) (split11 _)

theorem mts (d : Reg) (n : BitVec 11) : Statement (.mts d n) := by
  intro w hw h
  cases h
  rw [decode_packI]
  exact congrArg (fun x => Except.ok (Instr.mts d x)) (split11 _)

theorem win (i : BitVec 11) : Statement (.win i) := by
  intro w hw h
  cases h
  rw [decode_packI]
  exact congrArg (fun x => Except.ok (Instr.win x)) (split11 _)

theorem fadd (f64 : Bool) (d a b : Reg) : Statement (.fadd f64 d a b) := by
  intro w hw h
  cases h
  cases f64 <;> (rw [decode_pack]; rfl)

theorem fsub (f64 : Bool) (d a b : Reg) : Statement (.fsub f64 d a b) := by
  intro w hw h
  cases h
  cases f64 <;> (rw [decode_pack]; rfl)

theorem fmul (f64 : Bool) (d a b : Reg) : Statement (.fmul f64 d a b) := by
  intro w hw h
  cases h
  cases f64 <;> (rw [decode_pack]; rfl)

theorem fdiv (f64 : Bool) (d a b : Reg) : Statement (.fdiv f64 d a b) := by
  intro w hw h
  cases h
  cases f64 <;> (rw [decode_pack]; rfl)

theorem fsqrt (f64 : Bool) (d a : Reg) : Statement (.fsqrt f64 d a) := by
  intro w hw h
  cases h
  cases f64 <;> (rw [decode_pack]; rfl)

theorem fmin (f64 : Bool) (d a b : Reg) : Statement (.fmin f64 d a b) := by
  intro w hw h
  cases h
  cases f64 <;> (rw [decode_pack]; rfl)

theorem fmax (f64 : Bool) (d a b : Reg) : Statement (.fmax f64 d a b) := by
  intro w hw h
  cases h
  cases f64 <;> (rw [decode_pack]; rfl)

theorem fcmpeq (f64 : Bool) (d a b : Reg) : Statement (.fcmpeq f64 d a b) := by
  intro w hw h
  cases h
  cases f64 <;> (rw [decode_pack]; rfl)

theorem fcmplt (f64 : Bool) (d a b : Reg) : Statement (.fcmplt f64 d a b) := by
  intro w hw h
  cases h
  cases f64 <;> (rw [decode_pack]; rfl)

theorem fcmple (f64 : Bool) (d a b : Reg) : Statement (.fcmple f64 d a b) := by
  intro w hw h
  cases h
  cases f64 <;> (rw [decode_pack]; rfl)

theorem fcvtif (f64 : Bool) (d a : Reg) : Statement (.fcvtif f64 d a) := by
  intro w hw h
  cases h
  cases f64 <;> (rw [decode_pack]; rfl)

theorem fcvtfi (f64 : Bool) (d a : Reg) : Statement (.fcvtfi f64 d a) := by
  intro w hw h
  cases h
  cases f64 <;> (rw [decode_pack]; rfl)

theorem fma (f64 : Bool) (d a b : Reg) : Statement (.fma f64 d a b) := by
  intro w hw h
  cases h
  cases f64 <;> (rw [decode_pack]; rfl)

theorem padd (d a b : Reg) (w : BitVec 4) : Statement (.padd d a b w) := by
  intro x0 hw h
  cases h
  rw [decode_pack]
  simp [WellFormed, Instr.vec, Instr.width] at hw
  simp [decodeFields, widthOk, hw]

theorem psub (d a b : Reg) (w : BitVec 4) : Statement (.psub d a b w) := by
  intro x0 hw h
  cases h
  rw [decode_pack]
  simp [WellFormed, Instr.vec, Instr.width] at hw
  simp [decodeFields, widthOk, hw]

theorem pdiff (d a b : Reg) (w : BitVec 4) : Statement (.pdiff d a b w) := by
  intro x0 hw h
  cases h
  rw [decode_pack]
  simp [WellFormed, Instr.vec, Instr.width] at hw
  simp [decodeFields, widthOk, hw]

theorem paln (d a b : Reg) (w : BitVec 4) : Statement (.paln d a b w) := by
  intro x0 hw h
  cases h
  rw [decode_pack]
  simp [WellFormed, Instr.vec, Instr.width] at hw
  simp [decodeFields, widthOk, hw]

theorem pcls (d a : Reg) (w : BitVec 4) : Statement (.pcls d a w) := by
  intro x0 hw h
  cases h
  rw [decode_pack]
  simp [WellFormed, Instr.vec, Instr.width] at hw
  simp [decodeFields, zero, widthOk, hw]

theorem br (i : BitVec 18) : Statement (.br i) := by
  intro w hw h
  cases h
  rw [decode_packL]
  exact congrArg (fun x => Except.ok (Instr.br x)) (split18 _)

theorem bz (d : Reg) (o : BitVec 18) : Statement (.bz d o) := by
  intro w hw h
  cases h
  rw [decode_packL]
  exact congrArg (fun x => Except.ok (Instr.bz d x)) (split18 _)

theorem bnz (d : Reg) (o : BitVec 18) : Statement (.bnz d o) := by
  intro w hw h
  cases h
  rw [decode_packL]
  exact congrArg (fun x => Except.ok (Instr.bnz d x)) (split18 _)

theorem call (d : Reg) (o : BitVec 18) : Statement (.call d o) := by
  intro w hw h
  cases h
  rw [decode_packL]
  exact congrArg (fun x => Except.ok (Instr.call d x)) (split18 _)

theorem jr (d a : Reg) : Statement (.jr d a) := by
  intro w hw h
  cases h
  rw [decode_pack]
  rfl

theorem loop (d : Reg) (o : BitVec 18) : Statement (.loop d o) := by
  intro w hw h
  cases h
  rw [decode_packL]
  exact congrArg (fun x => Except.ok (Instr.loop d x)) (split18 _)

theorem guardNz (a : Reg) : Statement (.guardNz a) := by
  intro w hw h
  cases h
  rw [decode_pack]
  rfl

theorem guardZ (a : Reg) : Statement (.guardZ a) := by
  intro w hw h
  cases h
  rw [decode_pack]
  rfl

theorem setl (d a b : Reg) : Statement (.setl d a b) := by
  intro w hw h
  cases h
  rw [decode_pack]
  rfl

theorem vpart (a : Reg) : Statement (.vpart a) := by
  intro w hw h
  cases h
  rw [decode_pack]
  rfl

theorem msel (b : Reg) : Statement (.msel b) := by
  intro w hw h
  cases h
  rw [decode_pack]
  rfl

theorem span (i : BitVec 11) : Statement (.span i) := by
  intro w hw h
  cases h
  rw [decode_packI]
  exact congrArg (fun x => Except.ok (Instr.span x)) (split11 _)

theorem ld (d a b : Reg) (w : BitVec 4) : Statement (.ld d a b w) := by
  intro x0 hw h
  cases h
  rw [decode_pack]
  simp [WellFormed, Instr.vec, Instr.width] at hw
  simp [decodeFields, widthOk, hw]

theorem ldn (d a b : Reg) (w : BitVec 4) : Statement (.ldn d a b w) := by
  intro x0 hw h
  cases h
  rw [decode_pack]
  simp [WellFormed, Instr.vec, Instr.width] at hw
  simp [decodeFields, widthOk, hw]

theorem st (d a b : Reg) (w : BitVec 4) : Statement (.st d a b w) := by
  intro x0 hw h
  cases h
  rw [decode_pack]
  simp [WellFormed, Instr.vec, Instr.width] at hw
  simp [decodeFields, widthOk, hw]

theorem ldo (d a : Reg) (i : BitVec 11) : Statement (.ldo d a i) := by
  intro w hw h
  cases h
  rw [decode_packI]
  exact congrArg (fun x => Except.ok (Instr.ldo d a x)) (split11 _)

theorem sto (d a : Reg) (i : BitVec 11) : Statement (.sto d a i) := by
  intro w hw h
  cases h
  rw [decode_packI]
  exact congrArg (fun x => Except.ok (Instr.sto d a x)) (split11 _)

theorem vld (d a b : Reg) : Statement (.vld d a b) := by
  intro w hw h
  cases h
  rw [decode_pack]
  rfl

theorem vst (d a b : Reg) : Statement (.vst d a b) := by
  intro w hw h
  cases h
  rw [decode_pack]
  rfl

theorem vldx (d a b : Reg) : Statement (.vldx d a b) := by
  intro w hw h
  cases h
  rw [decode_pack]
  rfl

theorem vstx (d a b : Reg) : Statement (.vstx d a b) := by
  intro w hw h
  cases h
  rw [decode_pack]
  rfl

theorem vldt (d a b : Reg) : Statement (.vldt d a b) := by
  intro w hw h
  cases h
  rw [decode_pack]
  rfl

theorem vstt (d a b : Reg) : Statement (.vstt d a b) := by
  intro w hw h
  cases h
  rw [decode_pack]
  rfl

theorem vldb (d a b : Reg) : Statement (.vldb d a b) := by
  intro w hw h
  cases h
  rw [decode_pack]
  rfl

theorem vstb (d a b : Reg) : Statement (.vstb d a b) := by
  intro w hw h
  cases h
  rw [decode_pack]
  rfl

theorem qpop (d a q : Reg) : Statement (.qpop d a q) := by
  intro w hw h
  cases h
  rw [decode_pack]
  rfl

theorem qpush (d a q : Reg) : Statement (.qpush d a q) := by
  intro w hw h
  cases h
  rw [decode_pack]
  rfl

theorem qwait (a q : Reg) : Statement (.qwait a q) := by
  intro w hw h
  cases h
  rw [decode_pack]
  rfl

theorem qstat (d q : Reg) : Statement (.qstat d q) := by
  intro w hw h
  cases h
  rw [decode_pack]
  rfl

theorem ltset (d a : Reg) : Statement (.ltset d a) := by
  intro w hw h
  cases h
  rw [decode_pack]
  rfl

theorem ltget (d a : Reg) : Statement (.ltget d a) := by
  intro w hw h
  cases h
  rw [decode_pack]
  rfl

theorem turn (lvl : BitVec 3) (paths : BitVec 4) (a b : Reg) : Statement (.turn lvl paths a b) := by
  intro w hw h
  cases h
  rw [decode_pack]
  simp [decodeFields, decodeTurn]
  exact parts _ _ _ _

theorem turnt (lvl : BitVec 3) (paths : BitVec 4) (a : Reg) : Statement (.turnt lvl paths a) := by
  intro w hw h
  cases h
  rw [decode_pack]
  simp [decodeFields, decodeTurn, zero]
  exact parts _ _ _ _

theorem tstat (d a : Reg) : Statement (.tstat d a) := by
  intro w hw h
  cases h
  rw [decode_pack]
  rfl

theorem aadd (w32 : Bool) (fl : BitVec 2) (dr : BitVec 5) (a b : Reg) : Statement (.aadd w32 fl dr a b) := by
  intro w hw h
  cases h
  cases w32 <;> (rw [decode_pack]; simp [decodeFields, decodeAtom]; exact parts _ _ _ _)

theorem aand (w32 : Bool) (fl : BitVec 2) (dr : BitVec 5) (a b : Reg) : Statement (.aand w32 fl dr a b) := by
  intro w hw h
  cases h
  cases w32 <;> (rw [decode_pack]; simp [decodeFields, decodeAtom]; exact parts _ _ _ _)

theorem aor (w32 : Bool) (fl : BitVec 2) (dr : BitVec 5) (a b : Reg) : Statement (.aor w32 fl dr a b) := by
  intro w hw h
  cases h
  cases w32 <;> (rw [decode_pack]; simp [decodeFields, decodeAtom]; exact parts _ _ _ _)

theorem axor (w32 : Bool) (fl : BitVec 2) (dr : BitVec 5) (a b : Reg) : Statement (.axor w32 fl dr a b) := by
  intro w hw h
  cases h
  cases w32 <;> (rw [decode_pack]; simp [decodeFields, decodeAtom]; exact parts _ _ _ _)

theorem amin (w32 : Bool) (fl : BitVec 2) (dr : BitVec 5) (a b : Reg) : Statement (.amin w32 fl dr a b) := by
  intro w hw h
  cases h
  cases w32 <;> (rw [decode_pack]; simp [decodeFields, decodeAtom]; exact parts _ _ _ _)

theorem amax (w32 : Bool) (fl : BitVec 2) (dr : BitVec 5) (a b : Reg) : Statement (.amax w32 fl dr a b) := by
  intro w hw h
  cases h
  cases w32 <;> (rw [decode_pack]; simp [decodeFields, decodeAtom]; exact parts _ _ _ _)

theorem aminn (w32 : Bool) (fl : BitVec 2) (dr : BitVec 5) (a b : Reg) : Statement (.aminn w32 fl dr a b) := by
  intro w hw h
  cases h
  cases w32 <;> (rw [decode_pack]; simp [decodeFields, decodeAtom]; exact parts _ _ _ _)

theorem amaxn (w32 : Bool) (fl : BitVec 2) (dr : BitVec 5) (a b : Reg) : Statement (.amaxn w32 fl dr a b) := by
  intro w hw h
  cases h
  cases w32 <;> (rw [decode_pack]; simp [decodeFields, decodeAtom]; exact parts _ _ _ _)

theorem axchg (w32 : Bool) (fl : BitVec 2) (dr : BitVec 5) (a b : Reg) : Statement (.axchg w32 fl dr a b) := by
  intro w hw h
  cases h
  cases w32 <;> (rw [decode_pack]; simp [decodeFields, decodeAtom]; exact parts _ _ _ _)

theorem acas (w32 : Bool) (fl : BitVec 2) (dr : BitVec 5) (a b : Reg) : Statement (.acas w32 fl dr a b) := by
  intro w hw h
  cases h
  cases w32 <;> (rw [decode_pack]; simp [decodeFields, decodeAtom]; exact parts _ _ _ _)

theorem afadd (w32 : Bool) (fl : BitVec 2) (dr : BitVec 5) (a b : Reg) : Statement (.afadd w32 fl dr a b) := by
  intro w hw h
  cases h
  cases w32 <;> (rw [decode_pack]; simp [decodeFields, decodeAtom]; exact parts _ _ _ _)

theorem ald (w32 : Bool) (fl : BitVec 2) (dr : BitVec 5) (a : Reg) : Statement (.ald w32 fl dr a) := by
  intro w hw h
  cases h
  cases w32 <;> (rw [decode_pack]; simp [decodeFields, decodeAtom, zero]; exact parts _ _ _ _)

theorem ast (w32 : Bool) (fl : BitVec 2) (a b : Reg) : Statement (.ast w32 fl a b) := by
  intro w hw h
  have q := parts 2 5 fl (0#5)
  cases h
  cases w32 <;> (rw [decode_pack]; simp only [decodeFields, decodeAtom]; exact (if_pos q.2).trans (congrArg (fun x => Except.ok (Instr.ast _ x a b)) q.1))

theorem mshape (d a : Reg) : Statement (.mshape d a) := by
  intro w hw h
  cases h
  rw [decode_pack]
  rfl

theorem mldw (a : Reg) : Statement (.mldw a) := by
  intro w hw h
  cases h
  rw [decode_pack]
  rfl

theorem mldws (a : Reg) : Statement (.mldws a) := by
  intro w hw h
  cases h
  rw [decode_pack]
  rfl

theorem mfwd (a : Reg) : Statement (.mfwd a) := by
  intro w hw h
  cases h
  rw [decode_pack]
  rfl

theorem mbwd (a : Reg) : Statement (.mbwd a) := by
  intro w hw h
  cases h
  rw [decode_pack]
  rfl

theorem mgrd (a b : Reg) : Statement (.mgrd a b) := by
  intro w hw h
  cases h
  rw [decode_pack]
  rfl

theorem mdrain (a b : Reg) : Statement (.mdrain a b) := by
  intro w hw h
  cases h
  rw [decode_pack]
  rfl

theorem mzero (b : Reg) : Statement (.mzero b) := by
  intro w hw h
  cases h
  rw [decode_pack]
  rfl

theorem mamax (d : Reg) : Statement (.mamax d) := by
  intro w hw h
  cases h
  rw [decode_pack]
  rfl

theorem mstat (d : Reg) : Statement (.mstat d) := by
  intro w hw h
  cases h
  rw [decode_pack]
  rfl

theorem xfer (d a : Reg) : Statement (.xfer d a) := by
  intro w hw h
  cases h
  rw [decode_pack]
  rfl

theorem halo (d a : Reg) : Statement (.halo d a) := by
  intro w hw h
  cases h
  rw [decode_pack]
  rfl

theorem xred (d a : Reg) : Statement (.xred d a) := by
  intro w hw h
  cases h
  rw [decode_pack]
  rfl

theorem xcast (d a : Reg) : Statement (.xcast d a) := by
  intro w hw h
  cases h
  rw [decode_pack]
  rfl

theorem xfar (d a : Reg) : Statement (.xfar d a) := by
  intro w hw h
  cases h
  rw [decode_pack]
  rfl

theorem xstat (b : Reg) : Statement (.xstat b) := by
  intro w hw h
  cases h
  rw [decode_pack]
  rfl

theorem cbarr (a b : Reg) : Statement (.cbarr a b) := by
  intro w hw h
  cases h
  rw [decode_pack]
  rfl

theorem cbwait (b : Reg) : Statement (.cbwait b) := by
  intro w hw h
  cases h
  rw [decode_pack]
  rfl

theorem ptest (d : Reg) : Statement (.ptest d) := by
  intro w hw h
  cases h
  rw [decode_pack]
  rfl

theorem trap (b : Reg) : Statement (.trap b) := by
  intro w hw h
  cases h
  rw [decode_pack]
  rfl

theorem tlbi (a b : Reg) : Statement (.tlbi a b) := by
  intro w hw h
  cases h
  rw [decode_pack]
  rfl

theorem wfe (d : Reg) : Statement (.wfe d) := by
  intro w hw h
  cases h
  rw [decode_pack]
  rfl

theorem spawn (d a : Reg) : Statement (.spawn d a) := by
  intro w hw h
  cases h
  rw [decode_pack]
  rfl

theorem slkill (d a b : Reg) : Statement (.slkill d a b) := by
  intro w hw h
  cases h
  rw [decode_pack]
  rfl

theorem resume (a b : Reg) : Statement (.resume a b) := by
  intro w hw h
  cases h
  rw [decode_pack]
  rfl

theorem brk (b : Reg) : Statement (.brk b) := by
  intro w hw h
  cases h
  rw [decode_pack]
  rfl

theorem smpl (b : Reg) : Statement (.smpl b) := by
  intro w hw h
  cases h
  rw [decode_pack]
  rfl

theorem dmark (a : Reg) : Statement (.dmark a) := by
  intro w hw h
  cases h
  rw [decode_pack]
  rfl

theorem vadd (w : VWord) : Statement (.vadd w) := by
  intro x0 hw h
  cases h
  exact decode_packV _ _ _ (by decide) rfl (form_ok rfl hw)

theorem vsub (w : VWord) : Statement (.vsub w) := by
  intro x0 hw h
  cases h
  exact decode_packV _ _ _ (by decide) rfl (form_ok rfl hw)

theorem vmul (w : VWord) : Statement (.vmul w) := by
  intro x0 hw h
  cases h
  exact decode_packV _ _ _ (by decide) rfl (form_ok rfl hw)

theorem vfma (w : VWord) : Statement (.vfma w) := by
  intro x0 hw h
  cases h
  exact decode_packV _ _ _ (by decide) rfl (form_ok rfl hw)

theorem vfms (w : VWord) : Statement (.vfms w) := by
  intro x0 hw h
  cases h
  exact decode_packV _ _ _ (by decide) rfl (form_ok rfl hw)

theorem vfnma (w : VWord) : Statement (.vfnma w) := by
  intro x0 hw h
  cases h
  exact decode_packV _ _ _ (by decide) rfl (form_ok rfl hw)

theorem vdiv (w : VWord) : Statement (.vdiv w) := by
  intro x0 hw h
  cases h
  exact decode_packV _ _ _ (by decide) rfl (form_ok rfl hw)

theorem vsqrt (w : VWord) : Statement (.vsqrt w) := by
  intro x0 hw h
  cases h
  exact decode_packV _ _ _ (by decide) rfl (form_ok rfl hw)

theorem vrsqrt (w : VWord) : Statement (.vrsqrt w) := by
  intro x0 hw h
  cases h
  exact decode_packV _ _ _ (by decide) rfl (form_ok rfl hw)

theorem vrcp (w : VWord) : Statement (.vrcp w) := by
  intro x0 hw h
  cases h
  exact decode_packV _ _ _ (by decide) rfl (form_ok rfl hw)

theorem vmin (w : VWord) : Statement (.vmin w) := by
  intro x0 hw h
  cases h
  exact decode_packV _ _ _ (by decide) rfl (form_ok rfl hw)

theorem vmax (w : VWord) : Statement (.vmax w) := by
  intro x0 hw h
  cases h
  exact decode_packV _ _ _ (by decide) rfl (form_ok rfl hw)

theorem vabs (w : VWord) : Statement (.vabs w) := by
  intro x0 hw h
  cases h
  exact decode_packV _ _ _ (by decide) rfl (form_ok rfl hw)

theorem vneg (w : VWord) : Statement (.vneg w) := by
  intro x0 hw h
  cases h
  exact decode_packV _ _ _ (by decide) rfl (form_ok rfl hw)

theorem vexp2 (w : VWord) : Statement (.vexp2 w) := by
  intro x0 hw h
  cases h
  exact decode_packV _ _ _ (by decide) rfl (form_ok rfl hw)

theorem vlog2 (w : VWord) : Statement (.vlog2 w) := by
  intro x0 hw h
  cases h
  exact decode_packV _ _ _ (by decide) rfl (form_ok rfl hw)

theorem vand (w : VWord) : Statement (.vand w) := by
  intro x0 hw h
  cases h
  exact decode_packV _ _ _ (by decide) rfl (form_ok rfl hw)

theorem vor (w : VWord) : Statement (.vor w) := by
  intro x0 hw h
  cases h
  exact decode_packV _ _ _ (by decide) rfl (form_ok rfl hw)

theorem vxor (w : VWord) : Statement (.vxor w) := by
  intro x0 hw h
  cases h
  exact decode_packV _ _ _ (by decide) rfl (form_ok rfl hw)

theorem vshl (w : VWord) : Statement (.vshl w) := by
  intro x0 hw h
  cases h
  exact decode_packV _ _ _ (by decide) rfl (form_ok rfl hw)

theorem vshr (w : VWord) : Statement (.vshr w) := by
  intro x0 hw h
  cases h
  exact decode_packV _ _ _ (by decide) rfl (form_ok rfl hw)

theorem vsar (w : VWord) : Statement (.vsar w) := by
  intro x0 hw h
  cases h
  exact decode_packV _ _ _ (by decide) rfl (form_ok rfl hw)

theorem vadds (w : VWord) : Statement (.vadds w) := by
  intro x0 hw h
  cases h
  exact decode_packV _ _ _ (by decide) rfl (form_ok rfl hw)

theorem vsubs (w : VWord) : Statement (.vsubs w) := by
  intro x0 hw h
  cases h
  exact decode_packV _ _ _ (by decide) rfl (form_ok rfl hw)

theorem vmulh (w : VWord) : Statement (.vmulh w) := by
  intro x0 hw h
  cases h
  exact decode_packV _ _ _ (by decide) rfl (form_ok rfl hw)

theorem vpopc (w : VWord) : Statement (.vpopc w) := by
  intro x0 hw h
  cases h
  exact decode_packV _ _ _ (by decide) rfl (form_ok rfl hw)

theorem vceq (w : VWord) : Statement (.vceq w) := by
  intro x0 hw h
  cases h
  exact decode_packV _ _ _ (by decide) rfl (form_ok rfl hw)

theorem vcne (w : VWord) : Statement (.vcne w) := by
  intro x0 hw h
  cases h
  exact decode_packV _ _ _ (by decide) rfl (form_ok rfl hw)

theorem vclt (w : VWord) : Statement (.vclt w) := by
  intro x0 hw h
  cases h
  exact decode_packV _ _ _ (by decide) rfl (form_ok rfl hw)

theorem vcle (w : VWord) : Statement (.vcle w) := by
  intro x0 hw h
  cases h
  exact decode_packV _ _ _ (by decide) rfl (form_ok rfl hw)

theorem vclass (w : VWord) : Statement (.vclass w) := by
  intro x0 hw h
  cases h
  exact decode_packV _ _ _ (by decide) rfl (form_ok rfl hw)

theorem vsel (w : VWord) : Statement (.vsel w) := by
  intro x0 hw h
  cases h
  exact decode_packV _ _ _ (by decide) rfl (form_ok rfl hw)

theorem vmov (w : VWord) : Statement (.vmov w) := by
  intro x0 hw h
  cases h
  exact decode_packV _ _ _ (by decide) rfl (form_ok rfl hw)

theorem vbcst (w : VWord) : Statement (.vbcst w) := by
  intro x0 hw h
  cases h
  exact decode_packV _ _ _ (by decide) rfl (form_ok rfl hw)

theorem vcvt (w : VWord) : Statement (.vcvt w) := by
  intro x0 hw h
  cases h
  exact decode_packV _ _ _ (by decide) rfl (form_ok rfl hw)

theorem vtag (w : VWord) : Statement (.vtag w) := by
  intro x0 hw h
  cases h
  exact decode_packV _ _ _ (by decide) rfl (form_ok rfl hw)

theorem vround (w : VWord) : Statement (.vround w) := by
  intro x0 hw h
  cases h
  exact decode_packV _ _ _ (by decide) rfl (form_ok rfl hw)

theorem vscale (w : VWord) : Statement (.vscale w) := by
  intro x0 hw h
  cases h
  exact decode_packV _ _ _ (by decide) rfl (form_ok rfl hw)

theorem vqnt (w : VWord) : Statement (.vqnt w) := by
  intro x0 hw h
  cases h
  exact decode_packV _ _ _ (by decide) rfl (form_ok rfl hw)

theorem vdqnt (w : VWord) : Statement (.vdqnt w) := by
  intro x0 hw h
  cases h
  exact decode_packV _ _ _ (by decide) rfl (form_ok rfl hw)

theorem vrsum (w : VWord) : Statement (.vrsum w) := by
  intro x0 hw h
  cases h
  exact decode_packV _ _ _ (by decide) rfl (form_ok rfl hw)

theorem vrmax (w : VWord) : Statement (.vrmax w) := by
  intro x0 hw h
  cases h
  exact decode_packV _ _ _ (by decide) rfl (form_ok rfl hw)

theorem vrmin (w : VWord) : Statement (.vrmin w) := by
  intro x0 hw h
  cases h
  exact decode_packV _ _ _ (by decide) rfl (form_ok rfl hw)

theorem vror (w : VWord) : Statement (.vror w) := by
  intro x0 hw h
  cases h
  exact decode_packV _ _ _ (by decide) rfl (form_ok rfl hw)

theorem vperm (w : VWord) : Statement (.vperm w) := by
  intro x0 hw h
  cases h
  exact decode_packV _ _ _ (by decide) rfl (form_ok rfl hw)

theorem vslup (w : VWord) : Statement (.vslup w) := by
  intro x0 hw h
  cases h
  exact decode_packV _ _ _ (by decide) rfl (form_ok rfl hw)

theorem vsldn (w : VWord) : Statement (.vsldn w) := by
  intro x0 hw h
  cases h
  exact decode_packV _ _ _ (by decide) rfl (form_ok rfl hw)

theorem viota (w : VWord) : Statement (.viota w) := by
  intro x0 hw h
  cases h
  exact decode_packV _ _ _ (by decide) rfl (form_ok rfl hw)

theorem vroll (w : VWord) : Statement (.vroll w) := by
  intro x0 hw h
  cases h
  exact decode_packV _ _ _ (by decide) rfl (form_ok rfl hw)

theorem vmpop (w : VWord) : Statement (.vmpop w) := by
  intro x0 hw h
  cases h
  exact decode_packV _ _ _ (by decide) rfl (form_ok rfl hw)

theorem vmfirst (w : VWord) : Statement (.vmfirst w) := by
  intro x0 hw h
  cases h
  exact decode_packV _ _ _ (by decide) rfl (form_ok rfl hw)

theorem vzip (w : VWord) : Statement (.vzip w) := by
  intro x0 hw h
  cases h
  exact decode_packV _ _ _ (by decide) rfl (form_ok rfl hw)

theorem vunzip (w : VWord) : Statement (.vunzip w) := by
  intro x0 hw h
  cases h
  exact decode_packV _ _ _ (by decide) rfl (form_ok rfl hw)

theorem vmand (w : VWord) : Statement (.vmand w) := by
  intro x0 hw h
  cases h
  exact decode_packV _ _ _ (by decide) rfl (form_ok rfl hw)

theorem vmor (w : VWord) : Statement (.vmor w) := by
  intro x0 hw h
  cases h
  exact decode_packV _ _ _ (by decide) rfl (form_ok rfl hw)

theorem vmxor (w : VWord) : Statement (.vmxor w) := by
  intro x0 hw h
  cases h
  exact decode_packV _ _ _ (by decide) rfl (form_ok rfl hw)

theorem vmnot (w : VWord) : Statement (.vmnot w) := by
  intro x0 hw h
  cases h
  exact decode_packV _ _ _ (by decide) rfl (form_ok rfl hw)

theorem resultLanding (core ctx : Nat) : Statement (.resultLanding core ctx) := by
  intro w hw h
  cases h

theorem vectorConvoyStart (core ctx : Nat) : Statement (.vectorConvoyStart core ctx) := by
  intro w hw h
  cases h

theorem vectorMemberStart (core ctx : Nat) : Statement (.vectorMemberStart core ctx) := by
  intro w hw h
  cases h

theorem vectorConvoyRetire (core ctx : Nat) : Statement (.vectorConvoyRetire core ctx) := by
  intro w hw h
  cases h

theorem exitComplete (core ctx : Nat) : Statement (.exitComplete core ctx) := by
  intro w hw h
  cases h

theorem spanClose (core ctx : Nat) : Statement (.spanClose core ctx) := by
  intro w hw h
  cases h

theorem spanOverrun (core ctx : Nat) : Statement (.spanOverrun core ctx) := by
  intro w hw h
  cases h

theorem turnStart (core ctx : Nat) : Statement (.turnStart core ctx) := by
  intro w hw h
  cases h

theorem turnGroupFlip (core ctx : Nat) : Statement (.turnGroupFlip core ctx) := by
  intro w hw h
  cases h

theorem turnComplete (core ctx : Nat) : Statement (.turnComplete core ctx) := by
  intro w hw h
  cases h

theorem matrixCommandStart (core : Nat) : Statement (.matrixCommandStart core) := by
  intro w hw h
  cases h

theorem drainSectorWrite (core : Nat) : Statement (.drainSectorWrite core) := by
  intro w hw h
  cases h

theorem matrixCommandComplete (core : Nat) : Statement (.matrixCommandComplete core) := by
  intro w hw h
  cases h

theorem parrTakesEffect (core ctx : Nat) : Statement (.parrTakesEffect core ctx) := by
  intro w hw h
  cases h

theorem coreArrived (core : Nat) : Statement (.coreArrived core) := by
  intro w hw h
  cases h

theorem cbArrivalEffect (core ctx bar : Nat) : Statement (.cbArrivalEffect core ctx bar) := by
  intro w hw h
  cases h

theorem cbGenerationComplete (core bar : Nat) : Statement (.cbGenerationComplete core bar) := by
  intro w hw h
  cases h

theorem descriptorStart (core slot : Nat) : Statement (.descriptorStart core slot) := by
  intro w hw h
  cases h

theorem descriptorBeat (core slot : Nat) : Statement (.descriptorBeat core slot) := by
  intro w hw h
  cases h

theorem descriptorLanded (core slot : Nat) : Statement (.descriptorLanded core slot) := by
  intro w hw h
  cases h

theorem xfarHandoff (core slot : Nat) : Statement (.xfarHandoff core slot) := by
  intro w hw h
  cases h

theorem farSourceRead (core slot : Nat) : Statement (.farSourceRead core slot) := by
  intro w hw h
  cases h

theorem fillLand (core slot : Nat) : Statement (.fillLand core slot) := by
  intro w hw h
  cases h

theorem queueDrainEntry (core queue : Nat) : Statement (.queueDrainEntry core queue) := by
  intro w hw h
  cases h

theorem systemTrapEntry (sys : Nat) : Statement (.systemTrapEntry sys) := by
  intro w hw h
  cases h

theorem mboxSubWrite (v : BitVec 32) : Statement (.mboxSubWrite v) := by
  intro w hw h
  cases h

theorem mboxCmpWrite (v : BitVec 32) : Statement (.mboxCmpWrite v) := by
  intro w hw h
  cases h

theorem graphSliceNode (walk : Nat) : Statement (.graphSliceNode walk) := by
  intro w hw h
  cases h

theorem graphCondNode (walk : Nat) : Statement (.graphCondNode walk) := by
  intro w hw h
  cases h

theorem graphLoopNode (walk : Nat) : Statement (.graphLoopNode walk) := by
  intro w hw h
  cases h

theorem hctlHaltRequest (core ctx : Nat) : Statement (.hctlHaltRequest core ctx) := by
  intro w hw h
  cases h

theorem hctlRelease (core ctx : Nat) : Statement (.hctlRelease core ctx) := by
  intro w hw h
  cases h

theorem haltLanding (core ctx : Nat) : Statement (.haltLanding core ctx) := by
  intro w hw h
  cases h

theorem svdataRead (core : Nat) : Statement (.svdataRead core) := by
  intro w hw h
  cases h

theorem svdataWrite (core : Nat) (v : Word) : Statement (.svdataWrite core v) := by
  intro w hw h
  cases h

theorem registerWrite (bar off : Nat) (v : Word) : Statement (.registerWrite bar off v) := by
  intro w hw h
  cases h

theorem ecccntWrite (v : Word) : Statement (.ecccntWrite v) := by
  intro w hw h
  cases h

theorem hostWindowRead (off len : Nat) : Statement (.hostWindowRead off len) := by
  intro w hw h
  cases h

theorem hostWindowWrite (off len : Nat) (v : Nat) : Statement (.hostWindowWrite off len v) := by
  intro w hw h
  cases h

theorem scUnknownCommand (v : Word) : Statement (.scUnknownCommand v) := by
  intro w hw h
  cases h

theorem slotTableWrite (port entry : Nat) (v : Word) : Statement (.slotTableWrite port entry v) := by
  intro w hw h
  cases h

theorem flitTransmit (port : Nat) : Statement (.flitTransmit port) := by
  intro w hw h
  cases h

theorem flitReceive (port : Nat) (flit : BitVec 640) : Statement (.flitReceive port flit) := by
  intro w hw h
  cases h

theorem powerWarn (power temp : Nat) : Statement (.powerWarn power temp) := by
  intro w hw h
  cases h

theorem powerTrip (power temp : Nat) : Statement (.powerTrip power temp) := by
  intro w hw h
  cases h

theorem patrolScrub (sector : Nat) : Statement (.patrolScrub sector) := by
  intro w hw h
  cases h

theorem notAnInstruction (w : IWord) : Statement (.notAnInstruction w) := by
  intro x0 hw h
  cases h

theorem nop : Statement .nop := by
  intro w hw h
  cases h
  rw [decode_pack]
  rfl

theorem exit : Statement .exit := by
  intro w hw h
  cases h
  rw [decode_pack]
  rfl

theorem vrel : Statement .vrel := by
  intro w hw h
  cases h
  rw [decode_pack]
  rfl

theorem lfence : Statement .lfence := by
  intro w hw h
  cases h
  rw [decode_pack]
  rfl

theorem twait : Statement .twait := by
  intro w hw h
  cases h
  rw [decode_pack]
  rfl

theorem mswap : Statement .mswap := by
  intro w hw h
  cases h
  rw [decode_pack]
  rfl

theorem mwait : Statement .mwait := by
  intro w hw h
  cases h
  rw [decode_pack]
  rfl

theorem parr : Statement .parr := by
  intro w hw h
  cases h
  rw [decode_pack]
  rfl

theorem pwait : Statement .pwait := by
  intro w hw h
  cases h
  rw [decode_pack]
  rfl

theorem yield : Statement .yield := by
  intro w hw h
  cases h
  rw [decode_pack]
  rfl

theorem rft : Statement .rft := by
  intro w hw h
  cases h
  rw [decode_pack]
  rfl

theorem straggler : Statement .straggler := by
  intro w hw h
  cases h

theorem phaseChange : Statement .phaseChange := by
  intro w hw h
  cases h

theorem budgetExhausted : Statement .budgetExhausted := by
  intro w hw h
  cases h

theorem preemption : Statement .preemption := by
  intro w hw h
  cases h

theorem sliceStart : Statement .sliceStart := by
  intro w hw h
  cases h

theorem sliceResume : Statement .sliceResume := by
  intro w hw h
  cases h

theorem sliceCompletion : Statement .sliceCompletion := by
  intro w hw h
  cases h

theorem photonicWakeup : Statement .photonicWakeup := by
  intro w hw h
  cases h

theorem trapRecordEnqueue : Statement .trapRecordEnqueue := by
  intro w hw h
  cases h

theorem submitSlice : Statement .submitSlice := by
  intro w hw h
  cases h

theorem submitGraph : Statement .submitGraph := by
  intro w hw h
  cases h

theorem submitKill : Statement .submitKill := by
  intro w hw h
  cases h

theorem submitIgnored : Statement .submitIgnored := by
  intro w hw h
  cases h

theorem recordWrite : Statement .recordWrite := by
  intro w hw h
  cases h

theorem traceRecord : Statement .traceRecord := by
  intro w hw h
  cases h

theorem tbwpWrite : Statement .tbwpWrite := by
  intro w hw h
  cases h

theorem panicFreeze : Statement .panicFreeze := by
  intro w hw h
  cases h

theorem moduleReset : Statement .moduleReset := by
  intro w hw h
  cases h

theorem powerGood : Statement .powerGood := by
  intro w hw h
  cases h

theorem firmwareVerify : Statement .firmwareVerify := by
  intro w hw h
  cases h

theorem memoryTraining : Statement .memoryTraining := by
  intro w hw h
  cases h

theorem portTraining : Statement .portTraining := by
  intro w hw h
  cases h

theorem scerathLoad : Statement .scerathLoad := by
  intro w hw h
  cases h

theorem bootGo : Statement .bootGo := by
  intro w hw h
  cases h

theorem scReadPublicKey : Statement .scReadPublicKey := by
  intro w hw h
  cases h

theorem scAttest : Statement .scAttest := by
  intro w hw h
  cases h

theorem scReadSignatureIndex : Statement .scReadSignatureIndex := by
  intro w hw h
  cases h

theorem scCommandDone : Statement .scCommandDone := by
  intro w hw h
  cases h

theorem rotationBoundary : Statement .rotationBoundary := by
  intro w hw h
  cases h

theorem slotBoundary : Statement .slotBoundary := by
  intro w hw h
  cases h

end Sys2Proof.Laws.RoundTrip
end

