-- ==== Sys2Proof/Laws/Run.lean ====
section
/-! SUPPORT. What an instruction leaves once its body has answered: `completes` puts taking up, the body and retirement
together, and the lemmas after it read the final state off the body's. -/

namespace Sys2Proof.Laws

open Sys2Proof Sys2Proof.Machine Sys2Proof.Safety

/-! ## Completion -/

/-- The state after retirement: the body's, with the front-end fields of the context in focus moved on. -/
def closed (s2 : State) (cv : Option Cv) (loops : List LoopEnt) (pc : Nat) : State :=
  s2.setCur { s2.cur with cv := cv, loops := loops, pc := pc }

/-- A word that is taken up and whose body answers completes where control can go on. -/
theorem completes {i : Instr} {s s1 s2 : State} {v : Cv} {body : Nat → Body} (h : Taken i s v s1) (hb : body s.cur.pc s1 = .ok s2)
    (hg : Goes s v s2.cur.loops s2.cur.pc) : ∃ cv, issue i s body = .next (closed s2 cv (following s v s2.cur.loops s2.cur.pc).1
      (following s v s2.cur.loops s2.cur.pc).2) := by
  obtain ⟨t, ht⟩ := retire_goes hg
  obtain ⟨cv, rfl⟩ := retire_ok ht
  exact ⟨cv, issue_ok h hb ht⟩

/-- The same for a body that leaves the pc and the loop stack where taking up has put them. -/
theorem completes_on {i : Instr} {s s1 s2 : State} {v : Cv} {body : Nat → Body} (h : Taken i s v s1)
    (hg : Goes s v s.cur.loops (s.cur.pc + 32)) (hb : body s.cur.pc s1 = .ok s2) (hl : s2.cur.loops = s1.cur.loops)
    (hp : s2.cur.pc = s1.cur.pc) : ∃ cv, issue i s body = .next (closed s2 cv (following s v s.cur.loops (s.cur.pc + 32)).1
      (following s v s.cur.loops (s.cur.pc + 32)).2) := by
  have f := front_ok h.2.1
  have el : s2.cur.loops = s.cur.loops := hl.trans f.loops
  have ep : s2.cur.pc = s.cur.pc + 32 := hp.trans f.pc
  have := completes h hb (by rw [el, ep]; exact hg)
  rwa [el, ep] at this

section closed
variable (s2 : State) (cv : Option Cv) (l : List LoopEnt) (p : Nat)

@[simp] theorem cur_closed : (closed s2 cv l p).cur = { s2.cur with cv := cv, loops := l, pc := p } := by simp [closed]
theorem closed_reg (n : Reg) : (closed s2 cv l p).reg n = s2.reg n := by simp only [State.reg, cur_closed]; rfl
theorem closed_rest : rest (closed s2 cv l p).cur = rest s2.cur := by simp [rest]
theorem closed_spaceAt (q : Place) : (closed s2 cv l p).spaceAt q = s2.spaceAt q := onlyFocus_spaceAt (onlyFocus_setCur _ _) q
theorem closed_curCore : (closed s2 cv l p).curCore = s2.curCore.setCtx s2.focusCtx { s2.cur with cv := cv, loops := l, pc := p } :=
  curCore_setCur _ _
@[simp] theorem closed_slice : (closed s2 cv l p).slice = s2.slice := rfl
@[simp] theorem closed_disp : (closed s2 cv l p).disp = s2.disp := rfl
@[simp] theorem closed_now : (closed s2 cv l p).now = s2.now := rfl
@[simp] theorem closed_dbg : (closed s2 cv l p).dbg = s2.dbg := rfl
@[simp] theorem closed_focusCore : (closed s2 cv l p).focusCore = s2.focusCore := rfl
@[simp] theorem closed_focusCtx : (closed s2 cv l p).focusCtx = s2.focusCtx := rfl
@[simp] theorem closed_tlbi : (closed s2 cv l p).tlbi = s2.tlbi := rfl
@[simp] theorem closed_tlbiAll : (closed s2 cv l p).tlbiAll = s2.tlbiAll := rfl
end closed

theorem onlyFocus_closed {s t : State} (h : OnlyFocus s t) (cv : Option Cv) (l : List LoopEnt) (p : Nat) : OnlyFocus s (closed t cv l p) :=
  onlyFocus_set h _

/-! ## What taking up a word leaves readable -/

section fronted
variable {s s1 : State} {v : Cv}

theorem Fronted.reg (h : Fronted s v s1) (n : Reg) : s1.reg n = s.reg n := by
  have e := h.rest
  have w : s1.cur.wb = s.cur.wb := by
    have := congrArg Ctx.wb e
    exact this
  simp only [State.reg, Ctx.reg, h.regs, w]

/-- Any field of the context that `rest` keeps. -/
theorem Fronted.fld {α : Type} (h : Fronted s v s1) (f : Ctx → α) (hf : ∀ c, f (Safety.rest c) = f c) : f s1.cur = f s.cur := by
  rw [← hf s1.cur, h.rest, hf]

theorem Fronted.flg (h : Fronted s v s1) : s1.cur.flg = s.cur.flg := h.fld (·.flg) fun _ => rfl
theorem Fronted.wb (h : Fronted s v s1) : s1.cur.wb = s.cur.wb := h.fld (·.wb) fun _ => rfl
theorem Fronted.span (h : Fronted s v s1) : s1.cur.span = s.cur.span := h.fld (·.span) fun _ => rfl
theorem Fronted.rmode (h : Fronted s v s1) : s1.cur.rmode = s.cur.rmode := h.fld (·.rmode) fun _ => rfl
theorem Fronted.turns (h : Fronted s v s1) : s1.cur.turns = s.cur.turns := h.fld (·.turns) fun _ => rfl
theorem Fronted.turnAt (h : Fronted s v s1) : s1.cur.turnAt = s.cur.turnAt := h.fld (·.turnAt) fun _ => rfl
theorem Fronted.writes (h : Fronted s v s1) : s1.cur.writes = s.cur.writes := h.fld (·.writes) fun _ => rfl
theorem Fronted.vq (h : Fronted s v s1) : s1.cur.vq = s.cur.vq := h.fld (·.vq) fun _ => rfl
theorem Fronted.grant (h : Fronted s v s1) : s1.cur.grant = s.cur.grant := h.fld (·.grant) fun _ => rfl
theorem Fronted.vl (h : Fronted s v s1) : s1.cur.vl = s.cur.vl := h.fld (·.vl) fun _ => rfl
theorem Fronted.st (h : Fronted s v s1) : s1.cur.st = s.cur.st := h.fld (·.st) fun _ => rfl
theorem Fronted.unitFree (h : Fronted s v s1) : s1.cur.unitFree = s.cur.unitFree := h.fld (·.unitFree) fun _ => rfl
theorem Fronted.atomAt (h : Fronted s v s1) : s1.cur.atomAt = s.cur.atomAt := h.fld (·.atomAt) fun _ => rfl
theorem Fronted.xacc (h : Fronted s v s1) : s1.cur.xacc = s.cur.xacc := h.fld (·.xacc) fun _ => rfl

theorem Fronted.focusCore (h : Fronted s v s1) : s1.focusCore = s.focusCore := onlyFocus_focusCore h.only
theorem Fronted.focusCtx (h : Fronted s v s1) : s1.focusCtx = s.focusCtx := onlyFocus_focusCtx h.only
theorem Fronted.now (h : Fronted s v s1) : s1.now = s.now := onlyFocus_now h.only

/-- Any field of the state but the cores. -/
theorem Fronted.dev {α : Type} (h : Fronted s v s1) (f : State → α) (hf : ∀ (s : State) (c : SMap Core), f { s with cores := c } = f s) :
    f s1 = f s := by
  obtain ⟨c, vc, rfl⟩ := h.only
  exact hf s _

theorem Fronted.slice (h : Fronted s v s1) : s1.slice = s.slice := h.dev (·.slice) fun _ _ => rfl
theorem Fronted.disp (h : Fronted s v s1) : s1.disp = s.disp := h.dev (·.disp) fun _ _ => rfl
theorem Fronted.phc (h : Fronted s v s1) : s1.phc = s.phc := h.dev (·.phc) fun _ _ => rfl
theorem Fronted.dbg (h : Fronted s v s1) : s1.dbg = s.dbg := h.dev (·.dbg) fun _ _ => rfl
theorem Fronted.free (h : Fronted s v s1) : s1.free = s.free := h.dev (·.free) fun _ _ => rfl
theorem Fronted.lr (h : Fronted s v s1) : s1.lr = s.lr := by simp [State.lr, h.slice]
theorem Fronted.onSys (h : Fronted s v s1) : s1.onSys = s.onSys := by simp [State.onSys, h.focusCore]
theorem Fronted.exchange (h : Fronted s v s1) : s1.exchange = s.exchange := by simp [State.exchange, h.phc]

/-- Any field of the core in focus but its contexts and its VCYC. -/
theorem Fronted.core {α : Type} (h : Fronted s v s1) (f : Core → α)
    (hf : ∀ (k : Core) (x : SMap Ctx) (c : Clock), f { k with ctxs := x, vcyc := c } = f k) : f s1.curCore = f s.curCore := by
  obtain ⟨c, vc, rfl⟩ := h.only
  simp only [State.curCore, setCore_focusCore, core_setCore_self]
  exact hf _ _ _

theorem Fronted.loc (h : Fronted s v s1) : s1.curCore.loc = s.curCore.loc := h.core (·.loc) fun _ _ _ => rfl
theorem Fronted.me (h : Fronted s v s1) : s1.curCore.me = s.curCore.me := h.core (·.me) fun _ _ _ => rfl
theorem Fronted.queues (h : Fronted s v s1) : s1.curCore.queues = s.curCore.queues := h.core (·.queues) fun _ _ _ => rfl
theorem Fronted.bars (h : Fronted s v s1) : s1.curCore.bars = s.curCore.bars := h.core (·.bars) fun _ _ _ => rfl
theorem Fronted.spaceAt (h : Fronted s v s1) (p : Place) : s1.spaceAt p = s.spaceAt p := onlyFocus_spaceAt h.only p
end fronted

/-! ## VCYC is read the same after it has been held or let go -/

theorem read_hold (c : Clock) (now : Nat) : (c.hold now).read now = c.read now := by simp [Clock.hold, Clock.read]
theorem read_go (c : Clock) (now : Nat) : (c.go now).read now = c.read now := by
  unfold Clock.go
  split
  · rfl
  · rename_i h; simp [Clock.read, h]

theorem vcycOf_fixVcyc (s : State) (c d : Nat) : (s.fixVcyc c).vcycOf d = s.vcycOf d := by
  by_cases e : d = c
  · subst e
    simp only [State.vcycOf, State.fixVcyc, core_modCore_self, modCore_now]
    split
    · rw [read_go]
    · rw [read_hold]
  · simp only [State.vcycOf, State.fixVcyc, core_modCore_ne _ _ e, modCore_now]

theorem vcycOf_setCur (s : State) (c : Ctx) (d : Nat) : (s.setCur c).vcycOf d = s.vcycOf d := by
  by_cases e : d = s.focusCore
  · subst e; simp [State.vcycOf, State.setCur, State.setCtx, Core.setCtx]
  · simp [State.vcycOf, State.setCur, State.setCtx, core_setCore_ne _ _ e]

/-! ## Results -/

/-- A result of latency 1 in a register. -/
theorem result_one (s : State) (d : Reg) (x : Word) : (s.result d x 1).reg d = (if d = 0 then 0 else x)
    ∧ (∀ n, n ≠ d → (s.result d x 1).reg n = s.reg n) ∧ rest (s.result d x 1).cur = rest s.cur ∧ OnlyFocus s (s.result d x 1)
    ∧ (s.result d x 1).cur.loops = s.cur.loops ∧ (s.result d x 1).cur.pc = s.cur.pc := by
  have key : ∀ h : ¬ d = 0, (s.cur.result s.now d x 1) =
      ({ s.cur with land := s.cur.land.map fun (l : Landing) =>
        if l.reg = physReg s.cur.wb d.toNat ∧ l.cycle ≤ s.now + 1 then { l with reg := 0 } else l } : Ctx).setReg d x := by
    intro h
    unfold Ctx.result Ctx.setReg
    rw [if_neg h, if_neg h]
    exact if_pos (Nat.le_refl 1)
  by_cases h : d = 0
  · subst h
    have e : s.cur.result s.now 0 x 1 = s.cur := by simp [Ctx.result]
    simp only [State.result, e, cur_setCur, State.reg, reg_zero, if_true]
    exact ⟨trivial, fun _ _ => trivial, trivial, onlyFocus_setCur _ _, trivial, trivial⟩
  · simp only [State.result, key h, cur_setCur, if_neg h, State.reg]
    refine ⟨reg_setReg_self _ h _, fun n hn => ?_, ?_, onlyFocus_setCur _ _, ?_, ?_⟩
    · rw [reg_setReg_ne _ hn]; rfl
    all_goals (unfold Ctx.setReg; rw [if_neg h]; rfl)

/-- A result that lands later. -/
theorem result_late (s : State) (d : Reg) (x : Word) {n : Nat} (hn : 1 < n) (fl : BitVec 7) (b : Bool) :
    s.result d x n fl b = s.setCur { s.cur with
      land := s.cur.land ++ (if d = 0 then [] else
        [{ cycle := s.now + n, reg := physReg s.cur.wb d.toNat, val := x, flags := fl, load := b, inSpan := s.cur.span.isSome }])
      doneAt := if d = 0 then Nat.max s.cur.doneAt (s.now + n) else s.cur.doneAt } := by
  unfold State.result Ctx.result
  split <;> simp [show ¬ n ≤ 1 by omega]

end Sys2Proof.Laws
end

