-- ==== Sys2Proof/Laws/Vector.lean ====
section
/-! SUPPORT. What the writes of elements, mask bits and exponent bytes do to a context. -/
namespace Sys2Proof.Laws
open Sys2Proof Sys2Proof.Machine

/-- The part of a field that does not meet the bits just set keeps its value. -/
theorem field_setField_ne (x p n v k l : Nat) (h : k + l ≤ p ∨ p + n ≤ k) : (setField x p n v >>> k) % 2 ^ l = (x >>> k) % 2 ^ l := by
  apply Nat.eq_of_testBit_eq
  intro i
  simp only [Nat.testBit_mod_two_pow, Nat.testBit_shiftRight, testBit_setField]
  by_cases hi : i < l
  · simp only [hi, decide_true, Bool.true_and]; rw [if_neg (by omega)]
  · simp [hi]

theorem vreg_setVreg_self (c : Ctx) (n : Nat) (x : BitVec 2048) : (c.setVreg n x).vreg n = x := by simp [Ctx.vreg, Ctx.setVreg]
theorem vreg_setVreg_ne (c : Ctx) {n k : Nat} (x : BitVec 2048) (h : k ≠ n) : (c.setVreg n x).vreg k = c.vreg k := by
  simp only [Ctx.vreg, Ctx.setVreg]; exact get_set_ne _ _ _ h

/-- Elements of one group and width: what is read after one of them is written. -/
theorem elem_setElem (c : Ctx) (base s e e' x : Nat) (hs : 0 < s) (hg : c.grant ≤ 64) (hq : s ≤ c.grant * 32) :
    (c.setElem base s e x).elem base s e' = if e' = e then x % 2 ^ s else c.elem base s e' := by
  have hq0 : 0 < c.slots s := Nat.div_pos hq hs
  have hslot : ∀ i, s * (i % c.slots s) + s ≤ 2048 := by
    intro i
    have h1 := Nat.mod_lt i hq0
    have h2 : s * c.slots s ≤ c.grant * 32 := Nat.mul_div_le _ _
    have h3 : s * (i % c.slots s + 1) ≤ s * c.slots s := Nat.mul_le_mul_left _ h1
    rw [Nat.mul_add] at h3; omega
  have hsl : (c.setElem base s e x).slots s = c.slots s := rfl
  unfold Ctx.elem
  dsimp only
  rw [hsl]
  by_cases hr : e' / c.slots s = e / c.slots s
  · have hb : ∀ n v, (BitVec.ofNat 2048 (setField (c.vreg n).toNat (s * (e % c.slots s)) s v)).toNat
        = setField (c.vreg n).toNat (s * (e % c.slots s)) s v := by
      intro n v
      exact (BitVec.toNat_ofNat _ _).trans (Nat.mod_eq_of_lt (setField_lt _ _ _ _ _ (c.vreg n).isLt (hslot e)))
    rw [hr]
    unfold Ctx.setElem
    dsimp only
    rw [vreg_setVreg_self, hb]
    by_cases he : e' = e
    · subst he; rw [if_pos rfl, setField_field]
    · rw [if_neg he]
      apply field_setField_ne
      have hne : e' % c.slots s ≠ e % c.slots s := by
        intro h; apply he
        rw [← Nat.div_add_mod e' (c.slots s), ← Nat.div_add_mod e (c.slots s), hr, h]
      rcases Nat.lt_or_gt_of_ne hne with h | h
      · left
        have := Nat.mul_le_mul_left s (show e' % c.slots s + 1 ≤ e % c.slots s from h)
        rw [Nat.mul_add] at this; omega
      · right
        have := Nat.mul_le_mul_left s (show e % c.slots s + 1 ≤ e' % c.slots s from h)
        rw [Nat.mul_add] at this; omega
  · rw [if_neg (fun h => hr (by rw [h]))]
    unfold Ctx.setElem
    dsimp only
    rw [vreg_setVreg_ne _ _ (by omega)]

@[simp] theorem setElem_grant (c : Ctx) (b s e x : Nat) : (c.setElem b s e x).grant = c.grant := rfl

theorem setElems_grant (l : List (Nat × Nat)) : ∀ (c : Ctx) (b s : Nat), (c.setElems b s l).grant = c.grant := by
  induction l with
  | nil => intro c b s; rfl
  | cons p r ih => intro c b s; exact ih _ b s

/-- The last value that a list gives an element, if any. -/
def lastOf (l : List (Nat × Nat)) (e : Nat) : Option Nat := (l.reverse.find? (·.1 == e)).map (·.2)

/-- After a list of elements is written, an element reads as the last value that the list gives it. -/
theorem elem_setElems (l : List (Nat × Nat)) : ∀ (c : Ctx) (base s e : Nat), 0 < s → c.grant ≤ 64 → s ≤ c.grant * 32 →
    (c.setElems base s l).elem base s e = match lastOf l e with | some x => x % 2 ^ s | none => c.elem base s e := by
  induction l with
  | nil => intros; rfl
  | cons p r ih =>
    intro c base s e hs hg hq
    have h := ih (c.setElem base s p.1 p.2) base s e hs hg hq
    have e1 : c.setElems base s (p :: r) = (c.setElem base s p.1 p.2).setElems base s r := rfl
    rw [e1, h, elem_setElem c base s p.1 e p.2 hs hg hq]
    simp only [lastOf, List.reverse_cons, List.find?_append]
    cases hf : r.reverse.find? (·.1 == e) with
    | some q => simp
    | none =>
      by_cases hp : p.1 = e
      · simp [hp]
      · simp [hp, Ne.symm hp]

/-- Values computed for a list of distinct elements. -/
theorem lastOf_map (es : List Nat) (f : Nat → Nat) (e : Nat) :
    lastOf (es.map fun i => (i, f i)) e = if e ∈ es then some (f e) else none := by
  unfold lastOf
  rw [← List.map_reverse, List.find?_map]
  cases h : es.reverse.find? ((fun x => x.1 == e) ∘ fun i => (i, f i)) with
  | none =>
    have : e ∉ es := by
      intro hm
      have := List.find?_eq_none.mp h e (List.mem_reverse.mpr hm)
      simp at this
    simp [this]
  | some i =>
    have h1 := List.find?_some h
    have h2 := List.mem_of_find?_eq_some h
    simp only [Function.comp, beq_iff_eq] at h1
    subst h1
    simp [List.mem_reverse.mp h2]

@[simp] theorem setTag_v (c : Ctx) (n t : Nat) : (c.setTag n t).v = c.v := rfl
@[simp] theorem setTag_grant (c : Ctx) (n t : Nat) : (c.setTag n t).grant = c.grant := rfl

theorem foldl_setTag (l : List Nat) : ∀ (c : Ctx) (t : Nat), (l.foldl (fun c r => c.setTag r t) c).v = c.v
    ∧ (l.foldl (fun c r => c.setTag r t) c).grant = c.grant := by
  induction l with
  | nil => intro c t; exact ⟨rfl, rfl⟩
  | cons r l ih => intro c t; exact ih (c.setTag r t) t

@[simp] theorem setTags_v (c : Ctx) (b t n : Nat) : (c.setTags b t n).v = c.v := (foldl_setTag _ c t).1
@[simp] theorem setTags_grant (c : Ctx) (b t n : Nat) : (c.setTags b t n).grant = c.grant := (foldl_setTag _ c t).2

theorem elem_setTags (c : Ctx) (b t n base s e : Nat) : (c.setTags b t n).elem base s e = c.elem base s e := by
  simp [Ctx.elem, Ctx.slots, Ctx.vreg]

/-- An operation over a list of elements writes those and leaves the others. -/
theorem elem_mapElems (c : Ctx) (es : List Nat) (base s t : Nat) (f : Nat → FRes) (e : Nat) (hs : 0 < s) (hg : c.grant ≤ 64)
    (hq : s ≤ c.grant * 32) :
    (c.mapElems es base s t f).c.elem base s e = if e ∈ es then (f e).1 % 2 ^ s else c.elem base s e := by
  unfold Ctx.mapElems
  dsimp only
  rw [elem_setTags, elem_setElems _ _ _ _ _ hs hg hq, List.map_map]
  have : ((fun r : Nat × FRes => (r.1, r.2.1)) ∘ fun e => (e, f e)) = fun e => (e, (f e).1) := rfl
  rw [this, lastOf_map]
  split <;> simp_all

theorem mem_rangeFrom (n : Nat) : ∀ (a x : Nat), x ∈ rangeFrom a n ↔ a ≤ x ∧ x < a + n := by
  induction n with
  | zero => intro a x; simp [rangeFrom]
  | succ n ih => intro a x; simp only [rangeFrom, List.mem_cons, ih]; omega

theorem mem_activeElems (c : Ctx) (e : Nat) : e ∈ c.activeElems ↔ c.active e = true := by
  unfold Ctx.activeElems
  rw [List.mem_filter, mem_rangeFrom]
  constructor
  · exact fun h => h.2
  · intro h
    have h' := h
    unfold Ctx.active at h'
    rw [Bool.and_eq_true] at h'
    exact ⟨⟨Nat.zero_le _, by have := of_decide_eq_true h'.1; omega⟩, h⟩

/-! ## Masks -/

theorem testBit_setOne (n p : Nat) (b : Bool) (e : Nat) : (setField n p 1 b.toNat).testBit e = if e = p then b else n.testBit e := by
  rw [testBit_setField]
  by_cases h : e = p
  · subst h; rw [if_pos (by omega), if_pos rfl, Nat.sub_self]; cases b <;> rfl
  · rw [if_neg (by omega), if_neg h]

theorem testBit_setAll (es : List Nat) (f : Nat → Bool) (e : Nat) : ∀ n : Nat,
    ((es.map fun i => (i, f i)).foldl (fun n p => setField n p.1 1 p.2.toNat) n).testBit e = if e ∈ es then f e else n.testBit e := by
  induction es with
  | nil => intro n; simp
  | cons i r ih =>
    intro n
    simp only [List.map_cons, List.foldl_cons, List.mem_cons]
    rw [ih, testBit_setOne]
    by_cases h1 : e ∈ r
    · simp [h1]
    · by_cases h2 : e = i
      · simp [h2]
      · simp [h1, h2]

/-- Mask bits after a list of elements is given truth values. -/
theorem maskBit_setBits (c : Ctx) (n : Nat) (es : List Nat) (f : Nat → Bool) (e : Nat) (he : e < 2048) :
    (c.setMask n (setBits (c.mask n) (es.map fun i => (i, f i)))).maskBit n e = if e ∈ es then f e else c.maskBit n e := by
  unfold Ctx.maskBit Ctx.setMask Ctx.mask
  dsimp only
  rw [get_set_self]
  unfold setBits
  rw [BitVec.getLsbD, BitVec.toNat_ofNat, Nat.testBit_mod_two_pow, testBit_setAll]
  simp [he, BitVec.getLsbD]

end Sys2Proof.Laws
end

