-- ==== Sys2Proof/Tests/Slice0.lean ====
section
/-! SUPPORT. Tests: words written out from the tables of the spec, ill-formed terms, single steps, and for every statement
with hypotheses a state and operands that meet them. Expected results are read from the rules that the comments name. -/

namespace Sys2Proof.Tests

set_option Elab.async false

open Sys2Proof Sys2Proof.Machine Sys2Proof.Safety Sys2Proof.Claims

/-! ## Words -/

/-- R46: ALU is opcode 01h. -/
theorem test_decode_alu :
    decode 0b0000001_0000001_0000010_0000011_0001 = .ok (.sub 1 2 3)
    ∧ decode 0b0000001_0000001_0000010_0000011_0111 = .ok (.sar 1 2 3)
    ∧ decode 0b0000001_0000001_0000010_0000011_1001 = .ok (.max 1 2 3)
    ∧ decode 0b0000001_0000001_0000010_0000011_1100 = .ok (.sel 1 2 3) := by
  decide

/-- R46: MULDIV is 02h. -/
theorem test_decode_muldiv :
    decode 0b0000010_0000001_0000010_0000011_0010 = .ok (.mulhn 1 2 3)
    ∧ decode 0b0000010_0000001_0000010_0000011_0011 = .ok (.div 1 2 3)
    ∧ decode 0b0000010_0000001_0000010_0000011_0110 = .ok (.remn 1 2 3) := by
  decide

/-- R46: CMP is 03h. -/
theorem test_decode_cmp :
    decode 0b0000011_0000001_0000010_0000011_0000 = .ok (.cmpeq 1 2 3)
    ∧ decode 0b0000011_0000001_0000010_0000011_0101 = .ok (.cmplen 1 2 3) := by
  decide

/-- R46: BIT is 04h; CLZ and BREV use D and A. -/
theorem test_decode_bit :
    decode 0b0000100_0000001_0000010_0000000_0000 = .ok (.clz 1 2)
    ∧ decode 0b0000100_0000001_0000010_0000011_0100 = .ok (.bins 1 2 3)
    ∧ decode 0b0000100_0000001_0000010_0000000_0101 = .ok (.brev 1 2) := by
  decide

/-- R44, R45; the first word is that of the worked program, 0A50A7FFh. -/
theorem test_decode_imm :
    decode 0x0A50A7FF = .ok (.addi 20 20 0x7FF)
    ∧ decode 0b0000111_0000001_0000010_00000000101 = .ok (.ori 1 2 5)
    ∧ decode 0b0001011_0000001_0000010_00000111111 = .ok (.sari 1 2 63)
    ∧ decode 0b0001100_0000001_101010101010101010 = .ok (.li 1 0x2AAAA)
    ∧ decode 0b0001101_0000001_000000000000000001 = .ok (.lis 1 1) := by
  decide

/-- R103: MFS 0Eh, MTS 0Fh, WIN 17h. -/
theorem test_decode_special :
    decode 0b0001110_0000001_0000000_00000001111 = .ok (.mfs 1 0xF)
    ∧ decode 0b0001111_0000001_0000000_00000010000 = .ok (.mts 1 0x10)
    ∧ decode 0b0010111_0000000_0000000_11111111111 = .ok (.win 0x7FF) := by
  decide

/-- R46: FP32 10h, FP64 11h. -/
theorem test_decode_fp :
    decode 0b0010000_0000001_0000010_0000011_0000 = .ok (.fadd false 1 2 3)
    ∧ decode 0b0010001_0000001_0000010_0000000_0100 = .ok (.fsqrt true 1 2)
    ∧ decode 0b0010001_0000001_0000010_0000011_1100 = .ok (.fma true 1 2 3) := by
  decide

/-- R52: PADD 12h to PCLS 16h with W in F. -/
theorem test_decode_pointer :
    decode 0b0010010_0000001_0000010_0000011_1001 = .ok (.padd 1 2 3 9)
    ∧ decode 0b0010100_0000001_0000010_0000011_0000 = .ok (.pdiff 1 2 3 0)
    ∧ decode 0b0010110_0000001_0000010_0000000_1110 = .ok (.pcls 1 2 0xE) := by
  decide

/-- R44, R47; the worked words 3C002800h and 3453FFFCh. -/
theorem test_decode_control :
    decode 0x3C002800 = .ok (.guardNz 5)
    ∧ decode 0x3453FFFC = .ok (.bnz 20 0x3FFFC)
    ∧ decode 0b0011000_0000000_111111111111111111 = .ok (.br 0x3FFFF)
    ∧ decode 0b0011011_0000001_000000000000000010 = .ok (.call 1 2)
    ∧ decode 0b0011100_0000001_0000010_0000000_0000 = .ok (.jr 1 2)
    ∧ decode 0b0011101_0000001_000000000000000010 = .ok (.loop 1 2)
    ∧ decode 0b0011110_0000001_0000010_0000011_0101 = .ok (.setl 1 2 3)
    ∧ decode 0b0011110_0000000_0000010_0000000_0110 = .ok (.vpart 2)
    ∧ decode 0b0011110_0000000_0000000_0000111_0111 = .ok (.msel 7)
    ∧ decode 0b0011111_0000000_0000000_00100000000 = .ok (.span 256) := by
  decide

/-- R44, R52: LD 20h to STO 24h. -/
theorem test_decode_memory :
    decode 0b0100000_0000001_0000010_0000011_1001 = .ok (.ld 1 2 3 9)
    ∧ decode 0b0100010_0000001_0000010_0000011_1000 = .ok (.st 1 2 3 8)
    ∧ decode 0b0100011_0000001_0000010_10000000000 = .ok (.ldo 1 2 0x400)
    ∧ decode 0b0100100_0000001_0000010_00000000001 = .ok (.sto 1 2 1) := by
  decide

/-- R48: VMEM 25h. -/
theorem test_decode_vmem :
    decode 0b0100101_0000001_0000010_0011011_0000 = .ok (.vld 1 2 0x1B)
    ∧ decode 0b0100101_0000001_0000010_0000011_0101 = .ok (.vstt 1 2 3)
    ∧ decode 0b0100101_0000001_0000010_0000011_0110 = .ok (.vldb 1 2 3) := by
  decide

/-- R48: QUEUE 26h with the queue number in B. -/
theorem test_decode_queue :
    decode 0b0100110_0000001_0000010_0001111_0000 = .ok (.qpop 1 2 15)
    ∧ decode 0b0100110_0000001_0000010_0001111_0001 = .ok (.qpush 1 2 15)
    ∧ decode 0b0100110_0000000_0000010_0000011_0010 = .ok (.qwait 2 3)
    ∧ decode 0b0100110_0000001_0000000_0000011_0011 = .ok (.qstat 1 3) := by
  decide

/-- R48; the example words of R140. -/
theorem test_decode_layout :
    decode 0x4E144000 = .ok (.ltset 5 8)
    ∧ decode 0x4E202801 = .ok (.ltget 8 5)
    ∧ decode 0b0100111_0000000_0000000_0000000_0010 = .ok (.lfence) := by
  decide

/-- R49; the worked word 50082050h, and TURN.SLICE.SV with D = 23h. -/
theorem test_decode_turn :
    decode 0x50082050 = .ok (.turn 0 2 4 5)
    ∧ decode 0b0101000_0100011_0000001_0000010_0000 = .ok (.turn 2 3 1 2)
    ∧ decode 0b0101000_1001111_0000001_0000000_0001 = .ok (.turnt 4 15 1)
    ∧ decode 0b0101000_0000000_0000000_0000000_0010 = .ok (.twait)
    ∧ decode 0b0101000_0000001_0000010_0000000_0011 = .ok (.tstat 1 2) := by
  decide

/-- R274: its five example encodings. -/
theorem test_decode_atomic :
    decode 0x58102860 = .ok (.aadd false 0 4 5 6)
    ∧ decode 0x58902869 = .ok (.acas false 1 4 5 6)
    ∧ decode 0x5900286C = .ok (.ast false 2 5 6)
    ∧ decode 0x5A9C280B = .ok (.ald true 1 7 5)
    ∧ decode 0x5A20289A = .ok (.afadd true 0 8 5 9) := by
  decide

/-- R51: MATRIX 30h. -/
theorem test_decode_matrix :
    decode 0b0110000_0000001_0000010_0000000_0000 = .ok (.mshape 1 2)
    ∧ decode 0b0110000_0000000_0000010_0000000_0001 = .ok (.mldw 2)
    ∧ decode 0b0110000_0000000_0000010_0000100_0110 = .ok (.mgrd 2 4)
    ∧ decode 0b0110000_0000000_0000010_0000011_0111 = .ok (.mdrain 2 3)
    ∧ decode 0b0110000_0000000_0000000_0000011_1000 = .ok (.mzero 3)
    ∧ decode 0b0110000_0000001_0000000_0000000_1011 = .ok (.mstat 1) := by
  decide

/-- R51: EXCH 38h. -/
theorem test_decode_exchange :
    decode 0b0111000_0000001_0000010_0000000_0000 = .ok (.xfer 1 2)
    ∧ decode 0b0111000_0000001_0000010_0000000_0100 = .ok (.xfar 1 2)
    ∧ decode 0b0111000_0000000_0000000_0000011_0101 = .ok (.xstat 3) := by
  decide

/-- R51: PHASE 3Ch. -/
theorem test_decode_phase :
    decode 0b0111100_0000000_0000000_0000000_0000 = .ok (.parr)
    ∧ decode 0b0111100_0000000_0000001_0000010_0010 = .ok (.cbarr 1 2)
    ∧ decode 0b0111100_0000000_0000000_0000000_0100 = .ok (.yield)
    ∧ decode 0b0111100_0000001_0000000_0000000_0101 = .ok (.ptest 1) := by
  decide

/-- R51: SYS 3Dh. -/
theorem test_decode_system :
    decode 0b0111101_0000000_0000000_1111111_0000 = .ok (.trap 0x7F)
    ∧ decode 0b0111101_0000000_0000000_0000000_0001 = .ok (.rft)
    ∧ decode 0b0111101_0000001_0000010_0000011_0101 = .ok (.slkill 1 2 3)
    ∧ decode 0b0111101_0000000_0000010_0000011_0110 = .ok (.resume 2 3) := by
  decide

/-- R51: DBG 3Eh. -/
theorem test_decode_debug :
    decode 0b0111110_0000000_0000000_0000001_0000 = .ok (.brk 1)
    ∧ decode 0b0111110_0000000_0000001_0000000_0010 = .ok (.dmark 1) := by
  decide

/-- R35, R38, R44; the worked words 84200074h and 8040404Ah. -/
theorem test_decode_vector :
    decode 0x84200074 = .ok (.vmul ⟨8, 0, 7, false, 4⟩)
    ∧ decode 0x8040404A = .ok (.vadd ⟨16, 8, 4, true, 2⟩)
    ∧ decode 0b1100010_0000001_0000010_0011011_1_110 = .ok (.vcvt ⟨1, 2, 0x1B, true, 6⟩)
    ∧ decode 0b1110000_0000001_0000010_0000011_0_101 = .ok (.vroll ⟨1, 2, 3, false, 5⟩)
    ∧ decode 0b1111001_0000001_0000010_0000000_1_000 = .ok (.vmnot ⟨1, 2, 0, true, 0⟩) := by
  decide

/-- R44, R53: opcodes 00h, 29h, 31h and 75h. -/
theorem test_reject_reserved_opcode :
    decode 0x00000000 = .error .reservedOpcode
    ∧ decode 0b0101001_0000000_0000000_0000000_0000 = .error .reservedOpcode
    ∧ decode 0b0110001_0000000_0000000_0000000_0000 = .error .reservedOpcode
    ∧ decode 0b1110101_0000001_0000010_0000011_1_000 = .error .reservedOpcode := by
  decide

/-- R46, R47, R51: a dash in a map. -/
theorem test_reject_reserved_subfunction :
    decode 0b0000001_0000001_0000010_0000011_1101 = .error .reservedSubfunction
    ∧ decode 0b0011110_0000000_0000000_0000000_1000 = .error .reservedSubfunction
    ∧ decode 0b0111101_0000000_0000000_0000000_0111 = .error .reservedSubfunction
    ∧ decode 0b0101100_0000001_0000010_0000011_1101 = .error .reservedSubfunction := by
  decide

/-- R52: W = Fh. -/
theorem test_reject_reserved_width :
    decode 0b0010010_0000001_0000010_0000011_1111 = .error .reservedWidth
    ∧ decode 0b0100000_0000001_0000010_0000011_1111 = .error .reservedWidth := by
  decide

/-- R37, R274: a nonzero bit where no field is. -/
theorem test_reject_unused_field :
    decode 0b0000100_0000001_0000010_0000011_0000 = .error .unusedField
    ∧ decode 0b0011110_0000001_0000000_0000000_0010 = .error .unusedField
    ∧ decode 0b0011000_0000001_000000000000000000 = .error .unusedField
    ∧ decode 0b0101100_0000001_0000010_0000011_1100 = .error .unusedField
    ∧ decode 0b0101100_0000001_0000010_0000011_1011 = .error .unusedField
    ∧ decode 0b1000111_0000001_0000010_0000011_1_000 = .error .unusedField := by
  decide

/-- R38, R179: an FC that the operand-case table does not list. -/
theorem test_reject_unlisted_form :
    decode 0b1000111_0000001_0000010_0000000_1_001 = .error .unlistedForm
    ∧ decode 0b1101101_0000001_0000010_0000011_1_000 = .error .unlistedForm := by
  decide

/-! ## Ill-formed terms -/

/-- R37, R38, R52, R179: fields that no word can carry. -/
theorem test_illFormed_words :
    WellFormed (.vsqrt ⟨1, 2, 0, true, 1⟩) = false ∧ WellFormed (.vsqrt ⟨1, 2, 3, true, 0⟩) = false
    ∧ WellFormed (.viota ⟨1, 2, 3, true, 6⟩) = false ∧ WellFormed (.vbcst ⟨1, 2, 3, true, 2⟩) = false
    ∧ WellFormed (.vroll ⟨1, 2, 3, true, 6⟩) = false ∧ WellFormed (.vcvt ⟨1, 2, 3, true, 0⟩) = false
    ∧ WellFormed (.ld 1 2 3 0xF) = false ∧ WellFormed (.padd 1 2 3 0xF) = false ∧ WellFormed (.pcls 1 2 0xF) = false := by
  decide

/-- R8, R10, R16, R237, R350: units that the device does not have. -/
theorem test_illFormed_units :
    WellFormed (.resultLanding 1032 0) = false ∧ WellFormed (.resultLanding 0 4) = false ∧ WellFormed (.coreArrived 1024) = false
    ∧ WellFormed (.cbArrivalEffect 0 0 4) = false ∧ WellFormed (.cbGenerationComplete 0 4) = false
    ∧ WellFormed (.descriptorStart 1024 0) = false ∧ WellFormed (.queueDrainEntry 0 16) = false
    ∧ WellFormed (.systemTrapEntry 8) = false ∧ WellFormed (.slotTableWrite 48 0 0) = false
    ∧ WellFormed (.slotTableWrite 0 64 0) = false ∧ WellFormed (.flitTransmit 48) = false := by
  decide

/-- Terms that the checks accept. -/
theorem test_wellFormed : WellFormed (.vsqrt ⟨1, 2, 0, true, 2⟩) = true ∧ WellFormed (.ld 1 2 3 9) = true
    ∧ WellFormed (.systemTrapEntry 7) = true := by
  decide

/-! ## Small states -/

/-- Whether word i is taken up, with a condition on its convoy and the state in which it acts. -/
def takes (i : Instr) (s : State) (p : Cv → State → Bool) : Bool :=
  s.fetching && match s.front i with
    | .ok (v, s1) => !v.failed && p v s1
    | .error _ => false

/-- Whether it also goes on. -/
def issues (i : Instr) (s : State) (p : Cv → State → Bool) : Bool :=
  takes i s fun v s1 => (decide (v.idx + 1 < v.n) || fetchable (following s v s.cur.loops (s.cur.pc + 32)).2) && p v s1

theorem of_takes {i : Instr} {s : State} {p : Cv → State → Bool} (h : takes i s p = true) :
    ∃ v s1, Taken i s v s1 ∧ p v s1 = true := by
  unfold takes at h
  rw [Bool.and_eq_true] at h
  obtain ⟨hf, h⟩ := h
  split at h
  · rename_i v s1 e
    rw [Bool.and_eq_true, Bool.not_eq_true'] at h
    exact ⟨v, s1, ⟨hf, e, h.1⟩, h.2⟩
  · cases h

theorem of_issues {i : Instr} {s : State} {p : Cv → State → Bool} (h : issues i s p = true) :
    ∃ v s1, Issues i s v s1 ∧ p v s1 = true := by
  obtain ⟨v, s1, ht, hp⟩ := of_takes h
  rw [Bool.and_eq_true, Bool.or_eq_true, decide_eq_true_iff] at hp
  exact ⟨v, s1, ⟨ht, hp.1⟩, hp.2⟩

/-- No further condition. -/
def always (_ : Cv) (_ : State) : Bool := true

/-- A slice with one context on core 0, in a compute superstep, at word 0 of its store. -/
def base : State := { State.reset.withFetchWord 32 0 with focusCore := 0, focusCtx := 0 }

/-- The same with two registers set. -/
def two (x y : Word) : State := base.modCur fun c => { c with regs := [(2, x), (3, y)] }

/-- The same in an exchange superstep. -/
def exch (f : Ctx → Ctx) : State := { base with phc := 1 }.modCur fun c => f { c with view := 1 }

/-- System core k with a privileged context 0. -/
def sys (k : Nat) : State :=
  { base with focusCore := 1024 + k, cores := SMap.put base.cores (1024 + k) { sysRun := true, ctxs := [(0, { st := .run, priv := true })] } }

/-- The same with sync sectors declared. -/
def synced (s : State) (l : List Nat) : State := { s with slice := s.slice.map fun r => { r with lr := { r.lr with sync := l } } }

/-- The state after an instruction, or the state before where it stops. -/
def after (i : Instr) (s : State) : State := match exec i s with | .next t => t | _ => s

/-- Cause of the last record that waits for the host, and its kind. -/
def lastRec (s : State) : Nat × Nat := match s.disp.waitRecs.getLast? with | some r => (r.cause, r.rkind) | none => (0, 0)

/-! ## Single steps -/

/-- R99: addition wraps, subtraction is modulo 2^64. -/
theorem test_add : (after (.add 1 2 3) (two (-1) 2)).reg 1 = 1 ∧ (after (.sub 1 2 3) (two 1 2)).reg 1 = -1 := by decide +kernel

/-- R99: a shift reads all of g[B]; 64 and more give 0, or the sign for SAR. -/
theorem test_shift : (after (.shl 1 2 3) (two 1 64)).reg 1 = 0 ∧ (after (.shr 1 2 3) (two (-1) 63)).reg 1 = 1
    ∧ (after (.sar 1 2 3) (two (-2) 64)).reg 1 = -1 := by decide +kernel

/-- R99: signed and unsigned order differ in MIN and MINN, CMPLT and CMPLTN. -/
theorem test_order : (after (.min 1 2 3) (two (-1) 1)).reg 1 = -1 ∧ (after (.minn 1 2 3) (two (-1) 1)).reg 1 = 1
    ∧ (after (.cmplt 1 2 3) (two (-1) 1)).reg 1 = 1 ∧ (after (.cmpltn 1 2 3) (two (-1) 1)).reg 1 = 0 := by decide +kernel

/-- R97: SEL reads g[D] before it writes it. -/
theorem test_sel : (after (.sel 2 3 4) (two 1 9)).reg 2 = 9 ∧ (after (.sel 1 2 3) (two 7 9)).reg 1 = 9 := by decide +kernel

/-- R100: counts of 0 are 64; BEXT takes w bits at p; BREV turns bit 0 into bit 63. -/
theorem test_bits : (after (.clz 1 4) (two 0 0)).reg 1 = 64 ∧ (after (.ctz 1 2) (two 8 0)).reg 1 = 3
    ∧ (after (.bext 1 2 3) (two 0xABCD 0x0704)).reg 1 = 0xBC ∧ (after (.brev 1 2) (two 1 0)).reg 1 = 2 ^ 63 := by decide +kernel

/-- R101, R102: imm11 and imm18 are signed; LIS shifts its 18 bits in. -/
theorem test_imm : (after (.addi 1 2 0x7FF) (two 0 0)).reg 1 = -1 ∧ (after (.li 1 0x20000) base).reg 1 = -131072
    ∧ (after (.lis 2 3) (two 1 0)).reg 2 = 2 ^ 18 + 3 := by decide +kernel

/-- R98, R99: MUL lands three cycles after issue; DIV by 0 gives all ones; DIV truncates towards zero. -/
theorem test_muldiv : (after (.mul 1 2 3) (two 6 7)).cur.land.map (fun l => (l.cycle, l.reg, l.val)) = [(3, 1, 42)]
    ∧ (after (.div 1 2 3) (two 6 0)).cur.land.map (·.val) = [-1]
    ∧ (after (.div 1 2 3) (two (-7) 2)).cur.land.map (·.val) = [-3] ∧ (after (.rem 1 2 3) (two (-7) 2)).cur.land.map (·.val) = [-1] := by
  decide +kernel

/-- R104: 1.0 + 1.0 = 2.0, 1.0 / 3.0 is inexact, and sqrt(-1) is the canonical NaN with NV and NF. -/
theorem test_fp : (after (.fadd false 1 2 3) (two 0x3F800000 0x3F800000)).cur.land.map (·.val) = [0x40000000]
    ∧ (after (.fdiv false 1 2 3) (two 0x3F800000 0x40400000)).cur.land.map (fun l => (l.val, l.flags)) = [(0x3EAAAAAB, 1)]
    ∧ (after (.fsqrt true 1 2) (two 0xBFF0000000000000 0)).cur.land.map (fun l => (l.val, l.flags)) = [(0x7FF8000000000000, 0x30)] := by
  decide +kernel

/-- R107: PADD scales by the width; PALN rounds down to a multiple from the base. -/
theorem test_pointer : (after (.padd 1 2 3 9) (two 100 2)).reg 1 = 228 ∧ (after (.psub 1 2 3 1) (two 100 3)).reg 1 = 94
    ∧ (after (.paln 1 2 3 7) (two 100 5)).reg 1 = 85 := by decide +kernel

/-- R55: WIN moves the window back past 0; names from g16 on follow it. -/
theorem test_win : (after (.win 0x7FF) base).cur.wb = 496 ∧ physReg 496 32 = 16 ∧ physReg 496 15 = 15 := by decide +kernel

/-- R67, R103: MTS to WB with a value that is no multiple of 16 ends the slice. -/
theorem test_mts_wb : lastRec (after (.mts 2 0x0A) (two 8 0)) = (2, 1) ∧ (after (.mts 2 0x0A) (two 528 0)).cur.wb = 16 := by decide +kernel

/-- R109: JR reads its target before the link; a branch back goes to the address of the word minus 32 an instruction. -/
theorem test_branch : (after (.jr 2 2) (two 64 0)).cur.pc = 64 ∧ (after (.jr 2 2) (two 64 0)).reg 2 = 32
    ∧ (after (.br 0x3FFFF) (base.modCur fun c => { c with pc := 96 })).cur.pc = 64 := by decide +kernel

/-- R131: LD extends the sign, LDN does not; ST keeps the low bits and turns its sector OUT (R155). -/
theorem test_memory :
    let s := (two 512 0).modCurCore fun k => { k with loc := { bytes := [(64, 0xF8)] } }
    (after (.ld 1 2 3 3) s).cur.land.map (·.val) = [-8] ∧ (after (.ldn 1 2 3 7) s).cur.land.map (·.val) = [0xF8]
    ∧ (after (.st 2 2 3 6) s).curCore.loc.bytes = [] ∧ (after (.st 2 2 3 6) s).curCore.loc.isOut 1 = true := by decide +kernel

/-- R131: an LD across a word boundary is ALIGNMENT. -/
theorem test_alignment : lastRec (after (.ld 1 2 3 2) (two 62 0)) = (4, 1) := by decide +kernel

/-- R275: AADD wraps in its width; a failed ACAS leaves the word. -/
theorem test_atomic :
    let s := (two 2048 5).modCurCore fun k => { k with loc := { bytes := [(256, 0xFF), (257, 0xFF), (258, 0xFF), (259, 0xFF)] } }
    let t := synced s [2048]
    (after (.aadd true 0 4 2 3) t).curCore.loc.bytes = [(256, 4)] ∧ (after (.aadd true 0 4 2 3) t).cur.land.map (·.val) = [0xFFFFFFFF]
    ∧ (after (.acas true 0 4 2 3) t).curCore.loc.bytes = t.curCore.loc.bytes := by decide +kernel

/-! ## States and operands that meet the hypotheses of the statements -/

/-- A list of words, each with its state and a condition on it, that are taken up and go on. -/
theorem of_list (l : List Instr) (s : State) (p : Instr → Bool) (h : (l.all fun i => p i && issues i s always) = true) :
    ∀ i ∈ l, p i = true ∧ ∃ v s1, Issues i s v s1 := by
  intro i hi
  have q := List.all_eq_true.mp h i hi
  rw [Bool.and_eq_true] at q
  obtain ⟨v, s1, q2, _⟩ := of_issues q.2
  exact ⟨q.1, v, s1, q2⟩

theorem witness_EncodeThenDecode : WellFormed (.addi 20 20 0x7FF) = true ∧ encode (.addi 20 20 0x7FF) = some 0x0A50A7FF := by decide

theorem witness_DecodeThenEncode : decode 0x84200074 = .ok (.vmul ⟨8, 0, 7, false, 4⟩) := by decide

/-- The state that a step starts from, by the kind of its next move. -/
def moving : State := State.reset.withFetchWord 32 0x3C000002

theorem witness_StepRunsMove :
    (moving.nextMove = some (0, .issue 0 0) ∧ decode (SMap.get 0 (moving.core 0).ist ((moving.ctx 0 0).pc / 32)) = .ok .nop)
    ∧ ((State.reset.withFetchWord 32 0).nextMove = some (0, .issue 0 0)
      ∧ decode (SMap.get 0 ((State.reset.withFetchWord 32 0).core 0).ist (((State.reset.withFetchWord 32 0).ctx 0 0).pc / 32))
        = .error .reservedOpcode)
    ∧ ∃ t i, State.reset.nextMove = some (t, .event i) := by
  refine ⟨by decide +kernel, by decide +kernel, 0, .powerGood, by decide +kernel⟩

theorem witness_StepRunsMove_input :
    ({ State.reset with bar := { stage := 5 }, ports := { rotated := some 0, slotted := some 0 }, inbox := [(0, .bootGo)] } : State).nextMove
      = some (0, .input) := by decide +kernel

theorem witness_StepRunsMove_idle :
    ({ State.reset with bar := { stopped := true }, ports := { rotated := some 0, slotted := some 0 } } : State).nextMove = none := by
  decide +kernel

/-- A word that is no instruction stands at word 0: a reserved opcode, and an unlisted form. -/
def badWord (w : Nat) : State := { (State.reset.withFetchWord 32 w).modCur fun c => { c with bkPass := true } with focusCore := 0, focusCtx := 0 }

theorem witness_NotAnInstruction : ∀ p ∈ [((0 : Nat), Reject.reservedOpcode), (0x8E04_0809, .unlistedForm)],
    (badWord p.1).fetching = true ∧ (badWord p.1).onSys = false ∧ (badWord p.1).slice.isSome = true ∧ (badWord p.1).cur.cv = none
    ∧ (badWord p.1).cur.span = none ∧ (badWord p.1).cur.bkPass = true ∧ (badWord p.1).curCore.istBad = []
    ∧ (badWord p.1).form (badWord p.1).cur.pc (.notAnInstruction (BitVec.ofNat 32 p.1)) = ([.notAnInstruction (BitVec.ofNat 32 p.1)], false)
    ∧ (badWord p.1).cur.loops = [] ∧ (badWord p.1).cur.redo = [] ∧ fetchable ((badWord p.1).cur.pc + 32) = true ∧ decode (BitVec.ofNat 32 p.1) = .error p.2 := by decide +kernel

/-- The same in the last word of the instruction store. -/
theorem witness_NotAnInstruction_last : let s := (badWord 0).modCur fun c => { c with pc := 2 ^ 20 - 32 }
    s.fetching = true ∧ s.cur.pc = 2 ^ 20 - 32 ∧ fetchable (s.cur.pc + 32) = false
    ∧ s.form s.cur.pc (.notAnInstruction 0) = ([.notAnInstruction 0], false) := by decide +kernel

/-- R54, R111: a misaligned load in word 32767 is a fetch fault with the address after it. -/
theorem test_past_store : let t := after (.ldo 1 2 0) ((two 8 0).modCur fun c => { c with pc := 2 ^ 20 - 32 })
    t.disp.waitRecs.map (fun r => (r.cause, r.addr, r.head)) = [(1, 2 ^ 20, 2 ^ 20 - 32)] := by decide +kernel

def oneCycleWords1 : List Instr :=
  [.add 1 2 3, .sub 1 2 3, .and 1 2 3, .or 1 2 3, .xor 1 2 3, .shl 1 2 3, .shr 1 2 3, .sar 1 2 3, .min 1 2 3, .max 1 2 3,
   .minn 1 2 3, .maxn 1 2 3, .sel 1 2 3, .cmpeq 1 2 3, .cmpne 1 2 3, .cmplt 1 2 3, .cmpltn 1 2 3, .cmple 1 2 3, .cmplen 1 2 3,
   .clz 1 2, .ctz 1 2, .popc 1 2, .bext 1 2 3, .bins 1 2 3, .brev 1 2]

def oneCycleWords2 : List Instr :=
  [.addi 1 2 3, .andi 1 2 3, .ori 1 2 3, .xori 1 2 3, .shli 1 2 63, .shri 1 2 63, .sari 1 2 0, .li 1 2, .lis 1 2,
   .padd 1 2 3 0, .psub 1 2 3 9, .paln 1 2 3 0xE, .pcls 1 2 7, .ptest 1, .mstat 1, .add 0 2 3]

def oneCycleWords : List Instr := oneCycleWords1 ++ oneCycleWords2

theorem witness_OneCycleResult : ∀ i ∈ oneCycleWords, (oneCycle i (two 5 6)).isSome = true ∧ ∃ v s1, Issues i (two 5 6) v s1 :=
  of_list _ _ (fun i => (oneCycle i (two 5 6)).isSome) (by decide +kernel)

def lateWords1 : List Instr :=
  [.mul 1 2 3, .mulh 1 2 3, .mulhn 1 2 3, .div 1 2 3, .divn 1 2 3, .rem 1 2 3, .remn 1 2 3, .div 1 2 4, .fadd false 1 2 3,
   .fsub true 1 2 3, .fmul false 1 2 3, .fdiv true 1 2 3, .fsqrt false 1 2, .fmin false 1 2 3, .fmax true 1 2 3]

def lateWords2 : List Instr :=
  [.fcmpeq false 1 2 3, .fcmplt true 1 2 3, .fcmple false 1 2 3, .fcvtif true 1 2, .fcvtfi false 1 2, .fma true 1 2 3,
   .pdiff 1 2 2 9, .tstat 1 2, .qstat 1 0, .mul 0 2 3]

def lateWords : List Instr := lateWords1 ++ lateWords2

theorem witness_LateResult : ∀ i ∈ lateWords, (lateResult i (two 5 6)).isSome = true ∧ ∃ v s1, Issues i (two 5 6) v s1 :=
  of_list _ _ (fun i => (lateResult i (two 5 6)).isSome) (by decide +kernel)

theorem witness_LateResult_xstat : (lateResult (.xstat 1) (exch id)).isSome = true ∧ ∃ v s1, Issues (.xstat 1) (exch id) v s1 := by
  obtain ⟨v, s1, h, _⟩ := of_issues (i := .xstat 1) (s := exch id) (p := always) (by decide +kernel)
  exact ⟨by decide +kernel, v, s1, h⟩

theorem witness_ResultLands :
    let s := base.modCur fun c => { c with land := [{ cycle := 0, reg := 5, val := 7, flags := 1 }] }
    s.ctxLive 0 0 = true ∧ (s.ctx 0 0).land = [{ cycle := 0, reg := 5, val := 7, flags := 1 }] ∧ 0 ≤ s.now ∧ 5 ≠ 0 := by decide +kernel

theorem witness_CanonicalNan : ((Fmt.fp32).unpack 0x7F800001).isNan = true ∧ ((Fmt.fp64).unpack 0xFFF8000000000001).isNan = true := by
  decide +kernel

/-- The word is the last of its convoy, which no loop sends back. -/
def atEnd (v : Cv) : Bool := decide (v.n ≤ v.idx + 1) && v.back.isNone

theorem of_atEnd {v : Cv} (h : atEnd v = true) : v.n ≤ v.idx + 1 ∧ v.back = none := by
  rw [atEnd, Bool.and_eq_true] at h
  exact ⟨of_decide_eq_true h.1, Option.isNone_iff_eq_none.mp h.2⟩

/-- A word in the middle of the store, with targets that can be fetched. -/
def mid : State := base.modCur fun c => { c with pc := 320, regs := [(2, 64), (3, 6)] }

theorem witness_Branches : ∀ i ∈ [Instr.br 3, .bz 4 3, .bnz 2 0x3FFFF, .call 1 3, .call 0 3, .jr 1 2, .jr 0 2],
    (∃ target leaves, branch i mid = some (target, leaves) ∧ fetchable target = true)
    ∧ ∃ v s1, Taken i mid v s1 ∧ (v.n ≤ v.idx + 1 ∧ v.back = none) ∧ mid.cur.loops = [] := by
  have h : ([Instr.br 3, .bz 4 3, .bnz 2 0x3FFFF, .call 1 3, .call 0 3, .jr 1 2, .jr 0 2].all fun i =>
      (match branch i mid with | some p => fetchable p.1 | none => false)
      && takes i mid fun v _ => atEnd v) = true := by decide +kernel
  intro i hi
  have q := List.all_eq_true.mp h i hi
  rw [Bool.and_eq_true] at q
  obtain ⟨v, s1, ht, hv⟩ := of_takes q.2
  refine ⟨?_, v, s1, ht, of_atEnd hv, rfl⟩
  have q1 := q.1
  split at q1
  · rename_i p e
    exact ⟨p.1, p.2, e, q1⟩
  · cases q1

theorem witness_Branches_untaken : ∀ i ∈ [Instr.bz 2 3, .bnz 4 3],
    ((∃ d o, i = .bz d o ∧ mid.reg d ≠ 0) ∨ (∃ d o, i = .bnz d o ∧ mid.reg d = 0)) ∧ fetchable (mid.cur.pc + 32) = true
    ∧ ∃ v s1, Taken i mid v s1 ∧ v.n ≤ v.idx + 1 ∧ v.back = none := by
  intro i hi
  rw [List.mem_cons, List.mem_singleton] at hi
  obtain rfl | rfl := hi
  · obtain ⟨v, s1, ht, hv⟩ := of_takes (i := .bz 2 3) (s := mid) (p := fun v _ => atEnd v) (by decide +kernel)
    exact ⟨.inl ⟨2, 3, rfl, by decide +kernel⟩, by decide +kernel, v, s1, ht, of_atEnd hv⟩
  · obtain ⟨v, s1, ht, hv⟩ := of_takes (i := .bnz 4 3) (s := mid) (p := fun v _ => atEnd v) (by decide +kernel)
    exact ⟨.inr ⟨4, 3, rfl, by decide +kernel⟩, by decide +kernel, v, s1, ht, of_atEnd hv⟩

/-- Four loops that hold the word at 320, and one that ends with it. -/
def looped (l : List LoopEnt) : State := mid.modCur fun c => { c with loops := l }

/-- A LOOP inside three active loops, and inside none. -/
theorem witness_Loops_pushes : ∀ n ∈ [0, 3], let s := looped (List.replicate n { start := 0, stop := 640, count := 2 })
    (∃ v s1, (Taken (.loop 2 3) s v s1 ∧ v.n ≤ v.idx + 1 ∧ v.back = none) ∧ s.reg 2 ≠ 0)
    ∧ (∃ v s1, (Taken (.loop 4 3) s v s1 ∧ v.n ≤ v.idx + 1 ∧ v.back = none) ∧ s.reg 4 = 0)
    ∧ s.cur.loops.length < 4 ∧ (∀ e ∈ s.cur.loops, s.cur.pc < e.stop) ∧ fetchable (s.cur.pc + 32 * (3 + 1)) = true := by
  have h : ∀ n ∈ [0, 3], ∀ i ∈ [Instr.loop 2 3, .loop 4 3],
      takes i (looped (List.replicate n { start := 0, stop := 640, count := 2 })) (fun v _ => atEnd v) = true := by decide +kernel
  have k : ∀ n ∈ [0, 3], let s := looped (List.replicate n { start := 0, stop := 640, count := 2 })
      s.reg 2 ≠ 0 ∧ s.reg 4 = 0 ∧ s.cur.loops.length < 4 ∧ (∀ e ∈ s.cur.loops, s.cur.pc < e.stop) ∧ fetchable (s.cur.pc + 32 * (3 + 1)) = true := by
    decide +kernel
  intro n hn
  obtain ⟨v, s1, ht, hv⟩ := of_takes (h n hn (.loop 2 3) (by decide))
  obtain ⟨w, s2, hu, hw⟩ := of_takes (h n hn (.loop 4 3) (by decide))
  obtain ⟨k1, k2, k3⟩ := k n hn
  exact ⟨⟨v, s1, ⟨ht, of_atEnd hv⟩, k1⟩, ⟨w, s2, ⟨hu, of_atEnd hw⟩, k2⟩, k3⟩

theorem witness_Loops_deep :
    let s := looped (List.replicate 4 { start := 0, stop := 640, count := 2 })
    (∃ v s1, Taken (.loop 2 3) s v s1 ∧ v.n ≤ v.idx + 1 ∧ v.back = none) ∧ 4 ≤ s.cur.loops.length ∧ s.focusCore < 1024 ∧ s.slice.isSome = true := by
  obtain ⟨v, s1, ht, hv⟩ := of_takes (i := .loop 2 3) (s := looped (List.replicate 4 { start := 0, stop := 640, count := 2 }))
    (p := fun v _ => atEnd v) (by decide +kernel)
  exact ⟨⟨v, s1, ht, of_atEnd hv⟩, by decide +kernel⟩

theorem witness_Loops_ends : ∀ n ∈ [1, 2],
    let s := looped [{ start := 64, stop := 320, count := n }]
    (∃ v s1, Taken .nop s v s1 ∧ (v.n ≤ v.idx + 1 ∧ v.back = none) ∧ v.head ≤ 320) ∧ s.cur.pc = 320 ∧ fetchable 64 = true ∧ fetchable (320 + 32) = true := by
  have h : ([1, 2].all fun n => takes .nop (looped [{ start := 64, stop := 320, count := n }]) fun v _ =>
      atEnd v && decide (v.head ≤ 320)) = true := by decide +kernel
  intro n hn
  obtain ⟨v, s1, ht, hv⟩ := of_takes (List.all_eq_true.mp h n hn)
  rw [Bool.and_eq_true] at hv
  exact ⟨⟨v, s1, ht, of_atEnd hv.1, of_decide_eq_true hv.2⟩, rfl, by decide, by decide⟩

theorem witness_Guards :
    (∃ v s1, Taken (.guardNz 2) (State.modCurCore mid fun k => { k with ist := [(11, 0x3C000002)] }) v s1 ∧ v.idx + 1 < v.n)
    ∧ (∃ v s1, Taken (.guardZ 2) (State.modCurCore mid fun k => { k with ist := [(11, 0x3C000002)] }) v s1 ∧ v.idx + 1 < v.n) := by
  have h : ∀ i ∈ [Instr.guardNz 2, .guardZ 2], takes i (State.modCurCore mid fun k => { k with ist := [(11, 0x3C000002)] })
      (fun v _ => decide (v.idx + 1 < v.n)) = true := by decide +kernel
  obtain ⟨v, s1, ht, hv⟩ := of_takes (h (.guardNz 2) (by decide))
  obtain ⟨v', s1', ht', hv'⟩ := of_takes (h (.guardZ 2) (by decide))
  exact ⟨⟨v, s1, ht, of_decide_eq_true hv⟩, v', s1', ht', of_decide_eq_true hv'⟩

theorem witness_Guards_suppressed :
    let s := mid.modCur fun c => { c with cv := some { head := 288, n := 2, idx := 1, failed := true } }
    (encode (.add 1 2 3)).isSome = true ∧ s.fetching = true ∧ ∃ v s1, s.front (.add 1 2 3) = .ok (v, s1) ∧ v.failed = true
      ∧ Goes s v s.cur.loops (s.cur.pc + 32) := by
  refine ⟨by decide, by decide +kernel, _, _, rfl, by decide +kernel, .inr (by decide +kernel)⟩

theorem witness_ContextWords :
    ∀ i ∈ [Instr.nop, .exit, .span 4, .vpart 5, .msel 7, .win 0x7FF, .bz 3 2, .bnz 5 2, .smpl 3],
      (ctxEffect i (two 5 6)).isSome = true ∧ ∃ v s1, Issues i (two 5 6) v s1 :=
  of_list _ _ (fun i => (ctxEffect i (two 5 6)).isSome) (by decide +kernel)

/-- A word that heads a convoy at 320. -/
def head (x : Word) : State := mid.modCur fun c => { c with bkPass := true, regs := [(2, x)] }

theorem witness_LaneRequest : (∃ v s1, Issues (.vpart 2) (head 64) v s1) ∧ (head 64).reg 2 = 64
    ∧ AtHead (.vpart 2) (head 65) ∧ (head 65).slice.isSome = true ∧ (head 65).reg 2 = 65 := by
  obtain ⟨v, s1, h, _⟩ := of_issues (i := .vpart 2) (s := head 64) (p := always) (by decide +kernel)
  exact ⟨⟨v, s1, h⟩, by decide +kernel, ⟨by decide +kernel, by decide +kernel, rfl, rfl, rfl, rfl, rfl, by decide +kernel, by decide +kernel, by decide +kernel, rfl⟩, by decide +kernel,
    by decide +kernel⟩

theorem witness_Lanes : ∀ p ∈ [Option.none, some 8],
    let s := (two (2 ^ 48 + 100) 0).modCur fun c => { c with vpart := p }
    (∃ v s1, Issues (.setl 1 2 3) s v s1) ∧ (3 : Reg).toNat ≤ 3 ∧ s.cur.vq = [] := by
  have h : ([Option.none, some 8].all fun p => issues (.setl 1 2 3) ((two (2 ^ 48 + 100) 0).modCur fun c => { c with vpart := p }) always)
      = true := by decide +kernel
  intro p hp
  obtain ⟨v, s1, q, _⟩ := of_issues (List.all_eq_true.mp h p hp)
  have e : ∀ p ∈ [Option.none, some 8], ((two (2 ^ 48 + 100) 0).modCur fun c => { c with vpart := p }).cur.vq = [] := by decide +kernel
  exact ⟨⟨v, s1, q⟩, by decide, e p hp⟩

theorem witness_Lanes_vrel : (∃ v s1, Issues .vrel base v s1) ∧ base.cur.vq = [] := by
  obtain ⟨v, s1, q, _⟩ := of_issues (i := .vrel) (s := base) (p := always) (by decide +kernel)
  exact ⟨⟨v, s1, q⟩, by decide +kernel⟩

theorem retired_base : retired base := .inr ⟨by decide +kernel, by decide +kernel, by intro l hl; cases hl⟩

theorem witness_SpecialRegisters : (retired base ∧ base.curCore.me.running = [] ∧ base.cur.span = none)
    ∧ ∀ i ∈ ((rangeFrom 0 0x19 ++ rangeFrom 0x1C 5).map fun n => Instr.mfs 1 (BitVec.ofNat 11 n))
      ++ ([0x0A, 0x0E, 0x0F, 0x10, 0x11, 0x12] : List Nat).map fun n => Instr.mts 3 (BitVec.ofNat 11 n), ∃ v s1, Issues i base v s1 :=
  ⟨⟨retired_base, by decide +kernel, by decide +kernel⟩, fun i hi => (of_list _ base (fun _ => true) (by decide +kernel) i hi).2⟩

/-- The trap registers of a privileged system core, and FLG where flags arrive inside a span. -/
theorem witness_SpecialRegisters_trap : (∀ i ∈ [Instr.mfs 1 0x19, .mfs 1 0x1A, .mfs 1 0x1B, .mts 3 0x19, .mts 3 0x1A, .mts 3 0x1B],
      ∃ v s1, Issues i (sys 0) v s1)
    ∧ let s := base.modCur fun c => { c with span := some { word := 0, first := 0, last := 320, start := base.now }, flagsAt := base.now, flagsIn := 1 }
      (∃ v s1, Issues (.mts 3 0x0F) s v s1) ∧ s.cur.span.isSome = true ∧ s.cur.flagsAt = s.now :=
  ⟨fun i hi => (of_list _ (sys 0) (fun _ => true) (by decide +kernel) i hi).2,
    (of_list [.mts 3 0x0F] _ (fun _ => true) (by decide +kernel) _ (by decide)).2, by decide +kernel, by decide +kernel⟩

/-- Numbers and values that R67 and R55 refuse. -/
theorem witness_SpecialRegisters_illegal : ∀ i ∈ [Instr.mfs 1 0x21, .mfs 1 0x1A, .mts 2 0x0B, .mts 2 0x0A],
    AtHead i (head 8) ∧ (head 8).slice.isSome = true ∧ (head 8).reg 2 = 8 ∧ specialValue (head 8) 0x21 = none := by
  unfold AtHead
  decide +kernel

/-! ### Memory and vectors -/

theorem of_ok {α : Type} {e : Except Stop α} (h : e.toOption.isSome = true) : ∃ x, e = .ok x := by
  cases e with
  | error x => cases h
  | ok x => exact ⟨x, rfl⟩

theorem witness_MemoryBits : 2 ∈ sectorsOf 1024 64 ∧ (8 * 5 + 8 ≤ 64 ∨ 64 + 8 ≤ 8 * 5) ∧ Memory.wf [(5, 1)] = true := by decide +kernel

theorem witness_ScalarLoads : ∀ i ∈ [Instr.ld 1 2 3 9, .ldn 1 2 3 0, .ldo 1 2 0x7FF],
    (∃ v s1, Issues i (two 8192 64) v s1) ∧ misaligned (8192 + 64) 64 = false ∧ misaligned (8192 + 64) 1 = false
    ∧ misaligned (8192 - 64) 64 = false ∧ Readable (two 8192 64) (8192 + 64) 64 ∧ Readable (two 8192 64) (8192 - 64) 64 := by
  intro i hi
  obtain ⟨_, q⟩ := of_list [Instr.ld 1 2 3 9, .ldn 1 2 3 0, .ldo 1 2 0x7FF] (two 8192 64) (fun _ => true)
    (by decide +kernel) i hi
  exact ⟨q, by decide, by decide, by decide, by unfold Readable InPlace engineIdle BanksFree; decide +kernel, by unfold Readable InPlace engineIdle BanksFree; decide +kernel⟩

/-- R130: a load whose bank an earlier atomic holds in its cycle lands a cycle later; before a vector request it goes first. -/
theorem test_bank_contention :
    let held (rank : Nat) : State := (two 8192 0).modCurCore fun k => { k with banks := [{ sec := 48, cycle := (two 8192 0).now + 1, rank := rank, issued := 9 }] }
    let next (t : State) : State := ((t.at (t.now + 1)).arbitrate 0).toOption.getD t
    (next (after (.ldo 4 2 0) (held 0))).cur.land.map (·.cycle) = [(two 8192 0).now + 5]
    ∧ (next (after (.ldo 4 2 0) (held 1))).cur.land.map (·.cycle) = [(two 8192 0).now + 4] := by decide +kernel

/-- A field that crosses a word, and a byte off its own multiple. -/
theorem witness_ScalarLoads_misaligned : (∃ v s1, Taken (.ld 1 2 3 2) (two 62 0) v s1) ∧ 64 < 62 % 64 + widthOf 2
    ∧ (∃ v s1, Taken (.ld 1 2 3 7) (two 4 4) v s1) ∧ 8 ≤ widthOf 7 ∧ 8 % widthOf 7 ≠ 0 ∧ (two 62 0).slice.isSome = true := by
  obtain ⟨v, s1, q, _⟩ := of_takes (i := .ld 1 2 3 2) (s := two 62 0) (p := always) (by decide +kernel)
  obtain ⟨v', s1', q', _⟩ := of_takes (i := .ld 1 2 3 7) (s := two 4 4) (p := always) (by decide +kernel)
  exact ⟨⟨v, s1, q⟩, by decide, ⟨v', s1', q'⟩, by decide, by decide, by decide +kernel⟩

theorem witness_ScalarStores : ∀ i ∈ [Instr.st 1 2 3 9, .st 1 2 3 0, .sto 1 2 0x7FF],
    (∃ v s1, Issues i (two 8192 64) v s1) ∧ Writable (two 8192 64) (8192 + 64) 64 ∧ Writable (two 8192 64) (8192 - 64) 64 := by
  intro i hi
  obtain ⟨_, q⟩ := of_list [Instr.st 1 2 3 9, .st 1 2 3 0, .sto 1 2 0x7FF] (two 8192 64) (fun _ => true)
    (by decide +kernel) i hi
  have e : engineIdle (two 8192 64) ∧ BanksFree (two 8192 64) := ⟨.inr (by decide +kernel), by unfold BanksFree; decide +kernel⟩
  refine ⟨q, ⟨?_, by decide +kernel, by decide +kernel, e⟩, ?_, by decide +kernel, by decide +kernel, e⟩
  all_goals (unfold InPlace; decide +kernel)

theorem witness_LayoutTable : (∃ v s1, Issues (.ltset 2 8) (two 3 0) v s1) ∧ Writable (two 3 0) 768 256
    ∧ (∃ v s1, Issues (.ltget 8 2) (two 3 0) v s1) ∧ (two 3 0).curCore.loc.syn = [] ∧ (two 3 0).curCore.stale = []
    ∧ (∃ v s1, Issues .lfence (two 3 0) v s1) ∧ (two 3 0).cur.writes = [] ∧ (two 3 0).cur.span = none ∧ engineIdle (two 3 0) := by
  have q := of_list [Instr.ltset 2 8, .ltget 8 2, .lfence] (two 3 0) (fun _ => true)
    (by decide +kernel)
  have e : engineIdle (two 3 0) ∧ BanksFree (two 3 0) := ⟨.inr (by decide +kernel), by unfold BanksFree; decide +kernel⟩
  refine ⟨(q _ (by decide)).2, ⟨?_, by decide +kernel, by decide +kernel, e⟩, (q _ (by decide)).2, by decide +kernel, by decide +kernel,
    (q _ (by decide)).2, by decide +kernel, by decide +kernel, e.1⟩
  unfold InPlace
  decide +kernel

/-- Sixteen elements; v8 and v9 hold I32, v10 and v11 FP32, v12 PIP3, v13 FP16, v14 and v15 I64; layout entry 1 names sixteen I32 at 8192. -/
def vec : State := base.modCurCore fun k =>
  { k with
    loc := { bytes := Memory.setBits [] 256 256 (8192 + 15 * 2 ^ 64 + 6 * 2 ^ 242) }
    ctxs := k.ctxs.mapVals fun _ c =>
      { c with vl := 16, tags := [(8, 6), (9, 6), (10, 0xC), (11, 0xC), (12, 0x10), (13, 0xA), (14, 8), (15, 8)], regs := [(2, 8192), (4, 1)] } }

def vmemWords : List Instr :=
  [.vld 8 2 6, .vst 8 2 6, .vldx 8 2 9, .vstx 8 2 9, .vldt 8 4 5, .vstt 8 4 5, .vldb 12 2 0x10, .vstb 12 2 0x10]

theorem witness_VectorMemory : ∀ i ∈ vmemWords, ∃ op d a b v s1 x s2 s3 m st wk, i.vmem = some (op, d, a, b) ∧ Issues i vec v s1
    ∧ vec.cur.span = none ∧ BanksFree vec ∧ s1.queueRoom = .ok () ∧ s1.vmemAccess op d a b = .ok (x, s2) ∧ s1.vmemRun op d a b = .ok (s3, m, st, wk) := by
  have h : (vmemWords.all fun i => match i.vmem with
      | some (op, d, a, b) => issues i vec fun _ s1 => s1.queueRoom.toOption.isSome && (s1.vmemAccess op d a b).toOption.isSome
          && (s1.vmemRun op d a b).toOption.isSome
      | none => false) = true := by decide +kernel
  intro i hi
  have q := List.all_eq_true.mp h i hi
  split at q
  · rename_i op d a b e
    obtain ⟨v, s1, hv, hp⟩ := of_issues q
    rw [Bool.and_eq_true, Bool.and_eq_true] at hp
    obtain ⟨u, h1⟩ := of_ok hp.1.1
    obtain ⟨⟨x, s2⟩, h2⟩ := of_ok hp.1.2
    obtain ⟨⟨s3, m, st, wk⟩, h3⟩ := of_ok hp.2
    exact ⟨op, d, a, b, v, s1, x, s2, s3, m, st, wk, e, hv, by decide +kernel, by unfold BanksFree; decide +kernel, h1, h2, h3⟩
  · cases q

theorem witness_VectorLoad : (∃ v s1, Issues (.vld 8 2 6) vec v s1 ∧ s1.queueRoom = .ok ()) ∧ vec.cur.span = none ∧ BanksFree vec ∧ memWidth 6 = some 32
    ∧ (∀ j, vec.cur.active j = true → Readable vec (8192 + j * 32) 32) ∧ vec.cur.grant ≤ 64
    ∧ vec.cur.vl ≤ vec.cur.vspan * vec.cur.slots ((slotWidth (loadTag 6)).getD 8) ∧ 15 < vec.cur.vl := by
  obtain ⟨v, s1, q, h⟩ := of_issues (i := .vld 8 2 6) (s := vec) (p := fun _ s1 => s1.queueRoom.toOption.isSome) (by decide +kernel)
  obtain ⟨u, h⟩ := of_ok h
  refine ⟨⟨v, s1, q, h⟩, by decide +kernel, by unfold BanksFree; decide +kernel, by decide, fun j hj => ?_, by decide +kernel, by decide +kernel, by decide +kernel⟩
  have hj : j < 16 := by
    unfold Ctx.active at hj
    rw [Bool.and_eq_true] at hj
    exact of_decide_eq_true hj.1
  have k : ∀ j < 16, Readable vec (8192 + j * 32) 32 := by unfold Readable InPlace engineIdle BanksFree; decide +kernel
  exact k j hj

/-- Every active element of `vec` is below 16. -/
theorem vec_active {j : Nat} (hj : vec.cur.active j = true) : j < 16 := by
  unfold Ctx.active at hj
  rw [Bool.and_eq_true] at hj
  exact of_decide_eq_true hj.1

theorem vec_issues : ∀ i ∈ vmemWords, ∃ v s1, Issues i vec v s1 ∧ s1.queueRoom = .ok () := by
  have h : (vmemWords.all fun i => issues i vec fun _ s1 => s1.queueRoom.toOption.isSome) = true := by decide +kernel
  intro i hi
  obtain ⟨v, s1, q, p⟩ := of_issues (List.all_eq_true.mp h i hi)
  obtain ⟨u, h1⟩ := of_ok p
  exact ⟨v, s1, q, h1⟩

/-- VLDX, VLDT and VLDB of `vec`. -/
theorem witness_VectorLoad_forms : vec.cur.span = none ∧ BanksFree vec ∧ vec.cur.grant ≤ 64 ∧ vec.cur.grant % 8 = 0 ∧ vec.cur.vl % 16 = 0
    ∧ vec.cur.groupTag 8 = .ok 6 ∧ memWidth 6 = some 32 ∧ vec.cur.groupTag 9 = .ok 6 ∧ vec.cur.vl ≤ vec.cur.vspan * vec.cur.slots 32
    ∧ (∀ j, vec.cur.active j = true → Readable vec (indexed vec 2 9 6 j) 32)
    ∧ vec.curCore.stale = [] ∧ vec.curCore.loc.syn = [] ∧ memWidth (lteFmt (entryOf vec 1)) = some 32 ∧ vec.cur.capOk 32 = true
    ∧ lteBad (entryOf vec 1) = false ∧ startBeyond (entryOf vec 1) (vec.reg 5) = false ∧ spaceOf (lteBase (entryOf vec 1)) = 0
    ∧ (∀ j, vec.cur.active j = true → ∃ x, tensorAt (entryOf vec 1) (vec.reg 5) 32 j = some x ∧ Readable vec x 32)
    ∧ Pip.ofCode 0x10 = some .p3 ∧ vec.cur.vl ≤ vec.cur.vspan * vec.cur.slots 16
    ∧ (∀ k, k ∈ activeBlocks vec.cur → Readable vec (8192 + k * 64) 64) ∧ 0 ∈ activeBlocks vec.cur := by
  refine ⟨by decide +kernel, by unfold BanksFree; decide +kernel, by decide +kernel, by decide +kernel, by decide +kernel, by decide +kernel,
    by decide, by decide +kernel, by decide +kernel, fun j hj => ?_, by decide +kernel, by decide +kernel, by decide +kernel, by decide +kernel,
    by decide +kernel, by decide +kernel, by decide +kernel, fun j hj => ?_, by decide, by decide +kernel, ?_, by decide +kernel⟩
  · have k : ∀ j < 16, Readable vec (indexed vec 2 9 6 j) 32 := by unfold Readable InPlace engineIdle BanksFree; decide +kernel
    exact k j (vec_active hj)
  · have k : ∀ j < 16, Readable vec ((tensorAt (entryOf vec 1) (vec.reg 5) 32 j).getD 0) 32 := by
      unfold Readable InPlace engineIdle BanksFree; decide +kernel
    have m : ∀ j < 16, (tensorAt (entryOf vec 1) (vec.reg 5) 32 j).isSome = true := by decide +kernel
    obtain ⟨x, hx⟩ := Option.isSome_iff_exists.mp (m j (vec_active hj))
    have := k j (vec_active hj)
    rw [hx] at this
    exact ⟨x, hx, this⟩
  · unfold Readable InPlace engineIdle BanksFree; decide +kernel

/-- VST, VSTX, VSTT and VSTB of `vec`. -/
theorem witness_VectorMemory_stores : vec.cur.groupTag 12 = .ok 0x10
    ∧ (∀ j, vec.cur.active j = true → Writable vec (8192 + j * 32) 32 ∧ Writable vec (indexed vec 2 9 6 j) 32
      ∧ ∃ x, tensorAt (entryOf vec 1) (vec.reg 5) 32 j = some x ∧ Writable vec x 32)
    ∧ (∀ k, k ∈ activeBlocks vec.cur → Writable vec (8192 + k * 64) 64) := by
  refine ⟨by decide +kernel, fun j hj => ?_, by unfold Writable InPlace engineIdle BanksFree; decide +kernel⟩
  have k1 : ∀ j < 16, Writable vec (8192 + j * 32) 32 := by unfold Writable InPlace engineIdle BanksFree; decide +kernel
  have k2 : ∀ j < 16, Writable vec (indexed vec 2 9 6 j) 32 := by unfold Writable InPlace engineIdle BanksFree; decide +kernel
  have k3 : ∀ j < 16, Writable vec ((tensorAt (entryOf vec 1) (vec.reg 5) 32 j).getD 0) 32 := by
    unfold Writable InPlace engineIdle BanksFree; decide +kernel
  have m : ∀ j < 16, (tensorAt (entryOf vec 1) (vec.reg 5) 32 j).isSome = true := by decide +kernel
  obtain ⟨x, hx⟩ := Option.isSome_iff_exists.mp (m j (vec_active hj))
  have h := k3 j (vec_active hj)
  rw [hx] at h
  exact ⟨k1 j (vec_active hj), k2 j (vec_active hj), x, hx, h⟩

/-- Two contexts at one word of the scratchpad: context 1, in a span, with 7, and context 0 with 5, issued before it; l are sync
sectors. -/
def rivals (l : List Nat) : State := (synced (two 8192 5) l).modCurCore fun k =>
  { k with ctxs := [(0, k.ctx 0), (1, { (k.ctx 0) with regs := [(2, 8192), (3, 7)], span := some { word := 0, first := 0, last := 320, start := 0 } })] }
def rivalsDo (l : List Nat) (i : Instr) (n : Nat) : State :=
  (rangeFrom 1 n).foldl (fun s k => ((s.at ((rivals l).now + k)).arbitrate 0).toOption.getD s) (after i { after i (rivals l) with focusCtx := 1 })

/-- R130, R326, R329: the open span comes first at the bank, so that the store of context 0 stays. -/
theorem test_bank_order_stores : (rivalsDo [] (.sto 3 2 0) 2).curCore.loc.bytes.bits 8192 64 = 5 := by decide +kernel

/-- R130, R277: of two AADD the one of context 0 finds the sum that the other has left. -/
theorem test_bank_order_atomics : (rivalsDo [8192] (.aadd false 0 4 2 3) 3).curCore.loc.bytes.bits 8192 64 = 12
    ∧ ((rivalsDo [8192] (.aadd false 0 4 2 3) 3).curCore.ctx 0).land.map (·.val) = [7]
    ∧ ((rivalsDo [8192] (.aadd false 0 4 2 3) 3).curCore.ctx 1).land.map (·.val) = [0] := by decide +kernel

/-! ### Vector words -/

def vectorWords1 : List Instr :=
  [.vadd ⟨20, 8, 9, true, 0⟩, .vsub ⟨20, 8, 9, true, 3⟩, .vmul ⟨20, 8, 2, true, 4⟩, .vfma ⟨11, 10, 11, true, 0⟩, .vfms ⟨11, 10, 11, true, 0⟩,
   .vfnma ⟨11, 10, 11, true, 0⟩, .vdiv ⟨20, 10, 11, true, 0⟩, .vsqrt ⟨20, 10, 0, true, 0⟩, .vrsqrt ⟨20, 10, 0, true, 2⟩,
   .vrcp ⟨20, 10, 0, true, 0⟩, .vmin ⟨20, 8, 9, true, 0⟩, .vmax ⟨20, 10, 11, true, 0⟩, .vabs ⟨20, 8, 0, true, 0⟩, .vneg ⟨20, 10, 0, true, 0⟩,
   .vexp2 ⟨20, 10, 0, true, 0⟩, .vlog2 ⟨20, 10, 0, true, 0⟩]

def vectorWords2 : List Instr :=
  [.vand ⟨20, 8, 9, true, 0⟩, .vor ⟨20, 8, 9, true, 0⟩, .vxor ⟨20, 8, 9, true, 0⟩, .vshl ⟨20, 8, 3, true, 6⟩, .vshr ⟨20, 8, 3, true, 7⟩,
   .vsar ⟨20, 8, 9, true, 0⟩, .vadds ⟨20, 8, 9, true, 0⟩, .vsubs ⟨20, 8, 9, true, 0⟩, .vmulh ⟨20, 8, 9, true, 0⟩,
   .vpopc ⟨20, 8, 0, true, 0⟩, .vceq ⟨1, 8, 9, true, 0⟩, .vcne ⟨1, 8, 9, true, 0⟩, .vclt ⟨7, 10, 11, true, 0⟩, .vcle ⟨1, 8, 9, true, 0⟩,
   .vclass ⟨1, 10, 1, true, 6⟩, .vsel ⟨8, 9, 9, true, 0⟩]

def vectorWords3 : List Instr :=
  [.vmov ⟨20, 8, 0, true, 0⟩, .vbcst ⟨8, 9, 0, true, 0⟩, .vcvt ⟨20, 10, 6, true, 6⟩, .vtag ⟨8, 8, 7, true, 6⟩, .vround ⟨20, 10, 1, true, 6⟩,
   .vscale ⟨20, 10, 9, true, 0⟩, .vqnt ⟨20, 10, 0x10, true, 6⟩, .vdqnt ⟨20, 12, 0xC, true, 6⟩, .vrsum ⟨20, 10, 0, true, 0⟩,
   .vrmax ⟨20, 8, 0, true, 0⟩, .vrmin ⟨20, 8, 0, true, 0⟩, .vror ⟨20, 8, 9, true, 0⟩, .vperm ⟨20, 8, 9, true, 0⟩,
   .vslup ⟨20, 8, 1, true, 6⟩, .vsldn ⟨20, 8, 1, true, 6⟩, .viota ⟨20, 0, 6, true, 6⟩]

def vectorWords4 : List Instr :=
  [.vroll ⟨20, 14, 15, true, 0⟩, .vmpop ⟨1, 2, 0, true, 0⟩, .vmfirst ⟨1, 2, 0, true, 0⟩, .vzip ⟨20, 8, 9, true, 0⟩,
   .vunzip ⟨20, 8, 9, true, 0⟩, .vmand ⟨1, 2, 3, true, 0⟩, .vmor ⟨1, 2, 3, true, 0⟩, .vmxor ⟨1, 2, 3, true, 0⟩, .vmnot ⟨1, 2, 0, true, 0⟩]

def vectorWords : List Instr := vectorWords1 ++ vectorWords2 ++ vectorWords3 ++ vectorWords4

/-- Whether a vector word is the last of a run that passes its checks (R54, R64). -/
def lastOfRun (s : State) (i : Instr) : Bool :=
  match i.vec with
  | some (op, w) => issues i s fun v s1 =>
      let r := s1.cur.vwalk (v.n - (v.pend ++ [(op, w)]).length) (v.pend ++ [(op, w)])
      decide (v.n ≤ v.idx + 1) && s1.queueRoom.toOption.isSome && r.opBad.isNone && r.tagBad.isNone
  | none => false

theorem of_lastOfRun {s : State} {i : Instr} (h : lastOfRun s i = true) :
    ∃ op w v s1, i.vec = some (op, w) ∧ Issues i s v s1 ∧ v.n ≤ v.idx + 1 ∧ s1.queueRoom = .ok ()
      ∧ (s1.cur.vwalk (v.n - (v.pend ++ [(op, w)]).length) (v.pend ++ [(op, w)])).opBad = none
      ∧ (s1.cur.vwalk (v.n - (v.pend ++ [(op, w)]).length) (v.pend ++ [(op, w)])).tagBad = none := by
  unfold lastOfRun at h
  split at h
  · rename_i op w e
    obtain ⟨v, s1, hv, hp⟩ := of_issues h
    simp only [Bool.and_eq_true, decide_eq_true_iff, Option.isNone_iff_eq_none] at hp
    obtain ⟨u, h1⟩ := of_ok hp.1.1.2
    exact ⟨op, w, v, s1, e, hv, hp.1.1.1, h1, hp.1.2, hp.2⟩
  · cases h

theorem witness_VectorRun : vec.cur.span = none ∧ vec.cur.land = [] ∧ ∀ i ∈ vectorWords,
    ∃ op w v s1, i.vec = some (op, w) ∧ Issues i vec v s1 ∧ v.n ≤ v.idx + 1 ∧ s1.queueRoom = .ok ()
      ∧ (s1.cur.vwalk (v.n - (v.pend ++ [(op, w)]).length) (v.pend ++ [(op, w)])).opBad = none
      ∧ (s1.cur.vwalk (v.n - (v.pend ++ [(op, w)]).length) (v.pend ++ [(op, w)])).tagBad = none := by
  have h : vectorWords.all (lastOfRun vec) = true := by decide +kernel
  exact ⟨by decide +kernel, by decide +kernel, fun i hi => of_lastOfRun (List.all_eq_true.mp h i hi)⟩

/-- Two words of one run. -/
theorem witness_VectorRun_joins : (∃ v s1, Issues (.vadd ⟨20, 8, 9, false, 0⟩)
    (vec.modCurCore fun k => { k with ist := [(0, 0x80281090), (1, 0x80281098)] }) v s1 ∧ v.idx + 1 < v.n) := by
  obtain ⟨v, s1, q, h⟩ := of_issues (i := .vadd ⟨20, 8, 9, false, 0⟩)
    (s := vec.modCurCore fun k => { k with ist := [(0, 0x80281090), (1, 0x80281098)] }) (p := fun v _ => decide (v.idx + 1 < v.n))
    (by decide +kernel)
  exact ⟨v, s1, q, of_decide_eq_true h⟩

theorem witness_VectorElements : isInt (vec.cur.tag 8) = true ∧ vec.cur.grant ≤ 64
    ∧ vec.cur.vl ≤ vec.cur.vspan * vec.cur.slots ((slotWidth (vec.cur.tag 8)).getD 8) ∧ 15 < vec.cur.vl := by decide +kernel

/-- Whether a word of `vec` falls under a clause about the values of its kind of opcode. -/
def hasClause (i : Instr) : Bool :=
  let c := vec.cur
  match i.vec with
  | some (op, w) =>
    (match elemValue op c w 15 with | some (u, _) => decide (c.vl ≤ c.vspan * c.slots ((slotWidth u).getD 8)) | none => false)
    || (maskValue op c w 15).isSome
    || ((moveOf op c w 15).isSome && isAll (c.tag w.a.toNat) && decide (c.vl ≤ c.vspan * c.slots ((slotWidth (c.tag w.a.toNat)).getD 8)))
    || [0x63, 0x66, 0x68, 0x69, 0x6A, 0x71, 0x72].contains op
  | none => false

theorem witness_VectorElements_clauses : vec.cur.grant % 8 = 0 ∧ 8 ≤ vec.cur.grant ∧ vec.cur.vl ≤ 2048 ∧ vec.cur.vl % 16 = 0
    ∧ vectorWords.all hasClause = true ∧ Pip.ofCode 0x10 = some .p3 ∧ fmtOf (vec.cur.tag 10) = some .fp32 ∧ 15 / 16 ∈ activeBlocks vec.cur
    ∧ vec.cur.vl ≤ vec.cur.vspan * vec.cur.slots 16 ∧ isInt (vec.cur.tag 8) = true ∧ isFlt (vec.cur.tag 10) = true ∧ isPip (vec.cur.tag 12) = true
    ∧ vec.cur.tag 30 = 0 ∧ 0 < vec.cur.vspan ∧ 30 + vec.cur.vspan ≤ 128 := by decide +kernel

theorem witness_VectorRun_count : ∀ op ∈ [Instr.vmpop ⟨1, 2, 0, true, 0⟩, .vmfirst ⟨1, 2, 0, true, 0⟩],
    ∃ k w v s1 x, op.vec = some (k, w) ∧ Issues op vec v s1 ∧ v.pend = [] ∧ (k = 0x71 ∨ k = 0x72) ∧ (vecEffect k s1.cur w).g = some x ∧ w.d ≠ 0 := by
  have h : ([Instr.vmpop ⟨1, 2, 0, true, 0⟩, .vmfirst ⟨1, 2, 0, true, 0⟩].all fun i => match i.vec with
      | some (k, w) => issues i vec fun v s1 => v.pend.isEmpty && decide (k = 0x71 ∨ k = 0x72) && (vecEffect k s1.cur w).g.isSome && decide (w.d ≠ 0)
      | none => false) = true := by decide +kernel
  intro i hi
  have q := List.all_eq_true.mp h i hi
  split at q
  · rename_i k w e
    obtain ⟨v, s1, hv, hp⟩ := of_issues q
    simp only [Bool.and_eq_true, decide_eq_true_iff, List.isEmpty_iff, Option.isSome_iff_exists] at hp
    obtain ⟨⟨⟨h1, h2⟩, x, h3⟩, h4⟩ := hp
    exact ⟨k, w, v, s1, x, e, hv, h1, h2, h3, h4⟩
  · cases q

/-- R73, R181: elements wrap in their slots; a masked element keeps its value. -/
theorem test_vadd :
    let s := vec.modCur fun c => { c with vl := 2, v := [(8, 0xFFFFFFFF_FFFFFFFF), (9, 0x00000001_00000002)], m := [(0, 1)] }
    (after (.vadd ⟨20, 8, 9, true, 0⟩) s).cur.elem 20 32 0 = 1 ∧ (after (.vadd ⟨20, 8, 9, true, 0⟩) s).cur.elem 20 32 1 = 0
    ∧ (after (.vadd ⟨20, 8, 9, true, 0⟩) s).cur.tag 20 = 6 := by decide +kernel

/-- R64: FP32 and I32 sources together are TAG-MISMATCH (03h). -/
theorem test_vector_tag : lastRec (after (.vadd ⟨20, 8, 10, true, 0⟩) vec) = (3, 1) := by decide +kernel

/-- R121: SETL grants what VL asks for, at most what the lanes hold; R122: VREL gives everything up. -/
theorem test_setl : (after (.setl 1 2 0) (two (2 ^ 48 + 100) 0)).reg 1 = 100 ∧ (after (.setl 1 2 0) (two (3 * 2 ^ 48 + 100) 0)).reg 1 = 32
    ∧ (after .vrel vec).cur.grant = 0 ∧ (after .vrel vec).cur.tags = [] := by decide +kernel

/-- R73, R187: VMOV of a B1 group reads bit 0; R77, R181: VQNT of a signalling NaN sets NV. -/
theorem test_vector_bits :
    let b := vec.modCur fun c => { c with tags := [(8, 1)], v := [(8, 0xFE03)] }
    let q := vec.modCur fun c => { c with v := [(10, 0x7F800001)] }
    (after (.vmov ⟨20, 8, 0, true, 0⟩) b).cur.elem 20 8 0 = 1 ∧ (after (.vmov ⟨20, 8, 0, true, 0⟩) b).cur.elem 20 8 1 = 0
    ∧ (after (.vqnt ⟨20, 10, 0x10, true, 6⟩) q).cur.vq.map (fun c => c.flags &&& flNV) = [flNV] := by decide +kernel

/-! ### Queues, turnarounds and atomics -/

/-- Queue 0 inbound and queue 1 outbound, one segment each, with counts of entries. -/
def queued (avail cov out : Nat) : State := vec.modCurCore fun k =>
  { k with
    queues := [(0, { dir := 1, segs := [32768], avail := avail, cov := cov }), (1, { dir := 2, segs := [65536], avail := out })]
    ctxs := k.ctxs.mapVals fun _ c => { c with regs := [(2, 6)] } }

theorem witness_Queues_wait : (∃ v s1, Issues (.qwait 2 0) (queued 8 4 0) v s1) ∧ ((queued 8 4 0).curCore.queue 0).dir = 1
    ∧ 6 ≤ ((queued 8 4 0).curCore.queue 0).avail ∧ (∃ v s1, Issues (.qwait 2 1) (queued 8 4 0) v s1)
    ∧ ((queued 8 4 0).curCore.queue 1).dir = 2 ∧ ((queued 8 4 0).curCore.queue 1).avail ≤ 6 := by
  have q := of_list [Instr.qwait 2 0, .qwait 2 1] (queued 8 4 0) (fun _ => true) (by decide +kernel)
  exact ⟨(q _ (by decide)).2, by decide +kernel, by decide +kernel, (q _ (by decide)).2, by decide +kernel, by decide +kernel⟩

theorem witness_Queues_move : (∃ v s1, Issues (.qpop 8 2 0) (queued 1 1 62) v s1 ∧ s1.queueRoom = .ok ())
    ∧ (∃ v s1, Issues (.qpush 8 2 1) (queued 1 1 62) v s1 ∧ s1.queueRoom = .ok ())
    ∧ (queued 1 1 62).cur.span = none ∧ BanksFree (queued 1 1 62) ∧ ceilDiv ((queued 1 1 62).cur.vl * 32) 512 ≤ ((queued 1 1 62).curCore.queue 0).cov
    ∧ (queued 1 1 62).curCore.loc.syn = [] ∧ (queued 1 1 62).lr.racem = 0 ∧ (queued 1 1 62).cur.groupTag 8 = .ok 6
    ∧ RingOk ((queued 1 1 62).curCore.queue 0) ∧ RingOk ((queued 1 1 62).curCore.queue 1)
    ∧ ceilDiv ((queued 1 1 62).cur.vl * 32) 512 ≤ ((queued 1 1 62).curCore.queue 1).capacity - ((queued 1 1 62).curCore.queue 1).avail := by
  obtain ⟨v, s1, q, h⟩ := of_issues (i := .qpop 8 2 0) (s := queued 1 1 62) (p := fun _ s1 => s1.queueRoom.toOption.isSome) (by decide +kernel)
  obtain ⟨u, h⟩ := of_ok h
  obtain ⟨v', s1', q', h'⟩ := of_issues (i := .qpush 8 2 1) (s := queued 1 1 62) (p := fun _ s1 => s1.queueRoom.toOption.isSome) (by decide +kernel)
  obtain ⟨u', h'⟩ := of_ok h'
  exact ⟨⟨v, s1, q, h⟩, ⟨v', s1', q', h'⟩, by decide +kernel, by unfold BanksFree; decide +kernel, by decide +kernel, by decide +kernel, by decide +kernel, rfl,
    by unfold RingOk; decide +kernel, by unfold RingOk; decide +kernel, by decide +kernel⟩

theorem witness_Queues_overflow : (∃ v s1, Taken (.qpush 8 2 1) (queued 1 1 63) v s1 ∧ s1.queueRoom = .ok ()) ∧ (queued 1 1 63).onSys = false
    ∧ (queued 1 1 63).cur.span = none ∧ (queued 1 1 63).cur.groupTag 8 = .ok 6
    ∧ ((queued 1 1 63).curCore.queue 1).capacity - ((queued 1 1 63).curCore.queue 1).avail < ceilDiv ((queued 1 1 63).cur.vl * 32) 512 := by
  obtain ⟨v, s1, q, h⟩ := of_takes (i := .qpush 8 2 1) (s := queued 1 1 63) (p := fun _ s1 => s1.queueRoom.toOption.isSome) (by decide +kernel)
  obtain ⟨u, h⟩ := of_ok h
  exact ⟨⟨v, s1, q, h⟩, by decide +kernel, by decide +kernel, rfl, by decide +kernel⟩

/-- R147, R150: the overflow stops the context before the word, with QUEUE-OVERFLOW (22h). -/
theorem test_qpush_overflow : (after (.qpush 8 2 1) (queued 1 1 63)).cur.trapped = true
    ∧ (after (.qpush 8 2 1) (queued 1 1 63)).disp.trapWait.map (·.cause) = [0x22] := by decide +kernel

theorem witness_Turnarounds : (∃ v s1, Issues (.turn 2 3 2 3) (two 8192 4096) v s1 ∧ s1.checkRegion 8192 4096 2 = .ok ())
    ∧ (two 8192 4096).cur.turns.length < 4
    ∧ (∃ v s1 l s2 wm, Issues (.turnt 0 2 4) vec v s1 ∧ s1.checkEntry vec.focusCore (vec.reg 4).toNat = .ok ()
      ∧ s1.useEntry vec.focusCore (vec.reg 4).toNat = (l, s2) ∧ lteBad l = false ∧ lteWidth (lteFmt l) = some wm
      ∧ s2.checkRegion (lteRegion l wm).1 (lteRegion l wm).2 0 = .ok ())
    ∧ (∃ v s1, Issues .twait base v s1) ∧ base.cur.turns = [] := by
  obtain ⟨v, s1, q, h⟩ := of_issues (i := .turn 2 3 2 3) (s := two 8192 4096) (p := fun _ s1 => (s1.checkRegion 8192 4096 2).toOption.isSome)
    (by decide +kernel)
  obtain ⟨u, h⟩ := of_ok h
  obtain ⟨v', s1', q', h'⟩ := of_issues (i := .turnt 0 2 4) (s := vec) (p := fun _ s1 =>
      (s1.checkEntry vec.focusCore (vec.reg 4).toNat).toOption.isSome && !lteBad (s1.useEntry vec.focusCore (vec.reg 4).toNat).1
      && match lteWidth (lteFmt (s1.useEntry vec.focusCore (vec.reg 4).toNat).1) with
        | some wm => ((s1.useEntry vec.focusCore (vec.reg 4).toNat).2.checkRegion (lteRegion (s1.useEntry vec.focusCore (vec.reg 4).toNat).1 wm).1
            (lteRegion (s1.useEntry vec.focusCore (vec.reg 4).toNat).1 wm).2 0).toOption.isSome
        | none => false) (by decide +kernel)
  rw [Bool.and_eq_true, Bool.and_eq_true, Bool.not_eq_true'] at h'
  obtain ⟨⟨h1, h2⟩, h3⟩ := h'
  obtain ⟨u1, h1⟩ := of_ok h1
  split at h3
  · rename_i wm e
    obtain ⟨u3, h3⟩ := of_ok h3
    obtain ⟨v2, s2, q2, _⟩ := of_issues (i := .twait) (s := base) (p := always) (by decide +kernel)
    exact ⟨⟨v, s1, q, h⟩, by decide +kernel, ⟨v', s1', _, _, wm, q', h1, rfl, h2, e, h3⟩, ⟨v2, s2, q2⟩, by decide +kernel⟩
  · cases h3

/-- A context with one turnaround of 40 sectors. -/
def turning (u : TurnRec) (now : Nat) : State := { base.modCur fun c => { c with turns := [u] } with now := now }

theorem witness_TurnSteps_start : ∀ level ∈ [0, 4],
    let u : TurnRec := { level := level, paths := 2, lo := 8192, count := 40, issued := 0, exch := false }
    ((turning u 5).ctx 0 0).turns = [u] ∧ (turning u 5).turnLive 0 0 = true ∧ (turning u 5).drainsLeft 0 0 u = false
    ∧ ((turning u 5).ctx 0 0).turnStartAt u ≤ (turning u 5).now := by decide +kernel

theorem witness_TurnSteps_flip :
    let u : TurnRec := { level := 0, paths := 2, lo := 8192, count := 40, issued := 0, exch := false, start := some 5, x := 1, groups := 1 }
    ((turning u 9).ctx 0 0).turns = [u] ∧ (turning u 9).turnLive 0 0 = true ∧ u.nextFlip = some 9 := by decide +kernel

/-- The last sector of a turnaround of 40 flips with the second group, and no write is on its way to it. -/
theorem witness_TurnSteps_facing :
    let u : TurnRec := { level := 0, paths := 2, lo := 8192, count := 40, issued := 0, exch := false, start := some 5, x := 1, groups := 1 }
    let s := turning u 9
    32 * u.groups ≤ 39 ∧ 39 < 32 * (u.groups + 1) ∧ 39 < u.count ∧ s.locate 0 (u.lo + 512 * 39) = some (.loc 0, u.lo + 512 * 39)
    ∧ s.exempt (.loc 0) ((u.lo + 512 * 39) / 512) = false ∧ (s.core 0).nextWrite ((u.lo + 512 * 39) / 512) s.now = none := by decide +kernel

theorem witness_TurnSteps_complete :
    let u : TurnRec := { level := 0, paths := 2, lo := 8192, count := 40, issued := 0, exch := false, start := some 5, x := 1, groups := 2 }
    ((turning u 10).ctx 0 0).turns = [u] ∧ (turning u 10).turnLive 0 0 = true ∧ u.endsAt = some 10 := by decide +kernel

/-- R160: the first flip turns 32 sectors IN and leaves the 33rd OUT. -/
theorem test_turn_flip :
    let u : TurnRec := { level := 0, paths := 2, lo := 8192, count := 40, issued := 0, exch := false, start := some 5, x := 1 }
    let s := (turning u 8).modCurCore fun k => { k with loc := k.loc.store (512 * 47) 1024 7 }
    s.curCore.loc.isOut 47 = true ∧ (after (.turnGroupFlip 0 0) s).curCore.loc.isOut 47 = false
    ∧ (after (.turnGroupFlip 0 0) s).curCore.loc.isOut 48 = true := by decide +kernel

def atomics (k : Bool) : List Instr :=
  [.aadd k 0 4 2 3, .aand k 1 4 2 3, .aor k 2 4 2 3, .axor k 0 4 2 3, .amin k 0 4 2 3, .amax k 0 4 2 3, .aminn k 0 4 2 3, .amaxn k 0 4 2 3,
   .axchg k 0 4 2 3, .acas k 0 4 2 3, .afadd k 0 4 2 3, .ald k 1 4 2, .ast k 2 2 3, .aadd k 0 0 2 3]

theorem witness_Atomics : ∀ k ∈ [false, true],
    let s := synced (two 2048 5) [2048]
    (∀ i ∈ atomics k, (atomOf i s).isSome = true ∧ ∃ v s1, Issues i s v s1) ∧ s.cur.atomAt = none ∧ BanksFree s
    ∧ s.cur.turns = [] ∧ s.cur.writes = [] ∧ engineIdle s ∧ s.mailWord 2048 = none ∧ s.atomPlace 2048 (if k then 32 else 64) = .ok (.loc 0, 2048)
    ∧ 2048 % (if k then 32 else 64) = 0 ∧ s.atomSync (.loc 0) (2048 / 512) = true ∧ (s.spaceAt (.loc 0)).syn = [] := by
  have h : ∀ k ∈ [false, true], ((atomics k).all fun i =>
      (atomOf i (synced (two 2048 5) [2048])).isSome && issues i (synced (two 2048 5) [2048]) always) = true := by decide +kernel
  intro k hk
  refine ⟨of_list (atomics k) (synced (two 2048 5) [2048]) (fun i => (atomOf i (synced (two 2048 5) [2048])).isSome) (h k hk), by decide +kernel,
    by unfold BanksFree; decide +kernel, by decide +kernel, by decide +kernel, .inr (by decide +kernel), by decide +kernel, ?_, ?_, ?_, by decide +kernel⟩
  · cases k <;> rfl
  · cases k <;> rfl
  · have e : (synced (two 2048 5) [2048]).isSync 4 = true := by decide +kernel
    show ((synced (two 2048 5) [2048]).isSync 4 || _) = true
    rw [e]
    rfl

/-- Tables at physical 0 that map the first 2^33 bits of DEVICE space to themselves (R306). -/
def idTables : Memory := Memory.setBits (Memory.setBits [] 0 64 (2 ^ 63 + 2 ^ 15)) (2 ^ 15) 64 (2 ^ 63 + 2 ^ 62 + 2 ^ 61)

/-- System core 0 with a DEVICE sync sector that the running slice declares. -/
def sysSync : State :=
  let s := synced (sys 0) [2 ^ 62 + 8192]
  { s.modCur fun c => { c with regs := [(2, BitVec.ofNat 64 (2 ^ 62 + 8192)), (3, 5)] } with
    sysTables := idTables, slice := s.slice.map fun r => { r with tables := idTables } }

theorem witness_Atomics_device : (∃ v s1, Issues (.aadd false 0 4 2 3) sysSync v s1) ∧ sysSync.cur.atomAt = none ∧ BanksFree sysSync
    ∧ sysSync.mailWord (2 ^ 62 + 8192) = none ∧ sysSync.atomPlace (2 ^ 62 + 8192) 64 = .ok (.phys, 8192) ∧ sysSync.atomSync .phys (8192 / 512) = true
    ∧ (sysSync.spaceAt .phys).syn = [] ∧ sysSync.onSys = true := by
  obtain ⟨v, s1, q, _⟩ := of_issues (i := .aadd false 0 4 2 3) (s := sysSync) (p := always) (by decide +kernel)
  refine ⟨⟨v, s1, q⟩, by decide +kernel, by unfold BanksFree; decide +kernel, by decide +kernel, ?_, ?_, by decide +kernel, by decide +kernel⟩
  · have e : translate sysSync.sysTables sysSync.bar.sysroot.toNat ((2 ^ 62 + 8192) % 2 ^ 57) true = some 8192 := by decide +kernel
    have o : sysSync.onSys = true := by decide +kernel
    unfold State.atomPlace
    rw [if_pos o, if_neg (by decide +kernel), e]
  · have e : sysSync.syncAt .phys 16 = true := by decide +kernel
    show (sysSync.syncAt .phys 16 || _) = true
    rw [e]
    rfl

/-! ### The matrix engine -/

/-- A small shape, layout entry 1 over 64 by 64 BF16 elements at 8192, and register pairs that name it. -/
def mat (f : Mat → Mat) : State := base.modCurCore fun k =>
  { k with
    loc := { bytes := Memory.setBits [] 256 256 (8192 + 63 * 2 ^ 64 + 63 * 2 ^ 80 + 1024 * 2 ^ 128 + 0xB * 2 ^ 242) }
    me := f { gm := 2, gn := 2, gk := 2, ptact := 0xB }
    ctxs := k.ctxs.mapVals fun _ c => { c with regs := [(2, 1), (4, 1)] } }

/-- A matrix command with the sparse shape that MLDWS needs. -/
def matOf (i : Instr) : State := match i with | .mldws _ => mat (fun e => { e with sp := true, gk := 16 }) | _ => mat id

/-- Whether a matrix word passes all its checks. -/
def commands (i : Instr) : Bool :=
  match matrixWord i with
  | some (_, f) => issues i (matOf i) fun _ s1 => (f s1).toOption.isSome
  | none => false

theorem of_commands {i : Instr} (h : commands i = true) :
    ∃ k f v s1 s2, matrixWord i = some (k, f) ∧ Issues i (matOf i) v s1 ∧ f s1 = .ok s2 := by
  unfold commands at h
  split at h
  · rename_i k f e
    obtain ⟨v, s1, hv, hp⟩ := of_issues h
    obtain ⟨s2, hp⟩ := of_ok hp
    exact ⟨k, f, v, s1, s2, e, hv, hp⟩
  · cases h

theorem witness_MatrixWords : (∀ i ∈ [Instr.mldw 2, .mldws 2, .mswap, .mfwd 2, .mbwd 2, .mgrd 2 4, .mdrain 2 6, .mzero 3],
      (∃ k f v s1 s2, matrixWord i = some (k, f) ∧ Issues i (matOf i) v s1 ∧ f s1 = .ok s2))
    ∧ (mat id).cur.span = none ∧ (mat fun e => { e with sp := true, gk := 16 }).cur.span = none
    ∧ (∃ v s1, Issues .mwait (mat id) v s1) ∧ (∃ v s1, Issues (.mamax 1) (mat id) v s1) ∧ (mat id).curCore.me.queue = []
    ∧ (mat id).curCore.me.running = [] := by
  have h : [Instr.mldw 2, .mldws 2, .mswap, .mfwd 2, .mbwd 2, .mgrd 2 4, .mdrain 2 6, .mzero 3].all commands = true := by decide +kernel
  have q := of_list [Instr.mwait, .mamax 1] (mat id) (fun _ => true) (by decide +kernel)
  exact ⟨fun i hi => of_commands (List.all_eq_true.mp h i hi), by decide +kernel, by decide +kernel, (q _ (by decide)).2,
    (q _ (by decide)).2, by decide +kernel, by decide +kernel⟩

/-- The conditions of the second clause of MatrixWords, of every command. -/
theorem witness_MatrixWords_operands : ∀ i ∈ [Instr.mldw 2, .mldws 2, .mswap, .mfwd 2, .mbwd 2, .mgrd 2 4, .mdrain 2 6, .mzero 3],
    (∃ v s1 m, Issues i (matOf i) v s1 ∧ commandOf i (matOf i) v = some m) ∧ (matOf i).curCore.me.queue.length < 4
    ∧ (matOf i).curCore.stale = [] ∧ (matOf i).curCore.loc.syn = [] ∧ CommandOk i (matOf i) := by
  have q : ∀ i, issues i (matOf i) (fun v _ => (commandOf i (matOf i) v).isSome) = true →
      ∃ v s1 m, Issues i (matOf i) v s1 ∧ commandOf i (matOf i) v = some m := fun i h => by
    obtain ⟨v, s1, h1, h2⟩ := of_issues h
    obtain ⟨m, h2⟩ := Option.isSome_iff_exists.mp h2
    exact ⟨v, s1, m, h1, h2⟩
  have hd : CommandOk (.mdrain 2 6) (matOf (.mdrain 2 6)) := by
    refine ⟨⟨by decide +kernel, by decide +kernel, by decide +kernel, by decide +kernel, by decide +kernel, by decide +kernel⟩, ?_⟩
    intro row u h
    obtain rfl : row = 0 := by
      have e : ((matOf (.mdrain 2 6)).reg 6).toNat / 2 ^ 8 % 2 ^ 7 + 1 = 1 := by decide +kernel
      omega
    revert u
    decide +kernel
  intro i hi
  fin_cases hi <;> first
    | exact ⟨q _ (by decide +kernel), by decide +kernel, rfl, rfl, by unfold CommandOk TensorOk; decide +kernel⟩
    | exact ⟨q _ (by decide +kernel), by decide +kernel, rfl, rfl, hd⟩

theorem witness_ShapeGrant : (∃ v s1, Issues (.mshape 1 2) (two 0x01FF7F40 0) v s1) ∧ (∃ v s1, Issues (.mshape 1 2) (two 0x00010101 0) v s1)
    ∧ AtHead (.mshape 1 2) (head 0x010F0101) ∧ (head 0x010F0101).slice.isSome = true ∧ 0x010F0101 / 2 ^ 24 % 2 = 1
    ∧ 0x010F0101 / 2 ^ 16 % 2 ^ 8 < 16 := by
  obtain ⟨v, s1, q, _⟩ := of_issues (i := .mshape 1 2) (s := two 0x01FF7F40 0) (p := always) (by decide +kernel)
  obtain ⟨v', s1', q', _⟩ := of_issues (i := .mshape 1 2) (s := two 0x00010101 0) (p := always) (by decide +kernel)
  exact ⟨⟨v, s1, q⟩, ⟨v', s1', q'⟩, ⟨by decide +kernel, by decide +kernel, rfl, rfl, rfl, rfl, rfl, by decide +kernel, by decide +kernel, by decide +kernel, rfl⟩, by decide +kernel,
    by decide, by decide⟩

/-- R207: the grants for 127 rows, 127 columns and a K of 255 with and without sparse mode. -/
theorem test_mshape : (after (.mshape 1 2) (two 0x01FF7F7F 0)).reg 1 = 0x01804040 ∧ (after (.mshape 1 2) (two 0x00FF7F7F 0)).reg 1 = 0x00404040
    ∧ lastRec (after (.mshape 1 2) (two 0x00808080 0)) = (2, 1) := by decide +kernel

def mzeroCmd : MCmd := { kind := .zero, origin := {}, issued := 0, gm := 2, gn := 2, gk := 2, pl := 3 }

theorem witness_MatrixSteps_start :
    let s := mat fun e => { e with queue := [mzeroCmd] }
    s.engineLive 0 = true ∧ (∃ t, s.nextCommand 0 = some (mzeroCmd, t) ∧ t ≤ s.now) ∧ ∃ s2, s.startCommand 0 mzeroCmd = .ok s2 := by
  refine ⟨by decide +kernel, ⟨_, rfl, by decide +kernel⟩, of_ok (by decide +kernel)⟩

def drainCmd : MCmd :=
  { kind := .drain, origin := {}, issued := 0, gm := 2, gn := 2, gk := 2, rows := 1, cols := 1, start := some 0, fmt := 0xC, res := [(0, 0x3F800000)]
    a := { lte := BitVec.ofNat 256 (8192 + 63 * 2 ^ 64 + 63 * 2 ^ 80 + 0xC * 2 ^ 242) } }

theorem witness_MatrixSteps_drain :
    let s : State := { mat fun e => { e with running := [drainCmd] } with now := 6 }
    s.engineLive 0 = true ∧ (s.core 0).me.nextDrain = some (drainCmd, 0, 16, 6) ∧ s.drainHeld 0 drainCmd 0 16 = false
    ∧ ∃ s2, s.drainWrite 0 drainCmd 0 16 = .ok s2 := by
  refine ⟨by decide +kernel, by decide +kernel, by decide +kernel, of_ok (by decide +kernel)⟩

/-- R217: the drain writes the cell. -/
theorem test_drain :
    let s : State := { mat fun e => { e with running := [drainCmd] } with now := 6 }
    (after (.drainSectorWrite 0) s).curCore.loc.bytes.bits 8192 32 = 0x3F800000
    ∧ (after (.drainSectorWrite 0) s).curCore.loc.isOut 16 = true := by decide +kernel

def loadCmd : MCmd := { kind := .ldw, origin := {}, issued := 0, gm := 2, gn := 2, gk := 2, start := some 0, done := some 5, res := [(0, 7)] }

theorem witness_MatrixSteps_complete :
    let s : State := { mat fun e => { e with running := [loadCmd] } with now := 5 }
    s.engineLive 0 = true ∧ (s.core 0).me.nextDone = some (loadCmd, 5) ∧ 5 ≤ s.now := by decide +kernel

/-- A command of each kind, on the shape and tensor of `mat`. -/
def cmdOf (k : MKind) : MCmd := { mzeroCmd with kind := k, a := drainCmd.a, rows := 1, cols := 1, fmt := 0xC }

theorem witness_MatrixSteps_starts : ∀ k ∈ [MKind.swap, .zero, .drain, .ldw, .ldws, .fwd, .bwd, .grd],
    let s : State := { mat fun e => { e with queue := [cmdOf k] } with now := 9 }
    s.engineLive 0 = true ∧ s.readDue 0 = none ∧ s.nextCommand 0 = some (cmdOf k, 0) ∧ 0 ≤ s.now ∧ (s.core 0).quiet s.now = true := by decide +kernel

/-- A weight load with one request left. -/
def readCmd : MCmd :=
  { cmdOf .ldw with start := some 0, plan := [{ i := 0, sec := 16, due := 2, seq := 0 }], fmt := 0xB
                    a := { lte := BitVec.ofNat 256 ((mat id).curCore.loc.bytes.bits 256 256) } }

theorem witness_MatrixSteps_read :
    let s : State := { mat fun e => { e with running := [readCmd] } with now := 2 }
    s.engineLive 0 = true ∧ s.readDue 0 = some readCmd ∧ readCmd.plan = [{ i := 0, sec := 16, due := 2, seq := 0 }] ∧ s.lr.racem = 0
    ∧ (∀ p n, (p, n) ∈ readCmd.unitsAt 0 → InPlace s p n) ∧ (s.core 0).loc.syn = [] ∧ (s.core 0).loc.hist = []
    ∧ (s.core 0).loc.isOut 16 = false ∧ (s.ctx 0 0).turns = [] ∧ readCmd.kind ≠ .ldws
    ∧ ∃ s2, s.readNext 0 readCmd readCmd.plan = .ok s2 := by
  have u : readCmd.unitsAt 0 = [(8192, 16), (8208, 16)] := by decide +kernel
  refine ⟨by decide +kernel, by decide +kernel, rfl, by decide +kernel, ?_, by decide +kernel, by decide +kernel, by decide +kernel,
    by decide +kernel, by decide, of_ok (by decide +kernel)⟩
  intro p n h
  rw [u, List.mem_cons, List.mem_singleton] at h
  obtain h | h := h <;> cases h <;> (unfold InPlace; decide +kernel)

theorem rowsRead_of {m : MCmd} {mem : Memory} (h : (m.reads.all fun q => (List.range q.2.1).all fun row => (enumFrom 0 (m.rowSectors q row)).all fun p =>
    SMap.get 0 m.got (readKey (m.rowCycle row p.1) p.2) == BitVec.ofNat 512 (mem.bits (512 * p.2) 512)) = true) : RowsRead m mem := by
  intro q p row hq hr hp
  exact eq_of_beq (List.all_eq_true.mp (List.all_eq_true.mp (List.all_eq_true.mp h q hq) row (List.mem_range.mpr hr)) p hp)

/-- A load or stream command with one row of one sector, whose request is left; a bundle of the row is well formed. -/
def lastCmd (k : MKind) : MCmd :=
  { readCmd with kind := k, b := readCmd.a, gm := 1, gn := 1, gk := if k = .ldws then 16 else 2, sp := k == .ldws }

theorem witness_MatrixSteps_rows : ∀ k ∈ [MKind.ldw, .ldws, .fwd, .bwd, .grd],
    let s : State := { mat fun e => { e with running := [lastCmd k] } with now := 2 }
    let s : State := s.modCurCore fun c => { c with loc := { c.loc with bytes := c.loc.bytes.setBits 8192 16 0x4444 } }
    s.engineLive 0 = true ∧ s.readDue 0 = some (lastCmd k) ∧ s.lr.racem = 0 ∧ (s.core 0).loc.syn = [] ∧ (s.core 0).loc.hist = []
    ∧ (s.core 0).loc.isOut 16 = false ∧ (s.ctx 0 0).turns = []
    ∧ RowsRead { lastCmd k with got := (lastCmd k).got.put (readKey 0 16) (BitVec.ofNat 512 ((s.core 0).loc.bytes.bits (512 * 16) 512)) } (s.core 0).loc.bytes
    ∧ RowsOk (lastCmd k) (s.core 0).loc.bytes ∧ ∀ r ∈ (s.core 0).me.running, r.kind ∈ [MKind.fwd, .bwd, .grd] → r.res = [] := by
  intro k hk
  fin_cases hk <;> exact ⟨by decide +kernel, by decide +kernel, by decide +kernel, by decide +kernel, by decide +kernel, by decide +kernel,
    by decide +kernel, rowsRead_of (by decide +kernel), by unfold RowsOk BundleOk; refine ⟨?_, ?_, ?_, ?_, ?_, ?_, ?_, ?_, ?_, ?_, ?_⟩ <;> decide +kernel,
    by decide +kernel⟩

/-- The units of those commands may be read. -/
theorem witness_MatrixSteps_units : ∀ k ∈ [MKind.ldw, .ldws, .fwd, .bwd, .grd], ∀ u ∈ (lastCmd k).unitsAt 0,
    InPlace { mat fun e => { e with running := [lastCmd k] } with now := 2 } u.1 u.2 := by
  unfold InPlace
  decide +kernel

theorem witness_MatrixSteps_writes :
    let s : State := { mat fun e => { e with running := [drainCmd] } with now := 6 }
    (s.core 0).banks = [] ∧ (s.core 0).loc.syn = [] ∧ s.lr.racem = 0 := by decide +kernel

/-! ### Supersteps -/

theorem witness_PhaseWords : (base.onSys = false) ∧ (∃ v s1, Issues .parr base v s1)
    ∧ (∃ v s1, Issues .pwait (base.modCur fun c => { c with st := .arrived }) v s1)
    ∧ (∃ v s1, Issues .pwait (base.modCur fun c => { c with st := .released }) v s1)
    ∧ (∃ v s1, Issues (.cbarr 2 1) (two 1 0) v s1) ∧ (∃ v s1, Issues (.cbwait 1) base v s1)
    ∧ (SMap.get {} base.curCore.bars 1).pending.getLsbD 0 = false ∧ (SMap.get {} base.curCore.bars 1).effect.getLsbD 0 = false
    ∧ (∃ v s1, Issues .yield base v s1) ∧ base.slice.isSome = true := by
  have q := of_list [Instr.parr, .cbwait 1, .yield] base (fun _ => true) (by decide +kernel)
  obtain ⟨v, s1, h, _⟩ := of_issues (i := .pwait) (s := base.modCur fun c => { c with st := .arrived }) (p := always) (by decide +kernel)
  obtain ⟨v', s1', h', _⟩ := of_issues (i := .pwait) (s := base.modCur fun c => { c with st := .released }) (p := always) (by decide +kernel)
  obtain ⟨v2, s2, h2, _⟩ := of_issues (i := .cbarr 2 1) (s := two 1 0) (p := always) (by decide +kernel)
  exact ⟨by decide +kernel, (q _ (by decide)).2, ⟨v, s1, h⟩, ⟨v', s1', h'⟩, ⟨v2, s2, h2⟩, (q _ (by decide)).2, by decide +kernel,
    by decide +kernel, (q _ (by decide)).2, by decide +kernel⟩

/-- The record of the one slice. -/
def slc : SliceRun := { lr := oneContext, cores := [0], spent := { run := true } }

/-- Core 0 with one context, at a cycle, under a slice. -/
def run (r : SliceRun) (now : Nat) (c : Ctx) : State :=
  { base with now := now, slice := some r, cores := [(0, { ctxs := [(0, c)], vcyc := { run := true } })] }

theorem witness_ArrivalSteps : (run slc 9 { st := .arrived, parrAt := 9 }).parrDue 0 0 = true
    ∧ (run slc 9 { st := .arrived, parrEff := true }).arriveDue 0 = true ∧ (run slc 9 { st := .exited }).arriveDue 0 = true := by decide +kernel

/-- The same with a barrier. -/
def barred (b : Bar) : State := (run slc 9 { st := .run }).modCore 0 fun k => { k with bars := [(2, b)] }

theorem witness_ArrivalSteps_barrier : (barred { mask := 1, pending := 1, due := [(0, (3, 9))] }).barDue 0 0 2 = true
    ∧ (barred { mask := 1, effect := 1, last := 8 }).inSlice 0 = true ∧ (barred { mask := 1, effect := 1, last := 8 }).dbg.frozen = false
    ∧ ((barred { mask := 1, effect := 1, last := 8 }).core 0).barFull
      (SMap.get {} ((barred { mask := 1, effect := 1, last := 8 }).core 0).bars 2) = true
    ∧ (SMap.get {} ((barred { mask := 1, effect := 1, last := 8 }).core 0).bars 2).last < 9 := by decide +kernel

/-- Two sums of a group: one for a plain destination, one that names a turn level. -/
def sums : List SauEnt := [{ addr := 2 ^ 43, rop := 1, rfmt := 6, sum := 5, terms := 1 }, { addr := 2 ^ 43 + 512, rop := 1, rfmt := 9, sum := 7, terms := 1, toll := some 2 }]

theorem witness_PhaseChange : ∀ st ∈ [CtxSt.arrived, .waiting],
    let r : SliceRun := { slc with arrivedAt := some 8 }
    let s : State := { run r 40 { st := st, parrEff := true } with sau := sums }
    s.slice = some r ∧ s.changeDue = true ∧ s.allExited r = false ∧ r.chosen = false ∧ s.preempts r = false ∧ 0 ∈ r.cores
    ∧ (s.ctx 0 0).st = st ∧ s.phys.syn = [] ∧ s.lr.racem = 0
    ∧ (∀ x ∈ s.sau, ∀ y ∈ s.sau, x ≠ y → x.addr + x.value.2 ≤ y.addr ∨ y.addr + y.value.2 ≤ x.addr)
    ∧ (∀ x ∈ s.sau, sectorsOf x.addr x.value.2 = [x.addr / 512] ∧ s.syncAt .phys (x.addr / 512) = false
      ∧ ∀ y ∈ s.sau, x.addr / 512 ∈ sectorsOf y.addr y.value.2 → y.toll = x.toll)
    ∧ (s.writeResults s.sau).toOption.isSome = true := by
  intro st hst
  rw [List.mem_cons, List.mem_singleton] at hst
  obtain rfl | rfl := hst <;> exact ⟨rfl, by decide +kernel⟩

/-- R253: the results are written and face as their descriptors say. -/
theorem test_phaseChange_results :
    (match (run slc 40 { st := .waiting }).writeResults sums with
      | .ok t => t.phys.bytes.bits (2 ^ 43) 32 == 5 && t.phys.bytes.bits (2 ^ 43 + 512) 64 == 7 && t.phys.isOut (2 ^ 34) && !t.phys.isOut (2 ^ 34 + 1)
      | .error _ => false) = true := by decide +kernel

/-- R235: 32 cycles after the last arrival the change happens, and not before. -/
theorem test_phaseChange : (run { slc with arrivedAt := some 8 } 39 { st := .waiting, parrEff := true }).changeDue = false
    ∧ (after .phaseChange (run { slc with arrivedAt := some 8 } 40 { st := .waiting, parrEff := true })).phc = 1 := by decide +kernel

theorem witness_SliceEnds :
    (let r : SliceRun := { slc with arrivedAt := some 8 }
     let s := run r 40 { st := .exited }
     s.slice = some r ∧ s.changeDue = true ∧ s.sau = [] ∧ s.allExited r = true ∧ r.chosen = false ∧ s.preempts r = false)
    ∧ (let r : SliceRun := { slc with ending := true }
       let s := run r 40 { st := .exited }
       s.slice = some r ∧ r.ending = true ∧ s.farSettled r = true ∧ s.dbg.frozen = false ∧ s.copyFault r = none) := by
  exact ⟨⟨rfl, by decide +kernel⟩, rfl, by decide +kernel⟩

/-- An hourglass that has run out. -/
def late (r : SliceRun) : State := run { r with hgOn := true, hg := { run := true } } (2 ^ 32) { st := .run }

theorem witness_WatchSteps : (late { slc with hgExtended := true }).expired = true ∧ (late slc).expired = true
    ∧ (late { slc with hgExtended := true }).missing { slc with hgExtended := true } ≠ [] ∧ slc.lr.hglpol = false
    ∧ (∀ c, c ∈ slc.cores → c < 1024) ∧ slc.cores ≠ [] := by decide +kernel

theorem witness_WatchSteps_budget :
    (run { slc with lr := { slc.lr with raw := slc.lr.raw + BitVec.ofNat 2048 (2 ^ 256 * 5) }, budget := 5 } 5 { st := .run }).budgetOut = true
    ∧ ({ base with wakeAt := some 3, now := 3 } : State).wakeAt = some 3 := by decide +kernel

/-- A pre-empted slice with a save area that lies in one page of 2^33 bits. -/
def saving : SliceRun :=
  { slc with preempt := true, tables := idTables, lr := { slc.lr with raw := slc.lr.raw + BitVec.ofNat 2048 (2 ^ 832 * (2 ^ 62 + 2 ^ 20)) } }

theorem saving_area (k : Nat) (h : k < 8192) :
    (run saving 9 { st := .run }).xlate (saving.lr.state + 512 * k) false = some (2 ^ 20 + 512 * k) := by
  have e : saving.lr.state = 2 ^ 62 + 2 ^ 20 := by decide +kernel
  have e1 : (2 ^ 62 + 2 ^ 20 + 512 * k) % 2 ^ 57 = 2 ^ 20 + 512 * k := by omega
  have f1 : field (2 ^ 20 + 512 * k) 56 42 = 0 := by simp only [field, Nat.shiftRight_eq_div_pow]; omega
  have f2 : field (2 ^ 20 + 512 * k) 41 33 = 0 := by simp only [field, Nat.shiftRight_eq_div_pow]; omega
  have g : readEntry (tableEntry idTables (2 ^ 15) 0) (some (2 ^ 33)) true false = .page 0 := by decide +kernel
  have q : readEntry (tableEntry idTables saving.lr.ttroot 0) Option.none true false = .table (2 ^ 15) := by decide +kernel
  show Machine.translate idTables saving.lr.ttroot _ false = _
  rw [e, e1]
  unfold Machine.translate
  rw [f1, q]
  dsimp only
  rw [f2, g]
  simp only [Nat.zero_add]
  rw [Nat.mod_eq_of_lt (by omega)]

theorem witness_Preemption :
    let s := run saving 9 { st := .run }
    s.slice = some saving ∧ saving.preempt = true ∧ s.quiet saving = true ∧ s.dbg.frozen = false ∧ saving.lr.state ≠ 0
    ∧ s.xlate saving.lr.state false = some (2 ^ 20) ∧ 2 ^ 20 % 512 = 0
    ∧ (∀ k, k < 1 + saving.cores.length * saving.lr.blockSectors → s.xlate (saving.lr.state + 512 * k) false = some (2 ^ 20 + 512 * k))
    ∧ (∀ c, c ∈ saving.cores → (s.core c).index < saving.cores.length ∧ ∀ d, d ∈ saving.cores → (s.core d).index = (s.core c).index → d = c)
    ∧ 0 ∈ saving.cores ∧ (s.ctx 0 0).st ≠ .absent ∧ (s.core 0).loc.syn = [] := by
  refine ⟨rfl, rfl, by decide +kernel, by decide +kernel, by decide +kernel, by decide +kernel, by decide, fun k h => saving_area k ?_, ?_, by decide,
    by decide +kernel, by decide +kernel⟩
  · have e : 1 + saving.cores.length * saving.lr.blockSectors = 4161 := by decide +kernel
    omega
  · intro c hc
    rw [show saving.cores = [0] from rfl, List.mem_singleton] at hc
    subst hc
    exact ⟨by decide +kernel, fun d hd _ => by rwa [show saving.cores = [0] from rfl, List.mem_singleton] at hd⟩

/-! ### The exchange and far traffic -/

theorem of_some {α : Type} {o : Option α} {p : α → Bool} (h : (match o with | some x => p x | none => false) = true) :
    ∃ x, o = some x ∧ p x = true := by
  cases o with
  | none => cases h
  | some x => exact ⟨x, rfl, h⟩

/-- `idTables` with the next 2^33 bits of DEVICE space mapped to slice SRAM. -/
def exTables : Memory := Memory.setBits idTables (2 ^ 15 + 64) 64 (2 ^ 63 + 2 ^ 62 + 2 ^ 61 + 2 ^ 44)

/-- A descriptor of 512 bits. -/
def descBits (kind src dst len more : Nat) : Nat := src + 2 ^ 64 * dst + 2 ^ 128 * len + 2 ^ 160 * 2 + 2 ^ 200 * kind + more

def sram : Nat := 2 ^ 62 + 2 ^ 33 + 8192

/-- Cores 0 and 1 in an exchange superstep; context 0 of core 0 holds one descriptor in v8. -/
def exState (bits : Nat) : State :=
  { base with
    phc := 1, photonic := true, sysTables := exTables, phys := { bytes := exTables }
    slice := some { slc with cores := [0, 1], tables := exTables }
    cores := [(0, { ctxs := [(0, { st := .run, view := 1, grant := 64, vl := 1, tags := [(8, 0x1C)], v := [(8, BitVec.ofNat 2048 bits)] })]
                    vcyc := { run := true }, queues := [(0, { dir := 1, segs := [32768] })] }),
              (1, { ctxs := [(0, { st := .run, view := 1 })], vcyc := { run := true } })] }

/-- Each EXCH word with a descriptor that it takes: LOCAL to LOCAL, to the neighbour in the east, a sum of two I32 terms into
slice SRAM, slice SRAM to two cores, and DEVICE to an inbound queue. -/
def exchWords : List (Instr × Nat) :=
  [(.xfer 1 8, descBits 0 8192 16384 512 0), (.halo 1 8, descBits 1 8192 16384 512 (2 ^ 222 * 1)),
   (.xred 1 8, descBits 2 8192 sram 64 (2 ^ 206 * 1 + 2 ^ 209 * 6)), (.xcast 1 8, descBits 3 sram 16384 512 (2 ^ 234 * 1)),
   (.xfar 1 8, descBits 4 (2 ^ 62 + 8192) (5 * 2 ^ 61) 512 0)]

def exchanges (p : Instr × Nat) : Bool :=
  match exchWordOf p.1 with
  | some (k, d, a) => issues p.1 (exState p.2) (fun _ s1 => (s1.checkDescs (descsOf s1 k a)).toOption.isSome)
      && a == 8 && d == 1
  | none => false

theorem of_exchanges {p : Instr × Nat} (h : exchanges p = true) :
    ∃ k v s1 ds s2, exchWordOf p.1 = some (k, 1, 8) ∧ Issues p.1 (exState p.2) v s1 ∧ s1.checkDescs (descsOf s1 k 8) = .ok (ds, s2) := by
  unfold exchanges at h
  split at h
  · rename_i k d a e
    rw [Bool.and_eq_true, Bool.and_eq_true, beq_iff_eq, beq_iff_eq] at h
    obtain ⟨⟨h, rfl⟩, rfl⟩ := h
    obtain ⟨v, s1, hv, hp⟩ := of_issues h
    obtain ⟨⟨ds, s2⟩, hp⟩ := of_ok hp
    exact ⟨k, v, s1, ds, s2, e, hv, hp⟩
  · cases h

theorem witness_ExchangeWords : ∀ p ∈ exchWords,
    (∃ k v s1 ds s2, exchWordOf p.1 = some (k, 1, 8) ∧ Issues p.1 (exState p.2) v s1 ∧ s1.checkDescs (descsOf s1 k 8) = .ok (ds, s2))
    ∧ (∀ r, 8 ≤ r → r < 8 + (exState p.2).cur.vspan → (exState p.2).cur.tag r = 0x1C)
    ∧ (exState p.2).cur.descsReady 8 ≤ (exState p.2).now ∧ (exState p.2).cur.vl ≤ 2048 := by
  have h : exchWords.all exchanges = true := by decide +kernel
  have k : ∀ p ∈ exchWords, (exState p.2).cur.vspan = 1 ∧ (exState p.2).cur.tag 8 = 0x1C ∧ (exState p.2).cur.descsReady 8 ≤ (exState p.2).now
      ∧ (exState p.2).cur.vl ≤ 2048 := by decide +kernel
  intro p hp
  obtain ⟨k1, k2, k3, k4⟩ := k p hp
  refine ⟨of_exchanges (List.all_eq_true.mp h p hp), fun r h1 h2 => ?_, k3, k4⟩
  obtain rfl : r = 8 := by omega
  exact k2

/-- R247: an accepted descriptor shows in XACC and in the mask of D. -/
theorem test_xfer : (after (.xfer 1 8) (exState (descBits 0 8192 16384 512 0))).cur.xacc = 1
    ∧ (after (.xfer 1 8) (exState (descBits 0 8192 16384 512 0))).cur.maskBit 1 0 = true
    ∧ lastRec (after (.xfer 1 8) (exState (descBits 1 8192 16384 512 0))) = (2, 1) := by decide +kernel

/-- An accepted transfer, at a later cycle. -/
def flying (now : Nat) : State := { after (.xfer 1 8) (exState (descBits 0 8192 16384 512 0)) with now := now }
def started (now : Nat) : State := { after (.descriptorStart 0 0) (flying 2) with now := now }

theorem witness_DescriptorSteps_start : ∃ d, ((flying 2).core 0).slot? 0 = some d ∧ (flying 2).exchLive 0 = true ∧ d.kind ≠ .xfar
    ∧ d.started = false ∧ d.START ≤ (flying 2).vcycOf 0 ∧ ∃ s2, (flying 2).bindGroup d = .ok s2 := by
  obtain ⟨d, e, h⟩ := of_some (o := ((flying 2).core 0).slot? 0) (p := fun d => d.kind != .xfar && !d.started
    && decide (d.START ≤ (flying 2).vcycOf 0) && ((flying 2).bindGroup d).toOption.isSome) (by decide +kernel)
  simp only [Bool.and_eq_true, bne_iff_ne, Bool.not_eq_true', decide_eq_true_iff] at h
  obtain ⟨s2, h4⟩ := of_ok h.2
  exact ⟨d, e, by decide +kernel, h.1.1.1, h.1.1.2, h.1.2, s2, h4⟩

theorem witness_DescriptorSteps_beat : ∃ d, ((started 9).core 0).slot? 0 = some d ∧ (started 9).exchLive 0 = true ∧ d.kind ≠ .xfar
    ∧ (started 9).actDue 0 d = true ∧ ∃ s2, (started 9).act 0 0 d = .ok s2 := by
  obtain ⟨d, e, h⟩ := of_some (o := ((started 9).core 0).slot? 0) (p := fun d => d.kind != .xfar && (started 9).actDue 0 d
    && ((started 9).act 0 0 d).toOption.isSome) (by decide +kernel)
  simp only [Bool.and_eq_true, bne_iff_ne] at h
  obtain ⟨s2, h3⟩ := of_ok h.2
  exact ⟨d, e, by decide +kernel, h.1.1, h.1.2, s2, h3⟩

theorem of_any {α : Type} {o : Option α} {p : α → Bool} (h : o.any p = true) : ∃ x, o = some x ∧ p x = true := by
  cases o with
  | none => cases h
  | some x => exact ⟨x, rfl, h⟩

/-- Two cycles after an EXCH word. -/
def flown (p : Instr × Nat) : State := { after p.1 (exState p.2) with now := 2 }

/-- A descriptor of a group that is not bound starts. -/
def startsFresh (s : State) (d : Desc) : Bool :=
  decide (s.exchLive 0 = true ∧ d.started = false ∧ d.START ≤ s.vcycOf 0 ∧ (d.kind = .xred ∨ d.kind = .xcast) ∧ s.groups = [])

theorem witness_DescriptorSteps_plain :
    (∃ d, ((flying 2).core 0).slot? 0 = some d ∧ d.started = false ∧ d.START ≤ (flying 2).vcycOf 0 ∧ (d.kind = .xfer ∨ d.kind = .halo))
    ∧ ∀ p ∈ (exchWords.drop 2).take 2, ∃ d, ((flown p).core 0).slot? 0 = some d ∧ (flown p).exchLive 0 = true
      ∧ d.started = false ∧ d.START ≤ (flown p).vcycOf 0 ∧ (d.kind = .xred ∨ d.kind = .xcast) ∧ (flown p).groups = [] := by
  constructor
  · obtain ⟨d, e, h⟩ := of_some (o := ((flying 2).core 0).slot? 0) (p := fun d => decide (d.started = false ∧ d.START ≤ (flying 2).vcycOf 0
      ∧ (d.kind = .xfer ∨ d.kind = .halo))) (by decide +kernel)
    exact ⟨d, e, of_decide_eq_true h⟩
  · have k : ∀ p ∈ (exchWords.drop 2).take 2, (((flown p).core 0).slot? 0).any (startsFresh (flown p)) = true := by decide +kernel
    intro p hp
    obtain ⟨d, e, h⟩ := of_any (k p hp)
    exact ⟨d, e, of_decide_eq_true h⟩

/-- The state before the write of a beat. -/
def beatRead : State := { after (.descriptorBeat 0 0) (started 9) with now := 9 }

/-- Whether a beat of one piece is due on memory that holds nothing else. -/
def beatReady (s : State) (d : Desc) (write : Bool) : Bool :=
  match s.dueAct 0 d with
  | some a =>
    let r := if write then d.beatRange a.beat else d.srcRange a.beat
    let l := cutPieces 0 (if write then d.dst else d.src) r.1 r.2
    d.started && decide (d.clash = none) && (a.write == write) && decide (d.kind = .xfer) && decide (d.ends s.sliceCores a = [d.dst])
      && decide (l = [(0, .loc 0, if write then 16384 else 8192, 512)])
  | none => false

theorem of_beatReady {s : State} {d : Desc} {write : Bool} (h : beatReady s d write = true) :
    ∃ a, d.started = true ∧ d.clash = none ∧ s.dueAct 0 d = some a ∧ a.write = write ∧ d.kind = .xfer ∧ d.ends s.sliceCores a = [d.dst]
      ∧ cutPieces 0 (if write then d.dst else d.src) (if write then d.beatRange a.beat else d.srcRange a.beat).1
          (if write then d.beatRange a.beat else d.srcRange a.beat).2 = [(0, .loc 0, if write then 16384 else 8192, 512)] := by
  unfold beatReady at h
  split at h
  · rename_i a e
    simp only [Bool.and_eq_true, decide_eq_true_iff, beq_iff_eq] at h
    obtain ⟨⟨⟨⟨⟨h1, h2⟩, h3⟩, h4⟩, h5⟩, h6⟩ := h
    exact ⟨a, h1, h2, e, h3, h4, h5, h6⟩
  · cases h

theorem witness_DescriptorSteps_reads : ∃ d a, ((started 9).core 0).slot? 0 = some d ∧ d.started = true ∧ d.clash = none
    ∧ (started 9).dueAct 0 d = some a ∧ a.write = false
    ∧ cutPieces 0 d.src (d.srcRange a.beat).1 (d.srcRange a.beat).2 = [(0, .loc 0, 8192, 512)] ∧ (started 9).lr.racem = 0
    ∧ ((started 9).spaceAt (.loc 0)).syn = [] ∧ ((started 9).spaceAt (.loc 0)).hist = []
    ∧ ∀ sec, sec ∈ sectorsOf 8192 512 → ((started 9).spaceAt (.loc 0)).isOut sec = false ∧ ((started 9).spaceAt (.loc 0)).isPend sec = false := by
  obtain ⟨d, e, h⟩ := of_some (o := ((started 9).core 0).slot? 0) (p := fun d => beatReady (started 9) d false) (by decide +kernel)
  obtain ⟨a, h1, h2, h3, h4, _, _, h7⟩ := of_beatReady h
  exact ⟨d, a, e, h1, h2, h3, h4, h7, by decide +kernel, by decide +kernel, by decide +kernel, by decide +kernel⟩

theorem witness_DescriptorSteps_writes : ∃ d a, (beatRead.core 0).slot? 0 = some d ∧ beatRead.exchLive 0 = true ∧ d.started = true ∧ d.clash = none
    ∧ beatRead.dueAct 0 d = some a ∧ a.write = true ∧ (d.kind = .xfer ∨ d.kind = .halo)
    ∧ cutPieces 0 d.dst (d.beatRange a.beat).1 (d.beatRange a.beat).2 = [(0, .loc 0, 16384, 512)] ∧ d.ends beatRead.sliceCores a = [d.dst]
    ∧ beatRead.lr.racem = 0 ∧ (beatRead.spaceAt (.loc 0)).syn = [] ∧ beatRead.noise = [] := by
  obtain ⟨d, e, h⟩ := of_some (o := (beatRead.core 0).slot? 0) (p := fun d => beatReady beatRead d true) (by decide +kernel)
  obtain ⟨a, h1, h2, h3, h4, h5, h6, h7⟩ := of_beatReady h
  exact ⟨d, a, e, by decide +kernel, h1, h2, h3, h4, .inl h5, h7, h6, by decide +kernel, by decide +kernel, by decide +kernel⟩

/-- A beat that has been read, of an XCAST to cores 0 and 1 and of an XRED of two terms, and the state in the cycle of its write. -/
def castDesc : Desc :=
  { kind := .xcast, bits := descBits 3 sram 16384 512 (2 ^ 234), e := 0, origin := {}, src := [(.phys, 2 ^ 44 + 8192, 512)], started := true
    acts := [{ cycle := 9, write := true, beat := 0, cluster := 0 }], buf := [(0, 5)] }
def redDesc : Desc :=
  { kind := .xred, bits := descBits 2 8192 sram 64 (2 ^ 206 * 1 + 2 ^ 209 * 6), e := 0, origin := {}, src := [(.loc 0, 8192, 64)]
    dst := [(.phys, 2 ^ 44 + 8192, 64)], started := true, acts := [{ cycle := 9, write := true, beat := 0, cluster := 0 }], buf := [(0, 5 + 2 ^ 32 * 6)] }
def landing (d : Desc) : State := { (exState 0).modCore 0 fun k => { k with slots := [(0, d)] } with now := 9 }

theorem witness_DescriptorSteps_cast :
    let s := landing castDesc
    (s.core 0).slot? 0 = some castDesc ∧ s.exchLive 0 = true ∧ s.dueAct 0 castDesc = castDesc.acts.head? ∧ castDesc.LEN ≠ 0
    ∧ castDesc.srcRange 0 = (0, 512) ∧ (∀ c ∈ [0, 1], c ∈ s.sliceCores ∧ castDesc.SETLO ≤ c ∧ c ≤ castDesc.SETHI ∧ c / 64 = 0)
    ∧ (∀ c ∈ s.sliceCores, c < 1024 ∧ (s.core c).loc.syn = []) ∧ s.lr.racem = 0 ∧ s.noise = [] := by decide +kernel

theorem witness_DescriptorSteps_red :
    let s := landing redDesc
    (s.core 0).slot? 0 = some redDesc ∧ s.exchLive 0 = true ∧ s.dueAct 0 redDesc = redDesc.acts.head? ∧ redDesc.LEN ≠ 0
    ∧ redDesc.srcRange 0 = (0, 64) ∧ termWidths redDesc.ROP redDesc.RFMT = some (32, 32) ∧ redDesc.LEN % 32 = 0 ∧ redDesc.DST % 32 = 0
    ∧ redDesc.dst = [(.phys, 2 ^ 44 + 8192, redDesc.LEN / 32 * 32)] ∧ s.noise = [] ∧ s.sau = [] := by decide +kernel

/-- Before its cycle a beat has no occasion. -/
theorem witness_DescriptorSteps_early :
    let s : State := { landing redDesc with now := 8 }
    s.exchLive 0 = true ∧ redDesc.acts.head?.map (·.cycle) = some 9 ∧ s.vcycOf 0 = 8 ∧ s.landingCycle 0 = s.vcycOf 0 := by decide +kernel

/-- R253: both terms are pending at their addresses. -/
theorem test_terms : (after (.descriptorBeat 0 0) (landing redDesc)).sau.map (fun y => (y.addr, y.sum, y.terms))
    = [(2 ^ 44 + 8192, 5, 1), (2 ^ 44 + 8224, 6, 1)] := by decide +kernel

/-- A descriptor whose last act is done. -/
def doneDesc : Desc := { kind := .xfer, bits := descBits 0 8192 16384 512 0, e := 0, origin := {}, started := true, landAt := 9 }

theorem witness_DescriptorSteps_landed :
    let s := (flying 9).modCore 0 fun k => { k with slots := [(0, doneDesc)] }
    (s.core 0).slot? 0 = some doneDesc ∧ s.exchLive 0 = true ∧ doneDesc.kind ≠ .xfar ∧ doneDesc.landed = none ∧ doneDesc.acts = []
    ∧ doneDesc.landAt ≤ s.landingCycle 0 := by decide +kernel

/-- An accepted XFAR. -/
def farState (now : Nat) : State := { after (.xfar 1 8) (exState (descBits 4 (2 ^ 62 + 8192) (5 * 2 ^ 61) 512 0)) with now := now }

theorem witness_FarSteps_handoff : ∃ d, (farState 5).handoff? 0 0 = some d ∧ d.LEN ≠ 0 ∧ (farState 5).peerOk d.SRC = true := by
  obtain ⟨d, e, h⟩ := of_some (o := (farState 5).handoff? 0 0) (p := fun d => d.LEN != 0 && (farState 5).peerOk d.SRC) (by decide +kernel)
  simp only [Bool.and_eq_true, bne_iff_ne] at h
  exact ⟨d, e, h⟩

/-- A fill of 512 bits from physical 8192, to queue 0 or to slice SRAM. -/
def fillTo (queue : Bool) (data : Option Nat) : Fill :=
  { desc := { kind := .xfar, bits := descBits 4 (2 ^ 62 + 8192) (if queue then 5 * 2 ^ 61 else sram) 512 0, e := 0, origin := {}
              src := [(.phys, 8192, 512)], dst := if queue then [] else [(.phys, 2 ^ 44 + 8192, 512)] }
    data := data }
def filling (f : Fill) : State := (farState 5).modCore 0 fun k => { k with fills := [f] }

theorem witness_FarSteps_read : ((filling (fillTo true none)).core 0).fill? 0 = some (fillTo true none) ∧ (filling (fillTo true none)).farLive 0 = true
    ∧ (fillTo true none).data = none ∧ (fillTo true none).due ≤ (filling (fillTo true none)).now
    ∧ (filling (fillTo true none)).awaited 0 (fillTo true none).desc.seq = false
    ∧ (filling (fillTo true none)).beatsEnd (sliceBanks (fillTo true none).desc.src) (filling (fillTo true none)).now = (filling (fillTo true none)).now
    ∧ ∃ x s2, (filling (fillTo true none)).readSrc (fillTo true none).desc 0 (fillTo true none).desc.LEN = .ok (x, s2) := by
  obtain ⟨⟨x, s2⟩, h⟩ := of_ok (e := (filling (fillTo true none)).readSrc (fillTo true none).desc 0 (fillTo true none).desc.LEN) (by decide +kernel)
  exact ⟨by decide +kernel, by decide +kernel, by decide +kernel, by decide +kernel, by decide +kernel, by decide +kernel, x, s2, h⟩

theorem witness_FarSteps_land :
    let f := fillTo false (some 7)
    let s := filling f
    (s.core 0).fill? 0 = some f ∧ s.fillDue 0 f = true ∧ f.desc.toQueue = none ∧ f.desc.EXP24 = false
    ∧ ∃ s2, s.writePieces f.desc (cutPieces 0 f.desc.dst 0 f.desc.dstLen) 0 (f.data.getD 0) = .ok s2 := by
  exact ⟨by decide +kernel, by decide +kernel, by decide +kernel, by decide +kernel, of_ok (by decide +kernel)⟩

theorem witness_FarSteps_queue :
    let f := fillTo true (some 7)
    let s := filling f
    (s.core 0).fill? 0 = some f ∧ s.fillDue 0 f = true ∧ f.desc.toQueue = some 0 ∧ f.bad = [] ∧ (s.core 0).loc.syn = []
    ∧ SMap.get? (s.core 0).shadow ((s.core 0).fillSector 0) = none ∧ ((s.core 0).queue 0).avail < ((s.core 0).queue 0).capacity
    ∧ ∃ s2, s.fillEntry 0 f 0 = .ok s2 := by
  exact ⟨by decide +kernel, by decide +kernel, by decide +kernel, by decide +kernel, by decide +kernel, by decide +kernel, by decide +kernel,
    of_ok (by decide +kernel)⟩

/-- An outbound queue of one entry with a DEVICE destination. -/
def draining : State := (exState 0).modCore 0 fun k => { k with queues := [(1, { dir := 2, segs := [65536], avail := 1, pushed := 1, dest := 2 ^ 62 + 8192 })] }

theorem witness_FarSteps_drain : draining.drainDue 0 1 = true ∧ ∃ s2, draining.drainEntry 0 1 = .ok s2 :=
  ⟨by decide +kernel, of_ok (by decide +kernel)⟩

theorem witness_FarSteps_plain :
    (let f := fillTo true none
     let s := filling f
     f.desc.src = [(.phys, 8192, f.desc.LEN)] ∧ s.taken = [] ∧ s.noise = [] ∧ draining.noise = [] ∧ s.lr.racem = 0 ∧ (s.spaceAt .phys).syn = [] ∧ (s.spaceAt .phys).hist = []
     ∧ ∀ sec, sec ∈ sectorsOf 8192 f.desc.LEN → (s.spaceAt .phys).isOut sec = false ∧ (s.spaceAt .phys).isPend sec = false)
    ∧ (let f := fillTo false (some 7)
       f.desc.dst = [(.phys, 2 ^ 44 + 8192, f.desc.dstLen)] ∧ f.bad = [] ∧ (filling f).lr.racem = 0 ∧ (filling f).phys.syn = [])
    ∧ (let s := filling (fillTo true (some 7))
       (s.core 0).loc.syn = [] ∧ ((s.core 0).queue 0).avail < ((s.core 0).queue 0).capacity)
    ∧ (let w := (draining.core 0).queue 1
       let goal := w.dest + 512 * w.drained
       spaceOf goal = 2 ∧ inField goal 512 = true ∧ draining.xlate goal true = some 8192 ∧ (draining.core 0).loc.syn = [] ∧ draining.phys.syn = []) := by
  decide +kernel

/-! ### Jobs -/

/-- The launch record of a slice with its code at DEVICE 0, its save area at DEVICE 16384 and an empty queue map. -/
def launchBits : BitVec 2048 := oneContext.raw + BitVec.ofNat 2048 (2 ^ 64 * 2 ^ 62 + 2 ^ 704 * (2 ^ 62 + 2 ^ 20) + 2 ^ 832 * (2 ^ 62 + 16384))

/-- A picked slice, new or saved, whose code and save area translate. -/
def starting (saved : Bool) : State :=
  { base with
    slice := none, cores := []
    phys := { bytes := Memory.setBits exTables 16384 256 (saveHeader 1 4 5 6) }
    disp := { picked := some { deadline := 0, saved := saved, lr := { raw := launchBits } } } }

theorem witness_SliceBegins : ∀ saved ∈ [false, true], ∃ b, (starting saved).disp.picked = some b ∧ (starting saved).startable b = true
    ∧ (starting saved).startDue saved = true ∧ b.lr.cores[0]? = some 0 ∧ 0 ∈ b.lr.contexts ∧ 1 ∉ b.lr.contexts := by
  intro saved hs
  refine ⟨_, rfl, ?_⟩
  revert saved
  decide +kernel

/-- A running dispatcher with one submission entry of a kind in a ring of one slot at host address 0. -/
def submitted (kind : Nat) : State :=
  { State.reset with bar := { stage := 6 }, disp := { written := 1 }, host := { bytes := Memory.setBits [] 0 128 (2 ^ 64 * kind + 7) } }

theorem witness_Rings : (submitted 0).bar.stage = 6 ∧ ((0 : BitVec 32) - (submitted 0).disp.taken).toNat ≤ (submitted 0).bar.subSlots
    ∧ ((1 : BitVec 32) - (submitted 0).disp.taken).toNat ≤ (submitted 0).bar.subSlots
    ∧ (submitted 0).bar.subSlots < ((2 : BitVec 32) - (submitted 0).disp.taken).toNat
    ∧ ((submitted 0).disp.recs - 0).toNat ≤ (submitted 0).bar.cmpSlots ∧ (submitted 0).bar.cmpSlots < ((submitted 0).disp.recs - 1).toNat := by
  decide +kernel

/-- R290: a write to SUB one past the ring is an overrun: LAUNCH (14h), subcode 16. -/
theorem test_overrun : (after (.mboxSubWrite 2) (submitted 0)).disp.waitRecs.map (fun r => (r.cause, r.info)) = [(0x14, 16)]
    ∧ (after (.mboxSubWrite 1) (submitted 0)).disp.waitRecs = [] := by decide +kernel

theorem witness_Rings_record :
    let s : State := { submitted 0 with disp := { waitRecs := [{ rkind := 2 }] } }
    s.disp.waitRecs = { rkind := 2 } :: [] ∧ (s.disp.recs - s.disp.cmp).toNat < s.bar.cmpSlots ∧ s.host.syn = []
    ∧ s.bar.cmpSlots ≤ (({ s with disp := { recs := 1 } } : State).disp.recs - ({ s with disp := { recs := 1 } } : State).disp.cmp).toNat := by
  decide +kernel

/-- A walk at a node of a kind, with MAX 2, and a predicate word at DEVICE 16384. -/
def nodeOf (kind : Nat) : BitVec 256 := BitVec.ofNat 256 (kind + 2 ^ 16 * 3 + 2 ^ 32 * 4 + 2 ^ 64 * (2 ^ 62 + 16384) + 2 ^ 128 * 2)
def walkOf (kind : Nat) (r : Option Bool) : Walk := { code := [nodeOf kind], predBase := 0, predN := 0, hosttag := 0, vec := 0, result := r }
def walking (kind : Nat) (r : Option Bool) (pred : Nat) : State :=
  { State.reset with
    bar := { stage := 6 }, disp := { walks := [(0, walkOf kind r)] }, sysTables := exTables
    phys := { bytes := Memory.setBits exTables 16384 64 pred } }

theorem witness_GraphNodes : (∀ r ∈ [some true, some false, Option.none], (walking 1 r 0).walkAt 0 1 = some (walkOf 1 r, nodeOf 1))
    ∧ (walking 2 none 0).walkAt 0 2 = some (walkOf 2 none, nodeOf 2) ∧ (walking 3 none 5).walkAt 0 3 = some (walkOf 3 none, nodeOf 3)
    ∧ (walking 3 none 0).walkAt 0 3 = some (walkOf 3 none, nodeOf 3) ∧ (walkOf 3 none).loops = [] ∧ 0 < nodeMax (nodeOf 3) := by decide +kernel

theorem witness_GraphNodes_predicate : (walking 2 none 0).predicate (nodeRef (nodeOf 2)) = .ok 0
    ∧ (walking 3 none 5).predicate (nodeRef (nodeOf 3)) = .ok 5 ∧ (walking 3 none 0).predicate (nodeRef (nodeOf 3)) = .ok 0 := by
  have h : ((walking 2 none 0).predicate (nodeRef (nodeOf 2))).toOption = some 0 ∧ ((walking 3 none 5).predicate (nodeRef (nodeOf 3))).toOption = some 5
      ∧ ((walking 3 none 0).predicate (nodeRef (nodeOf 3))).toOption = some 0 := by decide +kernel
  have k : ∀ {e : Except Nat Nat} {x}, e.toOption = some x → e = .ok x := by
    intro e x hx
    cases e with
    | error y => cases hx
    | ok y => cases hx; rfl
  exact ⟨k h.1, k h.2.1, k h.2.2⟩

/-- A slice node whose record passes every check. -/
def launching : State :=
  { walking 1 none 0 with phys := { bytes := Memory.setBits exTables 16384 2048 launchBits.toNat } }

/-- An entry of a kind that names DEVICE 16384, with some bits there and a dispatcher in some state. -/
def entering (kind ref bits : Nat) (d : Disp) (r : Option SliceRun) : State :=
  { State.reset with
    bar := { stage := 6 }, sysTables := exTables, slice := r, disp := { d with written := 1 }
    phys := { bytes := Memory.setBits exTables 16384 2048 bits }, host := { bytes := Memory.setBits [] 0 128 (2 ^ 64 * kind + ref) } }

/-- A ready slice. -/
def readyOne : Ready := { deadline := 9, saved := false, lr := { raw := launchBits } }

/-- A graph of one slice node that ends. -/
def oneNode : Nat := 1 + 2 ^ 64 * (2 ^ 62) + 2 ^ 128 + 2 ^ 160 * 7 + 2 ^ 192 * 3 + 2 ^ 512 * (1 + 2 ^ 16 * 0xFFFF)

theorem witness_Submissions : (submitted 1).entry = some (1, 7) ∧ (submitted 1).disp.ready.length < 1024 ∧ (submitted 3).entry = some (3, 7)
    ∧ (submitted 0).entry = some (0, 7) ∧ (submitted 4).entry = some (4, 7) ∧ (submitted 2).entry = some (2, 7)
    ∧ (submitted 2).disp.freeWalk = some 0 := by decide +kernel

theorem witness_Submissions_slice : ∀ r ∈ [Option.none, some { slc with lr := { raw := 0 } }],
    let s := entering 1 (2 ^ 62 + 16384) launchBits.toNat {} r
    s.entry = some (1, 2 ^ 62 + 16384) ∧ s.disp.ready = [] ∧ s.phys.syn = [] ∧ s.roomReady.disp = s.disp ∧ s.disp.picked = none
    ∧ ∃ x live q, s.readLaunch (2 ^ 62 + 16384) = some (x, live, q, false) ∧ s.roomReady.readLaunch (2 ^ 62 + 16384) = some (x, live, q, false)
      ∧ s.launchCheck x live q false = 0 ∧ s.roomReady.launchCheck x live q false = 0 := by
  have h : ∀ r ∈ [Option.none, some { slc with lr := { raw := 0 } }],
      let s := entering 1 (2 ^ 62 + 16384) launchBits.toNat {} r
      (match s.readLaunch (2 ^ 62 + 16384) with | some (x, live, q, bad) => !bad && s.launchCheck x live q false == 0 | Option.none => false) = true := by
    decide +kernel
  intro r hr
  have e : (entering 1 (2 ^ 62 + 16384) launchBits.toNat {} r).roomReady = entering 1 (2 ^ 62 + 16384) launchBits.toNat {} r := rfl
  refine ⟨by revert r; decide +kernel, rfl, rfl, rfl, rfl, ?_⟩
  have k := h r hr
  rw [e]
  dsimp only at k
  split at k
  · rename_i x live q bad hx
    rw [Bool.and_eq_true, Bool.not_eq_true', beq_iff_eq] at k
    obtain ⟨rfl, k⟩ := k
    exact ⟨x, live, q, hx, hx, k, k⟩
  · cases k

theorem witness_Submissions_rejected :
    (let s := entering 1 (2 ^ 62 + 16384) 0 {} none
     s.entry = some (1, 2 ^ 62 + 16384) ∧ s.phys.syn = []
     ∧ (match s.readLaunch (2 ^ 62 + 16384) with | some (x, live, q, bad) => s.launchCheck x live q bad != 0 | Option.none => false) = true)
    ∧ (entering 1 0 0 {} none).entry = some (1, 0) ∧ (entering 1 0 0 {} none).readLaunch 0 = none := by decide +kernel

theorem witness_Submissions_graph : ∀ bits ∈ [oneNode, 1],
    let s := entering 2 (2 ^ 62 + 16384) bits {} none
    s.entry = some (2, 2 ^ 62 + 16384) ∧ s.disp.freeWalk = some 0 ∧ s.phys.syn = [] ∧ s.deviceBits s.sysroot (2 ^ 62 + 16384) 512 = some (bits % 2 ^ 512)
    ∧ bits % 2 ^ 512 % 2 ^ 16 ≤ 4096 ∧ s.power.trip = false
    ∧ s.readTable s.sysroot (2 ^ 62 + 16384 + 512) (bits % 2 ^ 512 % 2 ^ 16) 256 = some [bits / 2 ^ 512]
    ∧ graphBad (bits % 2 ^ 512) ([bits / 2 ^ 512].map (BitVec.ofNat 256)) = (bits == 1) := by decide +kernel

theorem witness_Submissions_kill :
    (let s := entering 3 1 0 {} (some { slc with lr := { raw := launchBits } })
     s.entry = some (3, 1) ∧ (s.slice.map fun r => r.lr.sliceid) = some (1 % 2 ^ 16))
    ∧ (let s := entering 3 1 0 { ready := [readyOne] } none
       s.entry = some (3, 1) ∧ s.slice = none ∧ s.disp.picked = none ∧ readyOne ∈ s.disp.ready ∧ readyOne.lr.sliceid = 1 % 2 ^ 16
       ∧ ∀ c ∈ s.disp.ready, c.lr.sliceid = 1 % 2 ^ 16 → c = readyOne)
    ∧ (let s := entering 3 5 0 { ready := [readyOne] } none
       s.entry = some (3, 5) ∧ s.slice = none ∧ ∀ b ∈ s.disp.picked.toList ++ s.disp.ready, b.lr.sliceid ≠ 5 % 2 ^ 16) := by decide +kernel

theorem witness_Submissions_full :
    (let s := entering 1 7 0 { ready := List.replicate 1024 readyOne } none
     s.entry = some (1, 7) ∧ 1024 ≤ s.disp.ready.length)
    ∧ (let s := entering 2 7 0 { walks := (rangeFrom 0 16).map fun k => (k, walkOf 1 none) } none
       s.entry = some (2, 7) ∧ ∀ k, k < 16 → (SMap.get? s.disp.walks k).isSome = true) := by decide +kernel

theorem witness_GraphNodes_queues : launching.walkAt 0 1 = some (walkOf 1 none, nodeOf 1) ∧ (walkOf 1 none).result = none
    ∧ ∃ s2, ({ launching with disp := { launching.disp with walks := launching.disp.walks.put 0 { walkOf 1 none with waiting := true } } } : State).enqueue
      (nodeRef (nodeOf 1)) (some 0) (walkOf 1 none).preds = (.ready, s2) := by
  have h : (({ launching with disp := { launching.disp with walks := launching.disp.walks.put 0 { walkOf 1 none with waiting := true } } } : State).enqueue
      (nodeRef (nodeOf 1)) (some 0) (walkOf 1 none).preds).1 = .ready := by decide +kernel
  exact ⟨by decide +kernel, rfl, _, by rw [← h]⟩

/-- A walk at a loop node that stands on the loop stack with n iterations, inside another loop. -/
def looping (n pred : Nat) : State :=
  { walking 3 none pred with disp := { walks := [(0, { walkOf 3 none with loops := [(0, n), (7, 1)] })] } }

theorem witness_GraphNodes_loops : (∀ n ∈ [0, 1, 2], ∀ v ∈ [0, 5],
      (looping n v).walkAt 0 3 = some ({ walkOf 3 none with loops := [(0, n), (7, 1)] }, nodeOf 3)
      ∧ ((looping n v).predicate (nodeRef (nodeOf 3))).toOption = some v ∧ n ≤ nodeMax (nodeOf 3))
    ∧ 2 = nodeMax (nodeOf 3) ∧ ((walkOf 3 none).loops = [] ∧ (walkOf 3 none).node = 0)
    ∧ (match ({ looping 0 0 with sysTables := [], phys := {} } : State).predicate (nodeRef (nodeOf 3)) with | .error c => c == 0x0E | .ok _ => false) = true := by
  decide +kernel

/-- R294: the third time the body does not run again, and LOOPMAX is set. -/
theorem test_loop :
    let w (n : Nat) : Option (Nat × List (Nat × Nat) × Bool) :=
      (SMap.get? (after (.graphLoopNode 0) (looping n 5)).disp.walks 0).map fun w => (w.node, w.loops, w.loopmax)
    w 1 = some (4, [(0, 2), (7, 1)], false) ∧ w 2 = some (3, [(7, 1)], true) := by decide +kernel

theorem witness_GraphNodes_slice : (∀ p ∈ [(launchBits.toNat, true), (0, false)],
      let s := { launching with phys := { bytes := Memory.setBits exTables 16384 2048 p.1 }, slice := some { slc with lr := { raw := 0 } } }
      s.walkAt 0 1 = some (walkOf 1 none, nodeOf 1) ∧ s.phys.syn = [] ∧ s.disp.ready.length < 1024 ∧ 64 * s.disp.segs ≠ s.disp.ready.length
      ∧ (match s.readLaunch (nodeRef (nodeOf 1)) with | some (r, live, q, bad) => (s.launchCheck r live q bad == 0) == p.2 | Option.none => false) = true)
    ∧ 1024 ≤ (List.replicate 1024 readyOne).length := by decide +kernel

/-- R293: a loop whose body comes back to node 0, or to itself where node 0 does not reach it, nests without bound; one
whose body ends with FFFFh does not. -/
theorem test_graph_depth :
    let loop : BitVec 256 := BitVec.ofNat 256 (3 + 2 ^ 16 * 0xFFFF + 2 ^ 32)
    nestsTooDeep [loop, 1] = true ∧ nestsTooDeep [loop, 1 + 2 ^ 16 * 0xFFFF] = false
    ∧ nestsTooDeep [1 + 2 ^ 16 * 0xFFFF, loop] = true := by decide +kernel

/-! ### Faults, traps and system words -/

theorem witness_Faults : (∃ r, ({ core := 0 } : Origin).core < 1024 ∧ base.slice = some r ∧ (Exc.operand).race = none)
    ∧ 1024 ≤ ({ core := 1024 } : Origin).core ∧ base.dbg.panic = none ∧ ({ base with dbg := { panic := some {} }, now := 20000 } : State).freezeDue = true := by
  exact ⟨⟨_, by decide, rfl, rfl⟩, by decide +kernel⟩

/-- R323: a fault of a system core is a panic, and no record of the slice. -/
theorem test_panic : (after (.shli 1 2 64) (sys 3)).dbg.panic.isSome = true ∧ (after (.shli 1 2 64) (sys 3)).slice.isSome = true
    ∧ ((after (.shli 1 2 64) (sys 3)).core 1027).sysRun = false := by decide +kernel

theorem witness_TrapWords : base.onSys = false ∧ (∃ v s1, Issues (.trap 5) base v s1) ∧ (∃ v s1, Issues (.brk 5) base v s1) ∧ base.dbg.brkh = false
    ∧ (∃ v s1, Issues (.brk 5) { base with dbg := { brkh := true, en := true } } v s1) ∧ base.cur.haltReq = none := by
  have q := of_list [Instr.trap 5, .brk 5] base (fun _ => true) (by decide +kernel)
  obtain ⟨v, s1, h, _⟩ := of_issues (i := .brk 5) (s := { base with dbg := { brkh := true, en := true } }) (p := always) (by decide +kernel)
  exact ⟨by decide +kernel, (q _ (by decide)).2, (q _ (by decide)).2, by decide +kernel, ⟨v, s1, h⟩, by decide +kernel⟩

/-- R300, R303: TRAP stops its context after the word, with SOFT-TRAP (21h) and its code. -/
theorem test_trap : (after (.trap 5) base).cur.trapped = true ∧ (after (.trap 5) base).cur.pc = 32
    ∧ (after (.trap 5) base).disp.trapWait.map (fun r => (r.cause, r.info, r.rkind)) = [(0x21, 5, 5)] := by decide +kernel

/-- System core 0 with a pending TRAP of its own. -/
def sysTrap : State := (sys 0).modCur fun c => { c with pc := 64, sysTraps := [(0x21, 9)] }

/-- Two trap records of one cycle, raised on core 3 before core 1. -/
def twoTraps : State := { base with disp := { trapWait := [{ core := 3, cycle := 5 }, { core := 1, cycle := 5 }] } }

/-- R300: records of one cycle enter in order of the core. -/
theorem test_trap_order : (after .trapRecordEnqueue twoTraps).disp.trapq.map (·.core) = [1]
    ∧ (after .trapRecordEnqueue twoTraps).disp.trapWait.map (·.core) = [3] := by decide +kernel

theorem witness_Traps : (let x : Record := { core := 1, cycle := 5 }
      x ∈ twoTraps.disp.trapWait ∧ ∀ y, y ∈ twoTraps.disp.trapWait → y ≠ x → x.key < y.key) ∧ twoTraps.disp.trapq.length < 64 ∧ 64 ≤ (List.replicate 64 ({} : Record)).length
    ∧ sysTrap.trapBoundary 0 = true ∧ (sysTrap.ctx (sysCore 0) 0).sysTraps = [(0x21, 9)] ∧ (sysTrap.ctx (sysCore 0) 0).cv = none := by decide +kernel

/-- An overflow of the running slice on a core whose pool is exhausted, and one whose pool is not. -/
theorem witness_Traps_exhausted : ∀ pool ∈ [[], [32768]],
    let x : Record := { cause := 0x22, sliceid := slc.lr.sliceid }
    let s := { (run slc 9 { st := .run }).modCore 0 fun k => { k with pool := pool } with disp := { trapWait := [x] } }
    x ∈ s.disp.trapWait ∧ s.disp.trapq.length < 64 ∧ (s.core x.core).pool = pool ∧ s.slice = some slc :=
  fun _ _ => ⟨List.mem_singleton_self _, Nat.zero_lt_succ _, rfl, rfl⟩

/-- R150: with the pool exhausted the slice ends with QUEUE; with a segment left it does not. -/
theorem test_exhausted :
    let x : Record := { cause := 0x22, sliceid := slc.lr.sliceid }
    let t (pool : List Nat) : State :=
      after .trapRecordEnqueue { (run slc 9 { st := .run }).modCore 0 fun k => { k with pool := pool } with disp := { trapWait := [x] } }
    lastRec (t []) = (0x13, 1) ∧ (t [32768]).slice.isSome = true := by decide +kernel

/-- R301: the trap saves the next convoy and runs from word 0; RFT returns there. -/
theorem test_systemTrap :
    let t := after (.systemTrapEntry 0) sysTrap
    t.cur.pc = 0 ∧ t.cur.trappc = 64 ∧ t.cur.cause = 0x21 ∧ t.cur.trapinfo = 9 ∧ t.cur.inh = true ∧ (after .rft t).cur.pc = 64
    ∧ (after .rft t).cur.inh = false := by decide +kernel

theorem witness_SystemWords_rft :
    let s := (sys 0).modCur fun c => { c with inh := true, trappc := 64 }
    (∃ v s1, Taken .rft s v s1 ∧ v.n ≤ v.idx + 1 ∧ v.back = none) ∧ s.cur.loops = [] ∧ fetchable s.cur.trappc.toNat = true := by
  obtain ⟨v, s1, h, hv⟩ := of_takes (i := .rft) (s := (sys 0).modCur fun c => { c with inh := true, trappc := 64 })
    (p := fun v _ => atEnd v) (by decide +kernel)
  exact ⟨⟨v, s1, h, of_atEnd hv⟩, by decide +kernel, by decide +kernel⟩

/-- System core 0 with an event pending, a trapped context on core 0, and the page and record of a launch at DEVICE 16384. -/
def sysBusy : State :=
  { (sys 0).modCur fun c => { c with regs := [(2, BitVec.ofNat 64 (2 ^ 62 + 16384))] } with
    sysTables := exTables, phys := { bytes := Memory.setBits exTables 16384 2048 (launchBits.toNat + 2 ^ 33) } }.modCurCore fun k => { k with events := 1 }

theorem witness_SystemWords : (∃ v s1, Issues (.wfe 1) sysBusy v s1) ∧ sysBusy.curCore.events ≠ 0
    ∧ (∃ v s1, Issues (.tlbi 0 0) sysBusy v s1) ∧ (∃ v s1, Issues (.tlbi 2 1) sysBusy v s1) ∧ sysBusy.slice.isSome = true
    ∧ (∃ v s1, Issues (.spawn 1 2) sysBusy v s1 ∧ (s1.queueRecord (sysBusy.reg 2).toNat none []).1 = .ready)
    ∧ (∃ v s1, Issues (.slkill 1 3 4) sysBusy v s1) ∧ base.privileged = false := by
  have q := of_list [Instr.wfe 1, .tlbi 0 0, .tlbi 2 1, .slkill 1 3 4] sysBusy (fun _ => true) (by decide +kernel)
  obtain ⟨v, s1, h, hp⟩ := of_issues (i := .spawn 1 2) (s := sysBusy)
    (p := fun _ s1 => (s1.queueRecord (sysBusy.reg 2).toNat none []).1 == .ready) (by decide +kernel)
  exact ⟨(q _ (by decide)).2, by decide +kernel, (q _ (by decide)).2, (q _ (by decide)).2, by decide +kernel, ⟨v, s1, h, eq_of_beq hp⟩,
    (q _ (by decide)).2, by decide +kernel⟩

theorem witness_SystemWords_spawn : sysBusy.phys.syn = [] ∧ sysBusy.disp.ready.length < 1024 ∧ 64 * sysBusy.disp.segs ≠ sysBusy.disp.ready.length
    ∧ (match sysBusy.readLaunch (sysBusy.reg 2).toNat with | some (r, live, q, bad) => !bad && sysBusy.launchCheck r live q false == 0 | Option.none => false) = true
    ∧ (let s := { sysBusy with phys := { bytes := exTables } }
       s.phys.syn = [] ∧ (∃ v s1, Issues (.spawn 1 2) s v s1)
       ∧ (match s.readLaunch (s.reg 2).toNat with | some (r, live, q, bad) => s.launchCheck r live q bad != 0 | Option.none => false) = true) := by
  have q := of_list [Instr.spawn 1 2] { sysBusy with phys := { bytes := exTables } } (fun _ => true) (by decide +kernel)
  exact ⟨by decide +kernel, by decide +kernel, by decide +kernel, by decide +kernel, by decide +kernel, (q _ (by decide)).2, by decide +kernel⟩

/-- SLKILL of a running slice, of a ready one, and of none. -/
theorem witness_SystemWords_kill :
    let id (n : Nat) : State := sysBusy.modCur fun c => { c with regs := [(3, BitVec.ofNat 64 n)] }
    ((id 0).slice.map (·.lr.sliceid) = some 1 ∨ (id 1).slice.map (·.lr.sliceid) = some 1)
    ∧ (∃ v s1, Issues (.slkill 1 3 4) (id 1) v s1) ∧ (id 1).reg 3 = 1
    ∧ (let s : State := { id 1 with slice := none, disp := { ready := [readyOne] } }
       (∃ v s1, Issues (.slkill 1 3 4) s v s1) ∧ readyOne ∈ s.disp.ready ∧ readyOne.lr.sliceid = 1 ∧ s.disp.picked = none)
    ∧ (∃ v s1, Issues (.slkill 1 3 4) (id 5) v s1) := by
  intro id
  have q1 := of_list [Instr.slkill 1 3 4] (id 1) (fun _ => true) (by decide +kernel)
  have q2 := of_list [Instr.slkill 1 3 4] { id 1 with slice := none, disp := { ready := [readyOne] } } (fun _ => true) (by decide +kernel)
  have q3 := of_list [Instr.slkill 1 3 4] (id 5) (fun _ => true) (by decide +kernel)
  exact ⟨by decide +kernel, (q1 _ (by decide)).2, by decide +kernel, ⟨(q2 _ (by decide)).2, by decide +kernel, by decide +kernel, by decide +kernel⟩,
    (q3 _ (by decide)).2⟩

/-- The six words of the system class on a compute core, and in user mode on a system core. -/
theorem witness_SystemWords_illegal : ∀ i ∈ [Instr.rft, .tlbi 2 1, .wfe 1, .spawn 1 2, .slkill 1 3 4, .resume 2 3],
    (AtHead i (head 0) ∧ (head 0).slice.isSome = true)
    ∧ (let s := (sys 3).modCur fun c => { c with priv := false }
       s.fetching = true ∧ s.onSys = true ∧ s.cur.priv = false ∧ s.cur.cv = none ∧ s.curCore.istBad = [] ∧ s.dbg.panic = none) := by
  intro i hi
  refine ⟨⟨?_, by decide +kernel⟩, by decide +kernel⟩
  fin_cases hi <;> exact ⟨by decide +kernel, by decide +kernel, rfl, rfl, rfl, rfl, rfl, by decide +kernel, by decide +kernel, by decide +kernel, rfl⟩

/-- R303: a user-mode SPAWN on a system core is a panic; on a compute core it ends the slice. -/
theorem test_illegal_system : (after (.spawn 1 2) ((sys 3).modCur fun c => { c with priv := false })).dbg.panic.isSome = true
    ∧ lastRec (after (.spawn 1 2) (head 0)) = (1, 1) := by decide +kernel

/-- R303: SPAWN returns 1 for a record that fails its checks, here one at an address that does not translate. -/
theorem test_spawn : (after (.spawn 1 2) sysBusy).reg 1 = 0 ∧ (after (.spawn 1 3) sysBusy).reg 1 = 1
    ∧ (after (.slkill 1 3 4) sysBusy).reg 1 = 0 := by decide +kernel

/-- Context 0 of core 0 stopped by a trap, as seen from system core 0. -/
def sysResume : State :=
  let s := sys 0
  { s with cores := s.cores.mapVals fun c k => if c = 0 then { k with ctxs := k.ctxs.mapVals fun _ x => { x with trapped := true } } else k }

theorem witness_SystemWords_resume : (∃ v s1, Issues (.resume 2 3) sysResume v s1) ∧ sysResume.reg 2 = BitVec.ofNat 64 (0 + 1024 * 0)
    ∧ sysResume.reg 3 = 0 ∧ sysResume.focusCore ≠ 0 ∧ sysResume.inSlice 0 = true ∧ (sysResume.ctx 0 0).trapped = true := by
  have q := of_list [Instr.resume 2 3] sysResume (fun _ => true) (by decide +kernel)
  exact ⟨(q _ (by decide)).2, by decide +kernel⟩

/-- `sysBusy` without a slice, and SLKILL from a core that is in none. -/
theorem witness_SystemWords_idle : sysBusy.phys.syn = [] ∧ (∃ v s1, Issues (.tlbi 2 1) { sysBusy with slice := none } v s1)
    ∧ (∃ v s1, Issues (.resume 0 3) { sysBusy with slice := none } v s1)
    ∧ ({ sysBusy with slice := none } : State).inSlice ((({ sysBusy with slice := none } : State).reg 0).toNat % 1024) = false
    ∧ sysBusy.onSys = true ∧ (∀ r, sysBusy.slice = some r → r.cores.contains sysBusy.focusCore = false) := by
  have q := of_list [Instr.tlbi 2 1, .resume 0 3] { sysBusy with slice := none } (fun _ => true) (by decide +kernel)
  refine ⟨rfl, (q _ (by decide)).2, (q _ (by decide)).2, by decide +kernel, by decide +kernel, fun r hr => ?_⟩
  have h : ∃ x, sysBusy.slice = some x ∧ x.cores.contains sysBusy.focusCore = false := by
    obtain ⟨x, e, h⟩ := of_some (o := sysBusy.slice) (p := fun x => !x.cores.contains sysBusy.focusCore) (by decide +kernel)
    exact ⟨x, e, by rwa [Bool.not_eq_true'] at h⟩
  obtain ⟨x, e, h⟩ := h
  rw [e] at hr
  cases hr
  exact h

/-- Every linked segment full: SPAWN has no effect but its trap. -/
def segsFull : State := { sysBusy with disp := { sysBusy.disp with ready := List.replicate 64 { deadline := 0, saved := false, lr := { raw := 0 } } } }

theorem witness_SystemWords_unlinked : segsFull.onSys = true ∧ ∃ v s1 u, Taken (.spawn 1 2) segsFull v s1
    ∧ s1.queueRecord (segsFull.reg 2).toNat none [] = (.unlinked, u) := by
  obtain ⟨v, s1, h, hp⟩ := of_takes (i := .spawn 1 2) (s := segsFull)
    (p := fun _ s1 => (s1.queueRecord (segsFull.reg 2).toNat none []).1 == .unlinked) (by decide +kernel)
  refine ⟨by decide +kernel, v, s1, (s1.queueRecord (segsFull.reg 2).toNat none []).2, h, ?_⟩
  rw [← eq_of_beq hp]

/-! ### Between the issues -/

/-- A vector convoy of two members. -/
def convoy (started : Nat) : VConvoy := { head := 0, members := 2, push := 0, starts := [2, 3], retire := 9, flags := 1, started := started }

theorem witness_ContextSteps : ∀ n ∈ [0, 1, 2],
    (run slc 9 { st := .run, vq := [convoy n] }).ctxLive 0 0 = true ∧ ((run slc 9 { st := .run, vq := [convoy n] }).ctx 0 0).vq = [convoy n]
    ∧ (convoy n).starts.headD 0 ≤ 9 ∧ (convoy n).starts.getD n 0 ≤ 9 ∧ (convoy n).retire ≤ 9 ∧ (convoy n).started = n := by decide +kernel

theorem witness_ContextSteps_exit : (run slc 9 { st := .run, exiting := true }).exitDue 0 0 = true := by decide +kernel

theorem witness_ContextSteps_span :
    (run slc 600 { st := .run, pc := 640, span := some { word := 32, first := 64, last := 96, start := 5 } }).ctxLive 0 0 = true
    ∧ ((run slc 600 { st := .run, pc := 640, span := some { word := 32, first := 64, last := 96, start := 5 } }).ctx 0 0).spanDone 600 = true
    ∧ ((run slc 517 { st := .run, pc := 64, span := some { word := 32, first := 64, last := 96, start := 5 } }).ctx 0 0).overrun 517 = some 32
    ∧ ((run slc 516 { st := .run, pc := 64, span := some { word := 32, first := 64, last := 96, start := 5 } }).ctx 0 0).overrun 516 = none := by
  decide +kernel

theorem witness_Halts : ({ base with dbg := { en := true } } : State).haltable 0 0 = true ∧ base.dbg.en = false
    ∧ (base.modCur fun c => { c with haltReq := some .hctl }).haltDue 0 0 = true ∧ base.dbg.allstop = false
    ∧ ((base.modCur fun c => { c with halted := true }).ctx 0 0).halted = true := by decide +kernel

/-- R312: the halt lands with DEBUG-HALT (25h) and source 1. -/
theorem test_halt : (after (.haltLanding 0 0) (base.modCur fun c => { c with haltReq := some .hctl })).cur.halted = true
    ∧ (after (.haltLanding 0 0) (base.modCur fun c => { c with haltReq := some .hctl })).disp.trapWait.map (fun r => (r.cause, r.info)) = [(0x25, 1)] := by
  decide +kernel

/-- R314: a halt that lands at a head which a comparator with ACT 1 names: BREAKPOINT (20h) first, then DEBUG-HALT, and HST is
4. -/
theorem test_halt_at_breakpoint :
    (fun t : State => (t.disp.trapWait.map (·.cause), t.cur.hst))
      (after (.haltLanding 0 0) (({ base with dbg := { en := true } }.modCurCore fun k =>
        { k with bka := SMap.put k.bka 0 (BitVec.ofNat 64 (2 ^ 63 + 2 ^ 62 + base.cur.pc)) }).modCur fun c => { c with haltReq := some .hctl }))
      = ([0x20, 0x25], 4) := by
  decide +kernel

/-- The later of two trace records stands first in the list. -/
theorem least_trace : ∀ y, y ∈ ([0x80000000, 7] : List TraceRec) → y ≠ 7 → traceKey 7 < traceKey y := by
  intro y hy hne
  rcases List.mem_cons.mp hy with rfl | h
  · decide +kernel
  · exact absurd (List.mem_singleton.mp h) hne

/-- A core whose one context is halted, with SVADDR at a word of the view. -/
def viewed (at0 : Nat) : State := (base.modCur fun c => { c with halted := true, regs := [(4, 77)] }).modCurCore fun k => { k with svaddr := at0 }

/-- g4 of context 0, a status word, the scratchpad and the store; and a context that runs reads all ones. -/
theorem witness_DebugSteps_view : partOpen ((viewed 2304).ctx 0 0) ∧ debugWord (viewed 2304) 0 2304 = some 77
    ∧ 2304 = 512 * 640 * 0 + 64 * (32 + 4) ∧ ((viewed 0).core 0).ctxs.all (fun p => (p.2.halted && !p.2.aborted) || p.2.st == .exited || p.2.st == .absent) = true
    ∧ (debugWord (viewed 0) 0 (4160 * 512 + 64)).isSome = true ∧ (debugWord (viewed 0) 0 ((4160 + 16384) * 512)).isSome = true
    ∧ ¬partOpen (base.ctx 0 0) ∧ debugWord base 0 2304 = some (2 ^ 64 - 1) := by
  unfold partOpen
  decide +kernel

/-- R316, R317: SVDATA reads and writes g4 of a halted context at offset 2304. -/
theorem test_svdata : (after (.svdataRead 0) (viewed 2304)).dbg.svread = 77
    ∧ ((after (.svdataWrite 0 5) (viewed 2304)).ctx 0 0).regs = [(4, 5)] := by decide +kernel

theorem witness_DebugSteps : (∃ v s1, Taken (.dmark 2) { base with dbg := { en := true } } v s1
      ∧ Goes { base with dbg := { en := true } } v base.cur.loops (base.cur.pc + 32))
    ∧ (let s : State := { base with dbg := { waiting := [0x80000000, 7], tbsize := 4, tbbase := 0x100000000000 } }
       7 ∈ s.dbg.waiting ∧ (∀ y, y ∈ s.dbg.waiting → y ≠ 7 → traceKey 7 < traceKey y) ∧ s.dbg.tbsize ≠ 0 ∧ s.dbg.tbstop = false ∧ s.phys.syn = []) := by
  obtain ⟨v, s1, h, _⟩ := of_issues (i := .dmark 2) (s := { base with dbg := { en := true } }) (p := always) (by decide +kernel)
  exact ⟨⟨v, s1, h.1, h.2⟩, List.mem_cons_of_mem _ (List.mem_singleton.mpr rfl), least_trace, by decide +kernel, rfl, rfl⟩

/-! ### The host's side -/

/-- The window on slice SRAM, and past its end. -/
def windowed (a : Word) : State := { base with bar := { stage := 5, hwbase := a } }

theorem witness_HostAccess : (windowed (2 ^ 44)).bar.stage ≠ 6 ∧ base.bar.stage = 6 ∧ 512 * 1 < moduleBits ∧ 3 ≤ (windowed (2 ^ 44)).bar.stage
    ∧ (windowed (2 ^ 44)).phys.syn = [] ∧ rangeOk ((windowed (2 ^ 44)).bar.hwbase.toNat + 8 * 16) 64 = true
    ∧ ((windowed (2 ^ 44)).bar.hwbase.toNat + 8 * 16) % 64 = 0 ∧ rangeOk ((windowed (2 ^ 44 + 2 ^ 39)).bar.hwbase.toNat + 8 * 16) 64 = false := by
  decide +kernel

/-- R343: the example of the rule, a write at byte offset 0800_0000h of a window at 1000_0000_0000h. -/
theorem test_hostWindow :
    (after (.hostWindowWrite 0x08000000 8 0xAB) (windowed 0x100000000000)).phys.bytes.bits 0x100040000000 64 = 0xAB
    ∧ (after (.hostWindowRead 0x08000000 8) (after (.hostWindowWrite 0x08000000 8 0xAB) (windowed 0x100000000000))).hostRead.data = 0xAB := by
  decide +kernel

theorem witness_BringUp : ∀ n ∈ [0, 1, 2, 3, 4, 5],
    ({ State.reset with bar := { stage := n } } : State).bar.stopped = false ∧ ({ State.reset with bar := { stage := n } } : State).bar.stage = n := by
  decide +kernel

theorem witness_SecurityCore : State.reset.sec.busy = false ∧ State.reset.sec.left ≠ 0 ∧ ({ State.reset with sec := { left := 0 } } : State).sec.left = 0
    ∧ ({ State.reset with sec := { busy := true, due := 3 }, now := 3 } : State).sec.busy = true
    ∧ ({ State.reset with sec := { busy := true, due := 3 }, now := 3 } : State).sec.due ≤ 3 := by decide +kernel

/-- Trained ports at a time, with an entry of port 2 for slot 0 that transmits to and receives from module 5. -/
def ported (now : Nat) : State :=
  { State.reset with
    now := now, dtoff := 0
    ports := { trained := true, table := [(128, BitVec.ofNat 64 (5 + 2 ^ 12 + 2 ^ 32 * (5 + 2 ^ 12)))], sendq := [(5, [(3, 9)])], held := [(192, 7)] } }

theorem witness_PortSteps : (ported 640000).dtime.toNat % 640000 = 0 ∧ (ported 640000).ports.rotated ≠ some (ported 640000).now
    ∧ (ported 640000).ports.held = [(64 * 3, 7)] ∧ (ported 650000).dtime.toNat % 10000 = 0 ∧ (ported 650000).ports.slotted ≠ some (ported 650000).now
    ∧ (ported 700).nextFlit 2 = some (5, 3, 9, []) ∧ (ported 700).portsLive = true ∧ (ported 700).ports.dark = []
    ∧ slotRx ((ported 700).ports.entry 2 (ported 700).slot) = some 5 ∧ inGuard (ported 700).dtime.toNat = false
    ∧ SMap.get 0 (ported 700).ports.rxseq 5 < 8192 := by decide +kernel

theorem witness_PowerSteps : (3100 < 3101 ∨ 110 ≤ 0) ∧ (3100 < 0 ∨ 110 ≤ 110) ∧ State.reset.power.trip = false := by decide +kernel

/-- R354: 3101 W trips; 2901 W only warns. -/
theorem test_power : (after (.powerTrip 3101 20) base).power.trip = true ∧ (after (.powerTrip 3101 20) base).slice = none
    ∧ (after (.powerWarn 2901 20) base).power.warn = true ∧ (after (.powerWarn 2900 100) base).power.warn = false := by decide +kernel

theorem witness_StepKeepsMemoryOk : MemoryOk State.reset ∧ ∃ t, step State.reset = .next t := by
  refine ⟨⟨by decide, by decide, by decide, by decide, by decide, by decide, by decide, fun r h => by cases h⟩, ?_⟩
  have h : (match step State.reset with | .next _ => true | _ => false) = true := by decide +kernel
  split at h
  · rename_i t e
    exact ⟨t, e⟩
  · cases h

/-! ## Runs from reset -/

/-- R355: power good starts stage 1, and GO at stage 5 the dispatcher. -/
theorem test_powerGood (h : Config.powerOk = true) : (after .powerGood State.reset).bar.stage = 1 := by
  have e : exec .powerGood State.reset = execPowerGood State.reset := rfl
  simp only [after, e, execPowerGood, h]
  decide +kernel

theorem test_bringUp : (after .bootGo { State.reset with bar := { stage := 5 } }).bar.stage = 6 := by decide +kernel

/-- Log 2: the first word after a launch is fetched and run. -/
theorem test_first : (match step (State.reset.withFetchWord 32 0x0A50A7FF) with | .next t => decide ((t.ctx 0 0).reg 20 = -1) | _ => false) = true := by
  decide +kernel

end Sys2Proof.Tests
end

section
/-! Branches, calls and jumps (R109 to R114), and the request of VPART (R120). Parts of their own say
once what the last word of a convoy, a transfer of control, the end of a slice and an operand fault come to. -/

namespace Sys2Proof.Proofs

open Sys2Proof Sys2Proof.Machine Sys2Proof.Safety Sys2Proof.Claims Sys2Proof.Laws

/-! ## The last word of a convoy -/

theorem taken_fronted {i : Instr} {s s1 : State} {v : Cv} (h : Taken i s v s1) : Fronted s v s1 := by
  obtain ⟨-, hfront, -⟩ := h
  exact front_ok hfront

/-- A convoy that holds no loop's end word leaves the loops and the next address as they are (R114). -/
theorem loopEnd_outside {lo hi next : Nat} {l : List LoopEnt} (h : ∀ e ∈ l, ¬(lo ≤ e.stop ∧ e.stop ≤ hi)) :
    loopEnd lo hi next l = (l, next) := by
  cases l with
  | nil => rfl
  | cons e r =>
    have he : (decide (lo ≤ e.stop) && decide (e.stop ≤ hi)) = false := by simpa using h e (by simp)
    simp [loopEnd, he]

theorem following_last {s : State} {v : Cv} {l : List LoopEnt} {pc : Nat} (hn : v.n ≤ v.idx + 1) (hb : v.back = none)
    (h : ∀ e ∈ l, ¬(v.head ≤ e.stop ∧ e.stop ≤ s.cur.pc)) : following s v l pc = (l, pc) := by
  simp [following, Nat.not_lt.mpr hn, Cv.next, hb, loopEnd_outside h]

/-- The last word of a convoy that holds no loop's end word closes the convoy and goes where its body says. -/
theorem completes_last {i : Instr} {s s1 s2 : State} {v : Cv} {body : Nat → Body} (h : Taken i s v s1)
    (hb : body s.cur.pc s1 = .ok s2) (hn : v.n ≤ v.idx + 1) (hk : v.back = none)
    (hl : ∀ e ∈ s2.cur.loops, ¬(v.head ≤ e.stop ∧ e.stop ≤ s.cur.pc)) (hf : fetchable s2.cur.pc = true) :
    issue i s body = .next (closed s2 none s2.cur.loops s2.cur.pc) := by
  have hr : s2.retire v s.cur.pc = .ok (closed s2 none s2.cur.loops s2.cur.pc) := by
    simp [retire_eq, Nat.not_lt.mpr hn, following_last hn hk hl, hf, closed]
  exact issue_ok h hb hr

/-! ## Transfers of control (R109, R112, R114) -/

/-- A branch leaves the innermost loops first, so that outer ones stay. -/
theorem leaveLoops_suffix (here target : Nat) (l : List LoopEnt) : leaveLoops here target l <:+ l := by
  induction l with
  | nil => exact List.suffix_refl _
  | cons e r ih =>
    simp only [leaveLoops]
    split
    · exact ih.trans (List.suffix_cons e r)
    · exact List.suffix_refl _

theorem cur_jump (s : State) (here target : Nat) (leaves : Bool) :
    (s.jump here target leaves).cur = { s.cur with pc := target, issueAt := s.now + 2
                                                   loops := if leaves then leaveLoops here target s.cur.loops else s.cur.loops } :=
  cur_modCur _ _

theorem onlyFocus_jump {s t : State} (h : OnlyFocus t s) (here target : Nat) (leaves : Bool) :
    OnlyFocus t (s.jump here target leaves) := onlyFocus_mod h _

/-- A state after a transfer at `here` that links register d and goes to a target. -/
def transferred (s : State) (d : Reg) (here target : Nat) (leaves : Bool) : State :=
  (s.result d (BitVec.ofNat 64 (here + 32)) 1).jump here target leaves

/-- A link to g0 is discarded: BR, BZ and BNZ are transfers that link g0. -/
theorem transferred_zero (s : State) (here target : Nat) (leaves : Bool) :
    transferred s 0 here target leaves = s.jump here target leaves := by
  simp [transferred, State.jump, State.result, Ctx.result, State.modCur]

section transferred
variable (s : State) (d : Reg) (here target : Nat) (leaves : Bool)

@[simp] theorem transferred_pc : (transferred s d here target leaves).cur.pc = target := by rw [transferred, cur_jump]

@[simp] theorem transferred_issueAt : (transferred s d here target leaves).cur.issueAt = s.now + 2 := by
  rw [transferred, cur_jump, result_now]

@[simp] theorem transferred_loops : (transferred s d here target leaves).cur.loops
    = if leaves then leaveLoops here target s.cur.loops else s.cur.loops := by
  obtain ⟨-, -, -, -, hloops, -⟩ := result_one s d (BitVec.ofNat 64 (here + 32))
  rw [transferred, cur_jump, hloops]

theorem transferred_reg_link :
    (transferred s d here target leaves).reg d = if d = 0 then 0 else BitVec.ofNat 64 (here + 32) := by
  obtain ⟨hlink, -⟩ := result_one s d (BitVec.ofNat 64 (here + 32))
  rw [← hlink, transferred, State.reg, cur_jump]
  rfl

theorem transferred_reg_ne {n : Reg} (h : n ≠ d) : (transferred s d here target leaves).reg n = s.reg n := by
  obtain ⟨-, hregs, -⟩ := result_one s d (BitVec.ofNat 64 (here + 32))
  rw [← hregs n h, transferred, State.reg, cur_jump]
  rfl

theorem transferred_rest : rest (transferred s d here target leaves).cur = rest s.cur := by
  obtain ⟨-, -, hrest, -⟩ := result_one s d (BitVec.ofNat 64 (here + 32))
  rw [← hrest, transferred, cur_jump]
  rfl

theorem onlyFocus_transferred {t : State} (h : OnlyFocus t s) : OnlyFocus t (transferred s d here target leaves) :=
  onlyFocus_jump (onlyFocus_result h _ _ _ _ _) _ _ _

/-- A transfer adds no loop: where the convoy held no loop's end word before, it holds none after (R115). -/
theorem transferred_outside {lo : Nat} (h : ∀ e ∈ s.cur.loops, ¬(lo ≤ e.stop ∧ e.stop ≤ here)) :
    ∀ e ∈ (transferred s d here target leaves).cur.loops, ¬(lo ≤ e.stop ∧ e.stop ≤ here) := by
  intro e he
  rw [transferred_loops] at he
  split at he
  · exact h e ((leaveLoops_suffix _ _ _).mem he)
  · exact h e he
end transferred

/-- What the body of a transfer that is taken does: it writes the link and goes to the target, which it has read before. -/
theorem exec_branch {i : Instr} {s s1 : State} {v : Cv} {target : Nat} {leaves : Bool} (f : Fronted s v s1)
    (h : branch i s = some (target, leaves)) :
    ∃ body, exec i s = issue i s body
      ∧ body s.cur.pc s1 = .ok (transferred s1 (link i) s.cur.pc target leaves) := by
  unfold branch at h
  split at h
  next o =>
    cases h
    exact ⟨_, show execBr o s = _ from rfl, congrArg Except.ok (transferred_zero ..).symm⟩
  next d o =>
    split at h
    next hd =>
      cases h
      refine ⟨_, show execBz d o s = _ from rfl, ?_⟩
      rw [f.reg, if_pos hd]
      exact congrArg Except.ok (transferred_zero ..).symm
    next => cases h
  next d o =>
    split at h
    next hd =>
      cases h
      refine ⟨_, show execBnz d o s = _ from rfl, ?_⟩
      rw [f.reg, if_pos hd]
      exact congrArg Except.ok (transferred_zero ..).symm
    next => cases h
  next d o =>
    cases h
    exact ⟨_, show execCall d o s = _ from rfl, rfl⟩
  next d a =>
    cases h
    refine ⟨_, show execJr d a s = _ from rfl, ?_⟩
    rw [f.reg]
    rfl
  next => cases h

/-- BZ and BNZ that are not taken do nothing in their body. -/
theorem exec_untaken {i : Instr} {s s1 : State} {v : Cv} (f : Fronted s v s1) {d : Reg} {o : BitVec 18}
    (h : (i = .bz d o ∧ s.reg d ≠ 0) ∨ (i = .bnz d o ∧ s.reg d = 0)) :
    ∃ body, exec i s = issue i s body ∧ body s.cur.pc s1 = .ok s1 := by
  obtain ⟨rfl, hd⟩ | ⟨rfl, hd⟩ := h
  · refine ⟨_, show execBz d o s = _ from rfl, ?_⟩
    rw [f.reg, if_neg hd]
  · refine ⟨_, show execBnz d o s = _ from rfl, ?_⟩
    rw [f.reg, if_neg (not_not.mpr hd)]

theorem flg_of_rest {c d : Ctx} (h : rest c = rest d) : c.flg = d.flg := (congrArg (·.flg) h :)

/-- Settles O11: a taken transfer is a link of latency 1 and a jump, and one that is not taken does nothing. -/
theorem branches : Obligations.Branches := by
  intro i s s1 v h hn hk hl
  have f := taken_fronted h
  rw [← f.loops] at hl
  constructor
  · intro target leaves hb hf
    obtain ⟨body, he, hbody⟩ := exec_branch f hb
    have hc := completes_last h hbody hn hk (transferred_outside _ _ _ _ _ hl) (by rwa [transferred_pc])
    have ho := onlyFocus_closed (onlyFocus_transferred s1 (link i) s.cur.pc target leaves f.only) none
    refine ⟨_, he.trans hc, ?_, ?_, ?_, ?_, ?_, ?_, ?_, onlyFocus_sameMemory (ho _ _), ho _ _⟩
    · simp
    · simp
    · simp [f.now]
    · rw [closed_reg, transferred_reg_link]
    · intro n hne
      rw [closed_reg, transferred_reg_ne _ _ _ _ _ hne, f.reg]
    · simp [f.loops]
    · exact flg_of_rest (by rw [closed_rest, transferred_rest, f.rest])
  · intro d o hu hf
    obtain ⟨body, he, hbody⟩ := exec_untaken f hu
    have hc := completes_last h hbody hn hk hl (by rwa [f.pc])
    have ho := onlyFocus_closed f.only none s1.cur.loops s1.cur.pc
    refine ⟨_, he.trans hc, ?_, ?_, ?_, ?_, ?_, onlyFocus_sameMemory ho, ho⟩
    · simp [f.pc]
    · simp
    · simp [f.loops]
    · intro n
      rw [closed_reg, f.reg]
    · simp [f.flg]

/-! ## The end of a slice (R299) -/

/-- Entries of the ready queue are written to memory alone. -/
theorem putReadys_keep (l : List Ready) : ∀ s : State, (l.foldl (fun s b => s.putReady b false) s).slice = s.slice
    ∧ (l.foldl (fun s b => s.putReady b false) s).disp = s.disp := by
  induction l with
  | nil => intro s; exact ⟨rfl, rfl⟩
  | cons b r ih => intro s; exact ih (s.putReady b false)

theorem popReady_keeps (s : State) (sliceid : Nat) :
    (s.popReady sliceid).slice = s.slice ∧ (s.popReady sliceid).disp.waitRecs = s.disp.waitRecs := by
  unfold State.popReady
  obtain ⟨hslice, hdisp⟩ := putReadys_keep (s.disp.ready.filter fun b => b.lr.sliceid == sliceid)
    { s with disp := { s.disp with ready := s.disp.ready.filter fun b => b.lr.sliceid != sliceid } }
  exact ⟨hslice, by rw [hdisp]⟩

/-- The picker chooses a slice and starts none yet, and tells the host nothing. -/
theorem pick_keeps (s : State) : s.pick.slice = s.slice ∧ s.pick.disp.waitRecs = s.disp.waitRecs := by
  unfold State.pick
  split
  · exact ⟨rfl, rfl⟩
  · split
    · exact ⟨rfl, rfl⟩
    · exact popReady_keeps _ _

theorem walkEnds_keeps (s : State) (w : Option Nat) (completed : Bool) :
    (s.walkEnds w completed).slice = s.slice ∧ (s.walkEnds w completed).disp.waitRecs = s.disp.waitRecs := by
  unfold State.walkEnds
  split
  · exact ⟨rfl, rfl⟩
  · split <;> exact ⟨rfl, rfl⟩

/-- The running slice leaves the device, and no record of the host's is lost or added. -/
theorem endSlice_ends (s : State) (completed : Bool) :
    (s.endSlice completed).slice = none ∧ (s.endSlice completed).disp.waitRecs = s.disp.waitRecs := by
  unfold State.endSlice
  split
  next h => exact ⟨h, rfl⟩
  next => exact ⟨(pick_keeps _).1.trans (walkEnds_keeps _ _ _).1, (pick_keeps _).2.trans (walkEnds_keeps _ _ _).2⟩

/-- A fault of a compute core ends the slice with one record; here for an exception that names no other instruction, no
poisoned word and no race (R31, R299). -/
theorem raiseFault_ends {s : State} {o : Origin} {e : Exc} {r : SliceRun} (hc : o.core < 1024) (hs : s.slice = some r)
    (ho : e.origin = none) (hw : e.word = none) (hr : e.race = none) :
    ∃ x, (s.raiseFault o e).slice = none ∧ (s.raiseFault o e).disp.waitRecs = s.disp.waitRecs ++ [x]
      ∧ x.cause = e.cause ∧ x.rkind = 1 := by
  have h : s.raiseFault o e
      = (s.sendRecord { s.mkRecord o e 1 with info := (s.mkRecord o e 1).info ||| s.missed r }).endSlice false := by
    simp [State.raiseFault, ho, hw, hr, hs, Nat.not_le.mpr hc]
  obtain ⟨hslice, hrecs⟩ := endSlice_ends
    (s.sendRecord { s.mkRecord o e 1 with info := (s.mkRecord o e 1).info ||| s.missed r }) false
  rw [h]
  exact ⟨_, hslice, hrecs, rfl, rfl⟩

/-! ## An operand fault at the head of a convoy (R54) -/

/-- A word that is no GUARD and no vector word is a convoy of its own (R41). -/
theorem form_single {i : Instr} (hg : isGuard i = false) (he : endBit i = none) (s : State) (a : Nat) : s.form a i = ([i], false) := by
  simp [State.form, hg, State.runFrom, he]

theorem vec_none_of_endBit {i : Instr} (h : endBit i = none) : i.vec = none := by
  unfold endBit at h
  split at h
  · rfl
  · simpa using h

theorem guardFails_of_not_isGuard {i : Instr} (h : isGuard i = false) (s : State) (l : List Instr) : s.guardFails (i :: l) = false := by
  unfold State.guardFails
  split
  · simp_all [isGuard]
  · simp_all [isGuard]
  · rfl

theorem foundBy_of_land_nil {s : State} (h : s.cur.land = []) (k : Nat) : s.foundBy k = s := by
  simp [State.foundBy, h]

/-- A scalar word at the head of its convoy that breaks a limit of its operands, and no check before that one, faults. -/
theorem front_operand_fault {i : Instr} {s : State} (h : AtHead i s) (hg : isGuard i = false) (he : endBit i = none)
    (ht : s.leadsTo s.cur.pc [i] false = some (s.cur.pc + 32)) (hi : s.illegalOp i = false)
    (hb : (s.badStatic i s.cur.pc || s.badValue i) = true) : s.front i = .error (.fault Exc.operand, 1, 0) := by
  obtain ⟨-, -, hcv, hspan, hloops, hbk, -, hfetch, hbad, hland, hboard⟩ := h
  have hfault : s.fetchFault s.cur.pc [i] false = none := by
    simp [State.fetchFault, hbad, rangeFrom, firstAt, ht, hfetch]
  have hplace : s.cur.badPlace s.cur.pc s.cur.pc [i] = false := by simp [Ctx.badPlace, hloops, hspan]
  have hop : s.operandAt s.cur.pc [i] = some 0 := by
    have : s.operandBad [i] 0 i s.cur.pc = true := by
      simpa [State.operandBad, guardFails_of_not_isGuard hg, foundBy_of_land_nil hland] using hb
    simp [State.operandAt, hg, vecPrefix, vec_none_of_endBit he, rangeFrom, firstAt, this]
  have hcheck : s.checkConvoy s.cur.pc i = .error (Exc.operand, 1, 0) := by
    simp [State.checkConvoy, form_single hg he, hfault, firstAt, hi, hplace, hop]
  have hleft : s.cur.leftSpan = false := by simp [Ctx.leftSpan, hspan]
  simp [State.front, hcv, hleft, hbk, hboard, hcheck]

/-- A word of a compute core that faults before it is taken up ends the slice with one record of that cause. -/
theorem issue_fault {i : Instr} {s : State} {r : SliceRun} {e : Exc} {n k : Nat} {body : Nat → Body} (hf : s.fetching = true)
    (hc : s.onSys = false) (hs : s.slice = some r) (h : s.front i = .error (.fault e, n, k)) (ho : e.origin = none)
    (hw : e.word = none) (hr : e.race = none) : ∃ t x, issue i s body = .next t ∧ t.slice = none
      ∧ t.disp.waitRecs = s.disp.waitRecs ++ [x] ∧ x.cause = e.cause ∧ x.rkind = 1 := by
  have hcore : (s.stopOrigin n k).core < 1024 := by simpa [State.stopOrigin, State.origin, State.onSys] using hc
  have hi : issue i s body = .next (s.raiseFault (s.stopOrigin n k) e) := by simp [issue, hf, h, State.stopWith]
  obtain ⟨x, hx⟩ := raiseFault_ends hcore hs ho hw hr
  exact ⟨_, x, hi, hx⟩

/-! ## VPART (R120) -/

/-- A context whose pending lane request is n. -/
def withRequest (c : Ctx) (n : Nat) : Ctx := { c with vpart := some n }

theorem rest_withRequest (c : Ctx) (n : Nat) : rest (withRequest c n) = withRequest (rest c) n := rfl

theorem exec_vpart (a : Reg) (s : State) :
    exec (.vpart a) s = issue (.vpart a) s fun _ s => .ok (s.modCur (withRequest · (s.reg a).toNat)) := rfl

/-- VPART outside every loop and span, with no QPUSH to go back from, leads on to the next word (R111). -/
theorem leadsTo_vpart {a : Reg} {s : State} (h : AtHead (.vpart a) s) : s.leadsTo s.cur.pc [.vpart a] false = some (s.cur.pc + 32) := by
  obtain ⟨-, -, -, hspan, hloops, -, hredo, -⟩ := h
  simp [State.leadsTo, State.guardFails, Ctx.back, hspan, hredo, Cv.next, hloops, loopEnd]

theorem vpartBad_iff (x : Word) : vpartBad x = true ↔ ¬(x.toNat ≤ 64 ∧ x.toNat % 8 = 0) := by
  simp only [vpartBad, Bool.or_eq_true, decide_eq_true_eq, bne_iff_ne]
  omega

/-- Settles O15: a legal value is recorded as the request, and any other fails the operand check of its convoy. -/
theorem laneRequest : Obligations.LaneRequest := by
  intro a s s1 v
  constructor
  · rintro ⟨h, hg⟩ - -
    have f := taken_fronted h
    rw [exec_vpart]
    obtain ⟨cv, hc⟩ := completes_on (body := fun _ s => .ok (s.modCur (withRequest · (s.reg a).toNat))) h hg rfl
      (by rw [cur_modCur]; rfl) (by rw [cur_modCur]; rfl)
    rw [f.reg] at hc
    have hrest : rest (withRequest s1.cur (s.reg a).toNat) = rest (withRequest s.cur (s.reg a).toNat) := by
      rw [rest_withRequest, f.rest, rest_withRequest]
    have ho := onlyFocus_closed (onlyFocus_mod f.only (withRequest · (s.reg a).toNat)) cv
    refine ⟨_, hc, ?_, ?_, ?_, ?_, ?_, onlyFocus_sameMemory (ho _ _), ho _ _⟩
    · simp [withRequest]
    · rw [closed_rest, cur_modCur, hrest]
      simp [withRequest]
    · simp [withRequest, f.regs]
    · simp [withRequest, f.land]
    · simp [nextPc]
  · intro r h hs hbad
    rw [exec_vpart]
    have hfront := front_operand_fault h rfl rfl (leadsTo_vpart h) rfl (by simp [State.badValue, vpartBad_iff, hbad])
    obtain ⟨hfetching, hsys, -⟩ := h
    exact issue_fault hfetching hsys hs hfront rfl rfl rfl

end Sys2Proof.Proofs
end

section
/-! The shape that MSHAPE grants (R207), and the commands that capture it (R205). Parts of their own say once what an update
of the engine in focus leaves alone, and what the body of a matrix word adds to the queue. -/

namespace Sys2Proof.Proofs

open Sys2Proof Sys2Proof.Machine Sys2Proof.Safety Sys2Proof.Claims Sys2Proof.Laws

/-! ## Updates of the core in focus -/

/-- An update of the core in focus that leaves its contexts alone leaves the context in focus alone. -/
theorem cur_modCurCore {f : Core → Core} {s : State} (h : (f s.curCore).ctxs = s.curCore.ctxs) : (s.modCurCore f).cur = s.cur := by
  change (s.modCurCore f).curCore.ctx s.focusCtx = s.curCore.ctx s.focusCtx
  simp [Core.ctx, h]

/-- An update of the core in focus that leaves its scratchpad alone leaves every memory alone. -/
theorem spaceAt_modCurCore {f : Core → Core} {s : State} (h : (f s.curCore).loc = s.curCore.loc) (p : Place) :
    (s.modCurCore f).spaceAt p = s.spaceAt p := by
  cases p with
  | loc c =>
    by_cases hc : c = s.focusCore
    · subst hc
      exact (congrArg Core.loc (curCore_modCurCore s f)).trans h
    · exact congrArg Core.loc (core_setCore_ne s _ hc)
  | phys => rfl
  | host => rfl
  | peer => rfl

@[simp] theorem cur_setTagsOf (s : State) (f : Mat → Mat) : (s.setTagsOf f).cur = s.cur := cur_modCurCore rfl

@[simp] theorem me_setTagsOf (s : State) (f : Mat → Mat) : (s.setTagsOf f).curCore.me = f s.curCore.me :=
  congrArg Core.me (curCore_modCurCore s _)

theorem sameMemory_setTagsOf (s : State) (f : Mat → Mat) : SameMemory s (s.setTagsOf f) := fun p a => by
  rw [State.setTagsOf, spaceAt_modCurCore rfl]

/-- The engine is none of what the context in focus holds. -/
theorem me_setCur (s : State) (c : Ctx) : (s.setCur c).curCore.me = s.curCore.me := by
  rw [curCore_setCur]
  rfl

theorem sameMemory_trans {s t u : State} (h : SameMemory s t) (g : SameMemory t u) : SameMemory s u := fun p a =>
  (g p a).trans (h p a)

/-! ## A matrix command joins the queue (R200, R205) -/

/-- What has an answer has one at each of its steps. -/
theorem ok_of_bind {α β : Type} {x : Except Stop α} {f : α → Except Stop β} {b : β} (h : (x >>= f) = .ok b) :
    ∃ a, x = .ok a ∧ f a = .ok b := by
  cases x with
  | error e => cases h
  | ok a => exact ⟨a, rfl, h⟩

/-- The context in focus and the engine of its core are as before. -/
def SameEngine (s t : State) : Prop := t.cur = s.cur ∧ t.curCore.me = s.curCore.me

theorem SameEngine.refl (s : State) : SameEngine s s := ⟨rfl, rfl⟩

theorem SameEngine.trans {s t u : State} (h : SameEngine s t) (g : SameEngine t u) : SameEngine s u :=
  ⟨g.1.trans h.1, g.2.trans h.2⟩

/-- Using a layout entry moves the layout cache, the counts of the scratchpad and the free choices alone (R142). -/
theorem useEntry_sameEngine (s : State) (n : Nat) : SameEngine s (s.useEntry s.focusCore n).2 := by
  have h : SameEngine s (s.modCurCore fun k =>
      { k with lcache := k.lcache.put (n % 64) n, loc := k.loc.countRead (wordsOf (s.lr.ltbase + 256 * n) 256) }) :=
    ⟨cur_modCurCore rfl, by rw [curCore_modCurCore]⟩
  unfold State.useEntry
  dsimp only
  split
  · exact h
  · exact h

theorem tensor_sameEngine {s t : State} {n : Reg} {o : MOperand} (h : s.tensor n = .ok (o, t)) : SameEngine s t := by
  obtain ⟨-, -, h⟩ := ok_of_bind h
  cases h
  exact useEntry_sameEngine s _

/-- A command is of the context in focus as it stands, and has captured the shape granted (R205, R207). -/
structure Captures (s : State) (m : MCmd) : Prop where
  inSpan : m.inSpan = s.cur.span.isSome
  gm : m.gm = s.curCore.me.gm
  gn : m.gn = s.curCore.me.gn
  gk : m.gk = s.curCore.me.gk
  sp : m.sp = s.curCore.me.sp

theorem Captures.of_sameEngine {s t : State} {m : MCmd} (h : SameEngine s t) (hm : Captures t m) : Captures s m := by
  obtain ⟨hcur, hme⟩ := h
  obtain ⟨hspan, hgm, hgn, hgk, hsp⟩ := hm
  rw [hcur] at hspan
  rw [hme] at hgm hgn hgk hsp
  exact ⟨hspan, hgm, hgn, hgk, hsp⟩

/-- One command, with the shape granted, joins the queue, and the context in focus stays as it is. -/
def QueuesOne (s t : State) : Prop :=
  t.cur = s.cur ∧ ∃ m, t.curCore.me.queue = s.curCore.me.queue ++ [m] ∧ Captures s m

theorem QueuesOne.setTagsOf {s t : State} {f : Mat → Mat} (h : QueuesOne s t) (hf : (f t.curCore.me).queue = t.curCore.me.queue) :
    QueuesOne s (t.setTagsOf f) := by
  rwa [QueuesOne, cur_setTagsOf, me_setTagsOf, hf]

/-- A command with the shape of s is sent from s2, where s2 has the engine of s. -/
theorem sendCommand_queuesOne {s s2 t : State} {m : MCmd} (hspan : s.cur.span = none) (hm : Captures s m) (he : SameEngine s s2)
    (h : s2.sendCommand m = .ok t) : QueuesOne s t := by
  obtain ⟨hcur, hme⟩ := he
  have hout : m.inSpan = false := by rw [hm.inSpan, hspan]; rfl
  rw [State.sendCommand, hout] at h
  cases h
  refine ⟨(cur_modCurCore rfl).trans hcur, m, ?_, hm⟩
  rw [curCore_modCurCore, hme]

section queues
variable {s t : State} (hspan : s.cur.span = none)
include hspan

theorem loadWeights_queuesOne {a : Reg} {bundles : Bool} (h : s.loadWeights a bundles = .ok t) : QueuesOne s t := by
  obtain ⟨-, -, h⟩ := ok_of_bind h
  obtain ⟨⟨o, s2⟩, htensor, h⟩ := ok_of_bind h
  dsimp only at h
  split at h <;>
  · obtain ⟨f, -, h⟩ := ok_of_bind h
    obtain ⟨-, -, h⟩ := ok_of_bind h
    obtain ⟨s3, hsend, h⟩ := ok_of_bind h
    cases h
    exact (sendCommand_queuesOne hspan ⟨rfl, rfl, rfl, rfl, rfl⟩ (tensor_sameEngine htensor) hsend).setTagsOf rfl

theorem streamRows_queuesOne {a : Reg} {kind : MKind} (h : s.streamRows a kind = .ok t) : QueuesOne s t := by
  obtain ⟨-, -, h⟩ := ok_of_bind h
  obtain ⟨⟨o, s2⟩, htensor, h⟩ := ok_of_bind h
  obtain ⟨f, -, h⟩ := ok_of_bind h
  obtain ⟨-, -, h⟩ := ok_of_bind h
  obtain ⟨-, -, h⟩ := ok_of_bind h
  obtain ⟨-, -, hsend⟩ := ok_of_bind h
  exact sendCommand_queuesOne hspan ⟨rfl, rfl, rfl, rfl, rfl⟩ (tensor_sameEngine htensor) hsend

theorem mgrd_queuesOne {a b : Reg} (h : s.mgrd a b = .ok t) : QueuesOne s t := by
  obtain ⟨-, -, h⟩ := ok_of_bind h
  obtain ⟨⟨x, s2⟩, hx, h⟩ := ok_of_bind h
  obtain ⟨⟨g, s3⟩, hg, h⟩ := ok_of_bind h
  obtain ⟨fx, -, h⟩ := ok_of_bind h
  obtain ⟨fg, -, h⟩ := ok_of_bind h
  obtain ⟨-, -, h⟩ := ok_of_bind h
  obtain ⟨-, -, h⟩ := ok_of_bind h
  obtain ⟨-, -, hsend⟩ := ok_of_bind h
  exact sendCommand_queuesOne hspan ⟨rfl, rfl, rfl, rfl, rfl⟩ ((tensor_sameEngine hx).trans (tensor_sameEngine hg)) hsend

theorem mdrain_queuesOne {a b : Reg} (h : s.mdrain a b = .ok t) : QueuesOne s t := by
  obtain ⟨-, -, h⟩ := ok_of_bind h
  obtain ⟨⟨o, s2⟩, htensor, h⟩ := ok_of_bind h
  obtain ⟨f, -, h⟩ := ok_of_bind h
  obtain ⟨-, -, h⟩ := ok_of_bind h
  obtain ⟨-, -, hsend⟩ := ok_of_bind h
  have he := tensor_sameEngine htensor
  exact sendCommand_queuesOne hspan (.of_sameEngine he ⟨rfl, rfl, rfl, rfl, rfl⟩) he hsend

theorem mswap_queuesOne (h : s.mswap = .ok t) : QueuesOne s t := by
  obtain ⟨-, -, h⟩ := ok_of_bind h
  obtain ⟨s2, hsend, h⟩ := ok_of_bind h
  cases h
  exact (sendCommand_queuesOne hspan ⟨rfl, rfl, rfl, rfl, rfl⟩ (.refl s) hsend).setTagsOf rfl

theorem mzero_queuesOne {b : Reg} (h : s.mzero b = .ok t) : QueuesOne s t := by
  obtain ⟨-, -, hsend⟩ := ok_of_bind h
  exact sendCommand_queuesOne hspan ⟨rfl, rfl, rfl, rfl, rfl⟩ (.refl s) hsend

/-- Every matrix word outside a span queues one command, with the shape granted at its issue. -/
theorem matrixWord_queuesOne {i : Instr} {k : MKind} {f : State → Except Stop State} (hw : matrixWord i = some (k, f))
    (h : f s = .ok t) : QueuesOne s t := by
  unfold matrixWord at hw
  split at hw <;> cases hw
  · exact loadWeights_queuesOne hspan h
  · exact loadWeights_queuesOne hspan h
  · exact mswap_queuesOne hspan h
  · exact streamRows_queuesOne hspan h
  · exact streamRows_queuesOne hspan h
  · exact mgrd_queuesOne hspan h
  · exact mdrain_queuesOne hspan h
  · exact mzero_queuesOne hspan h
end queues

theorem exec_matrixWord {i : Instr} {k : MKind} {f : State → Except Stop State} (h : matrixWord i = some (k, f)) (s : State) :
    exec i s = issue i s fun _ s => f s := by
  unfold matrixWord at h
  split at h <;> cases h <;> rfl

/-! ## The request of MSHAPE (R207) -/

theorem field_eq (x hi lo : Nat) : field x hi lo = x / 2 ^ lo % 2 ^ (hi + 1 - lo) := by rw [field, Nat.shiftRight_eq_div_pow]

theorem getLsbD_eq_decide (x : Word) (i : Nat) : x.getLsbD i = decide (x.toNat / 2 ^ i % 2 = 1) :=
  Nat.testBit_eq_decide_div_mod_eq

/-- The engine with the shape that a request r is granted. -/
def granted (r : Word) (e : Mat) : Mat :=
  { e with gm := Nat.min (field r.toNat 6 0) 64, gn := Nat.min (field r.toNat 14 8) 64, gk := grantK r, sp := r.getLsbD 24 }

/-- The shape of an engine in the layout of a request. -/
def shapeWord (e : Mat) : Word := BitVec.ofNat 64 (e.gm + 2 ^ 8 * e.gn + 2 ^ 16 * e.gk + 2 ^ 24 * e.sp.toNat)

theorem exec_mshape (d a : Reg) (s : State) : exec (.mshape d a) s = issue (.mshape d a) s fun _ s =>
    .ok ((s.setTagsOf (granted (s.reg a))).result d (shapeWord (granted (s.reg a) s.curCore.me)) 1) := rfl

theorem granted_gm (r : Word) (e : Mat) : (granted r e).gm = Min.min (r.toNat % 2 ^ 7) 64 := by
  change Min.min (field _ 6 0) 64 = _
  rw [field_eq, Nat.pow_zero, Nat.div_one]

theorem granted_gn (r : Word) (e : Mat) : (granted r e).gn = Min.min (r.toNat / 2 ^ 8 % 2 ^ 7) 64 := by
  change Min.min (field _ 14 8) 64 = _
  rw [field_eq]

theorem granted_sp (r : Word) (e : Mat) : (granted r e).sp = decide (r.toNat / 2 ^ 24 % 2 = 1) := getLsbD_eq_decide r 24

theorem granted_gk (r : Word) (e : Mat) : (granted r e).gk = if r.toNat / 2 ^ 24 % 2 = 1
    then Min.min (r.toNat / 2 ^ 16 % 2 ^ 8) 128 / 16 * 16 else Min.min (r.toNat / 2 ^ 16 % 2 ^ 8) 64 := by
  change grantK r = _
  simp only [grantK, field_eq, getLsbD_eq_decide, decide_eq_true_eq]

theorem mshapeBad_iff (x : Word) : mshapeBad x = true ↔ x.toNat / 2 ^ 25 ≠ 0 ∨ x.toNat / 2 ^ 15 % 2 = 1 ∨ x.toNat / 2 ^ 7 % 2 = 1
    ∨ x.toNat % 2 ^ 7 = 0 ∨ x.toNat / 2 ^ 8 % 2 ^ 7 = 0 ∨ x.toNat / 2 ^ 16 % 2 ^ 8 = 0
    ∨ (x.toNat / 2 ^ 24 % 2 = 1 ∧ x.toNat / 2 ^ 16 % 2 ^ 8 < 16) := by
  have hhigh : x.toNat / 2 ^ 25 % 2 ^ (63 + 1 - 25) = x.toNat / 2 ^ 25 := by omega
  simp only [mshapeBad, field_eq, getLsbD_eq_decide, hhigh, Bool.or_eq_true, Bool.and_eq_true, bne_iff_ne, beq_iff_eq,
    decide_eq_true_eq, or_assoc, Nat.pow_zero, Nat.div_one]

/-- Outside every loop and span and with no QPUSH to go back from, the word after a convoy of one is the next one (R111). -/
theorem next_atHead {i : Instr} {s : State} (h : AtHead i s) :
    (({ head := s.cur.pc, n := 1, idx := 0, back := s.cur.back } : Cv).next s.cur.pc (s.cur.pc + 32) s.cur.loops).2 = s.cur.pc + 32 := by
  obtain ⟨-, -, -, hspan, hloops, -, hredo, -⟩ := h
  simp [Cv.next, Ctx.back, hspan, hredo, hloops, loopEnd]

theorem leadsTo_mshape {d a : Reg} {s : State} (h : AtHead (.mshape d a) s) :
    s.leadsTo s.cur.pc [.mshape d a] false = some (s.cur.pc + 32) := congrArg some (next_atHead h)

/-- A request that is taken up is granted: the engine takes the shape, and g[d] the same shape in the layout of the request. -/
theorem mshape_grants {d a : Reg} {s s1 : State} {v : Cv} (h : Issues (.mshape d a) s v s1) :
    ∃ t, exec (.mshape d a) s = .next t ∧ t.curCore.me = granted (s.reg a) s.curCore.me
      ∧ t.reg d = (if d = 0 then 0 else shapeWord (granted (s.reg a) s.curCore.me)) ∧ (∀ n, n ≠ d → t.reg n = s.reg n)
      ∧ SameMemory s t := by
  obtain ⟨htaken, hgoes⟩ := h
  have f := taken_fronted htaken
  obtain ⟨hd, hregs, -, honly, hloops, hpc⟩ := result_one (s1.setTagsOf (granted (s1.reg a))) d
    (shapeWord (granted (s1.reg a) s1.curCore.me))
  rw [exec_mshape]
  obtain ⟨cv, hc⟩ := completes_on (body := fun _ s => .ok ((s.setTagsOf (granted (s.reg a))).result d
    (shapeWord (granted (s.reg a) s.curCore.me)) 1)) htaken hgoes rfl (by rw [hloops, cur_setTagsOf]) (by rw [hpc, cur_setTagsOf])
  refine ⟨_, hc, ?_, ?_, ?_, ?_⟩
  · rw [closed, me_setCur, State.result, me_setCur, me_setTagsOf, f.reg, f.me]
  · rw [closed_reg, hd, f.reg, f.me]
  · intro n hn
    rw [closed_reg, hregs n hn, State.reg, cur_setTagsOf]
    exact f.reg n
  · exact sameMemory_trans (onlyFocus_sameMemory f.only)
      (sameMemory_trans (sameMemory_setTagsOf s1 _) (onlyFocus_sameMemory (onlyFocus_closed honly cv _ _)))

/-- Settles O31: a request is granted as R207 limits it, a matrix word captures the shape that stands, and a malformed
request fails the operand check of its convoy. -/
theorem shapeGrant : Obligations.ShapeGrant := by
  intro d a s s1 v
  refine ⟨fun h => ?_, ?_, ?_, rfl, rfl, rfl, rfl⟩
  · obtain ⟨t, hexec, hme, hd, hregs, hmem⟩ := mshape_grants h
    refine ⟨t, hexec, ?_, ?_, ?_, ?_, ?_, ?_, ?_, hregs, hmem⟩
    · rw [hme, granted_gm]
    · rw [hme, granted_gn]
    · rw [hme, granted_gk]
    · rw [hme, granted_sp]
    · rw [hme]; rfl
    · rw [hme]; rfl
    · rw [hd, shapeWord, granted_gm, granted_gn, granted_gk, granted_sp, Bool.toNat, Bool.cond_decide]
  · rintro i k f s2 hw ⟨htaken, hgoes⟩ hspan hf
    have hfront := taken_fronted htaken
    obtain ⟨hcur, m, hqueue, hm⟩ := matrixWord_queuesOne (hfront.span.trans hspan) hw hf
    obtain ⟨cv, hc⟩ := completes_on (body := fun _ s => f s) htaken hgoes hf (by rw [hcur]) (by rw [hcur])
    rw [exec_matrixWord hw]
    refine ⟨_, m, hc, ?_, ?_, ?_, ?_, ?_⟩
    · rw [closed, me_setCur, hqueue, hfront.me]
    · rw [hm.gm, hfront.me]
    · rw [hm.gn, hfront.me]
    · rw [hm.gk, hfront.me]
    · rw [hm.sp, hfront.me]
  · intro q h hslice hbad
    have hfront := front_operand_fault h rfl rfl (leadsTo_mshape h) rfl
      (by rw [State.badValue, (mshapeBad_iff _).mpr hbad, Bool.or_true])
    obtain ⟨hfetching, hsys, -⟩ := h
    rw [exec_mshape]
    exact issue_fault hfetching hsys hslice hfront rfl rfl rfl

end Sys2Proof.Proofs
end

section
/-! The rings that the host and the dispatcher share (R289, R290, R292). Parts of their own say once what a write to SUB and to
CMP does to the dispatcher, and when and where a record of the completion ring is written. -/

namespace Sys2Proof.Proofs

open Sys2Proof Sys2Proof.Machine Sys2Proof.Safety Sys2Proof.Claims Sys2Proof.Laws

/-! ## Writes to a space -/

@[simp] theorem goOut_syn (m : Space) (sec : Nat) : (m.goOut sec).syn = m.syn := by
  unfold Space.goOut
  split <;> rfl

/-- Where no word carries an error, the bits of a write read back (R23, R349). -/
theorem bits_writeRaw {m : Space} (h : m.syn = []) (a n x : Nat) : (m.writeRaw a n x).bytes.bits a n = x % 2 ^ n := by
  rw [← bits_setBits m.bytes a n x]
  simp [Space.writeRaw, h]

/-! ## SUB and the entries (R289, R290) -/

/-- SUB, the low half of the mailbox, reads as TAKEN. -/
theorem readBar0_sub (s : State) : (s.readBar0 0).setWidth 32 = s.disp.taken :=
  BitVec.setWidth_append_eq_right (a := s.disp.recs)

/-- From stage 6 on, an entry is due while TAKEN is not WRITTEN and the dispatcher has not stopped on a panic. -/
theorem entry_isSome_iff {s : State} (h : s.bar.stage = 6) :
    s.entry.isSome = true ↔ s.dbg.panic = none ∧ s.disp.taken ≠ s.disp.written := by
  have hdue : (s.dispLive && s.disp.taken != s.disp.written) = true ↔ s.dbg.panic = none ∧ s.disp.taken ≠ s.disp.written := by
    simp [State.dispLive, h]
  rw [← hdue, State.entry]
  split
  next hlive => simp [hlive]
  next hlive => simp [hlive]

theorem exec_mboxSubWrite {s : State} (h : s.bar.stage = 6) (v : BitVec 32) :
    exec (.mboxSubWrite v) s = .next (s.acceptSub v) := by
  change execMboxSubWrite v s = _
  rw [execMboxSubWrite, if_pos h]

@[simp] theorem sysEvent_disp (s : State) (b : BitVec 2) : (s.sysEvent b).disp = s.disp := rfl

/-- A write to SUB that the ring can hold moves WRITTEN alone. -/
theorem acceptSub_disp_of_le {s : State} {v : BitVec 32} (h : (v - s.disp.taken).toNat ≤ s.bar.subSlots) :
    (s.acceptSub v).disp = { s.disp with written := v } := by
  rw [State.acceptSub, sysEvent_disp, if_pos h]

/-- The record of an overrun of SUB: RKIND 01h, cause LAUNCH, subcode 16, of no slice, on vector 0 (R290). -/
def overrunRecord : Record := { cause := 0x14, rkind := 1, info := 16 }

/-- An overrun of SUB adds its record alone. -/
theorem acceptSub_disp_of_lt {s : State} {v : BitVec 32} (h : s.bar.subSlots < (v - s.disp.taken).toNat) :
    (s.acceptSub v).disp = { s.disp with waitRecs := s.disp.waitRecs ++ [overrunRecord] } := by
  rw [State.acceptSub, sysEvent_disp, if_neg (Nat.not_le.mpr h), State.sendRecord, overrunRecord]

/-! ## CMP (R290) -/

theorem exec_mboxCmpWrite (v : BitVec 32) (s : State) : exec (.mboxCmpWrite v) s = .next (s.acceptCmp v) := rfl

theorem acceptCmp_of_le {s : State} {v : BitVec 32} (h : (s.disp.recs - v).toNat ≤ s.bar.cmpSlots) :
    s.acceptCmp v = { s with disp := { s.disp with cmp := v } } := if_pos h

theorem acceptCmp_of_lt {s : State} {v : BitVec 32} (h : s.bar.cmpSlots < (s.disp.recs - v).toNat) : s.acceptCmp v = s :=
  if_neg (Nat.not_le.mpr h)

/-! ## Records in the completion ring (R290, R292) -/

/-- The bit address of the completion slot that the next record goes to. -/
def completionSlot (s : State) : Nat := s.bar.cqbase.toNat % 2 ^ 61 + 512 * (s.disp.recs.toNat % s.bar.cmpSlots)

/-- A state after the record r has gone to the next completion slot and q still wait; the vector of r follows. -/
def recordWritten (s : State) (r : Record) (q : List Record) : State :=
  State.signal { s with host := (s.host.goOut (completionSlot s / 512)).writeRaw (completionSlot s) 512 r.bits
                        disp := { s.disp with waitRecs := q, recs := s.disp.recs + 1 } } r.vec

theorem exec_recordWrite_nil {s : State} (h : s.disp.waitRecs = []) : exec .recordWrite s = .fault .notEnabled := by
  change execRecordWrite s = _
  unfold execRecordWrite
  simp only [h]

theorem exec_recordWrite_cons {s : State} {r : Record} {q : List Record} (h : s.disp.waitRecs = r :: q) :
    exec .recordWrite s = if s.recordDue then .next (recordWritten s r q) else .fault .notEnabled := by
  change execRecordWrite s = _
  unfold execRecordWrite
  simp only [h]
  cases s.recordDue <;> rfl

/-- From stage 6 on, a record that waits is due exactly while the ring has a free slot. -/
theorem recordDue_cons {s : State} {r : Record} {q : List Record} (hstage : s.bar.stage = 6) (h : s.disp.waitRecs = r :: q) :
    s.recordDue = decide ((s.disp.recs - s.disp.cmp).toNat < s.bar.cmpSlots) := by
  simp [State.recordDue, hstage, h]

/-- While the ring holds no free slot no record is written. -/
theorem exec_recordWrite_full {s : State} (h : s.bar.cmpSlots ≤ (s.disp.recs - s.disp.cmp).toNat) :
    exec .recordWrite s = .fault .notEnabled := by
  have hdue : s.recordDue = false := by rw [State.recordDue, decide_eq_false (Nat.not_lt.mpr h), Bool.and_false]
  cases hrecs : s.disp.waitRecs with
  | nil => exact exec_recordWrite_nil hrecs
  | cons r q => simp [exec_recordWrite_cons hrecs, hdue]

/-- The slot of a record holds it afterwards. -/
theorem recordWritten_slot {s : State} (h : s.host.syn = []) (r : Record) (q : List Record) :
    (recordWritten s r q).host.bytes.bits (completionSlot s) 512 = r.bits % 2 ^ 512 :=
  bits_writeRaw ((goOut_syn _ _).trans h) _ _ _

/-- Settles O44: a write to SUB and one to CMP are taken up to what the rings hold, and the oldest record goes to the next
completion slot while one is free. -/
theorem rings : Obligations.Rings := by
  intro s x hstage
  refine ⟨readBar0_sub s, entry_isSome_iff hstage, fun hle => ?_, fun hlt => ?_, fun hle => ?_, fun hlt => ?_, ?_, exec_recordWrite_full⟩
  · refine ⟨_, exec_mboxSubWrite hstage x, ?_⟩
    simp [acceptSub_disp_of_le hle]
  · refine ⟨_, overrunRecord, exec_mboxSubWrite hstage x, ?_⟩
    simp [acceptSub_disp_of_lt hlt, overrunRecord]
  · exact ⟨_, exec_mboxCmpWrite x s, by rw [acceptCmp_of_le hle]⟩
  · rw [exec_mboxCmpWrite, acceptCmp_of_lt hlt]
  · intro r q hrecs hfree hsyn
    refine ⟨recordWritten s r q, ?_, rfl, rfl, rfl, recordWritten_slot hsyn r q⟩
    rw [exec_recordWrite_cons hrecs, recordDue_cons hstage hrecs, decide_eq_true hfree, if_pos rfl]

end Sys2Proof.Proofs
end

section
/-! The decoder and the encoder are inverse to each other (R34 to R53). One way round each instruction has its own lemma
(Laws/PerInstr); the other way follows the decoder, one lemma for each of its tables. -/

namespace Sys2Proof.Proofs

open Sys2Proof Sys2Proof.Laws

/-! ## From the instruction to the word and back -/

theorem roundTrip : ∀ i : Instr, RoundTrip.Statement i
  | .add d a b => RoundTrip.add d a b
  | .sub d a b => RoundTrip.sub d a b
  | .and d a b => RoundTrip.and d a b
  | .or d a b => RoundTrip.or d a b
  | .xor d a b => RoundTrip.xor d a b
  | .shl d a b => RoundTrip.shl d a b
  | .shr d a b => RoundTrip.shr d a b
  | .sar d a b => RoundTrip.sar d a b
  | .min d a b => RoundTrip.min d a b
  | .max d a b => RoundTrip.max d a b
  | .minn d a b => RoundTrip.minn d a b
  | .maxn d a b => RoundTrip.maxn d a b
  | .sel d a b => RoundTrip.sel d a b
  | .mul d a b => RoundTrip.mul d a b
  | .mulh d a b => RoundTrip.mulh d a b
  | .mulhn d a b => RoundTrip.mulhn d a b
  | .div d a b => RoundTrip.div d a b
  | .divn d a b => RoundTrip.divn d a b
  | .rem d a b => RoundTrip.rem d a b
  | .remn d a b => RoundTrip.remn d a b
  | .cmpeq d a b => RoundTrip.cmpeq d a b
  | .cmpne d a b => RoundTrip.cmpne d a b
  | .cmplt d a b => RoundTrip.cmplt d a b
  | .cmpltn d a b => RoundTrip.cmpltn d a b
  | .cmple d a b => RoundTrip.cmple d a b
  | .cmplen d a b => RoundTrip.cmplen d a b
  | .clz d a => RoundTrip.clz d a
  | .ctz d a => RoundTrip.ctz d a
  | .popc d a => RoundTrip.popc d a
  | .bext d a b => RoundTrip.bext d a b
  | .bins d a b => RoundTrip.bins d a b
  | .brev d a => RoundTrip.brev d a
  | .addi d a i => RoundTrip.addi d a i
  | .andi d a i => RoundTrip.andi d a i
  | .ori d a i => RoundTrip.ori d a i
  | .xori d a i => RoundTrip.xori d a i
  | .shli d a i => RoundTrip.shli d a i
  | .shri d a i => RoundTrip.shri d a i
  | .sari d a i => RoundTrip.sari d a i
  | .li d i => RoundTrip.li d i
  | .lis d i => RoundTrip.lis d i
  | .mfs d n => RoundTrip.mfs d n
  | .mts d n => RoundTrip.mts d n
  | .win i => RoundTrip.win i
  | .fadd f64 d a b => RoundTrip.fadd f64 d a b
  | .fsub f64 d a b => RoundTrip.fsub f64 d a b
  | .fmul f64 d a b => RoundTrip.fmul f64 d a b
  | .fdiv f64 d a b => RoundTrip.fdiv f64 d a b
  | .fsqrt f64 d a => RoundTrip.fsqrt f64 d a
  | .fmin f64 d a b => RoundTrip.fmin f64 d a b
  | .fmax f64 d a b => RoundTrip.fmax f64 d a b
  | .fcmpeq f64 d a b => RoundTrip.fcmpeq f64 d a b
  | .fcmplt f64 d a b => RoundTrip.fcmplt f64 d a b
  | .fcmple f64 d a b => RoundTrip.fcmple f64 d a b
  | .fcvtif f64 d a => RoundTrip.fcvtif f64 d a
  | .fcvtfi f64 d a => RoundTrip.fcvtfi f64 d a
  | .fma f64 d a b => RoundTrip.fma f64 d a b
  | .padd d a b w => RoundTrip.padd d a b w
  | .psub d a b w => RoundTrip.psub d a b w
  | .pdiff d a b w => RoundTrip.pdiff d a b w
  | .paln d a b w => RoundTrip.paln d a b w
  | .pcls d a w => RoundTrip.pcls d a w
  | .br i => RoundTrip.br i
  | .bz d o => RoundTrip.bz d o
  | .bnz d o => RoundTrip.bnz d o
  | .call d o => RoundTrip.call d o
  | .jr d a => RoundTrip.jr d a
  | .loop d o => RoundTrip.loop d o
  | .guardNz a => RoundTrip.guardNz a
  | .guardZ a => RoundTrip.guardZ a
  | .setl d a b => RoundTrip.setl d a b
  | .vpart a => RoundTrip.vpart a
  | .msel b => RoundTrip.msel b
  | .span i => RoundTrip.span i
  | .ld d a b w => RoundTrip.ld d a b w
  | .ldn d a b w => RoundTrip.ldn d a b w
  | .st d a b w => RoundTrip.st d a b w
  | .ldo d a i => RoundTrip.ldo d a i
  | .sto d a i => RoundTrip.sto d a i
  | .vld d a b => RoundTrip.vld d a b
  | .vst d a b => RoundTrip.vst d a b
  | .vldx d a b => RoundTrip.vldx d a b
  | .vstx d a b => RoundTrip.vstx d a b
  | .vldt d a b => RoundTrip.vldt d a b
  | .vstt d a b => RoundTrip.vstt d a b
  | .vldb d a b => RoundTrip.vldb d a b
  | .vstb d a b => RoundTrip.vstb d a b
  | .qpop d a q => RoundTrip.qpop d a q
  | .qpush d a q => RoundTrip.qpush d a q
  | .qwait a q => RoundTrip.qwait a q
  | .qstat d q => RoundTrip.qstat d q
  | .ltset d a => RoundTrip.ltset d a
  | .ltget d a => RoundTrip.ltget d a
  | .turn lvl paths a b => RoundTrip.turn lvl paths a b
  | .turnt lvl paths a => RoundTrip.turnt lvl paths a
  | .tstat d a => RoundTrip.tstat d a
  | .aadd w32 fl dr a b => RoundTrip.aadd w32 fl dr a b
  | .aand w32 fl dr a b => RoundTrip.aand w32 fl dr a b
  | .aor w32 fl dr a b => RoundTrip.aor w32 fl dr a b
  | .axor w32 fl dr a b => RoundTrip.axor w32 fl dr a b
  | .amin w32 fl dr a b => RoundTrip.amin w32 fl dr a b
  | .amax w32 fl dr a b => RoundTrip.amax w32 fl dr a b
  | .aminn w32 fl dr a b => RoundTrip.aminn w32 fl dr a b
  | .amaxn w32 fl dr a b => RoundTrip.amaxn w32 fl dr a b
  | .axchg w32 fl dr a b => RoundTrip.axchg w32 fl dr a b
  | .acas w32 fl dr a b => RoundTrip.acas w32 fl dr a b
  | .afadd w32 fl dr a b => RoundTrip.afadd w32 fl dr a b
  | .ald w32 fl dr a => RoundTrip.ald w32 fl dr a
  | .ast w32 fl a b => RoundTrip.ast w32 fl a b
  | .mshape d a => RoundTrip.mshape d a
  | .mldw a => RoundTrip.mldw a
  | .mldws a => RoundTrip.mldws a
  | .mfwd a => RoundTrip.mfwd a
  | .mbwd a => RoundTrip.mbwd a
  | .mgrd a b => RoundTrip.mgrd a b
  | .mdrain a b => RoundTrip.mdrain a b
  | .mzero b => RoundTrip.mzero b
  | .mamax d => RoundTrip.mamax d
  | .mstat d => RoundTrip.mstat d
  | .xfer d a => RoundTrip.xfer d a
  | .halo d a => RoundTrip.halo d a
  | .xred d a => RoundTrip.xred d a
  | .xcast d a => RoundTrip.xcast d a
  | .xfar d a => RoundTrip.xfar d a
  | .xstat b => RoundTrip.xstat b
  | .cbarr a b => RoundTrip.cbarr a b
  | .cbwait b => RoundTrip.cbwait b
  | .ptest d => RoundTrip.ptest d
  | .trap b => RoundTrip.trap b
  | .tlbi a b => RoundTrip.tlbi a b
  | .wfe d => RoundTrip.wfe d
  | .spawn d a => RoundTrip.spawn d a
  | .slkill d a b => RoundTrip.slkill d a b
  | .resume a b => RoundTrip.resume a b
  | .brk b => RoundTrip.brk b
  | .smpl b => RoundTrip.smpl b
  | .dmark a => RoundTrip.dmark a
  | .vadd w => RoundTrip.vadd w
  | .vsub w => RoundTrip.vsub w
  | .vmul w => RoundTrip.vmul w
  | .vfma w => RoundTrip.vfma w
  | .vfms w => RoundTrip.vfms w
  | .vfnma w => RoundTrip.vfnma w
  | .vdiv w => RoundTrip.vdiv w
  | .vsqrt w => RoundTrip.vsqrt w
  | .vrsqrt w => RoundTrip.vrsqrt w
  | .vrcp w => RoundTrip.vrcp w
  | .vmin w => RoundTrip.vmin w
  | .vmax w => RoundTrip.vmax w
  | .vabs w => RoundTrip.vabs w
  | .vneg w => RoundTrip.vneg w
  | .vexp2 w => RoundTrip.vexp2 w
  | .vlog2 w => RoundTrip.vlog2 w
  | .vand w => RoundTrip.vand w
  | .vor w => RoundTrip.vor w
  | .vxor w => RoundTrip.vxor w
  | .vshl w => RoundTrip.vshl w
  | .vshr w => RoundTrip.vshr w
  | .vsar w => RoundTrip.vsar w
  | .vadds w => RoundTrip.vadds w
  | .vsubs w => RoundTrip.vsubs w
  | .vmulh w => RoundTrip.vmulh w
  | .vpopc w => RoundTrip.vpopc w
  | .vceq w => RoundTrip.vceq w
  | .vcne w => RoundTrip.vcne w
  | .vclt w => RoundTrip.vclt w
  | .vcle w => RoundTrip.vcle w
  | .vclass w => RoundTrip.vclass w
  | .vsel w => RoundTrip.vsel w
  | .vmov w => RoundTrip.vmov w
  | .vbcst w => RoundTrip.vbcst w
  | .vcvt w => RoundTrip.vcvt w
  | .vtag w => RoundTrip.vtag w
  | .vround w => RoundTrip.vround w
  | .vscale w => RoundTrip.vscale w
  | .vqnt w => RoundTrip.vqnt w
  | .vdqnt w => RoundTrip.vdqnt w
  | .vrsum w => RoundTrip.vrsum w
  | .vrmax w => RoundTrip.vrmax w
  | .vrmin w => RoundTrip.vrmin w
  | .vror w => RoundTrip.vror w
  | .vperm w => RoundTrip.vperm w
  | .vslup w => RoundTrip.vslup w
  | .vsldn w => RoundTrip.vsldn w
  | .viota w => RoundTrip.viota w
  | .vroll w => RoundTrip.vroll w
  | .vmpop w => RoundTrip.vmpop w
  | .vmfirst w => RoundTrip.vmfirst w
  | .vzip w => RoundTrip.vzip w
  | .vunzip w => RoundTrip.vunzip w
  | .vmand w => RoundTrip.vmand w
  | .vmor w => RoundTrip.vmor w
  | .vmxor w => RoundTrip.vmxor w
  | .vmnot w => RoundTrip.vmnot w
  | .resultLanding core ctx => RoundTrip.resultLanding core ctx
  | .vectorConvoyStart core ctx => RoundTrip.vectorConvoyStart core ctx
  | .vectorMemberStart core ctx => RoundTrip.vectorMemberStart core ctx
  | .vectorConvoyRetire core ctx => RoundTrip.vectorConvoyRetire core ctx
  | .exitComplete core ctx => RoundTrip.exitComplete core ctx
  | .spanClose core ctx => RoundTrip.spanClose core ctx
  | .spanOverrun core ctx => RoundTrip.spanOverrun core ctx
  | .turnStart core ctx => RoundTrip.turnStart core ctx
  | .turnGroupFlip core ctx => RoundTrip.turnGroupFlip core ctx
  | .turnComplete core ctx => RoundTrip.turnComplete core ctx
  | .matrixCommandStart core => RoundTrip.matrixCommandStart core
  | .drainSectorWrite core => RoundTrip.drainSectorWrite core
  | .matrixCommandComplete core => RoundTrip.matrixCommandComplete core
  | .parrTakesEffect core ctx => RoundTrip.parrTakesEffect core ctx
  | .coreArrived core => RoundTrip.coreArrived core
  | .cbArrivalEffect core ctx bar => RoundTrip.cbArrivalEffect core ctx bar
  | .cbGenerationComplete core bar => RoundTrip.cbGenerationComplete core bar
  | .descriptorStart core slot => RoundTrip.descriptorStart core slot
  | .descriptorBeat core slot => RoundTrip.descriptorBeat core slot
  | .descriptorLanded core slot => RoundTrip.descriptorLanded core slot
  | .xfarHandoff core slot => RoundTrip.xfarHandoff core slot
  | .farSourceRead core slot => RoundTrip.farSourceRead core slot
  | .fillLand core slot => RoundTrip.fillLand core slot
  | .queueDrainEntry core queue => RoundTrip.queueDrainEntry core queue
  | .systemTrapEntry sys => RoundTrip.systemTrapEntry sys
  | .mboxSubWrite v => RoundTrip.mboxSubWrite v
  | .mboxCmpWrite v => RoundTrip.mboxCmpWrite v
  | .graphSliceNode walk => RoundTrip.graphSliceNode walk
  | .graphCondNode walk => RoundTrip.graphCondNode walk
  | .graphLoopNode walk => RoundTrip.graphLoopNode walk
  | .hctlHaltRequest core ctx => RoundTrip.hctlHaltRequest core ctx
  | .hctlRelease core ctx => RoundTrip.hctlRelease core ctx
  | .haltLanding core ctx => RoundTrip.haltLanding core ctx
  | .svdataRead core => RoundTrip.svdataRead core
  | .svdataWrite core v => RoundTrip.svdataWrite core v
  | .registerWrite bar off v => RoundTrip.registerWrite bar off v
  | .ecccntWrite v => RoundTrip.ecccntWrite v
  | .hostWindowRead off len => RoundTrip.hostWindowRead off len
  | .hostWindowWrite off len v => RoundTrip.hostWindowWrite off len v
  | .scUnknownCommand v => RoundTrip.scUnknownCommand v
  | .slotTableWrite port entry v => RoundTrip.slotTableWrite port entry v
  | .flitTransmit port => RoundTrip.flitTransmit port
  | .flitReceive port flit => RoundTrip.flitReceive port flit
  | .powerWarn power temp => RoundTrip.powerWarn power temp
  | .powerTrip power temp => RoundTrip.powerTrip power temp
  | .patrolScrub sector => RoundTrip.patrolScrub sector
  | .notAnInstruction w => RoundTrip.notAnInstruction w
  | .nop => RoundTrip.nop
  | .exit => RoundTrip.exit
  | .vrel => RoundTrip.vrel
  | .lfence => RoundTrip.lfence
  | .twait => RoundTrip.twait
  | .mswap => RoundTrip.mswap
  | .mwait => RoundTrip.mwait
  | .parr => RoundTrip.parr
  | .pwait => RoundTrip.pwait
  | .yield => RoundTrip.yield
  | .rft => RoundTrip.rft
  | .straggler => RoundTrip.straggler
  | .phaseChange => RoundTrip.phaseChange
  | .budgetExhausted => RoundTrip.budgetExhausted
  | .preemption => RoundTrip.preemption
  | .sliceStart => RoundTrip.sliceStart
  | .sliceResume => RoundTrip.sliceResume
  | .sliceCompletion => RoundTrip.sliceCompletion
  | .photonicWakeup => RoundTrip.photonicWakeup
  | .trapRecordEnqueue => RoundTrip.trapRecordEnqueue
  | .submitSlice => RoundTrip.submitSlice
  | .submitGraph => RoundTrip.submitGraph
  | .submitKill => RoundTrip.submitKill
  | .submitIgnored => RoundTrip.submitIgnored
  | .recordWrite => RoundTrip.recordWrite
  | .traceRecord => RoundTrip.traceRecord
  | .tbwpWrite => RoundTrip.tbwpWrite
  | .panicFreeze => RoundTrip.panicFreeze
  | .moduleReset => RoundTrip.moduleReset
  | .powerGood => RoundTrip.powerGood
  | .firmwareVerify => RoundTrip.firmwareVerify
  | .memoryTraining => RoundTrip.memoryTraining
  | .portTraining => RoundTrip.portTraining
  | .scerathLoad => RoundTrip.scerathLoad
  | .bootGo => RoundTrip.bootGo
  | .scReadPublicKey => RoundTrip.scReadPublicKey
  | .scAttest => RoundTrip.scAttest
  | .scReadSignatureIndex => RoundTrip.scReadSignatureIndex
  | .scCommandDone => RoundTrip.scCommandDone
  | .rotationBoundary => RoundTrip.rotationBoundary
  | .slotBoundary => RoundTrip.slotBoundary

/-- Settles O1, instruction by instruction. -/
theorem encodeThenDecode : Obligations.EncodeThenDecode := roundTrip

/-! ## From the word to the instruction and back -/

/-- What a decoder answers for the fields of a word, if it answers an instruction, is well formed and has this word. -/
def Encoded (op : BitVec 7) (d a b : Reg) (f : BitVec 4) (r : Except Reject Instr) : Prop :=
  ∀ i, r = .ok i → WellFormed i = true ∧ encode i = packR op d a b f

/-- A subfunction field is one of sixteen. -/
theorem subfunction_cases (f : BitVec 4) : f = 0 ∨ f = 1 ∨ f = 2 ∨ f = 3 ∨ f = 4 ∨ f = 5 ∨ f = 6 ∨ f = 7 ∨ f = 8 ∨ f = 9
    ∨ f = 10 ∨ f = 11 ∨ f = 12 ∨ f = 13 ∨ f = 14 ∨ f = 15 := by
  revert f
  decide

/-- Two fields that stand side by side, put together, are one field. -/
theorem join_parts {l : Nat} (x : BitVec l) (p m n : Nat) :
    x.extractLsb' (p + n) m ++ x.extractLsb' p n = x.extractLsb' p (m + n) := by
  apply BitVec.eq_of_getLsbD_eq
  intro k hk
  simp only [BitVec.getLsbD_append, BitVec.getLsbD_extractLsb']
  by_cases h : k < n
  · simp [h, hk]
  · simp [h, hk, show p + n + (k - n) = p + k by omega, show k - n < m by omega]

section tables
variable (op : BitVec 7) (d a b : Reg) (f : BitVec 4)

theorem encoded_ok (i : Instr) : Encoded op d a b f (.ok i) ↔ WellFormed i = true ∧ encode i = packR op d a b f := by
  simp [Encoded]

theorem encoded_error (r : Reject) : Encoded op d a b f (.error r) ↔ True := by
  simp [Encoded]

/-- A field that must be zero is zero in the word (R37). -/
theorem encoded_zero (x : Reg) (k : Except Reject Instr) : Encoded op d a b f (zero x k) ↔ (x = 0 → Encoded op d a b f k) := by
  unfold zero
  split
  next h => simp only [h, true_implies]
  next h => simp only [h, encoded_error, false_implies]

/-- A width code that an instruction takes is not the reserved one (R52). -/
theorem encoded_widthOk (w : BitVec 4) (i : Instr) :
    Encoded op d a b f (widthOk w i) ↔ (w ≠ 0xF → WellFormed i = true ∧ encode i = packR op d a b f) := by
  unfold widthOk
  split
  next h => simp only [h, encoded_error, ne_eq, not_true_eq_false, false_implies]
  next h => simp only [h, encoded_ok, ne_eq, not_false_eq_true, true_implies]

theorem encoded_alu : Encoded 0x01 d a b f (decodeAlu f.toNat d a b) := by
  intro i h
  rcases subfunction_cases f with rfl | rfl | rfl | rfl | rfl | rfl | rfl | rfl | rfl | rfl | rfl | rfl | rfl | rfl | rfl | rfl <;>
    cases h <;> exact ⟨rfl, rfl⟩

theorem encoded_mulDiv : Encoded 0x02 d a b f (decodeMulDiv f.toNat d a b) := by
  intro i h
  rcases subfunction_cases f with rfl | rfl | rfl | rfl | rfl | rfl | rfl | rfl | rfl | rfl | rfl | rfl | rfl | rfl | rfl | rfl <;>
    cases h <;> exact ⟨rfl, rfl⟩

theorem encoded_cmp : Encoded 0x03 d a b f (decodeCmp f.toNat d a b) := by
  intro i h
  rcases subfunction_cases f with rfl | rfl | rfl | rfl | rfl | rfl | rfl | rfl | rfl | rfl | rfl | rfl | rfl | rfl | rfl | rfl <;>
    cases h <;> exact ⟨rfl, rfl⟩

theorem encoded_bit : Encoded 0x04 d a b f (decodeBit f.toNat d a b) := by
  rcases subfunction_cases f with rfl | rfl | rfl | rfl | rfl | rfl | rfl | rfl | rfl | rfl | rfl | rfl | rfl | rfl | rfl | rfl <;>
    simp only [BitVec.reduceToNat, decodeBit, encoded_zero, encoded_ok, encoded_error] <;> intros <;> subst_vars <;> exact ⟨rfl, rfl⟩

theorem encoded_ctl : Encoded 0x1E d a b f (decodeCtl f.toNat d a b) := by
  rcases subfunction_cases f with rfl | rfl | rfl | rfl | rfl | rfl | rfl | rfl | rfl | rfl | rfl | rfl | rfl | rfl | rfl | rfl <;>
    simp only [BitVec.reduceToNat, decodeCtl, encoded_zero, encoded_ok, encoded_error] <;> intros <;> subst_vars <;> exact ⟨rfl, rfl⟩

theorem encoded_vmem : Encoded 0x25 d a b f (decodeVMem f.toNat d a b) := by
  intro i h
  rcases subfunction_cases f with rfl | rfl | rfl | rfl | rfl | rfl | rfl | rfl | rfl | rfl | rfl | rfl | rfl | rfl | rfl | rfl <;>
    cases h <;> exact ⟨rfl, rfl⟩

theorem encoded_queue : Encoded 0x26 d a b f (decodeQueue f.toNat d a b) := by
  rcases subfunction_cases f with rfl | rfl | rfl | rfl | rfl | rfl | rfl | rfl | rfl | rfl | rfl | rfl | rfl | rfl | rfl | rfl <;>
    simp only [BitVec.reduceToNat, decodeQueue, encoded_zero, encoded_ok, encoded_error] <;> intros <;> subst_vars <;> exact ⟨rfl, rfl⟩

theorem encoded_layout : Encoded 0x27 d a b f (decodeLayout f.toNat d a b) := by
  rcases subfunction_cases f with rfl | rfl | rfl | rfl | rfl | rfl | rfl | rfl | rfl | rfl | rfl | rfl | rfl | rfl | rfl | rfl <;>
    simp only [BitVec.reduceToNat, decodeLayout, encoded_zero, encoded_ok, encoded_error] <;> intros <;> subst_vars <;> exact ⟨rfl, rfl⟩

theorem encoded_matrix : Encoded 0x30 d a b f (decodeMatrix f.toNat d a b) := by
  rcases subfunction_cases f with rfl | rfl | rfl | rfl | rfl | rfl | rfl | rfl | rfl | rfl | rfl | rfl | rfl | rfl | rfl | rfl <;>
    simp only [BitVec.reduceToNat, decodeMatrix, encoded_zero, encoded_ok, encoded_error] <;> intros <;> subst_vars <;> exact ⟨rfl, rfl⟩

theorem encoded_exch : Encoded 0x38 d a b f (decodeExch f.toNat d a b) := by
  rcases subfunction_cases f with rfl | rfl | rfl | rfl | rfl | rfl | rfl | rfl | rfl | rfl | rfl | rfl | rfl | rfl | rfl | rfl <;>
    simp only [BitVec.reduceToNat, decodeExch, encoded_zero, encoded_ok, encoded_error] <;> intros <;> subst_vars <;> exact ⟨rfl, rfl⟩

theorem encoded_phase : Encoded 0x3C d a b f (decodePhase f.toNat d a b) := by
  rcases subfunction_cases f with rfl | rfl | rfl | rfl | rfl | rfl | rfl | rfl | rfl | rfl | rfl | rfl | rfl | rfl | rfl | rfl <;>
    simp only [BitVec.reduceToNat, decodePhase, encoded_zero, encoded_ok, encoded_error] <;> intros <;> subst_vars <;> exact ⟨rfl, rfl⟩

theorem encoded_sys : Encoded 0x3D d a b f (decodeSys f.toNat d a b) := by
  rcases subfunction_cases f with rfl | rfl | rfl | rfl | rfl | rfl | rfl | rfl | rfl | rfl | rfl | rfl | rfl | rfl | rfl | rfl <;>
    simp only [BitVec.reduceToNat, decodeSys, encoded_zero, encoded_ok, encoded_error] <;> intros <;> subst_vars <;> exact ⟨rfl, rfl⟩

theorem encoded_dbg : Encoded 0x3E d a b f (decodeDbg f.toNat d a b) := by
  rcases subfunction_cases f with rfl | rfl | rfl | rfl | rfl | rfl | rfl | rfl | rfl | rfl | rfl | rfl | rfl | rfl | rfl | rfl <;>
    simp only [BitVec.reduceToNat, decodeDbg, encoded_zero, encoded_ok, encoded_error] <;> intros <;> subst_vars <;> exact ⟨rfl, rfl⟩

theorem encoded_fp (k : Bool) : Encoded (if k then 0x11 else 0x10) d a b f (decodeFp k f.toNat d a b) := by
  rcases subfunction_cases f with rfl | rfl | rfl | rfl | rfl | rfl | rfl | rfl | rfl | rfl | rfl | rfl | rfl | rfl | rfl | rfl <;>
    simp only [BitVec.reduceToNat, decodeFp, encoded_zero, encoded_ok, encoded_error] <;> intros <;> subst_vars <;> exact ⟨rfl, rfl⟩

/-- The level and the paths of a turnaround fill the D field. -/
theorem encoded_turn : Encoded 0x28 d a b f (decodeTurn f.toNat d a b) := by
  have hd : d.extractLsb' 4 3 ++ d.extractLsb' 0 4 = d := (join_parts d 0 3 4).trans BitVec.extractLsb'_eq_self
  rcases subfunction_cases f with rfl | rfl | rfl | rfl | rfl | rfl | rfl | rfl | rfl | rfl | rfl | rfl | rfl | rfl | rfl | rfl <;>
    simp only [BitVec.reduceToNat, decodeTurn, encoded_zero, encoded_ok, encoded_error] <;> intros <;> subst_vars <;>
    refine ⟨rfl, ?_⟩ <;> simp only [encode, hd]

/-- The flavour and the result register of an atomic fill the D field. -/
theorem encoded_atom (k : Bool) : Encoded (if k then 0x2D else 0x2C) d a b f (decodeAtom k f.toNat d a b) := by
  have hd : d.extractLsb' 5 2 ++ d.extractLsb' 0 5 = d := (join_parts d 0 2 5).trans BitVec.extractLsb'_eq_self
  rcases subfunction_cases f with rfl | rfl | rfl | rfl | rfl | rfl | rfl | rfl | rfl | rfl | rfl | rfl | rfl | rfl | rfl | rfl
  case inr.inr.inr.inr.inr.inr.inr.inr.inr.inr.inr.inr.inl =>
    intro i h
    simp only [BitVec.reduceToNat, decodeAtom] at h
    split at h
    next h0 =>
      cases h
      refine ⟨rfl, ?_⟩
      rw [h0] at hd
      simp only [encode, hd]
    next => cases h
  all_goals
    simp only [BitVec.reduceToNat, decodeAtom, encoded_zero, encoded_ok, encoded_error] <;> intros <;> subst_vars <;>
      refine ⟨rfl, ?_⟩ <;> simp only [encode, hd]

/-- The opcode of a vector instruction is the one that it is decoded from. -/
theorem vecOf_some {n : Nat} {w : VWord} {i : Instr} (h : vecOf n w = some i) : i.vec = some (n, w) ∧ encode i = packV (BitVec.ofNat 7 n) w := by
  unfold vecOf at h
  split at h <;> cases h <;> exact ⟨rfl, rfl⟩

theorem encoded_vec : Encoded op d a b f (decodeVec op.toNat d a b f) := by
  intro i h
  unfold decodeVec at h
  dsimp only at h
  split at h
  next => cases h
  next hv =>
    split at h
    next hform =>
      cases h
      obtain ⟨hvec, henc⟩ := vecOf_some hv
      have hf : BitVec.ofBool (f.getLsbD 3) ++ f.extractLsb' 0 3 = f := by
        rcases subfunction_cases f with rfl | rfl | rfl | rfl | rfl | rfl | rfl | rfl | rfl | rfl | rfl | rfl | rfl | rfl | rfl | rfl <;> rfl
      refine ⟨by simp only [WellFormed, hvec, hform], ?_⟩
      rw [henc, BitVec.ofNat_toNat, BitVec.setWidth_eq]
      simp only [packV, packR, hf]
    next => cases h

/-- An 11-bit field is the B field and the F field. -/
theorem packI_eq (op : BitVec 7) (d a b : Reg) (f : BitVec 4) : packI op d a (b ++ f) = packR op d a b f := rfl

/-- An 18-bit field is the A field, the B field and the F field. -/
theorem packL_eq (op : BitVec 7) (d a b : Reg) (f : BitVec 4) : packL op d (a ++ (b ++ f)) = packR op d a b f := rfl

theorem opcode_of_toNat {op : BitVec 7} {n : Nat} (h : op.toNat = n) : op = BitVec.ofNat 7 n := by
  rw [← h, BitVec.ofNat_toNat, BitVec.setWidth_eq]

theorem encoded_fields : Encoded op d a b f (decodeFields op.toNat d a b f) := by
  unfold decodeFields
  split
  next h => obtain rfl := opcode_of_toNat h; exact encoded_alu d a b f
  next h => obtain rfl := opcode_of_toNat h; exact encoded_mulDiv d a b f
  next h => obtain rfl := opcode_of_toNat h; exact encoded_cmp d a b f
  next h => obtain rfl := opcode_of_toNat h; exact encoded_bit d a b f
  next h => obtain rfl := opcode_of_toNat h; exact (encoded_ok ..).mpr ⟨rfl, rfl⟩
  next h => obtain rfl := opcode_of_toNat h; exact (encoded_ok ..).mpr ⟨rfl, rfl⟩
  next h => obtain rfl := opcode_of_toNat h; exact (encoded_ok ..).mpr ⟨rfl, rfl⟩
  next h => obtain rfl := opcode_of_toNat h; exact (encoded_ok ..).mpr ⟨rfl, rfl⟩
  next h => obtain rfl := opcode_of_toNat h; exact (encoded_ok ..).mpr ⟨rfl, rfl⟩
  next h => obtain rfl := opcode_of_toNat h; exact (encoded_ok ..).mpr ⟨rfl, rfl⟩
  next h => obtain rfl := opcode_of_toNat h; exact (encoded_ok ..).mpr ⟨rfl, rfl⟩
  next h => obtain rfl := opcode_of_toNat h; exact (encoded_ok ..).mpr ⟨rfl, rfl⟩
  next h => obtain rfl := opcode_of_toNat h; exact (encoded_ok ..).mpr ⟨rfl, rfl⟩
  next h => obtain rfl := opcode_of_toNat h; exact (encoded_zero ..).mpr (by rintro rfl; exact (encoded_ok ..).mpr ⟨rfl, rfl⟩)
  next h => obtain rfl := opcode_of_toNat h; exact (encoded_zero ..).mpr (by rintro rfl; exact (encoded_ok ..).mpr ⟨rfl, rfl⟩)
  next h => obtain rfl := opcode_of_toNat h; exact encoded_fp d a b f false
  next h => obtain rfl := opcode_of_toNat h; exact encoded_fp d a b f true
  next h => obtain rfl := opcode_of_toNat h; exact (encoded_widthOk ..).mpr fun hw => ⟨by simpa [WellFormed, Instr.vec, Instr.width] using hw, rfl⟩
  next h => obtain rfl := opcode_of_toNat h; exact (encoded_widthOk ..).mpr fun hw => ⟨by simpa [WellFormed, Instr.vec, Instr.width] using hw, rfl⟩
  next h => obtain rfl := opcode_of_toNat h; exact (encoded_widthOk ..).mpr fun hw => ⟨by simpa [WellFormed, Instr.vec, Instr.width] using hw, rfl⟩
  next h => obtain rfl := opcode_of_toNat h; exact (encoded_widthOk ..).mpr fun hw => ⟨by simpa [WellFormed, Instr.vec, Instr.width] using hw, rfl⟩
  next h => obtain rfl := opcode_of_toNat h; exact (encoded_zero ..).mpr (by rintro rfl; exact (encoded_widthOk ..).mpr fun hw => ⟨by simpa [WellFormed, Instr.vec, Instr.width] using hw, rfl⟩)
  next h => obtain rfl := opcode_of_toNat h; exact (encoded_zero ..).mpr (by rintro rfl; exact (encoded_zero ..).mpr (by rintro rfl; exact (encoded_ok ..).mpr ⟨rfl, rfl⟩))
  next h => obtain rfl := opcode_of_toNat h; exact (encoded_zero ..).mpr (by rintro rfl; exact (encoded_ok ..).mpr ⟨rfl, rfl⟩)
  next h => obtain rfl := opcode_of_toNat h; exact (encoded_ok ..).mpr ⟨rfl, rfl⟩
  next h => obtain rfl := opcode_of_toNat h; exact (encoded_ok ..).mpr ⟨rfl, rfl⟩
  next h => obtain rfl := opcode_of_toNat h; exact (encoded_ok ..).mpr ⟨rfl, rfl⟩
  next h =>
    obtain rfl := opcode_of_toNat h
    split
    next hf =>
      obtain rfl := hf
      exact (encoded_zero ..).mpr (by rintro rfl; exact (encoded_ok ..).mpr ⟨rfl, rfl⟩)
    next => exact (encoded_error ..).mpr trivial
  next h => obtain rfl := opcode_of_toNat h; exact (encoded_ok ..).mpr ⟨rfl, rfl⟩
  next h => obtain rfl := opcode_of_toNat h; exact encoded_ctl d a b f
  next h => obtain rfl := opcode_of_toNat h; exact (encoded_zero ..).mpr (by rintro rfl; exact (encoded_zero ..).mpr (by rintro rfl; exact (encoded_ok ..).mpr ⟨rfl, rfl⟩))
  next h => obtain rfl := opcode_of_toNat h; exact (encoded_widthOk ..).mpr fun hw => ⟨by simpa [WellFormed, Instr.vec, Instr.width] using hw, rfl⟩
  next h => obtain rfl := opcode_of_toNat h; exact (encoded_widthOk ..).mpr fun hw => ⟨by simpa [WellFormed, Instr.vec, Instr.width] using hw, rfl⟩
  next h => obtain rfl := opcode_of_toNat h; exact (encoded_widthOk ..).mpr fun hw => ⟨by simpa [WellFormed, Instr.vec, Instr.width] using hw, rfl⟩
  next h => obtain rfl := opcode_of_toNat h; exact (encoded_ok ..).mpr ⟨rfl, rfl⟩
  next h => obtain rfl := opcode_of_toNat h; exact (encoded_ok ..).mpr ⟨rfl, rfl⟩
  next h => obtain rfl := opcode_of_toNat h; exact encoded_vmem d a b f
  next h => obtain rfl := opcode_of_toNat h; exact encoded_queue d a b f
  next h => obtain rfl := opcode_of_toNat h; exact encoded_layout d a b f
  next h => obtain rfl := opcode_of_toNat h; exact encoded_turn d a b f
  next h => obtain rfl := opcode_of_toNat h; exact encoded_atom d a b f false
  next h => obtain rfl := opcode_of_toNat h; exact encoded_atom d a b f true
  next h => obtain rfl := opcode_of_toNat h; exact encoded_matrix d a b f
  next h => obtain rfl := opcode_of_toNat h; exact encoded_exch d a b f
  next h => obtain rfl := opcode_of_toNat h; exact encoded_phase d a b f
  next h => obtain rfl := opcode_of_toNat h; exact encoded_sys d a b f
  next h => obtain rfl := opcode_of_toNat h; exact encoded_dbg d a b f
  next => exact encoded_vec op d a b f
end tables

/-- A word is its fields put together (R35). -/
theorem word_fields (w : IWord) : w.op ++ (w.d ++ (w.a ++ (w.b ++ w.f))) = w := by
  have hbf : w.b ++ w.f = w.extractLsb' 0 11 := join_parts w 0 7 4
  have habf : w.a ++ w.extractLsb' 0 11 = w.extractLsb' 0 18 := join_parts w 0 7 11
  have hdabf : w.d ++ w.extractLsb' 0 18 = w.extractLsb' 0 25 := join_parts w 0 7 18
  rw [hbf, habf, hdabf]
  exact (join_parts w 0 7 25).trans BitVec.extractLsb'_eq_self

/-- Settles O2: the decoder follows its tables, and every row of them is the word that the encoder makes. -/
theorem decodeThenEncode : Obligations.DecodeThenEncode := by
  intro i w h
  obtain ⟨hwf, henc⟩ := encoded_fields w.op w.d w.a w.b w.f i h
  exact ⟨hwf, henc.trans (congrArg some (word_fields w))⟩

end Sys2Proof.Proofs
end

section
/-! The order of moves (R34, R111, log 1), the register file (R55) and the device after reset. -/

namespace Sys2Proof.Proofs

open Sys2Proof Sys2Proof.Machine Sys2Proof.Safety Sys2Proof.Claims Sys2Proof.Laws

/-- Settles O3: the six words are decoded by evaluation. -/
theorem decodedWords : Obligations.DecodedWords := by
  refine ⟨?_, ?_, ?_, ?_, ?_, ?_⟩ <;> rfl

theorem fetchInstr_of_ok {w : IWord} {i : Instr} (h : decode w = .ok i) : fetchInstr w = i := by
  simp only [fetchInstr, h]

theorem fetchInstr_of_error {w : IWord} {e : Reject} (h : decode w = .error e) : fetchInstr w = .notAnInstruction w := by
  simp only [fetchInstr, h]

/-- The word that an issue takes up stands at the pc of its context in the store of its core. -/
theorem nextWord_atCtx (s : State) (t core ctx : Nat) :
    (s.atCtx t core ctx).nextWord = SMap.get 0 (s.core core).ist ((s.ctx core ctx).pc / 32) := rfl

theorem step_issue {s : State} {t core ctx : Nat} (h : s.nextMove = some (t, .issue core ctx)) :
    step s = exec (fetchInstr (SMap.get 0 (s.core core).ist ((s.ctx core ctx).pc / 32)))
      { s with now := Nat.max s.now t, focusCore := core, focusCtx := ctx } := by
  simp only [step, h, nextWord_atCtx]
  rfl

/-- Settles O4: the step is the case of its move. -/
theorem stepRunsMove : Obligations.StepRunsMove := by
  intro s t
  refine ⟨fun core ctx i h hi => ?_, fun core ctx e h he => ?_, fun i h => ?_, fun h => ?_, fun h => ?_⟩
  · rw [step_issue h, fetchInstr_of_ok hi]
  · rw [step_issue h, fetchInstr_of_error he]
  · simp only [step, h, State.at]
  · simp only [step, h, State.at]
  · simp only [step, h]

/-- Settles O6, from the laws of the register file. -/
theorem registerFile : Obligations.RegisterFile := fun c _ _ x =>
  ⟨reg_zero c, setReg_zero c x, fun h => reg_setReg_self c h x, fun h => reg_setReg_ne c h x⟩

/-- Settles O58: each field is the value of its declaration. -/
theorem resetValues : Obligations.ResetValues := by
  refine ⟨?_, ?_, ?_, ?_, ?_, ?_, ?_, ?_⟩ <;> rfl

/-- Settles O59: after reset every memory is empty. -/
theorem resetMemoryOk : Obligations.ResetMemoryOk where
  loc := by intro p hp; cases hp
  phys := wf_nil
  host := wf_nil
  peer := wf_nil
  nvme := wf_nil
  buf := wf_nil
  tables := wf_nil
  latched := by intro r hr; cases hr

end Sys2Proof.Proofs
end

section
/-! The scalar instructions of one cycle (R97 to R102, R106, R107, R223, R236). The value of each as R99 to R107 write it is
a fact about words; that nothing else changes is the same for all of them. -/

namespace Sys2Proof.Proofs

open Sys2Proof Sys2Proof.Machine Sys2Proof.Safety Sys2Proof.Claims Sys2Proof.Laws

/-! ## The operations on words, written out -/

theorem add_eq_ofNat (a b : Word) : a + b = BitVec.ofNat 64 (a.toNat + b.toNat) := by
  apply BitVec.eq_of_toNat_eq
  simp

theorem sub_eq_ofInt (a b : Word) : a - b = BitVec.ofInt 64 ((a.toNat : Int) - b.toNat) := by
  rw [BitVec.sub_eq_add_neg, Int.sub_eq_add_neg, BitVec.ofInt_add, BitVec.ofInt_neg]
  simp

theorem wShl_eq (a b : Word) : wShl a b = if b.toNat < 64 then BitVec.ofNat 64 (a.toNat * 2 ^ b.toNat) else 0 := by
  unfold wShl
  by_cases h : b.toNat < 64
  · rw [if_pos h, if_neg (by omega)]
    apply BitVec.eq_of_toNat_eq
    simp [Nat.shiftLeft_eq]
  · rw [if_neg h, if_pos (by omega)]

theorem wShr_eq (a b : Word) : wShr a b = if b.toNat < 64 then BitVec.ofNat 64 (a.toNat / 2 ^ b.toNat) else 0 := by
  unfold wShr
  by_cases h : b.toNat < 64
  · rw [if_pos h, if_neg (by omega)]
    apply BitVec.eq_of_toNat_eq
    simp only [BitVec.toNat_ushiftRight, BitVec.toNat_ofNat, Nat.shiftRight_eq_div_pow]
    exact (Nat.mod_eq_of_lt (lt_of_le_of_lt (Nat.div_le_self _ _) a.isLt)).symm
  · rw [if_neg h, if_pos (by omega)]

theorem wSar_eq (a b : Word) : wSar a b =
    if b.toNat < 64 then BitVec.ofInt 64 (a.toInt / 2 ^ b.toNat) else if a.toInt < 0 then -1 else 0 := by
  unfold wSar
  by_cases h : b.toNat < 64
  · rw [if_pos h, if_neg (by omega), BitVec.sshiftRight, Int.shiftRight_eq_div_pow]
    norm_num
  · rw [if_neg h, if_pos (by omega), BitVec.msb_eq_toInt]
    simp only [decide_eq_true_eq]
    rfl

theorem wMin_eq (a b : Word) : wMin a b = BitVec.ofInt 64 (min a.toInt b.toInt) := by
  rw [wMin, BitVec.sle, min_def]
  by_cases h : a.toInt ≤ b.toInt <;> simp [h]

theorem wMax_eq (a b : Word) : wMax a b = BitVec.ofInt 64 (max a.toInt b.toInt) := by
  rw [wMax, BitVec.sle, max_def]
  by_cases h : a.toInt ≤ b.toInt <;> simp [h]

theorem wMinn_eq (a b : Word) : wMinn a b = BitVec.ofNat 64 (min a.toNat b.toNat) := by
  rw [wMinn, BitVec.ule, min_def]
  by_cases h : a.toNat ≤ b.toNat <;> simp [h]

theorem wMaxn_eq (a b : Word) : wMaxn a b = BitVec.ofNat 64 (max a.toNat b.toNat) := by
  rw [wMaxn, BitVec.ule, max_def]
  by_cases h : a.toNat ≤ b.toNat <;> simp [h]

theorem toWord_eq (b : Bool) (p : Prop) [Decidable p] (h : b = true ↔ p) : toWord b = bit p := by
  simp [toWord, bit, h]

theorem toNat_ne_zero (a : Word) : a ≠ 0 ↔ ¬ a.toNat = 0 := not_congr (BitVec.toNat_eq (x := a) (y := 0))

/-- The first number below n + 1 with a property is 0 or one more than the first that has it one later. -/
theorem find_range_succ (p : Nat → Bool) (n : Nat) :
    ((List.range (n + 1)).find? p).getD (n + 1) = if p 0 then 0 else 1 + ((List.range n).find? fun k => p (k + 1)).getD n := by
  rw [List.range_succ_eq_map, List.find?_cons, List.find?_map]
  have e : p ∘ Nat.succ = fun k => p (k + 1) := rfl
  rw [e]
  cases p 0 with
  | true => rfl
  | false =>
    cases (List.range n).find? fun k => p (k + 1) with
    | none => exact Nat.add_comm n 1
    | some k => exact Nat.add_comm k 1

theorem clzGo_eq (a : Word) (n : Nat) : clzGo n a = ((List.range n).find? fun k => a.getLsbD (n - 1 - k)).getD n := by
  induction n with
  | zero => rfl
  | succ n ih =>
    simp only [clzGo, find_range_succ, ih, Nat.add_sub_cancel, Nat.sub_zero, Nat.sub_sub, Nat.add_comm 1]

theorem ctzGo_eq (a : Word) {n : Nat} (h : n ≤ 64) : ctzGo n a = ((List.range n).find? fun k => a.getLsbD (64 - n + k)).getD n := by
  induction n with
  | zero => rfl
  | succ n ih =>
    have e : ∀ k, 64 - (n + 1) + (k + 1) = 64 - n + k := by omega
    have e0 : 64 - (n + 1) + 0 = 63 - n := by omega
    simp only [ctzGo, find_range_succ, ih (by omega), e, e0]

theorem popcount_eq (n : Nat) : ∀ x, popcount n x = ((List.range n).filter x.testBit).length := by
  induction n with
  | zero => intro x; rfl
  | succ n ih =>
    intro x
    have e : x.testBit ∘ Nat.succ = (x / 2).testBit := by
      funext k
      exact Nat.testBit_succ ..
    rw [popcount, List.range_succ_eq_map, List.filter_cons, ih, List.filter_map, e, Nat.testBit_zero]
    by_cases h : x % 2 = 1
    · simp [h, Nat.add_comm]
    · simp [show x % 2 = 0 by omega]

theorem wBext_eq (a b : Word) : wBext a b = BitVec.ofNat 64 (a.toNat / 2 ^ (b.toNat % 64) % 2 ^ (b.toNat / 2 ^ 8 % 64 + 1)) := by
  have h1 : bitPos b = b.toNat % 64 := by simp [bitPos, field]
  have h2 : bitLen b = b.toNat / 2 ^ 8 % 64 + 1 := by simp [bitLen, field, Nat.shiftRight_eq_div_pow]
  rw [← h1, ← h2]
  apply BitVec.eq_of_getLsbD_eq
  intro k hk
  simp only [wBext, BitVec.getLsbD_and, BitVec.getLsbD_ushiftRight, BitVec.getLsbD_ofNat, hk, decide_true, Bool.true_and, Nat.testBit_two_pow_sub_one, Nat.testBit_mod_two_pow, Nat.testBit_div_two_pow]
  rw [Bool.and_comm, Nat.add_comm]; rfl

theorem lis_eq (a : Word) (i : BitVec 18) : (a <<< 18) ||| i.setWidth 64 = BitVec.ofNat 64 (a.toNat * 2 ^ 18 + i.toNat) := by
  apply BitVec.eq_of_getLsbD_eq
  intro k hk
  rw [Nat.mul_comm]
  simp only [BitVec.getLsbD_or, BitVec.getLsbD_shiftLeft, BitVec.getLsbD_setWidth, BitVec.getLsbD_ofNat, hk, decide_true, Bool.true_and, Nat.testBit_two_pow_mul_add _ i.isLt]
  by_cases h : k < 18
  · simp [h, BitVec.getLsbD]
  · simp [h, BitVec.getLsbD]; exact fun h' => absurd (BitVec.lt_of_getLsbD h') h

theorem imm11_eq (i : BitVec 11) : imm11 i = BitVec.ofInt 64 i.toInt := rfl

theorem addImm_eq (a : Word) (i : BitVec 11) : a + imm11 i = BitVec.ofInt 64 (a.toInt + i.toInt) := by
  rw [imm11_eq, BitVec.ofInt_add, BitVec.ofInt_toInt]

theorem immCount (i : BitVec 11) : (i.setWidth 64).toNat = i.toNat :=
  (BitVec.toNat_setWidth ..).trans (Nat.mod_eq_of_lt (by omega))

theorem wShl_imm (a : Word) (i : BitVec 11) : wShl a (i.setWidth 64) = a <<< i.toNat := by
  rw [wShl, immCount]
  split
  next h => exact (BitVec.shiftLeft_eq_zero h).symm
  next => rfl

theorem wShr_imm (a : Word) (i : BitVec 11) : wShr a (i.setWidth 64) = a >>> i.toNat := by
  rw [wShr, immCount]
  split
  next h => exact (BitVec.ushiftRight_eq_zero h).symm
  next => rfl

theorem wSar_imm (a : Word) (i : BitVec 11) : wSar a (i.setWidth 64) = a.sshiftRight i.toNat := by
  rw [wSar, immCount]
  split
  next h =>
    apply BitVec.eq_of_getLsbD_eq
    intro k hk
    rw [BitVec.getLsbD_sshiftRight, if_neg (show ¬ i.toNat + k < 64 by omega)]
    cases a.msb with
    | false => simp [hk]
    | true =>
      rw [if_pos rfl, BitVec.getLsbD_allOnes]
      simp [hk]
  next => rfl


/-! ## One result of latency 1 -/

/-- Instruction i, taken up in s1, computes x for g[d] in one cycle. -/
def Computes (i : Instr) (s s1 : State) (d : Reg) (x : Word) : Prop :=
  ∃ f : State → Word, exec i s = scalarResult i d 1 f s ∧ f s1 = x

theorem fronted_ptest {s s1 : State} {v : Cv} (f : Fronted s v s1) : s1.ptest = s.ptest := by
  have hbar : s1.curCore.barWord s.focusCtx = s.curCore.barWord s.focusCtx := f.core (·.barWord s.focusCtx) fun _ _ _ => rfl
  have harr : s1.curCore.arrived = s.curCore.arrived := f.core (·.arrived) fun _ _ _ => rfl
  have hview : s1.cur.view = s.cur.view := f.fld (·.view) fun _ => rfl
  simp only [State.ptest, f.focusCtx, hbar, harr, hview, f.st, f.slice]

/-- The words of the table of R99 to R107 compute the value that it gives. -/
theorem oneCycle_computes {i : Instr} {s s1 : State} {v : Cv} {d : Reg} {x : Word} (f : Fronted s v s1)
    (h : oneCycle i s = some (d, x)) : Computes i s s1 d x := by
  unfold oneCycle at h
  dsimp only at h
  split at h
  next => cases h; exact ⟨_, rfl, by simp only [f.reg]; exact add_eq_ofNat _ _⟩
  next => cases h; exact ⟨_, rfl, by simp only [f.reg]; exact sub_eq_ofInt _ _⟩
  next => cases h; exact ⟨_, rfl, by simp only [f.reg]⟩
  next => cases h; exact ⟨_, rfl, by simp only [f.reg]⟩
  next => cases h; exact ⟨_, rfl, by simp only [f.reg]⟩
  next => cases h; exact ⟨_, rfl, by simp only [f.reg]; exact wShl_eq _ _⟩
  next => cases h; exact ⟨_, rfl, by simp only [f.reg]; exact wShr_eq _ _⟩
  next => cases h; exact ⟨_, rfl, by simp only [f.reg]; exact wSar_eq _ _⟩
  next => cases h; exact ⟨_, rfl, by simp only [f.reg]; exact wMin_eq _ _⟩
  next => cases h; exact ⟨_, rfl, by simp only [f.reg]; exact wMax_eq _ _⟩
  next => cases h; exact ⟨_, rfl, by simp only [f.reg]; exact wMinn_eq _ _⟩
  next => cases h; exact ⟨_, rfl, by simp only [f.reg]; exact wMaxn_eq _ _⟩
  next => cases h; exact ⟨_, rfl, by simp only [f.reg, toNat_ne_zero, ite_not]⟩
  next => cases h; exact ⟨_, rfl, by simp only [f.reg]; exact toWord_eq _ _ (by simp [BitVec.toNat_eq])⟩
  next => cases h; exact ⟨_, rfl, by simp only [f.reg]; exact toWord_eq _ _ (by simp [BitVec.toNat_eq])⟩
  next => cases h; exact ⟨_, rfl, by simp only [f.reg]; exact toWord_eq _ _ (by simp [BitVec.slt])⟩
  next => cases h; exact ⟨_, rfl, by simp only [f.reg]; exact toWord_eq _ _ (by simp [BitVec.ult])⟩
  next => cases h; exact ⟨_, rfl, by simp only [f.reg]; exact toWord_eq _ _ (by simp [BitVec.sle])⟩
  next => cases h; exact ⟨_, rfl, by simp only [f.reg]; exact toWord_eq _ _ (by simp [BitVec.ule])⟩
  next => cases h; exact ⟨_, rfl, by simp only [f.reg]; exact congrArg (BitVec.ofNat 64) (clzGo_eq _ 64)⟩
  next => cases h; exact ⟨_, rfl, by simp only [f.reg, wCtz, ctzGo_eq _ (Nat.le_refl 64), firstBit, Nat.sub_self, Nat.zero_add]⟩
  next => cases h; exact ⟨_, rfl, by simp only [f.reg]; exact congrArg (BitVec.ofNat 64) (popcount_eq 64 _)⟩
  next => cases h; exact ⟨_, rfl, by simp only [f.reg]; exact wBext_eq _ _⟩
  next => cases h; exact ⟨_, rfl, by simp only [f.reg]⟩
  next => cases h; exact ⟨_, rfl, by simp only [f.reg, wBrev]⟩
  next => cases h; exact ⟨_, rfl, by simp only [f.reg]; exact addImm_eq _ _⟩
  next => cases h; exact ⟨_, rfl, by simp only [f.reg, imm11_eq]⟩
  next => cases h; exact ⟨_, rfl, by simp only [f.reg, imm11_eq]⟩
  next => cases h; exact ⟨_, rfl, by simp only [f.reg, imm11_eq]⟩
  next => cases h; exact ⟨_, rfl, by simp only [f.reg]; exact wShl_imm _ _⟩
  next => cases h; exact ⟨_, rfl, by simp only [f.reg]; exact wShr_imm _ _⟩
  next => cases h; exact ⟨_, rfl, by simp only [f.reg]; exact wSar_imm _ _⟩
  next => cases h; exact ⟨_, rfl, rfl⟩
  next => cases h; exact ⟨_, rfl, by simp only [f.reg]; exact lis_eq _ _⟩
  next => cases h; exact ⟨_, rfl, by simp only [f.reg]⟩
  next => cases h; exact ⟨_, rfl, by simp only [f.reg]⟩
  next => cases h; exact ⟨_, rfl, by simp only [f.reg]⟩
  next => cases h; exact ⟨_, rfl, by simp only [f.reg, alignClass]⟩
  next => cases h; exact ⟨_, rfl, fronted_ptest f⟩
  next => cases h; exact ⟨_, rfl, congrArg Mat.mstate f.me⟩
  next => cases h

/-- An instruction that computes one result in one cycle leaves it in its register and everything else alone. -/
theorem computes_completes {i : Instr} {s s1 : State} {v : Cv} {d : Reg} {x : Word} (h : Issues i s v s1) (hc : Computes i s s1 d x) :
    ∃ t, exec i s = .next t ∧ t.reg d = (if d = 0 then 0 else x) ∧ ScalarFrame s t d ∧ t.cur.pc = nextPc s v := by
  obtain ⟨htaken, hgoes⟩ := h
  obtain ⟨g, hexec, rfl⟩ := hc
  have f := taken_fronted htaken
  obtain ⟨hd, hregs, hrest, honly, hloops, hpc⟩ := result_one s1 d (g s1)
  obtain ⟨cv, ht⟩ := completes_on (body := fun _ s => .ok (s.result d (g s) 1)) htaken hgoes rfl hloops hpc
  have ho := onlyFocus_closed (onlyFocus_result f.only d (g s1) 1 0 false) cv
  refine ⟨_, hexec.trans ht, ?_, ⟨fun n hn => ?_, ?_, onlyFocus_sameMemory (ho _ _), ho _ _⟩, ?_⟩
  · rw [closed_reg, hd]
  · rw [closed_reg, hregs n hn, f.reg]
  · rw [closed_rest, hrest, f.rest]
  · rw [cur_closed]
    rfl

/-- Settles O7: the value is computed, and one result of latency 1 changes one register. -/
theorem oneCycleResult : Obligations.OneCycleResult := fun _ _ _ _ _ _ hx h =>
  computes_completes h (oneCycle_computes (taken_fronted h.1) hx)

end Sys2Proof.Proofs
end

section
/-! TSTAT and a VCYC that a QWAIT has held (R130, R169, R243). The state of a sector in the next cycle depends on whether the
VCYC of its core runs, and taking up a word sets a VCYC that was held going. -/

namespace Sys2Proof.Proofs

open Sys2Proof Sys2Proof.Machine Sys2Proof.Safety Sys2Proof.Claims Sys2Proof.Laws

/-- The convoy whose first word the context has in issue. -/
def heldConvoy : Cv := { head := 0, n := 2, idx := 0 }

/-- An exchange superstep in which a beat is about to be written to sector 0 of core 0, while a context of the core, at a
TSTAT word, holds its VCYC as a QWAIT does. -/
def heldBeat : State :=
  { phc := 1
    slice := some { lr := oneContext, cores := [0] }
    cores := [(0, { ctxs := [(0, { st := .run, qstall := true, cv := some heldConvoy })]
                    slots := [(0, { kind := .halo, bits := 512 * 2 ^ 128, e := 0, origin := {}, dst := [(.loc 0, 0, 512)]
                                    started := true, acts := [{ cycle := 0, write := true, beat := 0 }] })] })] }

/-- The same once the word has been taken up: VCYC runs again. -/
def heldBeatOn : State := (heldBeat.setCur (heldBeat.cur.advance 0 0 heldConvoy)).fixVcyc 0

theorem heldBeat_issues : Issues (.tstat 1 0) heldBeat heldConvoy heldBeatOn :=
  ⟨⟨rfl, rfl, rfl⟩, Or.inl (by decide)⟩

/-- While VCYC is held the beat does not land in the next cycle, so that the sector stays IN. -/
theorem heldBeat_turnState : heldBeat.turnState 0 = 1 := rfl

/-- Once VCYC runs the beat lands in that cycle, and the sector is OUT. -/
theorem heldBeatOn_turnState : heldBeatOn.turnState 0 = 0 := rfl

/-- TSTAT returns the state of the sector as it is once the word has been taken up. -/
theorem heldBeat_result : ∃ t, exec (.tstat 1 0) heldBeat = .next t
    ∧ t.cur.land = [{ cycle := 2, reg := 1, val := 0, flags := 0 }] := ⟨_, rfl, rfl⟩

/-- Refutes O8: TSTAT in a context that has held VCYC returns another value than the state before the word gives. -/
theorem not_lateResult : ¬ Obligations.LateResult := by
  intro h
  have hlate : lateResult (.tstat 1 0) heldBeat = some (1, 1, 2, 0) := rfl
  obtain ⟨t, ht, hland, -⟩ := h _ _ _ _ _ _ _ _ hlate heldBeat_issues
  obtain ⟨u, hu, hu0⟩ := heldBeat_result
  obtain rfl : t = u := Host.Outcome.next.inj (ht.symm.trans hu)
  rw [hu0] at hland
  exact absurd hland (by decide)

end Sys2Proof.Proofs
end

section
/-! Landings (R98), loops (R113, R114), guards (R116), the words that change one thing of their context, and lanes (R120 to
R122). -/

namespace Sys2Proof.Proofs

open Sys2Proof Sys2Proof.Machine Sys2Proof.Safety Sys2Proof.Claims Sys2Proof.Laws

/-! ## Results that have come due (R98) -/

theorem ctx_modCore (s : State) (core ctx : Nat) (f : Core → Core) : (s.modCore core f).ctx core ctx = (f (s.core core)).ctx ctx := by
  simp only [State.ctx, core_modCore_self]

/-- Contexts that try again keep everything else. -/
theorem ctx_wake (s : State) (core ctx : Nat) : (s.wake core).ctx core ctx = { s.ctx core ctx with stalled := false } := by
  rw [State.wake, ctx_modCore]
  exact get_mapVals ({} : Ctx) _ (fun _ (t : Ctx) => { t with stalled := false }) ctx rfl

@[simp] theorem ctx_modCtx_self (s : State) (core ctx : Nat) (f : Ctx → Ctx) : (s.modCtx core ctx f).ctx core ctx = f (s.ctx core ctx) :=
  ctx_setCtx_self _ _ _ _

/-- A change of a core that keeps its scratchpad changes no memory. -/
theorem spaceAt_modCore {s : State} {core : Nat} {f : Core → Core} (h : (f (s.core core)).loc = (s.core core).loc) (p : Place) :
    (s.modCore core f).spaceAt p = s.spaceAt p := by
  cases p with
  | loc d =>
    by_cases e : d = core
    · subst e
      simp only [State.spaceAt, core_modCore_self, h]
    · simp only [State.spaceAt, core_modCore_ne _ _ e]
  | phys => rfl
  | host => rfl
  | peer => rfl

theorem spaceAt_wake (s : State) (core : Nat) (p : Place) : (s.wake core).spaceAt p = s.spaceAt p := spaceAt_modCore rfl p

theorem spaceAt_modCtx (s : State) (core ctx : Nat) (f : Ctx → Ctx) (p : Place) : (s.modCtx core ctx f).spaceAt p = s.spaceAt p :=
  spaceAt_modCore (f := fun k => k.setCtx ctx (f (k.ctx ctx))) rfl p

/-- The one result that is on its way, once it is due. -/
theorem landDue_single {c : Ctx} {l : Landing} {now : Nat} (h : c.land = [l]) (hd : l.cycle ≤ now) (hr : l.reg ≠ 0) :
    c.landDue now = { c with regs := SMap.set 0 c.regs l.reg l.val, flg := c.flg ||| l.flags, land := [] } := by
  simp [Ctx.landDue, h, hd, hr, Ctx.setPhys]

/-- Settles O9: the landing writes the register and ORs the flags. -/
theorem resultLands : Obligations.ResultLands := by
  intro s core ctx l hlive hland hdue hreg
  have hany : (s.ctx core ctx).land.any (fun l => decide (l.cycle ≤ s.now)) = true := by simp [hland, hdue]
  refine ⟨_, if_pos (by rw [hlive, hany]; rfl), ?_, ?_, ?_, fun n hn => ?_, fun p a => ?_⟩
  · rw [ctx_wake, ctx_modCtx_self, landDue_single hland hdue hreg]
    exact get_set_self _ _ _ _
  · rw [ctx_wake, ctx_modCtx_self, landDue_single hland hdue hreg]
    rfl
  · rw [ctx_wake, ctx_modCtx_self, landDue_single hland hdue hreg]
    rfl
  · rw [ctx_wake, ctx_modCtx_self, landDue_single hland hdue hreg]
    exact get_set_ne _ _ _ hn
  · rw [spaceAt_wake, spaceAt_modCtx]

/-! ## Loops (R113, R114) -/

/-- The registers, results on their way and flags that taking up and retirement leave. -/
theorem keepsRegs_closed {s s1 s2 : State} {v : Cv} (f : Fronted s v s1) (hregs : s2.cur.regs = s1.cur.regs) (hland : s2.cur.land = s1.cur.land)
    (hflg : s2.cur.flg = s1.cur.flg) (hwb : s2.cur.wb = s1.cur.wb) (cv : Option Cv) (l : List LoopEnt) (p : Nat) :
    KeepsRegs s (closed s2 cv l p) := by
  rw [KeepsRegs, cur_closed]
  exact ⟨hregs.trans f.regs, hland.trans f.land, hflg.trans f.flg, hwb.trans f.wb⟩

/-- The last word of a convoy closes it and goes where its body says and the loop end check allows. -/
theorem completes_last_at {i : Instr} {s s1 s2 : State} {v : Cv} {body : Nat → Body} {l : List LoopEnt} {pc : Nat} (h : Taken i s v s1)
    (hb : body s.cur.pc s1 = .ok s2) (hn : v.n ≤ v.idx + 1) (hk : v.back = none)
    (hl : loopEnd v.head s.cur.pc s2.cur.pc s2.cur.loops = (l, pc)) (hf : fetchable pc = true) :
    issue i s body = .next (closed s2 none l pc) := by
  have hr : s2.retire v s.cur.pc = .ok (closed s2 none l pc) := by
    simp [retire_eq, following, Nat.not_lt.mpr hn, Cv.next, hk, hl, hf, closed]
  exact issue_ok h hb hr

/-- A body that faults ends the slice of a compute core with one record. -/
theorem issue_body_fault {i : Instr} {s s1 : State} {v : Cv} {body : Nat → Body} {r : SliceRun} {e : Exc} (h : Taken i s v s1)
    (hb : body s.cur.pc s1 = .error (.fault e)) (hc : s.focusCore < 1024) (hs : s.slice = some r) (ho : e.origin = none)
    (hw : e.word = none) (hr : e.race = none) : ∃ t x, issue i s body = .next t ∧ t.slice = none
      ∧ t.disp.waitRecs = s.disp.waitRecs ++ [x] ∧ x.cause = e.cause ∧ x.rkind = 1 := by
  obtain ⟨hfetch, hfront, hfail⟩ := h
  have hi : issue i s body = .next (s.raiseFault (s.stopOrigin v.n v.idx) e) := by
    simp [issue, hfetch, hfront, hfail, hb, State.stopWith]
  obtain ⟨x, hx⟩ := raiseFault_ends (o := s.stopOrigin v.n v.idx) (e := e) hc hs ho hw hr
  exact ⟨_, x, hi, hx⟩

section loops
variable {d : Reg} {o : BitVec 18} {s s1 : State} {v : Cv}

/-- A context with one more active loop. -/
def pushLoop (e : LoopEnt) (c : Ctx) : Ctx := { c with loops := e :: c.loops }

/-- What LOOP does once it is taken up (R113). -/
def loopBody (d : Reg) (o : BitVec 18) (here : Nat) : Body := fun s =>
  if 4 ≤ s.cur.loops.length then fail Exc.loopDepth
  else if (s.reg d).toNat = 0 then .ok (s.jump here (here + (o.toInt.toNat + 1) * 32) false)
  else .ok (s.modCur (pushLoop { start := here + 32, stop := here + o.toInt.toNat * 32, count := (s.reg d).toNat }))

theorem exec_loop (d : Reg) (o : BitVec 18) (s : State) : exec (.loop d o) s = issue (.loop d o) s (loopBody d o) := rfl

theorem exec_nop (s : State) : exec .nop s = issue .nop s fun _ s => .ok s := rfl

/-- The entry that LOOP pushes. -/
def loopEntry (s : State) (d : Reg) (o : BitVec 18) : LoopEnt :=
  { start := s.cur.pc + 32, stop := s.cur.pc + 32 * o.toInt.toNat, count := (s.reg d).toNat }

theorem loop_pushes (h : Taken (.loop d o) s v s1) (hn : v.n ≤ v.idx + 1) (hk : v.back = none) (hdepth : s.cur.loops.length < 4)
    (hd : s.reg d ≠ 0) (ho : 1 ≤ o.toInt) (hf : fetchable (s.cur.pc + 32) = true) :
    exec (.loop d o) s = .next (closed (s1.modCur (pushLoop (loopEntry s d o))) none
      (loopEntry s d o :: s.cur.loops) (s.cur.pc + 32)) := by
  have f := taken_fronted h
  have hcount : ¬ (s1.reg d).toNat = 0 := by
    rw [f.reg]
    exact fun h0 => hd (BitVec.eq_of_toNat_eq h0)
  rw [exec_loop]
  refine completes_last_at h ?_ hn hk ?_ hf
  · simp only [loopBody, f.loops, Nat.not_le.mpr hdepth, hcount, if_false]
    simp only [f.reg, loopEntry, Nat.mul_comm]
  · have hstop : ¬ s.cur.pc + 32 * o.toInt.toNat ≤ s.cur.pc := by omega
    simp [loopEnd, pushLoop, loopEntry, hstop, f.pc, f.loops]

theorem loop_skips (h : Taken (.loop d o) s v s1) (hn : v.n ≤ v.idx + 1) (hk : v.back = none) (hdepth : s.cur.loops.length < 4)
    (hd : s.reg d = 0) (hl : ∀ e ∈ s.cur.loops, s.cur.pc < e.stop ∨ e.stop < v.head)
    (hf : fetchable (s.cur.pc + 32 * (o.toInt.toNat + 1)) = true) :
    exec (.loop d o) s = .next (closed (s1.jump s.cur.pc (s.cur.pc + 32 * (o.toInt.toNat + 1)) false) none s.cur.loops
      (s.cur.pc + 32 * (o.toInt.toNat + 1))) := by
  have f := taken_fronted h
  have hcount : (s1.reg d).toNat = 0 := by rw [f.reg, hd]; rfl
  rw [exec_loop]
  refine completes_last_at h ?_ hn hk ?_ hf
  · simp only [loopBody, f.loops, Nat.not_le.mpr hdepth, hcount, if_false, if_true, Nat.mul_comm]
  · simp only [cur_jump, Bool.false_eq_true, if_false, f.loops]
    exact loopEnd_outside fun e he => by have := hl e he; omega

theorem loop_too_deep {r : SliceRun} (h : Taken (.loop d o) s v s1) (hdepth : 4 ≤ s.cur.loops.length) (hc : s.focusCore < 1024)
    (hs : s.slice = some r) : ∃ t x, exec (.loop d o) s = .next t ∧ t.slice = none ∧ t.disp.waitRecs = s.disp.waitRecs ++ [x]
      ∧ x.cause = 0x0C ∧ x.rkind = 1 := by
  have f := taken_fronted h
  rw [exec_loop]
  refine issue_body_fault (e := Exc.loopDepth) h ?_ hc hs rfl rfl rfl
  simp only [loopBody, f.loops, hdepth, if_true]
  rfl

/-- NOP as the last word of a convoy at the end of a loop body. -/
theorem nop_loopEnd {l : List LoopEnt} {pc : Nat} (h : Taken .nop s v s1) (hn : v.n ≤ v.idx + 1) (hk : v.back = none)
    (hl : loopEnd v.head s.cur.pc (s.cur.pc + 32) s.cur.loops = (l, pc)) (hf : fetchable pc = true) :
    exec .nop s = .next (closed s1 none l pc) := by
  have f := taken_fronted h
  rw [exec_nop]
  exact completes_last_at (s2 := s1) h rfl hn hk (by rw [f.pc, f.loops, hl]) hf
end loops

/-- Settles O12: a push, a skip, a fault, and the two outcomes of the loop end check. -/
theorem loops : Obligations.Loops := by
  intro d o s s1 v hn hk
  refine ⟨fun h hdepth hd ho hf => ?_, fun h hdepth hd hl hf => ?_, fun r h hdepth hc hs => loop_too_deep h hdepth hc hs,
    fun e r h he hlo hhi hcount hf => ?_, fun e r h he hlo hhi hcount hl hf => ?_⟩
  · have f := taken_fronted h
    have honly := onlyFocus_closed (onlyFocus_mod f.only (pushLoop (loopEntry s d o))) none
    refine ⟨_, loop_pushes h hn hk hdepth hd ho hf, by simp, ?_, onlyFocus_sameMemory (honly _ _), ?_⟩
    · exact keepsRegs_closed f (by simp [pushLoop]) (by simp [pushLoop]) (by simp [pushLoop]) (by simp [pushLoop]) _ _ _
    · simp [loopEntry]
  · have f := taken_fronted h
    refine ⟨_, loop_skips h hn hk hdepth hd hl hf, by simp, by simp, ?_, onlyFocus_sameMemory (onlyFocus_closed (onlyFocus_jump f.only _ _ _) _ _ _)⟩
    exact keepsRegs_closed f (by simp [cur_jump]) (by simp [cur_jump]) (by simp [cur_jump]) (by simp [cur_jump]) _ _ _
  · have hend : loopEnd v.head s.cur.pc (s.cur.pc + 32) s.cur.loops = ({ e with count := e.count - 1 } :: r, e.start) := by
      simp [loopEnd, he, hlo, hhi.le, show e.count - 1 ≠ 0 by omega]
    exact ⟨_, nop_loopEnd h hn hk hend hf, by simp, by simp⟩
  · have hr : loopEnd v.head s.cur.pc (e.stop + 32) r = (r, e.stop + 32) :=
      loopEnd_outside fun x hx => by have := hl x hx; omega
    have hend : loopEnd v.head s.cur.pc (s.cur.pc + 32) s.cur.loops = (r, s.cur.pc + 32) := by
      rw [he, loopEnd, if_pos (by simp [hlo, hhi.le]), if_neg (by simp [hcount]), hr, hhi]
    exact ⟨_, nop_loopEnd h hn hk hend hf, by simp, by simp⟩

end Sys2Proof.Proofs
end

section
/-! Guards (R116), the words that change one thing of their context (R55, R117, R120, R123 to R125, R318), and lanes (R120 to
R122). -/

namespace Sys2Proof.Proofs

open Sys2Proof Sys2Proof.Machine Sys2Proof.Safety Sys2Proof.Claims Sys2Proof.Laws

/-! ## Guards (R116) -/

/-- A word that is not the last of its convoy hands on to the next member. -/
theorem completes_member {i : Instr} {s s1 s2 : State} {v : Cv} {body : Nat → Body} (h : Taken i s v s1) (hb : body s.cur.pc s1 = .ok s2)
    (hn : v.idx + 1 < v.n) :
    issue i s body = .next (s2.setCur { s2.cur with cv := some { (s2.cur.cv.getD v) with idx := v.idx + 1 } }) :=
  issue_ok h hb (by rw [retire_eq, if_pos hn])

/-- A guard that has been read marks its convoy. -/
theorem cur_guard {s s1 : State} {v : Cv} (f : Fronted s v s1) (pass : Bool) :
    (s1.guard pass).cur = { s1.cur with cv := some { v with failed := !pass } } := by
  rw [State.guard, cur_modCur, f.cv]
  rfl

/-- A guard in front of another member of its convoy. -/
theorem guard_completes {i : Instr} {s s1 : State} {v : Cv} {pass : Bool} {body : Nat → Body} (h : Taken i s v s1) (hn : v.idx + 1 < v.n)
    (hb : body s.cur.pc s1 = .ok (s1.guard pass)) : ∃ t, issue i s body = .next t ∧ OnlyFocus s t ∧ rest t.cur = rest s.cur
      ∧ t.cur.regs = s.cur.regs ∧ t.cur.cv = some { v with failed := !pass, idx := v.idx + 1 } ∧ t.cur.pc = s.cur.pc + 32 := by
  have f := taken_fronted h
  refine ⟨_, completes_member h hb hn, onlyFocus_set (onlyFocus_mod f.only _) _, ?_, ?_, ?_, ?_⟩
  · rw [cur_setCur, ← f.rest, cur_guard f]
    rfl
  · rw [cur_setCur, cur_guard f, ← f.regs]
  · rw [cur_setCur, cur_guard f]
    rfl
  · rw [cur_setCur, cur_guard f, ← f.pc]

/-- Every instruction word is issued through the front end. -/
theorem exec_of_encode {i : Instr} (h : (encode i).isSome = true) (s : State) : ∃ body, exec i s = issue i s body := by
  cases i <;> try exact absurd h Bool.false_ne_true
  all_goals
    simp only [exec, execAdd, execSub, execAnd, execOr, execXor, execShl, execShr, execSar, execMin, execMax, execMinn, execMaxn, execSel,
    execMul, execMulh, execMulhn, execDiv, execDivn, execRem, execRemn, execCmpeq, execCmpne, execCmplt, execCmpltn,
    execCmple, execCmplen, execClz, execCtz, execPopc, execBext, execBins, execBrev, execAddi, execAndi, execOri,
    execXori, execShli, execShri, execSari, execLi, execLis, execMfs, execMts, execWin, execFadd, execFsub, execFmul,
    execFdiv, execFsqrt, execFmin, execFmax, execFcmpeq, execFcmplt, execFcmple, execFcvtif, execFcvtfi, execFma,
    execPadd, execPsub, execPdiff, execPaln, execPcls, execBr, execBz, execBnz, execCall, execJr, execLoop, execGuardNz,
    execGuardZ, execSetl, execVpart, execMsel, execSpan, execLd, execLdn, execSt, execLdo, execSto, execVld, execVst,
    execVldx, execVstx, execVldt, execVstt, execVldb, execVstb, execQpop, execQpush, execQwait, execQstat, execLtset,
    execLtget, execTurn, execTurnt, execTstat, execAadd, execAand, execAor, execAxor, execAmin, execAmax, execAminn,
    execAmaxn, execAxchg, execAcas, execAfadd, execAld, execAst, execMshape, execMldw, execMldws, execMfwd, execMbwd,
    execMgrd, execMdrain, execMzero, execMamax, execMstat, execXfer, execHalo, execXred, execXcast, execXfar, execXstat,
    execCbarr, execCbwait, execPtest, execTrap, execTlbi, execWfe, execSpawn, execSlkill, execResume, execBrk, execSmpl,
    execDmark, execVadd, execVsub, execVmul, execVfma, execVfms, execVfnma, execVdiv, execVsqrt, execVrsqrt, execVrcp,
    execVmin, execVmax, execVabs, execVneg, execVexp2, execVlog2, execVand, execVor, execVxor, execVshl, execVshr,
    execVsar, execVadds, execVsubs, execVmulh, execVpopc, execVceq, execVcne, execVclt, execVcle, execVclass, execVsel,
    execVmov, execVbcst, execVcvt, execVtag, execVround, execVscale, execVqnt, execVdqnt, execVrsum, execVrmax, execVrmin,
    execVror, execVperm, execVslup, execVsldn, execViota, execVroll, execVmpop, execVmfirst, execVzip, execVunzip,
    execVmand, execVmor, execVmxor, execVmnot, execNop, execExit, execVrel, execLfence, execTwait, execMswap, execMwait,
    execParr, execPwait, execYield, execRft, scalarResult, iterResult, fpResult, fpIterResult, vmemWord, atomic, exchWord,
    vecWord]
    exact ⟨_, rfl⟩

/-- A suppressed word is taken up and retired, and its body does not act. -/
theorem suppressed_completes {i : Instr} {s s1 : State} {v : Cv} (body : Nat → Body) (hfetch : s.fetching = true)
    (hfront : s.front i = .ok (v, s1)) (hfail : v.failed = true) (hg : Goes s v s.cur.loops (s.cur.pc + 32)) :
    ∃ cv, issue i s body = .next (closed s1 cv (following s v s.cur.loops (s.cur.pc + 32)).1 (following s v s.cur.loops (s.cur.pc + 32)).2) := by
  have f := front_ok hfront
  have hg1 : Goes s v s1.cur.loops s1.cur.pc := by rwa [f.loops, f.pc]
  obtain ⟨t, ht⟩ := retire_goes hg1
  obtain ⟨cv, rfl⟩ := retire_ok ht
  rw [f.loops, f.pc] at ht
  refine ⟨cv, ?_⟩
  simp [issue, hfetch, hfront, hfail, ht, closed]

/-- Settles O13: a guard marks its convoy, and a marked convoy only moves on. -/
theorem guards : Obligations.Guards := by
  intro a s s1 v
  refine ⟨fun hn h => ?_, fun hn h => ?_, fun i hi hfetch hfront hfail hg => ?_⟩
  · have f := taken_fronted h
    have hpass : (!(s1.reg a != 0)) = decide (s.reg a = 0) := by rw [f.reg]; simp [bne, BEq.beq]
    obtain ⟨t, ht⟩ := guard_completes (body := fun _ s => .ok (s.guard (s.reg a != 0))) h hn rfl
    rw [hpass] at ht
    exact ⟨t, ht⟩
  · have f := taken_fronted h
    have hpass : (!(s1.reg a == 0)) = decide (s.reg a ≠ 0) := by rw [f.reg]; simp [BEq.beq]
    obtain ⟨t, ht⟩ := guard_completes (body := fun _ s => .ok (s.guard (s.reg a == 0))) h hn rfl
    rw [hpass] at ht
    exact ⟨t, ht⟩
  · have f := front_ok hfront
    obtain ⟨body, he⟩ := exec_of_encode hi s
    obtain ⟨cv, ht⟩ := suppressed_completes body hfetch hfront hfail hg
    refine ⟨_, he.trans ht, onlyFocus_closed f.only _ _ _, ?_, ?_, ?_, ?_⟩
    · rw [closed_rest, f.rest]
    · rw [cur_closed, ← f.regs]
    · rw [cur_closed, ← f.land]
    · rw [cur_closed]
      rfl

/-! ## Words that change one thing of their context -/

/-- What one of these words leaves, once taken up: the context in focus with the word's effect. -/
def Effected (i : Instr) (s s1 : State) (g : Ctx → Ctx) : Prop :=
  ∃ body s2, exec i s = issue i s body ∧ body s.cur.pc s1 = .ok s2 ∧ s2.cur = g s1.cur ∧ OnlyFocus s s2

theorem effected_mod {i : Instr} {s s1 : State} {v : Cv} {g : Ctx → Ctx} {body : Nat → Body} (f : Fronted s v s1)
    (he : exec i s = issue i s body) (hb : body s.cur.pc s1 = .ok (s1.modCur g)) : Effected i s s1 g :=
  ⟨body, _, he, hb, cur_modCur _ _, onlyFocus_mod f.only _⟩

theorem effected_id {i : Instr} {s s1 : State} {v : Cv} {body : Nat → Body} (f : Fronted s v s1)
    (he : exec i s = issue i s body) (hb : body s.cur.pc s1 = .ok s1) : Effected i s s1 id :=
  ⟨body, _, he, hb, rfl, f.only⟩

/-- The effect of each of these words is taken from the state before it. -/
theorem ctxEffect_exec {i : Instr} {s s1 : State} {v : Cv} {g : Ctx → Ctx} (f : Fronted s v s1) (h : ctxEffect i s = some g) :
    Effected i s s1 g := by
  unfold ctxEffect at h
  split at h
  next => cases h; exact effected_id f (exec_nop s) rfl
  next => cases h; exact effected_mod f (show execExit s = _ from rfl) rfl
  next n =>
    cases h
    refine effected_mod f (show execSpan n s = _ from rfl) ?_
    rw [f.now, Nat.mul_comm]
  next a =>
    cases h
    refine effected_mod f (exec_vpart a s) ?_
    rw [f.reg]
    rfl
  next b => cases h; exact effected_mod f (show execMsel b s = _ from rfl) rfl
  next n => cases h; exact effected_mod f (show execWin n s = _ from rfl) rfl
  next d o =>
    split at h
    next hd =>
      cases h
      obtain ⟨body, he, hb⟩ := exec_untaken f (o := o) (Or.inl ⟨rfl, hd⟩)
      exact effected_id f he hb
    next => cases h
  next d o =>
    split at h
    next hd =>
      cases h
      obtain ⟨body, he, hb⟩ := exec_untaken f (o := o) (Or.inr ⟨rfl, hd⟩)
      exact effected_id f he hb
    next => cases h
  next b => cases h; exact effected_mod f (show execSmpl b s = _ from rfl) rfl
  next => cases h

/-- An effect that keeps what taking up and retirement move, and the registers and results on their way, and that does not
look at them. -/
def Narrow (g : Ctx → Ctx) : Prop :=
  ∀ c, (g c).regs = c.regs ∧ (g c).land = c.land ∧ (g c).loops = c.loops ∧ (g c).pc = c.pc ∧ rest (g c) = rest (g (rest c))

theorem ctxEffect_narrow {i : Instr} {s : State} {g : Ctx → Ctx} (h : ctxEffect i s = some g) : Narrow g := by
  unfold ctxEffect at h
  split at h
  case h_7 | h_8 =>
    split at h
    next => cases h; exact fun _ => ⟨rfl, rfl, rfl, rfl, rfl⟩
    next => cases h
  case h_9 =>
    cases h
    intro c
    cases hc : c.span <;> simp [rest, hc]
  case h_10 => cases h
  all_goals cases h; exact fun _ => ⟨rfl, rfl, rfl, rfl, rfl⟩

/-- Settles O14: the effect, between taking up and retirement. -/
theorem contextWords : Obligations.ContextWords := by
  intro i s s1 v g hg h
  obtain ⟨htaken, hgoes⟩ := h
  have f := taken_fronted htaken
  obtain ⟨body, s2, he, hb, hcur, honly⟩ := ctxEffect_exec f hg
  obtain ⟨hregs, hland, hloops, hpc, hrest⟩ := ctxEffect_narrow hg s1.cur
  obtain ⟨-, -, -, -, hrest0⟩ := ctxEffect_narrow hg s.cur
  obtain ⟨cv, ht⟩ := completes_on htaken hgoes hb (by rw [hcur, hloops]) (by rw [hcur, hpc])
  have ho := onlyFocus_closed honly cv
  refine ⟨_, he.trans ht, ?_, ?_, ?_, ?_, onlyFocus_sameMemory (ho _ _), ho _ _⟩
  · rw [closed_rest, hcur, hrest, f.rest, ← hrest0]
  · rw [cur_closed, ← f.regs, ← hregs, ← hcur]
  · rw [cur_closed, ← f.land, ← hland, ← hcur]
  · rw [cur_closed]
    rfl

/-! ## Lanes (R120 to R122) -/

theorem newGrant_eq (s : State) : (s.cur.vpart = none → s.newGrant = s.cur.grant)
    ∧ ∀ p, s.cur.vpart = some p → s.newGrant = Nat.min p (s.cur.grant + if s.onSys then 0 else s.curCore.freeLanes) := by
  constructor
  · intro h
    simp only [State.newGrant, h]
  · intro p h
    simp only [State.newGrant, h]

theorem spanOf_eq {b : Reg} (h : b.toNat ≤ 3) : spanOf b = 2 ^ b.toNat := by
  have hb : b.toNat = 0 ∨ b.toNat = 1 ∨ b.toNat = 2 ∨ b.toNat = 3 := by omega
  rcases hb with hb | hb | hb | hb <;> simp only [spanOf, hb] <;> rfl

/-- The vector length that a request gives (R121). -/
def lengthFor (r : Word) (span g : Nat) : Nat := Nat.min (field r.toNat 47 0) (span * g * 32 / setlWidth r)

/-- A context with lanes, a vector length and a span, and no request left. -/
def withLanes (c : Ctx) (g vl span : Nat) : Ctx := { c with grant := g, vpart := none, vl := vl, vspan := span }

/-- The state once SETL has its lanes: they are set, and VL is returned. -/
def lanesSet (d a b : Reg) (s : State) : State :=
  let vl := lengthFor (s.reg a) (spanOf b) s.newGrant
  (s.setCur (withLanes s.cur s.newGrant vl (spanOf b))).result d (BitVec.ofNat 64 vl) 1

/-- What SETL does once it is taken up (R121). -/
def setlBody (d a b : Reg) : Body := fun s =>
  if s.newGrant < s.cur.grant && !s.cur.vq.isEmpty then .error .event else .ok (lanesSet d a b s)

theorem exec_setl (d a b : Reg) (s : State) : exec (.setl d a b) s = issue (.setl d a b) s fun _ => setlBody d a b := rfl

theorem setlBody_ok {d a b : Reg} {s : State} (h : s.cur.vq = [] ∨ s.cur.grant ≤ s.newGrant) : setlBody d a b s = .ok (lanesSet d a b s) := by
  unfold setlBody
  rcases h with h | h
  · simp [h]
  · simp [Nat.not_lt.mpr h]

/-- The fields that SETL sets, and those of the front end that it keeps. -/
theorem cur_lanesSet (d a b : Reg) (s : State) : (lanesSet d a b s).cur.vl = lengthFor (s.reg a) (spanOf b) s.newGrant
    ∧ (lanesSet d a b s).cur.vspan = spanOf b ∧ (lanesSet d a b s).cur.grant = s.newGrant ∧ (lanesSet d a b s).cur.vpart = none
    ∧ (lanesSet d a b s).cur.loops = s.cur.loops ∧ (lanesSet d a b s).cur.pc = s.cur.pc := by
  let s2 := s.setCur (withLanes s.cur s.newGrant (lengthFor (s.reg a) (spanOf b) s.newGrant) (spanOf b))
  obtain ⟨-, -, hrest, -, hloops, hpc⟩ := result_one s2 d (BitVec.ofNat 64 (lengthFor (s.reg a) (spanOf b) s.newGrant))
  have hcur : s2.cur = withLanes s.cur s.newGrant (lengthFor (s.reg a) (spanOf b) s.newGrant) (spanOf b) := cur_setCur _ _
  rw [hcur] at hrest hloops hpc
  exact ⟨(congrArg Ctx.vl hrest :), (congrArg Ctx.vspan hrest :), (congrArg Ctx.grant hrest :), (congrArg Ctx.vpart hrest :), hloops, hpc⟩

theorem reg_lanesSet (d a b : Reg) (s : State) :
    (lanesSet d a b s).reg d = (if d = 0 then 0 else BitVec.ofNat 64 (lengthFor (s.reg a) (spanOf b) s.newGrant))
    ∧ ∀ n, n ≠ d → (lanesSet d a b s).reg n = s.reg n := by
  let s2 := s.setCur (withLanes s.cur s.newGrant (lengthFor (s.reg a) (spanOf b) s.newGrant) (spanOf b))
  obtain ⟨hd, hn, -⟩ := result_one s2 d (BitVec.ofNat 64 (lengthFor (s.reg a) (spanOf b) s.newGrant))
  refine ⟨hd, fun n hne => (hn n hne).trans ?_⟩
  exact (reg_setCur _ _ _).trans rfl

/-- What VREL does once it is taken up (R122). -/
def vrelBody : Body := fun s => if !s.cur.vq.isEmpty then .error .event else .ok (s.modCur Ctx.release)

/-- VREL gives up the lanes and the vector state (R122). -/
theorem vrel_completes {s s1 : State} {v : Cv} (h : Issues .vrel s v s1) (hq : s.cur.vq = []) :
    ∃ cv l, exec .vrel s = .next (closed (s1.modCur Ctx.release) cv l (nextPc s v)) := by
  obtain ⟨htaken, hgoes⟩ := h
  have f := taken_fronted htaken
  have hb : vrelBody s1 = .ok (s1.modCur Ctx.release) := by simp [vrelBody, f.vq, hq]
  obtain ⟨cv, ht⟩ := completes_on (body := fun _ => vrelBody) htaken hgoes hb (by simp [Ctx.release]) (by simp [Ctx.release])
  exact ⟨cv, _, ht⟩

/-- Settles O16: SETL sets lanes and VL, and VREL gives them up. -/
theorem lanes : Obligations.Lanes := by
  intro d a b s s1 v
  refine ⟨fun h hb hw => ?_, fun h hq => ?_⟩
  · obtain ⟨htaken, hgoes⟩ := h
    have f := taken_fronted htaken
    have hok : setlBody d a b s1 = .ok (lanesSet d a b s1) := setlBody_ok (by rwa [f.vq, f.grant])
    obtain ⟨hvl, hvspan, hgrant, hvpart, hloops, hpc⟩ := cur_lanesSet d a b s1
    obtain ⟨hd, hregs⟩ := reg_lanesSet d a b s1
    obtain ⟨hnone, hsome⟩ := newGrant_eq s1
    have hvp : s1.cur.vpart = s.cur.vpart := f.fld (·.vpart) fun _ => rfl
    have hlen : lengthFor (s1.reg a) (spanOf b) s1.newGrant
        = Nat.min ((s.reg a).toNat % 2 ^ 48) (2 ^ b.toNat * s1.newGrant * 32 / setlWidth (s.reg a)) := by
      rw [f.reg, lengthFor, spanOf_eq hb]
      rfl
    obtain ⟨cv, ht⟩ := completes_on (body := fun _ => setlBody d a b) htaken hgoes hok hloops hpc
    have ho := onlyFocus_closed (onlyFocus_result (onlyFocus_set f.only (withLanes s1.cur s1.newGrant
      (lengthFor (s1.reg a) (spanOf b) s1.newGrant) (spanOf b))) d (BitVec.ofNat 64 (lengthFor (s1.reg a) (spanOf b) s1.newGrant)) 1 0 false) cv
    rw [hlen] at hvl hd
    refine ⟨_, (exec_setl d a b s).trans ht, ?_, ?_, ?_, ?_, ?_, ?_, ?_, ?_, onlyFocus_sameMemory (ho _ _), ho _ _⟩
    · rw [cur_closed, ← hvl]
    · rw [cur_closed, ← spanOf_eq hb, ← hvspan]
    · rw [cur_closed, ← hgrant]
    · rw [cur_closed, ← hvpart]
    · exact fun h0 => (hnone (hvp.trans h0)).trans f.grant
    · intro p h0
      rw [hsome p (hvp.trans h0), f.grant, f.onSys]
    · rw [closed_reg, hd]
    · intro n hne
      rw [closed_reg, hregs n hne, f.reg]
  · have f := taken_fronted h.1
    obtain ⟨cv, l, ht⟩ := vrel_completes h hq
    have ho := onlyFocus_closed (onlyFocus_mod f.only Ctx.release) cv l (nextPc s v)
    refine ⟨_, ht, ?_, ?_, ?_, ?_, ?_, ?_, ?_, onlyFocus_sameMemory ho, ho⟩
    · simp [Ctx.release]
    · simp [Ctx.release]
    · simp [Ctx.release]
    · simp [Ctx.release]
    · simp [Ctx.release]
    · simp [Ctx.release]
    · exact keepsRegs_closed f (by simp [Ctx.release]) (by simp [Ctx.release]) (by simp [Ctx.release]) (by simp [Ctx.release]) _ _ _

end Sys2Proof.Proofs
end

section
/-! NaN operands (R77, R79), bits of a memory (R22, R23, R155, R160), and the special registers (R67 to R71, R103, R301). -/

namespace Sys2Proof.Proofs

open Sys2Proof Sys2Proof.Machine Sys2Proof.Safety Sys2Proof.Claims Sys2Proof.Laws

/-! ## NaN operands (R77, R79) -/

/-- FTZ leaves a NaN a NaN. -/
theorem isNan_input (f : Fmt) (ftz : Bool) (x : Nat) : (f.input ftz x).isNan = (f.unpack x).isNan := by
  unfold Fmt.input
  split
  next h =>
    rw [h]
    split <;> rfl
  next => rfl

theorem isNan_negate (v : FVal) : v.negate.isNan = v.isNan := by cases v <;> rfl

section nan
variable (f : Fmt) (rc : RC) {a b : FVal} (h : a.isNan = true ∨ b.isNan = true)
include h

theorem addV_nan : (f.addV rc a b).1 = f.nan := by
  cases a <;> cases b <;> simp_all [FVal.isNan, Fmt.addV]

theorem mulV_nan : (f.mulV rc a b).1 = f.nan := by
  cases a <;> cases b <;> simp_all [FVal.isNan, Fmt.mulV]

theorem divV_nan : (f.divV rc a b).1 = f.nan := by
  cases a <;> cases b <;> simp_all [FVal.isNan, Fmt.divV]

theorem fmaV_nan (c : FVal) : (f.fmaV rc a b c).1 = f.nan := by
  unfold Fmt.fmaV
  dsimp only
  split
  · rfl
  · cases a <;> cases b <;> simp_all [FVal.isNan]
end nan

/-- Settles O10: FTZ keeps a NaN, and each operation looks at NaN operands first. -/
theorem canonicalNan : Obligations.CanonicalNan := by
  intro f rc x y z h
  have hin : (f.input rc.ftz x).isNan = true ∨ (f.input rc.ftz y).isNan = true := by rwa [isNan_input, isNan_input]
  have hneg : (f.input rc.ftz x).isNan = true ∨ (f.input rc.ftz y).negate.isNan = true := by rwa [isNan_negate]
  have hany : ((f.input rc.ftz x).isNan || (f.input rc.ftz y).isNan) = true := by simpa using hin
  have hcmp : ∀ rel, (f.cmp rc rel x y).1 = false := by
    intro rel
    simp only [Fmt.cmp]
    rcases hin with hx | hx <;> simp [hx]
  refine ⟨addV_nan f rc hin, addV_nan f rc hneg, mulV_nan f rc hin, divV_nan f rc hin, fmaV_nan f rc hin _, ?_, ?_, hcmp _, hcmp _, hcmp _⟩
  · simp only [Fmt.minmax, hany, if_true]
  · simp only [Fmt.minmax, hany, if_true]

/-! ## Bits and sectors of a memory (R22, R23, R155, R160) -/

theorem contains_add (l : List Nat) (x y : Nat) : (NSet.add l x).contains y = (y == x || l.contains y) := by
  induction l with
  | nil => rw [NSet.add, List.contains_cons]
  | cons k r ih =>
    simp only [NSet.add]
    split
    · rfl
    · split
      next h =>
        rw [← h, List.contains_cons]
        cases y == k <;> rfl
      next =>
        rw [List.contains_cons, ih, List.contains_cons]
        cases y == k <;> cases y == x <;> rfl

theorem contains_del_self (l : List Nat) (x : Nat) : (NSet.del l x).contains x = false := by
  simp [NSet.del]

/-- A sector that a write makes OUT is OUT, and so is every one that was. -/
theorem isOut_goOut (m : Space) (sec x : Nat) : (m.goOut sec).isOut x = (x == sec || m.isOut x) := by
  unfold Space.goOut
  split
  next h =>
    by_cases hx : x = sec
    · subst hx
      rw [beq_self_eq_true, Bool.true_or]
      exact h
    · simp [Space.isOut, hx]
  next => exact contains_add _ _ _

theorem isOut_goOuts (l : List Nat) (x : Nat) : ∀ m : Space, (l.foldl Space.goOut m).isOut x = (l.contains x || m.isOut x) := by
  induction l with
  | nil => intro m; rfl
  | cons a r ih =>
    intro m
    rw [List.foldl_cons, ih, isOut_goOut, List.contains_cons]
    cases r.contains x <;> cases x == a <;> rfl

theorem out_repair (m : Space) (w : Nat) : (m.repair w).out = m.out := by
  unfold Space.repair
  split <;> rfl

theorem out_repairs (l : List Nat) : ∀ m : Space, (l.foldl Space.repair m).out = m.out := by
  induction l with
  | nil => intro m; rfl
  | cons a r ih => intro m; rw [List.foldl_cons, ih, out_repair]

/-- A write outside facing makes no sector OUT. -/
theorem isOut_writeRaw (m : Space) (a n x sec : Nat) : (m.writeRaw a n x).isOut sec = m.isOut sec := by
  unfold Space.writeRaw Space.isOut
  dsimp only
  split
  · rfl
  · rw [out_repairs]

theorem isOut_store (p : Space) (a n x sec : Nat) : (p.store a n x).isOut sec = ((sectorsOf a n).contains sec || p.isOut sec) := by
  rw [Space.store, isOut_writeRaw, isOut_goOuts]

theorem isOut_goIn_self (p : Space) (sec : Nat) (paths : BitVec 4) (level : Nat) : (p.goIn sec paths level).isOut sec = false :=
  contains_del_self _ _

/-- Settles O18, from the laws of the memories. -/
theorem memoryBits : Obligations.MemoryBits := by
  intro m p a n x sec level paths
  refine ⟨bits_setBits m a n x, fun b hb => byte_setBits_out m a n x b hb, fun q hq => bit_setBits_out m a n x q hq,
    fun h => wf_setBits h a n x, fun h => ?_, isOut_goIn_self p sec paths level⟩
  rw [isOut_store, List.contains_iff_mem.mpr h]
  rfl

end Sys2Proof.Proofs
end

section
/-! The special registers (R67 to R71, R103, R218, R301, R329). -/

namespace Sys2Proof.Proofs

open Sys2Proof Sys2Proof.Machine Sys2Proof.Safety Sys2Proof.Claims Sys2Proof.Laws

/-! ## VCYC reads the same once a word is taken up -/

theorem vcycOf_modCur (s : State) (f : Ctx → Ctx) (d : Nat) : (s.modCur f).vcycOf d = s.vcycOf d := vcycOf_setCur _ _ _

theorem vcycOf_advance (s : State) (w : Cv) (d : Nat) :
    (if s.cur.qstall then (s.setCur (s.cur.advance s.now s.cur.pc w)).fixVcyc s.focusCore
      else s.setCur (s.cur.advance s.now s.cur.pc w)).vcycOf d = s.vcycOf d := by
  split
  · rw [vcycOf_fixVcyc, vcycOf_setCur]
  · rw [vcycOf_setCur]

/-- What `front` answers is the context moved on, with matched comparators held where there are some. -/
theorem front_cases {s s1 : State} {i : Instr} {v : Cv} (h : s.front i = .ok (v, s1)) :
    let s2 := if s.cur.qstall then (s.setCur (s.cur.advance s.now s.cur.pc v)).fixVcyc s.focusCore
      else s.setCur (s.cur.advance s.now s.cur.pc v)
    s1 = s2 ∨ ∃ m, s1 = s2.holdBreak s.cur.pc m := by
  unfold State.front at h
  dsimp only at h
  split at h
  · split at h
    · cases h; exact Or.inl rfl
    · split at h
      · cases h
      · split at h
        · cases h
        · split at h
          · cases h
          · cases h; exact Or.inl rfl
  · split at h
    · cases h
    · generalize (if s.cur.bkPass = true then 0 else s.matches s.cur.pc) = m at h
      split at h
      · cases h
      · split at h
        · cases h
        · split at h
          · cases h
          · split at h
            · cases h
            · simp only [Except.ok.injEq, Prod.mk.injEq] at h
              obtain ⟨rfl, rfl⟩ := h
              cases hm : m != 0 with
              | true => exact Or.inr ⟨m, if_pos rfl⟩
              | false => exact Or.inl (if_neg Bool.false_ne_true)

theorem front_vcycOf {s s1 : State} {i : Instr} {v : Cv} (h : s.front i = .ok (v, s1)) (d : Nat) : s1.vcycOf d = s.vcycOf d := by
  obtain rfl | ⟨m, rfl⟩ := front_cases h
  · exact vcycOf_advance s v d
  · exact (vcycOf_modCur _ _ _).trans (vcycOf_advance s v d)

/-! ## What MFS reads (R68 to R70) -/

theorem ofSlice_eq (s : State) (f : SliceRun → Nat) :
    s.ofSlice f = match s.onSys, s.slice with | false, some r => BitVec.ofNat 64 (f r) | _, _ => 0 := by
  unfold State.ofSlice
  cases s.onSys <;> cases s.slice <;> rfl

theorem launchField_eq (s : State) (hi lo : Nat) : launchField s hi lo = s.ofSlice fun r => r.lr.fld hi lo := by
  unfold launchField State.ofSlice
  cases s.onSys <;> cases s.slice <;> simp [LaunchRec.fld, field, Nat.shiftRight_eq_div_pow]

theorem xaccAt_eq (c : Ctx) (now : Nat) :
    c.xaccAt now = c.xacc - ((c.xaccLate.filter fun q => decide (now < q.1)).map (·.2)).sum := by
  have h : ∀ (l : List (Nat × Nat)) (k : Nat), l.foldl (fun n q => if now < q.1 then n + q.2 else n) k
      = k + ((l.filter fun q => decide (now < q.1)).map (·.2)).sum := by
    intro l
    induction l with
    | nil => intro k; rfl
    | cons q r ih =>
      intro k
      rw [List.foldl_cons, ih, List.filter_cons]
      by_cases hq : now < q.1
      · simp [hq, Nat.add_assoc]
      · simp [hq]
  rw [Ctx.xaccAt, h, Nat.zero_add]

theorem toNat_eq_ite (b : Bool) : b.toNat = if b = true then 1 else 0 := by cases b <;> rfl

theorem mul_ite_one (k : Nat) (p : Prop) [Decidable p] : k * (if p then 1 else 0) = if p then k else 0 := by
  split <;> simp

theorem ite_one_mul (k : Nat) (p : Prop) [Decidable p] : (if p then 1 else 0) * k = if p then k else 0 := by
  split <;> simp

theorem mstate_eq (e : Mat) : e.mstate = mstateOf e := by
  have h64 : 64 = 2 ^ 6 := rfl
  simp only [Mat.mstate, mstateOf, toNat_eq_ite, mul_ite_one, ite_one_mul, Nat.mul_comm (2 ^ 8), Nat.mul_comm (2 ^ 16),
    Nat.mul_comm (2 ^ 28), Nat.mul_comm (2 ^ 34), Nat.mul_comm (2 ^ 45), h64]
  -- both sides name the same kinds, once by a match and once by comparisons
  refine congrArg (BitVec.ofNat 64) (congrArg₂ (· + ·) (congrArg₂ (· + ·) (congrArg₂ (· + ·) (congrArg₂ (· + ·) rfl ?_) rfl) rfl) rfl)
  congr 3
  funext c
  cases c.kind <;> rfl

/-- What is left of the budget (R68, R296). -/
theorem budgetLeft_eq (s : State) : s.ofSlice (fun r => r.budgetLeft s.now) = match s.onSys, s.slice with
    | false, some r => if launchField s 319 256 = 0 then -1 else BitVec.ofNat 64 (r.budget - r.spent.read s.now)
    | _, _ => 0 := by
  rw [ofSlice_eq, launchField_eq, ofSlice_eq]
  cases s.onSys with
  | true => rfl
  | false =>
    cases s.slice with
    | none => rfl
    | some r =>
      have hb : r.lr.budget < 2 ^ 64 := Nat.mod_lt _ (Nat.two_pow_pos _)
      have h0 : BitVec.ofNat 64 (r.lr.fld 319 256) = 0 ↔ r.lr.budget = 0 := by
        rw [BitVec.toNat_eq, BitVec.toNat_ofNat]
        exact (congrArg (· = 0) (Nat.mod_eq_of_lt hb)).to_iff
      simp only [SliceRun.budgetLeft, h0]
      split <;> rfl

theorem loopCount_eq (l : List LoopEnt) :
    BitVec.ofNat 64 (match l with | e :: _ => e.count | [] => 0) = BitVec.ofNat 64 ((l.head?.map (·.count)).getD 0) := by
  cases l <;> rfl

theorem trapcause_eq (c : Ctx) : c.trapcause
    = BitVec.ofNat 64 (c.cause.toNat + (if c.inh = true then 2 ^ 62 else 0) + (if c.pprv = true then 2 ^ 63 else 0)) := by
  simp only [Ctx.trapcause, toNat_eq_ite, mul_ite_one]

theorem mode_eq (s : State) : s.mode = BitVec.ofNat 64 ((if s.cur.priv = true then 1 else 0) + (if s.cur.span.isSome = true then 2 else 0)
    + (if s.cur.st = .arrived ∨ s.cur.st = .waiting then 4 else 0) + (if s.onSys = true then 8 else 0)) := by
  simp only [State.mode, toNat_eq_ite, mul_ite_one, Bool.or_eq_true, beq_iff_eq]

theorem ident_eq : ident = BitVec.ofNat 64 (0x3C4 * 2 ^ 32 + 2 ^ 16 + 0x01 * 2 ^ 8 + (if Config.stepB0 = true then 1 else 0)) := by
  rw [ident, toNat_eq_ite, Nat.one_mul]

theorem flgWord_eq (f : BitVec 7) : flgWord f = BitVec.ofNat 64 f.toNat := (BitVec.ofNat_toNat ..).symm

theorem rmodeWord_eq (r : BitVec 3) : rmodeWord r = BitVec.ofNat 64 r.toNat := (BitVec.ofNat_toNat ..).symm

/-- The table of R68 gives what MFS reads. -/
theorem special_eq {s : State} {n : Nat} {x : Word} (h : specialValue s n = some x) : s.special n = x := by
  unfold specialValue at h
  dsimp only at h
  split at h
  next => cases h; exact rfl
  next => cases h; exact (ofSlice_eq _ _)
  next => cases h; exact rfl
  next => cases h; exact (launchField_eq s 47 32).symm
  next => cases h; exact rfl
  next => cases h; exact rfl
  next => cases h; exact rfl
  next => cases h; exact budgetLeft_eq s
  next => cases h; exact (ofSlice_eq _ _)
  next => cases h; exact (launchField_eq s 255 224).symm
  next => cases h; exact rfl
  next => cases h; exact rfl
  next => cases h; exact rfl
  next => cases h; exact rfl
  next => cases h; exact rfl
  next => cases h; exact flgWord_eq _
  next => cases h; exact rmodeWord_eq _
  next => cases h; exact rfl
  next => cases h; exact rfl
  next => cases h; exact loopCount_eq s.cur.loops
  next => cases h; exact rfl
  next => cases h; exact rfl
  next => cases h; exact congrArg (BitVec.ofNat 64) (xaccAt_eq _ _)
  next => cases h; exact mstate_eq _
  next => cases h; exact (BitVec.ofNat_toNat ..).symm
  next => cases h; exact trapcause_eq s.cur
  next => cases h; exact rfl
  next => cases h; exact rfl
  next => cases h; exact mode_eq s
  next => cases h; exact (launchField_eq s 470 448).symm
  next => cases h; exact (launchField_eq s 13 12).symm
  next => cases h; exact ident_eq
  next => cases h; exact (launchField_eq s 55 48).symm
  next => cases h

/-- Taking up a word leaves every special register as it reads. -/
theorem special_fronted {s s1 : State} {v : Cv} (f : Fronted s v s1) (hvcyc : ∀ d, s1.vcycOf d = s.vcycOf d) (n : Nat) :
    s1.special n = s.special n := by
  have hslice : ∀ g : SliceRun → Nat, s1.ofSlice g = s.ofSlice g := fun g => by simp only [State.ofSlice, f.onSys, f.slice]
  have hc : ∀ {α : Type} (g : Ctx → α), (∀ c, g (rest c) = g c) → g s1.cur = g s.cur := fun g hg => f.fld g hg
  unfold State.special
  dsimp only
  split
  case h_1 => rw [f.focusCore]
  case h_3 => rw [f.focusCtx]
  case h_5 => rw [f.onSys, f.phc, hc (·.view) fun _ => rfl]
  case h_6 => rw [f.focusCore, hvcyc]
  case h_7 => exact f.dev State.dtime fun _ _ => rfl
  case h_8 => rw [hslice, f.now]
  case h_20 => rw [f.loops]
  case h_21 => rw [f.loops]
  case h_23 => rw [f.now, hc (fun c => c.xaccAt s.now) fun _ => rfl]
  case h_24 => rw [f.me]
  case h_25 => rw [f.me]
  case h_26 => exact hc Ctx.trapcause fun _ => rfl
  case h_29 => simp only [State.mode, f.onSys, f.span, f.st, hc (·.priv) fun _ => rfl]
  case h_2 | h_4 | h_9 | h_10 | h_30 | h_31 | h_33 => exact hslice _
  case h_32 | h_34 => rfl
  -- the special registers that are fields of the context
  all_goals simp only [f.wb, f.vl, f.grant, f.flg, f.rmode, hc (·.vspan) fun _ => rfl, hc (·.cmsel) fun _ => rfl, hc (·.seed) fun _ => rfl,
    hc (·.stepr) fun _ => rfl, hc (·.turncur) fun _ => rfl, hc (·.trappc) fun _ => rfl, hc (·.trapinfo) fun _ => rfl]

/-! ## The wait for earlier convoys (R71, R103) -/

theorem front_doneAt {s s1 : State} {i : Instr} {v : Cv} (h : s.front i = .ok (v, s1)) : s1.cur.doneAt = s.cur.doneAt := by
  have hadvance : (if s.cur.qstall then (s.setCur (s.cur.advance s.now s.cur.pc v)).fixVcyc s.focusCore
      else s.setCur (s.cur.advance s.now s.cur.pc v)).cur = s.cur.advance s.now s.cur.pc v := by
    split
    · rw [cur_fixVcyc, cur_setCur]
    · rw [cur_setCur]
  obtain rfl | ⟨m, rfl⟩ := front_cases h
  · rw [hadvance]
    rfl
  · rw [State.holdBreak, cur_modCur, hadvance]
    rfl

theorem lastLanding_le (l : List Landing) : ∀ {a now : Nat}, a ≤ now → (∀ x ∈ l, x.cycle ≤ now) →
    l.foldl (fun acc x => Nat.max acc x.cycle) a ≤ now := by
  induction l with
  | nil => exact fun ha _ => ha
  | cons x r ih =>
    intro a now ha hl
    exact ih (Nat.max_le.mpr ⟨ha, hl x List.mem_cons_self⟩) fun y hy => hl y (List.mem_cons_of_mem _ hy)

theorem waitRetired_ok {s s1 : State} {i : Instr} {v : Cv} (hfront : s.front i = .ok (v, s1)) (h : retired s) : s1.waitRetired = .ok () := by
  have f := front_ok hfront
  unfold State.waitRetired
  dsimp only
  rcases h with h | ⟨hq, hdone, hland⟩
  · rw [f.span, if_pos h]
  · have hlast := lastLanding_le s1.cur.land (a := s1.cur.doneAt) (now := s1.now) (by rw [front_doneAt hfront, f.now]; exact hdone)
      (by rw [f.land, f.now]; exact hland)
    split
    · rfl
    · rw [f.vq, hq, if_neg (by simp), if_neg (Nat.not_lt.mpr hlast)]

/-! ## MFS (R67, R71, R218) -/

/-- What MFS does once it is taken up. -/
def mfsBody (d : Reg) (n : BitVec 11) : Body := fun s => do
  if n.toNat = 0x0F || n.toNat = 0x17 || n.toNat = 0x18 then s.waitRetired
  let s := if n.toNat = 0x18 then s.amaxPrefix else s
  .ok (s.result d (s.special n.toNat) 1)

theorem exec_mfs (d : Reg) (n : BitVec 11) (s : State) : exec (.mfs d n) s = issue (.mfs d n) s fun _ => mfsBody d n := rfl

/-- The registers that wait for earlier convoys. -/
def Waits (n : BitVec 11) : Prop := n = 0x0F ∨ n = 0x17 ∨ n = 0x18

theorem mfsBody_ok {d : Reg} {n : BitVec 11} {s t : State} (hw : Waits n → s.waitRetired = .ok ())
    (ht : (if n = 0x18 then s.amaxPrefix else s) = t) : mfsBody d n s = .ok (t.result d (t.special n.toNat) 1) := by
  subst ht
  have he : ∀ k : BitVec 11, n.toNat = k.toNat ↔ n = k := fun k => BitVec.toNat_inj
  have h0F : n.toNat = 0x0F ↔ n = 0x0F := he 0x0F
  have h17 : n.toNat = 0x17 ↔ n = 0x17 := he 0x17
  have h18 : n.toNat = 0x18 ↔ n = 0x18 := he 0x18
  unfold mfsBody
  by_cases h : Waits n
  · have hc : (decide (n.toNat = 0x0F) || decide (n.toNat = 0x17) || decide (n.toNat = 0x18)) = true := by
      simpa [h0F, h17, h18, Waits, or_assoc] using h
    rw [hc, if_pos rfl, hw h]
    simp only [h18]
    rfl
  · have hc : (decide (n.toNat = 0x0F) || decide (n.toNat = 0x17) || decide (n.toNat = 0x18)) = false := by
      simpa [h0F, h17, h18, Waits, not_or, and_assoc] using h
    rw [hc]
    simp only [h18]
    rfl

theorem amaxPrefix_idle {s : State} (h : s.curCore.me.running = []) : s.amaxPrefix = s := by
  simp [State.amaxPrefix, h]

/-- MFS outside the drains writes the value of the register and nothing else. -/
theorem mfs_reads {d : Reg} {n : BitVec 11} {s s1 : State} {v : Cv} (h : Issues (.mfs d n) s v s1) (hw : Waits n → retired s)
    (hidle : n = 0x18 → s.curCore.me.running = []) :
    ∃ t, exec (.mfs d n) s = .next t ∧ t.reg d = (if d = 0 then 0 else s.special n.toNat) ∧ ScalarFrame s t d ∧ t.cur.pc = nextPc s v := by
  obtain ⟨htaken, hgoes⟩ := h
  have hfront := htaken.2.1
  have f := front_ok hfront
  have hpre : (if n = 0x18 then s1.amaxPrefix else s1) = s1 := by
    split
    next hn => exact amaxPrefix_idle (by rw [f.me]; exact hidle hn)
    next => rfl
  have hb := mfsBody_ok (d := d) (fun h => waitRetired_ok hfront (hw h)) hpre
  rw [special_fronted f (front_vcycOf hfront)] at hb
  obtain ⟨hd, hregs, hrest, honly, hloops, hpc⟩ := result_one s1 d (s.special n.toNat)
  obtain ⟨cv, ht⟩ := completes_on (body := fun _ => mfsBody d n) htaken hgoes hb hloops hpc
  have ho := onlyFocus_closed (onlyFocus_result f.only d (s.special n.toNat) 1 0 false) cv
  refine ⟨_, (exec_mfs d n s).trans ht, ?_, ⟨fun k hk => ?_, ?_, onlyFocus_sameMemory (ho _ _), ho _ _⟩, ?_⟩
  · rw [closed_reg, hd]
  · rw [closed_reg, hregs k hk, f.reg]
  · rw [closed_rest, hrest, f.rest]
  · rw [cur_closed]
    rfl

/-- Taking no group leaves AMAX (R218). -/
theorem takeGroups_zero_amax (e : Mat) : (e.takeGroups 0).amax = e.amax := by
  have hnone : ∀ (l done : List MCmd), (l.foldl (fun (acc : List MCmd × Nat × BitVec 32) m =>
      if m.kind != .drain then (acc.1 ++ [m], acc.2)
      else
        let k := Nat.min acc.2.1 (m.groupCount - m.amaxed)
        let top := (rangeFrom m.amaxed k).foldl (fun (a : BitVec 32) g =>
          if a.toNat < (m.groupMax g).toNat then m.groupMax g else a) acc.2.2
        (acc.1 ++ [{ m with amaxed := m.amaxed + k }], acc.2.1 - k, top)) (done, 0, e.amax)).2 = (0, e.amax) := by
    intro l
    induction l with
    | nil => intro done; rfl
    | cons m r ih =>
      intro done
      rw [List.foldl_cons]
      split
      · exact ih _
      · have h0 : Nat.min 0 (m.groupCount - m.amaxed) = 0 := Nat.zero_min _
        simp only [h0]
        exact ih _
  exact congrArg Prod.snd (hnone e.running [])

/-- Before a read of AMAX some groups of the drains are taken, and the context and the memories stay (R218). -/
theorem amaxPrefix_takes (s : State) : ∃ k, s.amaxPrefix.curCore.me.amax = (s.curCore.me.takeGroups k).amax
    ∧ s.amaxPrefix.cur = s.cur ∧ SameMemory s s.amaxPrefix := by
  unfold State.amaxPrefix
  split
  · refine ⟨s.drawNat.1, ?_, (cur_modCurCore rfl).trans rfl, fun p a => ?_⟩
    · exact congrArg (fun k : Core => k.me.amax) (curCore_modCurCore _ _)
    · exact congrArg (fun x : Space => x.bytes.byte a) (spaceAt_modCurCore (s := s.drawNat.2) rfl p)
  · exact ⟨0, (takeGroups_zero_amax _).symm, rfl, fun _ _ => rfl⟩

/-- A read of AMAX takes some groups first. -/
theorem mfs_amax {d : Reg} {s s1 : State} {v : Cv} (h : Issues (.mfs d 0x18) s v s1) (hw : retired s) :
    ∃ t k, exec (.mfs d 0x18) s = .next t ∧ t.reg d = (if d = 0 then 0 else (s.curCore.me.takeGroups k).amax.setWidth 64)
      ∧ (∀ n, n ≠ d → t.reg n = s.reg n) ∧ rest t.cur = rest s.cur ∧ SameMemory s t ∧ t.cur.pc = nextPc s v := by
  obtain ⟨htaken, hgoes⟩ := h
  have hfront := htaken.2.1
  have f := front_ok hfront
  have hb := mfsBody_ok (d := d) (n := 0x18) (s := s1) (fun _ => waitRetired_ok hfront hw) (if_pos rfl)
  obtain ⟨k, hamax, hcur, hmem⟩ := amaxPrefix_takes s1
  obtain ⟨hd, hregs, hrest, honly, hloops, hpc⟩ := result_one s1.amaxPrefix d (s1.amaxPrefix.special (0x18 : BitVec 11).toNat)
  obtain ⟨cv, ht⟩ := completes_on (body := fun _ => mfsBody d 0x18) htaken hgoes hb (hloops.trans (by rw [hcur]))
    (hpc.trans (by rw [hcur]))
  have hreg : ∀ n, s1.amaxPrefix.reg n = s.reg n := fun n => by
    rw [← f.reg n, State.reg, hcur]
    rfl
  refine ⟨_, k, (exec_mfs d 0x18 s).trans ht, ?_, fun n hn => ?_, ?_, ?_, ?_⟩
  · rw [closed_reg, hd, ← f.me, ← hamax]
    rfl
  · rw [closed_reg, hregs n hn, hreg]
  · rw [closed_rest, hrest, hcur, f.rest]
  · refine sameMemory_trans (sameMemory_trans (onlyFocus_sameMemory f.only) hmem) ?_
    exact onlyFocus_sameMemory (onlyFocus_closed honly _ _ _)
  · rw [cur_closed]
    rfl

/-! ## MTS (R67, R103, R329) -/

/-- What MTS does once it is taken up. -/
def mtsBody (d : Reg) (n : BitVec 11) : Body := fun s => do
  if n.toNat = 0x0F then s.waitRetired
  let c := s.cur.writeSpecial n.toNat (s.reg d)
  .ok (s.setCur (if n.toNat = 0x0F && c.flagsAt = s.now && c.span.isSome then { c with flg := c.flg ||| c.flagsIn } else c))

theorem exec_mts (d : Reg) (n : BitVec 11) (s : State) : exec (.mts d n) s = issue (.mts d n) s fun _ => mtsBody d n := rfl

/-- The context after an MTS of x to register n, with flags that arrive in this cycle. -/
def mtsCtx (n : BitVec 11) (x : Word) (now : Nat) (c : Ctx) : Ctx :=
  let c := c.writeSpecial n.toNat x
  if n.toNat = 0x0F && c.flagsAt = now && c.span.isSome then { c with flg := c.flg ||| c.flagsIn } else c

theorem mtsBody_ok {d : Reg} {n : BitVec 11} {s : State} (hw : n = 0x0F → s.waitRetired = .ok ()) :
    mtsBody d n s = .ok (s.setCur (mtsCtx n (s.reg d) s.now s.cur)) := by
  unfold mtsBody
  by_cases h : n.toNat = 0x0F
  · rw [if_pos h, hw (BitVec.eq_of_toNat_eq h)]
    rfl
  · rw [if_neg h]
    rfl

/-- An MTS moves none of what taking up and retirement move, and looks at none of it. -/
theorem writeSpecial_narrow (n : Nat) (x : Word) : Narrow (·.writeSpecial n x) := by
  intro c
  unfold Ctx.writeSpecial
  split <;> exact ⟨rfl, rfl, rfl, rfl, rfl⟩

theorem mtsCtx_narrow (n : BitVec 11) (x : Word) (now : Nat) : Narrow (mtsCtx n x now) := by
  intro c
  obtain ⟨hregs, hland, hloops, hpc, hrest⟩ := writeSpecial_narrow n.toNat x c
  have hflags : ∀ f : Ctx → Bool × BitVec 7, (∀ e, f (rest e) = f e) → f (c.writeSpecial n.toNat x) = f ((rest c).writeSpecial n.toNat x) :=
    fun f hf => by rw [← hf, hrest, hf]
  have hmeets := hflags (fun c => (decide (n.toNat = 0x0F) && decide (c.flagsAt = now) && c.span.isSome, c.flagsIn)) fun _ => rfl
  simp only [Prod.mk.injEq] at hmeets
  unfold mtsCtx
  dsimp only
  rw [hmeets.1]
  split
  · refine ⟨hregs, hland, hloops, hpc, ?_⟩
    exact congrArg (fun e : Ctx => { e with flg := e.flg ||| e.flagsIn }) hrest
  · exact ⟨hregs, hland, hloops, hpc, hrest⟩

/-- MTS writes its register in the context in focus and nothing else. -/
theorem mts_writes {d : Reg} {n : BitVec 11} {s s1 : State} {v : Cv} {c : Ctx} (hw : n = 0x0F → retired s)
    (hc : mtsCtx n (s.reg d) s.now s.cur = c) (h : Issues (.mts d n) s v s1) :
    ∃ t, exec (.mts d n) s = .next t ∧ rest t.cur = rest c ∧ t.cur.regs = s.cur.regs ∧ t.cur.land = s.cur.land
      ∧ t.cur.pc = nextPc s v ∧ SameMemory s t ∧ OnlyFocus s t := by
  obtain ⟨htaken, hgoes⟩ := h
  have hfront := htaken.2.1
  have f := front_ok hfront
  have hb := mtsBody_ok (d := d) (n := n) (s := s1) fun h => waitRetired_ok hfront (hw h)
  rw [f.reg, f.now] at hb
  obtain ⟨hregs, hland, hloops, hpc, hrest⟩ := mtsCtx_narrow n (s.reg d) s.now s1.cur
  obtain ⟨-, -, -, -, hrest0⟩ := mtsCtx_narrow n (s.reg d) s.now s.cur
  obtain ⟨cv, ht⟩ := completes_on (body := fun _ => mtsBody d n) htaken hgoes hb (by rw [cur_setCur, hloops]) (by rw [cur_setCur, hpc])
  have ho := onlyFocus_closed (onlyFocus_set f.only (mtsCtx n (s.reg d) s.now s1.cur)) cv
  refine ⟨_, (exec_mts d n s).trans ht, ?_, ?_, ?_, ?_, onlyFocus_sameMemory (ho _ _), ho _ _⟩
  · rw [closed_rest, cur_setCur, hrest, f.rest, ← hrest0, hc]
  · rw [cur_closed, cur_setCur, ← f.regs]
    exact hregs
  · rw [cur_closed, cur_setCur, ← f.land]
    exact hland
  · rw [cur_closed]
    rfl

/-- Only an MTS to FLG looks at the flags that arrive. -/
theorem mtsCtx_ne {n : BitVec 11} (h : n.toNat ≠ 0x0F) (x : Word) (now : Nat) (c : Ctx) : mtsCtx n x now c = c.writeSpecial n.toNat x := by
  simp [mtsCtx, h]

theorem mtsCtx_flg_alone {x : Word} {now : Nat} {c : Ctx} (h : ¬(c.span.isSome = true ∧ c.flagsAt = now)) :
    mtsCtx 0x0F x now c = { c with flg := BitVec.ofNat 7 x.toNat } := by
  have hmeets : (decide (c.flagsAt = now) && c.span.isSome) = false := by
    simp only [Bool.and_eq_false_iff, decide_eq_false_iff_not]
    by_cases hs : c.span.isSome = true
    · exact Or.inl fun hf => h ⟨hs, hf⟩
    · exact Or.inr (by simpa using hs)
  exact if_neg (by simpa [Ctx.writeSpecial] using hmeets)

theorem mtsCtx_flg_meets {x : Word} {now : Nat} {c : Ctx} (h : c.span.isSome = true ∧ c.flagsAt = now) :
    mtsCtx 0x0F x now c = { c with flg := BitVec.ofNat 7 x.toNat ||| c.flagsIn } := by
  obtain ⟨hs, hf⟩ := h
  exact if_pos (by simp [Ctx.writeSpecial, hs, hf])

theorem mtsCtx_trapcause (x : Word) (now : Nat) (c : Ctx) : mtsCtx 0x19 x now c
    = { c with cause := BitVec.ofNat 8 x.toNat, inh := decide (x.toNat / 2 ^ 62 % 2 = 1), pprv := decide (x.toNat / 2 ^ 63 = 1) } := by
  have h63 : x.toNat / 2 ^ 63 % 2 = x.toNat / 2 ^ 63 := by omega
  have hinh : x.getLsbD 62 = decide (x.toNat / 2 ^ 62 % 2 = 1) := getLsbD_eq_decide ..
  have hpprv : x.getLsbD 63 = decide (x.toNat / 2 ^ 63 = 1) := by rw [getLsbD_eq_decide, h63]
  rw [mtsCtx_ne (by decide), ← hinh, ← hpprv]
  rfl

/-! ## Numbers that R68 does not give (R67) -/

theorem special_readable {s : State} {n : Nat} (h : specialValue s n = none ∨ 0x19 ≤ n ∧ n ≤ 0x1B) : srReadable n false = false := by
  rcases h with h | h
  · have hgiven : ∀ k, k ≤ 0x20 → specialValue s k ≠ none := by
      intro k hk
      interval_cases k <;> exact Option.some_ne_none _
    have hn : ¬ n ≤ 0x20 := fun hn => hgiven n hn h
    simp [srReadable, hn]
  · simp [srReadable, srPrivileged, h]

theorem special_writable {n : Nat} (h : ¬ n ∈ [0x0A, 0x0E, 0x0F, 0x10, 0x11, 0x12]) : srWritable n false = false := by
  simp only [List.mem_cons, List.not_mem_nil, or_false, not_or] at h
  simp [srWritable]
  omega

theorem leadsTo_single {i : Instr} {s : State} (h : AtHead i s) (hnext : s.leadsTo s.cur.pc [i] false
      = some (({ head := s.cur.pc, n := 1, idx := 0, back := s.cur.back } : Cv).next s.cur.pc (s.cur.pc + 32) s.cur.loops).2) :
    s.leadsTo s.cur.pc [i] false = some (s.cur.pc + 32) := hnext.trans (congrArg some (next_atHead h))

theorem special_bad {d : Reg} {n : BitVec 11} {s : State} {i : Instr} (hsys : s.onSys = false)
    (h : (i = .mfs d n ∧ (specialValue s n.toNat = none ∨ 0x19 ≤ n.toNat ∧ n.toNat ≤ 0x1B))
      ∨ (i = .mts d n ∧ (¬ n.toNat ∈ [0x0A, 0x0E, 0x0F, 0x10, 0x11, 0x12] ∨ n.toNat = 0x0A ∧ (s.reg d).toNat % 16 ≠ 0))) :
    (s.badStatic i s.cur.pc || s.badValue i) = true := by
  have hpriv : s.privileged = false := by simp [State.privileged, hsys]
  obtain ⟨rfl, h⟩ | ⟨rfl, h | ⟨h0A, hmod⟩⟩ := h
  · have hread : (!srReadable n.toNat s.privileged) = true := by rw [hpriv, special_readable h]; rfl
    exact Bool.or_eq_true_iff.mpr (Or.inl (Bool.or_eq_true_iff.mpr (Or.inr hread)))
  · have hwrite : (!srWritable n.toNat s.privileged) = true := by rw [hpriv, special_writable h]; rfl
    exact Bool.or_eq_true_iff.mpr (Or.inl (Bool.or_eq_true_iff.mpr (Or.inr hwrite)))
  · simp [State.badValue, h0A, hmod]

/-- Settles O17: reads, the read of AMAX, writes one register at a time, and the faults. -/
theorem specialRegisters : Obligations.SpecialRegisters := by
  intro d n s s1 v
  refine ⟨fun x h hx hw hidle => ?_, mfs_amax, ?_, fun r i h hs hbad => ?_⟩
  · obtain ⟨t, ht⟩ := mfs_reads h hw hidle
    rw [special_eq hx] at ht
    exact ⟨t, ht⟩
  · have plain : ∀ k : BitVec 11, k.toNat ≠ 0x0F → (k = 0x0F → retired s) := fun k hk h0 => absurd (congrArg BitVec.toNat h0) hk
    refine ⟨mts_writes (plain _ (by decide)) (mtsCtx_ne (by decide) _ _ _), mts_writes (plain _ (by decide)) (mtsCtx_ne (by decide) _ _ _),
      fun hret hmeets => mts_writes (fun _ => hret) (mtsCtx_flg_alone hmeets),
      fun hmeets => mts_writes (fun _ => Or.inl hmeets.1) (mtsCtx_flg_meets hmeets),
      mts_writes (plain _ (by decide)) (mtsCtx_ne (by decide) _ _ _), mts_writes (plain _ (by decide)) (mtsCtx_ne (by decide) _ _ _),
      mts_writes (plain _ (by decide)) (mtsCtx_ne (by decide) _ _ _), mts_writes (plain _ (by decide)) (mtsCtx_trapcause _ _ _),
      mts_writes (plain _ (by decide)) (mtsCtx_ne (by decide) _ _ _), mts_writes (plain _ (by decide)) (mtsCtx_ne (by decide) _ _ _)⟩
  · obtain ⟨hfetching, hsys, -⟩ := id h
    have hop := special_bad hsys hbad
    have hfault : s.front i = .error (.fault Exc.operand, 1, 0) := by
      obtain ⟨rfl, -⟩ | ⟨rfl, -⟩ := hbad
      · exact front_operand_fault h rfl rfl (leadsTo_single h rfl) rfl hop
      · exact front_operand_fault h rfl rfl (leadsTo_single h rfl) rfl hop
    have hbody : ∃ body, exec i s = issue i s body := by
      obtain ⟨rfl, -⟩ | ⟨rfl, -⟩ := hbad
      · exact ⟨_, exec_mfs d n s⟩
      · exact ⟨_, exec_mts d n s⟩
    obtain ⟨body, he⟩ := hbody
    rw [he]
    exact issue_fault hfetching hsys hs hfault rfl rfl rfl

end Sys2Proof.Proofs
end

section
/-! The host's side of the device: the security core (R356 to R358), bring-up (R355), power (R354), ports (R266, R267, R351,
R353), and what the host reads and writes (R342, R343, R347). -/

namespace Sys2Proof.Proofs

open Sys2Proof Sys2Proof.Machine Sys2Proof.Safety Sys2Proof.Claims Sys2Proof.Laws

/-! ## The security core (R356 to R358) -/

section security
variable {s : State} {cmd : Word} {err len result : Nat} {f : Sec → Sec}

/-- A command that starts: its time is free, and what it will answer is fixed. -/
theorem scStart_sec (h : s.sec.busy = false) : (s.scStart cmd err len result f).sec
    = f { s.sec with cmd := cmd, busy := true, resultErr := err, resultLen := len, result := result, due := s.now + 1 + Config.freeNat s.free } := by
  rw [State.scStart, if_neg (by simp [h])]
  rfl

theorem scStart_busy (h : s.sec.busy = true) : (s.scStart cmd err len result f).sec = { s.sec with err := 2 } := by
  rw [State.scStart, if_pos h]
end security

theorem exec_scAttest_left {s : State} (h : s.sec.left ≠ 0) : exec .scAttest s
    = .next (s.scStart 2 0 2948 (s.report + 2 ^ 1024 * bytesOf (Config.signature s.sec.index s.report) 2820) fun x => { x with left := x.left - 1 }) :=
  if_neg h

theorem exec_scAttest_used {s : State} (h : s.sec.left = 0) : exec .scAttest s = .next (s.scStart 2 3 0 0 id) := if_pos h

/-- Settles O55, command by command. -/
theorem securityCore : Obligations.SecurityCore := by
  intro s x
  refine ⟨fun h => ⟨_, rfl, ?_⟩, fun h => ⟨_, rfl, ?_⟩, fun h => ⟨_, rfl, ?_⟩, fun h hl => ⟨_, exec_scAttest_left hl, ?_⟩,
    fun h hl => ⟨_, exec_scAttest_used hl, ?_⟩, fun h => ⟨_, rfl, ?_⟩, fun h hd => ⟨_, if_pos (by simp [h, hd]), rfl, rfl, rfl, fun _ _ => rfl⟩⟩
  · rw [scStart_sec h]
    exact ⟨rfl, rfl, rfl⟩
  · rw [scStart_busy h]
    exact ⟨rfl, rfl⟩
  · rw [scStart_sec h]
    exact ⟨rfl, rfl⟩
  · rw [scStart_sec h]
    exact ⟨rfl, rfl⟩
  · rw [scStart_sec h]
    exact ⟨hl, rfl⟩
  · rw [scStart_sec h]
    exact ⟨rfl, rfl⟩

/-! ## Bring-up (R355) -/

theorem atStage_iff {s : State} {n : Nat} (hgo : s.bar.stopped = false) (h : s.bar.stage = n) : s.atStage n = true := by
  simp [State.atStage, h, hgo]

theorem err_bootErr_false (s : State) (bit : Nat) : (s.bootErr false bit).bar.err = s.bar.err := rfl

theorem err_bit (e : BitVec 4) {k : Nat} (h : k < 4) : (e ||| BitVec.ofNat 4 (2 ^ k)).getLsbD k = true := by
  have hk : k = 0 ∨ k = 1 ∨ k = 2 ∨ k = 3 := by omega
  rcases hk with rfl | rfl | rfl | rfl <;> simp

theorem core_setCores (value : Nat → Core) (l : List Nat) (k : Nat) : ∀ s : State,
    (l.foldl (fun s k => s.setCore (sysCore k) (value k)) s).core (sysCore k) = if k ∈ l then value k else s.core (sysCore k) := by
  induction l with
  | nil => intro s; rfl
  | cons a r ih =>
    intro s
    rw [List.foldl_cons, ih]
    by_cases hr : k ∈ r
    · rw [if_pos hr, if_pos (List.mem_cons_of_mem _ hr)]
    · by_cases ha : k = a
      · subst ha
        rw [if_neg hr, core_setCore_self, if_pos List.mem_cons_self]
      · rw [if_neg hr, core_setCore_ne _ _ (by simp [sysCore, ha]), if_neg (by simp [ha, hr])]

theorem bar_setCores (value : Nat → Core) (l : List Nat) : ∀ s : State,
    (l.foldl (fun s k => s.setCore (sysCore k) (value k)) s).bar = s.bar := by
  induction l with
  | nil => intro s; rfl
  | cons a r ih => intro s; exact ih (s.setCore (sysCore a) (value a))

theorem core_bootErr (s : State) (b : Bool) (bit c : Nat) : (s.bootErr b bit).core c = s.core c := by
  unfold State.bootErr
  split <;> rfl

theorem stage_bootErr (s : State) (b : Bool) (bit : Nat) : (s.bootErr b bit).bar.stage = s.bar.stage
    ∧ (s.bootErr b bit).bar.stopped = s.bar.stopped := by
  unfold State.bootErr
  split <;> exact ⟨rfl, rfl⟩

theorem err_bootErr_true {s : State} {bit : Nat} (h : bit < 4) : (s.bootErr true bit).bar.err.getLsbD bit = true := err_bit _ h

/-- A table without a word in error latches nothing to correct. -/
theorem latchReads_clean {s : State} (h : s.phys.syn = []) : s.latchReads = s := by
  rw [State.latchReads, h]
  rfl

theorem walked_clean {m : Space} (h : m.syn = []) : m.walked = m.bytes := by
  rw [Space.walked, h]
  rfl

/-- Words that are copied may be marked and counted as poisoned; the clock, the debug unit and the other registers stay. -/
structure Copied (s t : State) : Prop where
  bar : ∃ n, t.bar = { s.bar with poisoned := n }
  dbg : t.dbg = s.dbg
  now : t.now = s.now
  dtoff : t.dtoff = s.dtoff
  ports : t.ports = s.ports
  disp : t.disp = s.disp
  slice : t.slice = s.slice
  phc : t.phc = s.phc

theorem Copied.refl (s : State) : Copied s s := ⟨⟨_, rfl⟩, rfl, rfl, rfl, rfl, rfl, rfl, rfl⟩

theorem Copied.trans {s t u : State} (h : Copied s t) (g : Copied t u) : Copied s u := by
  obtain ⟨n, hn⟩ := h.bar
  obtain ⟨k, hk⟩ := g.bar
  exact ⟨⟨k, by rw [hk, hn]⟩, g.dbg.trans h.dbg, g.now.trans h.now, g.dtoff.trans h.dtoff, g.ports.trans h.ports, g.disp.trans h.disp,
    g.slice.trans h.slice, g.phc.trans h.phc⟩

theorem copied_foldl {α : Type} {f : State → α → State} (hf : ∀ s a, Copied s (f s a)) (l : List α) : ∀ s, Copied s (l.foldl f s) := by
  induction l with
  | nil => exact Copied.refl
  | cons a r ih => exact fun s => (hf s a).trans (ih _)

theorem copied_modSpace (s : State) (p : Place) (f : Space → Space) : Copied s (s.modSpace p f) := by
  cases p <;> exact ⟨⟨_, rfl⟩, rfl, rfl, rfl, rfl, rfl, rfl, rfl⟩

theorem copied_markBad (s : State) (p : Place) (w : Nat) : Copied s (s.markBad p w) := by
  unfold State.markBad
  split
  · exact (copied_modSpace s p _).trans ⟨⟨_, rfl⟩, rfl, rfl, rfl, rfl, rfl, rfl, rfl⟩
  · exact Copied.refl s

theorem copied_copied (s : State) (p : Place) (ws : List Nat) : Copied s (s.copied p ws) := by
  unfold State.copied
  split
  · exact Copied.refl s
  · exact (copied_modSpace s p _).trans (copied_foldl (fun s w => copied_markBad s p w) ws _)

theorem copied_latchReads (s : State) : Copied s s.latchReads := by
  refine copied_foldl (fun u p => ?_) _ s
  split
  · have hdraw : Copied u u.drawBool.2 := ⟨⟨_, rfl⟩, rfl, rfl, rfl, rfl, rfl, rfl, rfl⟩
    dsimp only
    split
    · exact hdraw.trans (copied_copied _ _ _)
    · exact hdraw
  · exact Copied.refl u

/-- GO, before the held write to SUB is taken (R355). -/
def gone (s : State) : State :=
  let s := s.latchReads
  let s := State.toStage { s with dtoff := s.dtoff + s.bar.dtadj, sysTables := s.phys.walked } 6
  { s with disp := { s.disp with heldSub := none } }

theorem exec_bootGo {s : State} (h : s.atStage 5 = true) :
    ∃ t, exec .bootGo s = .next t ∧ t.bar = (gone s).bar ∧ t.dtime = (gone s).dtime ∧ t.sysTables = (gone s).sysTables ∧ t.dbg = (gone s).dbg := by
  refine ⟨_, if_pos h, ?_⟩
  split
  · unfold State.acceptSub
    split <;> exact ⟨rfl, rfl, rfl, rfl⟩
  · exact ⟨rfl, rfl, rfl, rfl⟩

theorem gone_state (s : State) : (gone s).bar.stage = 6 ∧ (gone s).dtime = s.dtime + s.bar.dtadj
    ∧ (s.phys.syn = [] → (gone s).sysTables = s.phys.bytes) ∧ (gone s).dbg = s.dbg := by
  obtain ⟨⟨n, hbar⟩, hdbg, hnow, hdtoff, -, -, -, -⟩ := copied_latchReads s
  refine ⟨rfl, ?_, fun h => ?_, hdbg⟩
  · change BitVec.ofNat 64 s.latchReads.now + (s.latchReads.dtoff + s.latchReads.bar.dtadj) = _
    rw [hnow, hdtoff, hbar, ← BitVec.add_assoc]
    rfl
  · change s.latchReads.phys.walked = _
    rw [latchReads_clean h, walked_clean h]

theorem mem_dark (p : Nat) : p ∈ (rangeFrom 0 48).filter (fun p => !Config.portLocks p) ↔ p < 48 ∧ Config.portLocks p = false := by
  rw [List.mem_filter, mem_rangeFrom]
  simp

/-- The device once the ports are trained, but for ERR. -/
def portsTrained (s : State) (dark : List Nat) : State := State.toStage { s with ports := { s.ports with trained := true, dark := dark } } 4

/-- A system core with its image, privileged at word 0. -/
def systemCore (k : Nat) : Core := { ctxs := [(0, { st := .run, priv := true })], ist := scerathStore k }

theorem systemCore_ctx (k : Nat) : (systemCore k).ctx 0 = { st := .run, priv := true } := by
  unfold systemCore
  generalize scerathStore k = image
  rfl

/-- The device once system software is loaded, but for ERR (log 10). -/
def scerathLoaded (s : State) : State :=
  State.toStage ((rangeFrom 0 8).foldl (fun s k => s.setCore (sysCore k) (systemCore k)) { s with phys := s.phys.placeKernel }) 5

theorem exec_portTraining {s : State} (h : s.atStage 3 = true) : exec .portTraining s
    = .next ((portsTrained s ((rangeFrom 0 48).filter fun p => !Config.portLocks p)).bootErr
      (!((rangeFrom 0 48).filter fun p => !Config.portLocks p).isEmpty) 2) := if_pos h

theorem exec_scerathLoad {s : State} (h : s.atStage 4 = true) :
    exec .scerathLoad s = .next ((scerathLoaded s).bootErr (!Config.driveOk) 3) := if_pos h

theorem portTraining_leads {s : State} (hgo : s.bar.stopped = false) (h : s.bar.stage = 3) :
    ∃ t, exec .portTraining s = .next t ∧ t.bar.stage = 4 ∧ t.bar.stopped = false ∧ t.ports.trained = true
      ∧ (∀ p, p < 48 → (p ∈ t.ports.dark ↔ Config.portLocks p = false))
      ∧ (∀ p, p < 48 → Config.portLocks p = false → t.bar.err.getLsbD 2 = true)
      ∧ ((∀ p, p < 48 → Config.portLocks p = true) → t.bar.err = s.bar.err) := by
  refine ⟨_, exec_portTraining (atStage_iff hgo h), ?_⟩
  have hmem := mem_dark
  generalize (rangeFrom 0 48).filter (fun p => !Config.portLocks p) = dark at hmem ⊢
  have hports : ((portsTrained s dark).bootErr (!dark.isEmpty) 2).ports = (portsTrained s dark).ports := by
    unfold State.bootErr
    split <;> rfl
  obtain ⟨hstage, hstopped⟩ := stage_bootErr (portsTrained s dark) (!dark.isEmpty) 2
  refine ⟨hstage, hstopped.trans hgo, by rw [hports]; rfl, fun p hp => ?_, fun p hp hd => ?_, fun hall => ?_⟩
  · rw [hports]
    exact (hmem p).trans (and_iff_right hp)
  · have hne : (!dark.isEmpty) = true := by
      have := (hmem p).mpr ⟨hp, hd⟩
      cases dark with
      | nil => exact absurd this List.not_mem_nil
      | cons => rfl
    rw [hne]
    exact err_bootErr_true (by decide)
  · have hnil : dark = [] := List.eq_nil_iff_forall_not_mem.mpr fun p hp => by
      obtain ⟨hlt, hlock⟩ := (hmem p).mp hp
      exact absurd (hall p hlt) (by simp [hlock])
    rw [hnil]
    exact err_bootErr_false _ _

theorem scerathLoaded_bar (s : State) : (scerathLoaded s).bar = { s.bar with stage := 5 } := by
  change { (_ : State).bar with stage := 5 } = _
  rw [bar_setCores]

theorem core_toStage (s : State) (n c : Nat) : (s.toStage n).core c = s.core c := rfl

theorem scerathLoaded_core (s : State) {k : Nat} (h : k < 8) : (scerathLoaded s).core (sysCore k) = systemCore k := by
  rw [scerathLoaded, core_toStage, core_setCores, if_pos ((mem_rangeFrom 8 0 k).mpr ⟨Nat.zero_le _, by omega⟩)]

theorem scerathLoad_leads {s : State} (hgo : s.bar.stopped = false) (h : s.bar.stage = 4) :
    ∃ t, exec .scerathLoad s = .next t ∧ t.bar.stage = 5 ∧ t.bar.stopped = false
      ∧ (Config.driveOk = false → t.bar.err.getLsbD 3 = true) ∧ (Config.driveOk = true → t.bar.err = s.bar.err)
      ∧ ∀ k, k < 8 → (t.ctx (sysCore k) 0).priv = true ∧ (t.ctx (sysCore k) 0).pc = 0 := by
  obtain ⟨hstage, hstopped⟩ := stage_bootErr (scerathLoaded s) (!Config.driveOk) 3
  refine ⟨_, exec_scerathLoad (atStage_iff hgo h), hstage.trans ?_, hstopped.trans ?_, fun hno => ?_, fun hok => ?_, fun k hk => ?_⟩
  · rw [scerathLoaded_bar]
  · rw [scerathLoaded_bar]
    exact hgo
  · rw [hno]
    exact err_bootErr_true (by decide)
  · rw [hok, Bool.not_true, err_bootErr_false, scerathLoaded_bar]
  · rw [State.ctx, core_bootErr, scerathLoaded_core s hk, systemCore_ctx]
    exact ⟨rfl, rfl⟩

theorem powered_dtime (now : Nat) : BitVec.ofNat 64 now + (0 - BitVec.ofNat 64 now) = 0 := by
  bv_omega

/-- Settles O54, stage by stage. -/
theorem bringUp : Obligations.BringUp := by
  intro s hgo
  refine ⟨fun h => ⟨_, if_pos (atStage_iff hgo h), fun hok => ?_, fun hno => ?_⟩, fun h => ⟨_, if_pos (atStage_iff hgo h), fun hok => ?_, fun hno => ?_⟩,
    fun h => ⟨_, if_pos (atStage_iff hgo h), fun hok => ?_, fun hno => ?_⟩, portTraining_leads hgo, scerathLoad_leads hgo,
    fun h => ?_, ⟨_, rfl, rfl, rfl, rfl, rfl, rfl, rfl, rfl⟩⟩
  · rw [if_pos hok]
    exact ⟨rfl, powered_dtime s.now⟩
  · rw [if_neg (by simp [hno])]
    exact h
  · rw [if_pos hok]
    exact ⟨rfl, rfl⟩
  · rw [if_neg (by simp [hno])]
    exact ⟨h, rfl, err_bit _ (by decide)⟩
  · rw [if_pos hok]
    exact ⟨rfl, rfl, rfl⟩
  · rw [if_neg (by simp [hno])]
    exact ⟨h, rfl, err_bit _ (by decide)⟩
  · obtain ⟨t, ht, hbar, hdtime, htables, hdbg⟩ := exec_bootGo (atStage_iff hgo h)
    obtain ⟨hstage, hgdtime, hgtables, hgdbg⟩ := gone_state s
    refine ⟨t, ht, by rw [hbar, hstage], hdtime.trans hgdtime, fun hsyn => htables.trans (hgtables hsyn), fun hpanic => ?_⟩
    simp [State.dispLive, hbar, hstage, hdbg, hgdbg, hpanic]

/-! ## Power (R354) -/

theorem popReady_ready (s : State) (id : Nat) : (s.popReady id).disp.ready = s.disp.ready.filter fun b => b.lr.sliceid != id := by
  unfold State.popReady
  obtain ⟨-, hdisp⟩ := putReadys_keep (s.disp.ready.filter fun b => b.lr.sliceid == id)
    { s with disp := { s.disp with ready := s.disp.ready.filter fun b => b.lr.sliceid != id } }
  rw [hdisp]

/-- What is taken out of the ready queue slice by slice leaves only what it does not name. -/
theorem mem_popReadys (l : List Ready) : ∀ (s : State) (b : Ready), b ∈ (l.foldl (fun s b => s.popReady b.lr.sliceid) s).disp.ready →
    b ∈ s.disp.ready ∧ ∀ a ∈ l, b.lr.sliceid ≠ a.lr.sliceid := by
  induction l with
  | nil => exact fun s b h => ⟨h, fun a ha => absurd ha List.not_mem_nil⟩
  | cons a r ih =>
    intro s b h
    obtain ⟨hb, hr⟩ := ih (s.popReady a.lr.sliceid) b h
    rw [popReady_ready, List.mem_filter, bne_iff_ne] at hb
    exact ⟨hb.1, List.forall_mem_cons.mpr ⟨hb.2, hr⟩⟩

theorem popReadys_empty (s : State) (l : List Ready) : ((l ++ s.disp.ready).foldl (fun s b => s.popReady b.lr.sliceid) s).disp.ready = [] :=
  List.eq_nil_iff_forall_not_mem.mpr fun b h => by
    obtain ⟨hb, hne⟩ := mem_popReadys _ s b h
    exact hne b (List.mem_append_right _ hb) rfl

theorem ready_walkEnds (s : State) (w : Option Nat) (completed : Bool) : (s.walkEnds w completed).disp.ready = s.disp.ready := by
  unfold State.walkEnds
  split
  · rfl
  · split <;> rfl

/-- With nothing ready, none is picked. -/
theorem pick_ready_nil {s : State} (h : s.disp.ready = []) : s.pick = s := by
  unfold State.pick
  split
  · rfl
  · rw [h]
    rfl

theorem endSlice_ready_nil {s : State} {completed : Bool} (h : s.disp.ready = []) : (s.endSlice completed).disp.ready = [] := by
  unfold State.endSlice
  split
  · exact h
  · dsimp only
    rw [pick_ready_nil] <;> exact (ready_walkEnds _ _ _).trans h

/-- A slice that waited is told as killed. -/
def tellKilled (s : State) (b : Ready) : State := ((s.sendRecord (s.killRecord b 0 (2 ^ 62))).walkEnds b.walk false).sysEvent 2

theorem tellKilled_keeps (l : List Ready) : ∀ s : State, (l.foldl tellKilled s).slice = s.slice ∧ (l.foldl tellKilled s).disp.ready = s.disp.ready := by
  induction l with
  | nil => exact fun s => ⟨rfl, rfl⟩
  | cons b r ih =>
    intro s
    obtain ⟨hslice, hready⟩ := ih (tellKilled s b)
    exact ⟨hslice.trans (walkEnds_keeps (s.sendRecord (s.killRecord b 0 (2 ^ 62))) _ _).1,
      hready.trans (ready_walkEnds (s.sendRecord (s.killRecord b 0 (2 ^ 62))) _ _)⟩

/-- The running slice is killed, if there is one. -/
def killsRunning (s : State) : State := match s.slice with | some r => s.killRunning r 0 (2 ^ 62) | none => s

theorem killsRunning_none {s : State} (h : s.disp.ready = []) : (killsRunning s).slice = none ∧ (killsRunning s).disp.ready = [] := by
  unfold killsRunning
  split
  · exact ⟨(endSlice_ends _ _).1, endSlice_ready_nil h⟩
  next hs => exact ⟨hs, h⟩

theorem killAll_none (s : State) : s.killAll.slice = none ∧ s.killAll.disp.ready = [] := by
  let waiting := s.disp.picked.toList ++ s.disp.ready
  let popped := waiting.foldl (fun s b => s.popReady b.lr.sliceid) s
  obtain ⟨hslice, hready⟩ := killsRunning_none (s := { popped with disp := { popped.disp with picked := none } }) (popReadys_empty s _)
  obtain ⟨hkslice, hkready⟩ := tellKilled_keeps waiting (killsRunning { popped with disp := { popped.disp with picked := none } })
  exact ⟨hkslice.trans hslice, hkready.trans hready⟩

theorem tripNow_kills (s : State) (power temp : Nat) : (s.tripNow power temp).power.trip = true ∧ (s.tripNow power temp).slice = none
    ∧ (s.tripNow power temp).disp.ready = [] := by
  obtain ⟨hslice, hready⟩ := killAll_none (s.measure power temp)
  exact ⟨rfl, hslice, hready⟩

theorem measure_warns (s : State) (power temp : Nat) : (s.measure power temp).power.warn = (decide (2900 < power) || decide (100 < temp))
    ∧ (s.measure power temp).cores = s.cores ∧ (s.measure power temp).slice = s.slice ∧ SameMemory s (s.measure power temp) := by
  unfold State.measure
  dsimp only
  split <;> exact ⟨rfl, rfl, rfl, fun p a => by cases p <;> rfl⟩

/-- Settles O57: a measurement shows, and a trip kills every slice. -/
theorem powerSteps : Obligations.PowerSteps := by
  intro s power temp
  refine ⟨fun h => ⟨s.measure power temp, congrArg Host.Outcome.next (if_neg (by simp; omega)), measure_warns s power temp⟩,
    fun h htrip => ⟨_, if_neg (by simp [trips, htrip]; omega), tripNow_kills s power temp⟩, fun h htrip => ?_⟩
  obtain ⟨ht, hslice, -⟩ := tripNow_kills s power temp
  exact ⟨s.tripNow power temp, congrArg Host.Outcome.next (if_pos (by simp [h, htrip])), ht, hslice⟩

/-! ## The ports (R266, R267, R351, R353) -/

/-- The bits of a number above w bits are those of what stands there. -/
theorem field_upper {x b w : Nat} (hb : b < 2 ^ w) (hi lo : Nat) : field (x * 2 ^ w + b) (w + hi) (w + lo) = field x hi lo := by
  have hwidth : w + hi + 1 - (w + lo) = hi + 1 - lo := by omega
  have hdiv : (x * 2 ^ w + b) / 2 ^ w = x := by
    rw [Nat.mul_comm, Nat.mul_add_div (Nat.two_pow_pos w), Nat.div_eq_of_lt hb, Nat.add_zero]
  rw [field_eq, field_eq, hwidth, Nat.pow_add, ← Nat.div_div_eq_div_mul, hdiv]

theorem field_whole {x k : Nat} (h : x < 2 ^ (k + 1)) : field x k 0 = x := by
  rw [field_eq, Nat.pow_zero, Nat.div_one]
  exact Nat.mod_eq_of_lt h

/-- The header, the CRC and the body of a flit. -/
theorem flit_toNat {w : Nat} (h c : BitVec 32) (b : BitVec w) : (h ++ c ++ b).toNat = (h.toNat * 2 ^ 32 + c.toNat) * 2 ^ w + b.toNat := by
  rw [BitVec.toNat_append, ← Nat.shiftLeft_add_eq_or_of_lt b.isLt, Nat.shiftLeft_eq, BitVec.toNat_append,
    ← Nat.shiftLeft_add_eq_or_of_lt c.isLt, Nat.shiftLeft_eq]

/-- The header of a flit. -/
def flitHeader (cls seq dest : Nat) : BitVec 32 := BitVec.ofNat 32 (cls % 8 + 2 ^ 3 * (seq % 8192) + 2 ^ 16 * (dest % 4096))

theorem flitHeader_toNat (cls seq dest : Nat) : (flitHeader cls seq dest).toNat = cls % 8 + 2 ^ 3 * (seq % 8192) + 2 ^ 16 * (dest % 4096) := by
  rw [flitHeader, BitVec.toNat_ofNat]
  omega

theorem mkFlit_toNat (cls seq dest : Nat) (body : BitVec 576) : (mkFlit cls seq dest body).toNat
    = ((flitHeader cls seq dest).toNat * 2 ^ 32 + (crcBits body.toNat 576 0).toNat) * 2 ^ 576 + body.toNat := flit_toNat _ _ _

section flit
variable {cls seq dest : Nat} {body : BitVec 576}

theorem mkFlit_body : (mkFlit cls seq dest body).toNat % 2 ^ 576 = body.toNat := by
  rw [mkFlit_toNat, Nat.mul_add_mod', Nat.mod_eq_of_lt body.isLt]

theorem mkFlit_header (hi lo : Nat) : field (mkFlit cls seq dest body).toNat (576 + (32 + hi)) (576 + (32 + lo))
    = field (flitHeader cls seq dest).toNat hi lo := by
  rw [mkFlit_toNat, field_upper body.isLt, field_upper (crcBits body.toNat 576 0).isLt]

theorem mkFlit_crc : field (mkFlit cls seq dest body).toNat 607 576 = (crcBits body.toNat 576 0).toNat := by
  have h := field_upper (x := (flitHeader cls seq dest).toNat * 2 ^ 32 + (crcBits body.toNat 576 0).toNat) body.isLt 31 0
  rw [← mkFlit_toNat] at h
  refine h.trans ?_
  rw [field_eq, Nat.pow_zero, Nat.div_one, Nat.mul_add_mod']
  exact Nat.mod_eq_of_lt (crcBits body.toNat 576 0).isLt

theorem mkFlit_dest (h : dest < 4096) : field (mkFlit cls seq dest body).toNat 635 624 = dest := by
  refine (mkFlit_header 27 16).trans ?_
  rw [field_eq, flitHeader_toNat]
  omega

theorem mkFlit_seq (h : seq < 8192) : field (mkFlit cls seq dest body).toNat 623 611 = seq := by
  refine (mkFlit_header 15 3).trans ?_
  rw [field_eq, flitHeader_toNat]
  omega
end flit

/-- What the ports have received stays what it is. -/
def SameReceived (s t : State) : Prop := t.ports.received = s.ports.received

theorem received_answerPeer (s : State) (m : Nat) : SameReceived s (s.answerPeer m) := by
  unfold State.answerPeer
  dsimp only
  split
  · change (s.drawWord.2.copied .phys _).ports.received = _
    rw [(copied_copied s.drawWord.2 _ _).ports]
    rfl
  · rfl

theorem received_peerWrite (s : State) (body : Nat) : SameReceived s (s.peerWrite body) := rfl

theorem received_takeResponse (s : State) (m body : Nat) : SameReceived s (s.takeResponse m body) := by
  unfold State.takeResponse
  split
  · rfl
  · dsimp only
    split <;> rfl

/-- What a delivered flit does, by its class. -/
def deliver (m cls body : Nat) (s : State) : State :=
  match cls with
  | 0 => s.answerPeer m
  | 1 => s.peerWrite body
  | 2 => s.takeResponse m body
  | _ => s

theorem received_deliver (m cls body : Nat) (s : State) : SameReceived s (deliver m cls body s) := by
  unfold deliver
  split
  · exact received_answerPeer s m
  · exact received_peerWrite s body
  · exact received_takeResponse s m body
  · rfl

/-- A flit that every check of R267 passes is delivered. -/
theorem flit_delivered {s : State} {port m cls : Nat} {body : BitVec 576} (hport : port < 48) (hlive : s.portsLive = true)
    (hdark : s.ports.dark = []) (hslot : slotRx (s.ports.entry port s.slot) = some m) (hm : m < 4096) (hguard : inGuard s.dtime.toNat = false)
    (hseq : SMap.get 0 s.ports.rxseq m < 8192) :
    ∃ t, exec (.flitReceive port (mkFlit cls (SMap.get 0 s.ports.rxseq m) m body)) s = .next t
      ∧ t.ports.received = s.ports.received ++ [(m, body)] := by
  have hcrc : (BitVec.ofNat 32 (field (mkFlit cls (SMap.get 0 s.ports.rxseq m) m body).toNat 607 576)
      == crcBits ((mkFlit cls (SMap.get 0 s.ports.rxseq m) m body).toNat % 2 ^ 576) 576 0) = true := by
    rw [mkFlit_crc, mkFlit_body, BitVec.ofNat_toNat, BitVec.setWidth_eq, beq_self_eq_true]
  have hlive' : (!(decide (port < 48) && s.portsLive) || s.ports.dark.contains port) = false := by simp [hport, hlive, hdark]
  have hexec : exec (.flitReceive port (mkFlit cls (SMap.get 0 s.ports.rxseq m) m body)) s = execFlitReceive port _ s := rfl
  unfold execFlitReceive at hexec
  simp only [hlive', hslot, hguard, hcrc, mkFlit_dest hm, mkFlit_seq hseq, Bool.false_eq_true, if_false, Bool.not_false, beq_self_eq_true,
    Bool.and_true, if_true] at hexec
  refine ⟨_, hexec, (received_deliver m (field (mkFlit cls (SMap.get 0 s.ports.rxseq m) m body).toNat 610 608)
    ((mkFlit cls (SMap.get 0 s.ports.rxseq m) m body).toNat % 2 ^ 576) _).trans ?_⟩
  dsimp only
  rw [mkFlit_body, BitVec.ofNat_toNat, BitVec.setWidth_eq]

/-- Settles O56. -/
theorem portSteps : Obligations.PortSteps := by
  intro s port
  refine ⟨fun h hrot => ⟨_, if_pos (by simp [h, hrot]), rfl, fun x hx => ?_⟩, fun h hslot => ⟨_, if_pos (by simp [h, hslot]), rfl, rfl⟩,
    fun m cls body r h => ?_, fun m cls body hport hlive hdark hslot hm _ hguard hseq => flit_delivered hport hlive hdark hslot hm hguard hseq⟩
  · rw [hx]
    exact get_set_self _ _ _ _
  · have hexec : exec (.flitTransmit port) s = execFlitTransmit port s := rfl
    unfold execFlitTransmit at hexec
    rw [h] at hexec
    refine ⟨_, hexec, ?_⟩
    dsimp only
    split <;> rfl

end Sys2Proof.Proofs
end

section
/-! What the host reads and writes (R342, R343, R347, R353). -/

namespace Sys2Proof.Proofs

open Sys2Proof Sys2Proof.Machine Sys2Proof.Safety Sys2Proof.Claims Sys2Proof.Laws

/-! ## Memories without an error -/

theorem check_clean {m : Space} (h : m.syn = []) (w : Nat) : m.check w = .good := by
  rw [Space.check, h]
  rfl

theorem bad_clean {m : Space} (h : m.syn = []) (w : Nat) : m.bad w = false := by
  rw [Space.bad, check_clean h]
  rfl

theorem readBits_clean {m : Space} (h : m.syn = []) (a n : Nat) : m.readBits a n = m.bytes.bits a n := by
  unfold Space.readBits
  dsimp only
  rw [h]
  exact if_pos (List.all_eq_true.mpr fun _ _ => rfl)

theorem copied_clean {s : State} {p : Place} (h : (s.spaceAt p).syn = []) (ws : List Nat) : s.copied p ws = s := by
  rw [State.copied, h]
  rfl

theorem writeRaw_clean {m : Space} (h : m.syn = []) (a n x : Nat) : m.writeRaw a n x = { m with bytes := m.bytes.setBits a n x } := by
  simp [Space.writeRaw, h]

theorem addSat_zero (x : BitVec 32) : addSat x 0 = x := by
  have hx := x.isLt
  have hmin : Nat.min (x.toNat + 0) (2 ^ 32 - 1) = x.toNat := Nat.min_eq_left (by omega)
  rw [addSat, hmin, BitVec.ofNat_toNat, BitVec.setWidth_eq]

theorem countPoison_zero (s : State) : s.countPoison 0 = s := by
  rw [State.countPoison, addSat_zero]

/-- A scrub of good words changes nothing and poisons none (R347). -/
theorem scrub_clean {m : Space} (h : m.syn = []) (l : List Nat) : l.foldl (fun (acc : Space × Nat) w =>
    let x := acc.1.scrub w
    (x.1, acc.2 + x.2)) (m, 0) = (m, 0) := by
  induction l with
  | nil => rfl
  | cons w r ih =>
    have hw : m.scrub w = (m, 0) := by rw [Space.scrub, check_clean h]
    rw [List.foldl_cons]
    dsimp only
    rw [hw]
    exact ih

/-! ## Registers and slot tables (R342, R353) -/

theorem setConfig_sqbase (s : State) (x : Word) : exec (.registerWrite 0 0x008 x) s
    = .next (s.setConfig fun b => { b with sqbase := clearLow x 9 }) := rfl

/-! ## The host window (R343) -/

/-- A word that a write covers whole is the one part of it. -/
theorem wordsOf_aligned {a : Nat} (h : a % 64 = 0) : wordsOf a 64 = [a / 64] := by
  have hcount : (a + 64 - 1) / 64 + 1 - a / 64 = 1 := by omega
  rw [wordsOf, if_neg (by decide), hcount]
  rfl

theorem partOf_aligned {a : Nat} (h : a % 64 = 0) (x : Nat) : partOf a 64 x (a / 64) = (a, 64, x % 2 ^ 64) := by
  have hword : 64 * (a / 64) = a := by omega
  simp only [partOf, hword, Nat.max_self, Nat.min_self, Nat.add_sub_cancel_left, Nat.sub_self, Nat.shiftRight_zero]

/-- The state after a write of one whole word of memory without errors. -/
theorem windowWrite_aligned {s : State} {off y : Nat} (hok : s.windowOk off 8 = true) (ha : s.windowAddr off % 64 = 0) (hsyn : s.phys.syn = []) :
    exec (.hostWindowWrite off 8 y) s = .next { s with phys := { s.phys with bytes := s.phys.bytes.setBits (s.windowAddr off) 64 (y % 2 ^ 64) } } := by
  have hexec : exec (.hostWindowWrite off 8 y) s = execHostWindowWrite off 8 y s := rfl
  unfold execHostWindowWrite at hexec
  rw [hexec]
  dsimp only
  rw [hok, wordsOf_aligned ha]
  simp only [Bool.not_true, Bool.false_eq_true, if_false, List.foldl_cons, List.foldl_nil, List.filter_cons, List.filter_nil,
    partOf_aligned ha, bad_clean hsyn, Bool.and_false, Bool.false_and, writeRaw_clean hsyn]
  exact congrArg Host.Outcome.next (countPoison_zero _)

/-- A scrub of a sector of memory without errors. -/
theorem patrolScrub_clean {s : State} {sector : Nat} (hsec : 512 * sector < moduleBits) (hstage : 3 ≤ s.bar.stage) (hsyn : s.phys.syn = []) :
    ∃ t, exec (.patrolScrub sector) s = .next t ∧ t.phys = s.phys ∧ t.bar.corrected = s.bar.corrected ∧ t.bar.poisoned = s.bar.poisoned := by
  have hexec : exec (.patrolScrub sector) s = execPatrolScrub sector s := rfl
  unfold execPatrolScrub at hexec
  rw [if_pos (by simp [hsec, hstage]), scrub_clean hsyn] at hexec
  dsimp only at hexec
  rw [countPoison_zero] at hexec
  exact ⟨_, hexec, rfl, rfl, rfl⟩

/-- A read through the window of memory without errors. -/
theorem windowRead_clean {s : State} {off : Nat} (hok : s.windowOk off 8 = true) (hsyn : s.phys.syn = []) :
    ∃ t, exec (.hostWindowRead off 8) s = .next t ∧ t.hostRead.data = s.phys.bytes.bits (s.windowAddr off) 64
      ∧ t.hostRead.ur = false ∧ t.phys = s.phys := by
  refine ⟨_, congrArg Host.Outcome.next (if_pos hok), readBits_clean hsyn _ _, rfl, ?_⟩
  change (s.copied .phys _).phys = s.phys
  rw [copied_clean (s := s) (p := .phys) hsyn]

/-- Settles O53. -/
theorem hostAccess : Obligations.HostAccess := by
  intro s x port entry sector off y pa
  have hlow : field x.toNat 31 0 = x.toNat % 2 ^ 32 := by rw [field_eq, Nat.pow_zero, Nat.div_one]
  have hhigh : field x.toNat 63 32 = x.toNat / 2 ^ 32 := by
    have hx := x.isLt
    rw [field_eq]
    exact Nat.mod_eq_of_lt (by omega)
  refine ⟨fun h => ⟨_, setConfig_sqbase s x, ?_⟩, fun h => ?_,
    ⟨_, rfl, fun h => if_pos (hlow.trans h), fun h => if_pos (hhigh.trans h), fun p a => by cases p <;> rfl⟩,
    fun hp he => ⟨_, if_pos (by simp [hp, he]), rfl, ?_⟩, patrolScrub_clean, windowRead_clean,
    fun hno => ⟨_, congrArg Host.Outcome.next (if_neg (by simp [hno])), rfl⟩,
    fun hok ha hsyn => ⟨_, windowWrite_aligned hok ha hsyn, ?_, rfl, rfl⟩, fun hno => if_pos (by simp [hno])⟩
  · rw [State.setConfig, if_neg h]
    exact ⟨rfl, rfl⟩
  · rw [setConfig_sqbase, State.setConfig, if_pos h]
  · rw [get?_put_self, field_eq, field_eq, Nat.pow_zero, Nat.div_one]
  · exact (bits_setBits _ _ _ _).trans (Nat.mod_mod _ _)

end Sys2Proof.Proofs
end

section
/-! Faults and panics (R31, R299, R323), the word that is no instruction (R53, R54), and traps (R300, R301, R303). -/

namespace Sys2Proof.Proofs

open Sys2Proof Sys2Proof.Machine Sys2Proof.Safety Sys2Proof.Claims Sys2Proof.Laws

/-! ## What the dispatcher's tables and the picker leave alone -/

/-- Entries of the ready queue are written to module memory alone. -/
theorem putReadys_eq (l : List Ready) (valid : Bool) : ∀ s : State, ∃ m, l.foldl (fun s b => s.putReady b valid) s = { s with phys := m } := by
  induction l with
  | nil => exact fun s => ⟨s.phys, rfl⟩
  | cons b r ih =>
    intro s
    obtain ⟨m, hm⟩ := ih (s.putReady b valid)
    exact ⟨m, hm⟩

theorem popReady_eq (s : State) (id : Nat) : ∃ m, s.popReady id
    = { s with phys := m, disp := { s.disp with ready := s.disp.ready.filter fun b => b.lr.sliceid != id } } :=
  putReadys_eq _ false _

/-- What the picker moves: module memory, the free choices, and the queue and the pick of the dispatcher. -/
theorem pick_eq (s : State) : ∃ m n q p a, s.pick
    = { s with phys := m, free := n, disp := { s.disp with ready := q, picked := p, startAt := a } } := by
  unfold State.pick
  split
  · exact ⟨_, _, _, _, _, rfl⟩
  · split
    · exact ⟨_, _, _, _, _, rfl⟩
    next b _ =>
      obtain ⟨m, hm⟩ := popReady_eq s.drawNat.2 b.lr.sliceid
      dsimp only
      rw [hm]
      exact ⟨_, _, _, _, _, rfl⟩

theorem phc_walkEnds (s : State) (w : Option Nat) (completed : Bool) : (s.walkEnds w completed).phc = s.phc := by
  unfold State.walkEnds
  split
  · rfl
  · split <;> rfl

theorem phc_endSlice (s : State) (completed : Bool) : (s.endSlice completed).phc = s.phc := by
  unfold State.endSlice
  split
  · rfl
  · dsimp only
    obtain ⟨m, n, q, p, a, h⟩ := pick_eq (((_ : State).walkEnds _ completed).sysEvent 2)
    rw [h]
    exact phc_walkEnds _ _ _

/-! ## Faults (R31, R299, R323) -/

/-- The state in which a fault is raised: the word that it poisons is marked (R348). -/
def faultMarked (s : State) (o : Origin) (e : Exc) : State :=
  match e.word with | some w => s.markBad (e.place.getD (.loc (e.origin.getD o).core)) w | none => s

theorem copied_faultMarked (s : State) (o : Origin) (e : Exc) : Copied s (faultMarked s o e) := by
  unfold faultMarked
  split
  · exact copied_markBad _ _ _
  · exact Copied.refl s

/-- The race that a fault tells of is logged (R270). -/
def raceLogged (s : State) (e : Exc) : State :=
  match e.race with | some x => (if s.lr.racem = 3 then s.logRace x else s).putRaceLog | none => s

theorem raceLogged_keeps (s : State) (e : Exc) : (raceLogged s e).slice = s.slice ∧ (raceLogged s e).disp = s.disp ∧ (raceLogged s e).phc = s.phc := by
  unfold raceLogged
  split
  · split
    · unfold State.logRace
      split <;> exact ⟨rfl, rfl, rfl⟩
    · exact ⟨rfl, rfl, rfl⟩
  · exact ⟨rfl, rfl, rfl⟩

/-- The record of a fault. -/
def faultRecord (s : State) (o : Origin) (e : Exc) (r : SliceRun) : Record :=
  { s.mkRecord (e.origin.getD o) e 1 with info := (s.mkRecord (e.origin.getD o) e 1).info ||| (raceLogged s e).missed r }

theorem raiseFault_compute {s : State} {o : Origin} {e : Exc} {r : SliceRun} (hc : (e.origin.getD o).core < 1024) (hs : s.slice = some r) :
    s.raiseFault o e = ((raceLogged (faultMarked s o e) e).sendRecord (faultRecord (faultMarked s o e) o e r)).endSlice false := by
  have hslice : (faultMarked s o e).slice = some r := (copied_faultMarked s o e).slice.trans hs
  have hdef : s.raiseFault o e = if 1024 ≤ (e.origin.getD o).core then _ else match (faultMarked s o e).slice with
    | none => faultMarked s o e
    | some r => ((raceLogged (faultMarked s o e) e).sendRecord (faultRecord (faultMarked s o e) o e r)).endSlice false := rfl
  rw [hdef, if_neg (Nat.not_le.mpr hc), hslice]

/-- A fault of a compute core ends the slice with one record of its cause and place. -/
theorem raiseFault_tells {s : State} {o : Origin} {e : Exc} {r : SliceRun} (hc : (e.origin.getD o).core < 1024) (hs : s.slice = some r) :
    ∃ x, (s.raiseFault o e).slice = none ∧ (s.raiseFault o e).disp.waitRecs = s.disp.waitRecs ++ [x]
      ∧ x.cause = e.cause ∧ x.rkind = 1 ∧ x.core = (e.origin.getD o).core ∧ x.ctx = (e.origin.getD o).ctx ∧ x.head = (e.origin.getD o).head
      ∧ x.addr = e.addr ∧ (s.raiseFault o e).phc = s.phc := by
  have hm := copied_faultMarked s o e
  obtain ⟨-, hdisp, hphc⟩ := raceLogged_keeps (faultMarked s o e) e
  rw [raiseFault_compute hc hs]
  obtain ⟨hnone, hrecs⟩ := endSlice_ends ((raceLogged (faultMarked s o e) e).sendRecord (faultRecord (faultMarked s o e) o e r)) false
  refine ⟨faultRecord (faultMarked s o e) o e r, hnone, hrecs.trans ?_, rfl, rfl, rfl, rfl, rfl, rfl, ?_⟩
  · change (raceLogged (faultMarked s o e) e).disp.waitRecs ++ _ = _
    rw [hdisp, hm.disp]
  · exact (phc_endSlice _ _).trans (hphc.trans hm.phc)

/-- After the halts of a panic system cores 0 to 6 are stopped. -/
theorem panicHalts_stops (s : State) {k : Nat} (h : k < 7) : (s.panicHalts.core (sysCore k)).sysRun = false := by
  have hc : ¬ sysCore k < 1024 := by simp [sysCore]
  have hk : sysCore k < 1031 := by simp [sysCore]; omega
  unfold State.panicHalts State.core
  rw [get_mapVals]
  · rw [if_neg hc, if_pos hk]
  · rw [if_neg hc, if_pos hk]

/-- A fault of a system core is a panic. -/
theorem raiseFault_panics {s : State} {o : Origin} {e : Exc} (hc : 1024 ≤ (e.origin.getD o).core) (hp : s.dbg.panic = none) :
    (s.raiseFault o e).dbg.panic.isSome = true ∧ ∀ k, k < 7 → ((s.raiseFault o e).core (sysCore k)).sysRun = false := by
  let u := (faultMarked s o e).modCore (e.origin.getD o).core fun k => { k with sysRun := false }
  have hu : u.dbg.panic.isSome = false := by
    change (faultMarked s o e).dbg.panic.isSome = false
    rw [(copied_faultMarked s o e).dbg, hp]
    rfl
  have hdef : s.raiseFault o e = if 1024 ≤ (e.origin.getD o).core then (if u.dbg.panic.isSome then u else
      State.panicHalts { u with dbg := { u.dbg with panic := some { u.mkRecord (e.origin.getD o) e 1 with core := (e.origin.getD o).core - 1024, sliceid := 0, hosttag := 0 }
                                                    panicAt := u.now, frozen := false } }) else _ := rfl
  rw [hdef, if_pos hc, if_neg (by simp [hu])]
  exact ⟨rfl, fun k hk => panicHalts_stops _ hk⟩

/-- The freeze of a panic lasts. -/
theorem frozen_foldl {α : Type} {f : State → α → State} (hf : ∀ s a, (f s a).dbg.frozen = s.dbg.frozen) (l : List α) :
    ∀ s, (l.foldl f s).dbg.frozen = s.dbg.frozen := by
  induction l with
  | nil => exact fun s => rfl
  | cons a r ih => exact fun s => (ih _).trans (hf s a)

theorem frozen_putTrace (s : State) (r : TraceRec) : (s.putTrace r).dbg.frozen = s.dbg.frozen := by
  unfold State.putTrace
  dsimp only
  split <;> rfl

theorem frozen_settleRecords (s : State) : s.settleRecords.dbg.frozen = s.dbg.frozen := by
  unfold State.settleRecords
  refine (frozen_foldl (fun u _ => ?_) _ _).trans (frozen_foldl (fun u _ => ?_) _ _)
  · split
    · exact frozen_putTrace _ _
    · rfl
  · split
    · split <;> rfl
    · rfl

/-- The system core that runs the crash kernel. -/
def crashCore (image : SMap (BitVec 32)) (now : Nat) (k : Core) : Core :=
  { k with ist := image, istBad := [], sysRun := true, ctxs := SMap.put k.ctxs 0 { st := .run, priv := true, inh := true, issueAt := now } }

theorem crashCore_runs (s : State) (c : Nat) (image : SMap (BitVec 32)) (now : Nat) :
    ((s.modCore c (crashCore image now)).core c).sysRun = true
    ∧ ((s.modCore c (crashCore image now)).ctx c 0) = { st := .run, priv := true, inh := true, issueAt := now } := by
  rw [State.ctx, core_modCore_self]
  exact ⟨rfl, get_put_self _ _ _ _⟩

/-- The device at a freeze, its records settled. -/
def frozenState (s : State) : State :=
  { s with cores := s.cores.mapVals fun c k => if 1024 ≤ c then k else k.freeze s.now
           dbg := { s.dbg with frozen := true } }.settleRecords

theorem exec_panicFreeze {s : State} (h : s.freezeDue = true) : exec .panicFreeze s
    = .next ((frozenState s).writeDump.modCore (sysCore 7) (crashCore (frozenState s).crashKernel (frozenState s).now)) := if_neg (by simp [h])

theorem panicFreeze_freezes {s : State} (h : s.freezeDue = true) : ∃ t, exec .panicFreeze s = .next t ∧ t.dbg.frozen = true
    ∧ (t.core (sysCore 7)).sysRun = true ∧ (t.ctx (sysCore 7) 0).pc = 0 ∧ (t.ctx (sysCore 7) 0).priv = true ∧ (t.ctx (sysCore 7) 0).inh = true := by
  obtain ⟨hrun, hctx⟩ := crashCore_runs (frozenState s).writeDump (sysCore 7) (frozenState s).crashKernel (frozenState s).now
  refine ⟨_, exec_panicFreeze h, frozen_settleRecords _, hrun, ?_⟩
  rw [hctx]
  exact ⟨rfl, rfl, rfl⟩

/-- Settles O46. -/
theorem faults : Obligations.Faults := by
  intro s at0 e o
  exact ⟨fun r hc hs => raiseFault_tells hc hs, fun hc hp => raiseFault_panics hc hp, panicFreeze_freezes⟩

/-! ## A word that is no instruction (R53, R54) -/

section word
variable {s : State} {w : IWord}

/-- A word that is no instruction waits for nothing. -/
theorem scoreboard_notAnInstruction (hspan : s.cur.span = none) (hform : s.form s.cur.pc (.notAnInstruction w) = ([.notAnInstruction w], false)) :
    s.scoreboard (.notAnInstruction w) = .ok () := by
  have hacq : s.acquireHolds (.notAnInstruction w) = false := by
    rw [State.acquireHolds, hform]
    exact Bool.and_false _
  have hfree : s.cur.pendingOn (Instr.notAnInstruction w).regs s.now = none := by
    have hno : s.cur.land.filter (fun l => ([] : List Nat).contains l.reg && decide (s.now < l.cycle)) = [] :=
      List.filter_eq_nil_iff.mpr fun l _ => by simp
    simp only [Ctx.pendingOn, Instr.regs, Instr.vec, List.filter_nil, List.map_nil, hno]
  simp [State.scoreboard, hspan, hacq, Instr.vec, hfree, Instr.unit]

/-- A word of an unlisted form is no guard: GUARD has no forms. -/
theorem isGuard_unlisted (h : decode w = .error .unlistedForm) : isGuard (.notAnInstruction w) = false := by
  by_contra hg
  rw [Bool.not_eq_false] at hg
  simp only [isGuard, Bool.and_eq_true, Bool.or_eq_true, beq_iff_eq] at hg
  obtain ⟨hop, hf⟩ := hg
  rw [decode, hop] at h
  rcases hf with hf | hf
  · rw [hf] at h
    change zero w.d (zero w.b _) = _ at h
    unfold zero at h
    split at h
    · split at h <;> cases h
    · cases h
  · rw [hf] at h
    change zero w.d (zero w.b _) = _ at h
    unfold zero at h
    split at h
    · split at h <;> cases h
    · cases h

/-- What stands before the check of a convoy of one that is no instruction. -/
structure AtWord (s : State) (w : IWord) : Prop where
  cv : s.cur.cv = none
  span : s.cur.span = none
  bk : s.cur.bkPass = true
  ist : s.curCore.istBad = []
  form : s.form s.cur.pc (.notAnInstruction w) = ([.notAnInstruction w], false)
  loops : s.cur.loops = []
  redo : s.cur.redo = []

theorem leadsTo_notAnInstruction (h : AtWord s w) : s.leadsTo s.cur.pc [.notAnInstruction w] false = some (s.cur.pc + 32) := by
  have hback : s.cur.back = none := by simp [Ctx.back, h.span, h.redo]
  simp [State.leadsTo, State.guardFails, hback, Cv.next, h.loops, loopEnd]

theorem fetchFault_notAnInstruction (h : AtWord s w) : s.fetchFault s.cur.pc [.notAnInstruction w] false
    = if fetchable (s.cur.pc + 32) = true then none else some ({ cause := 0x01, addr := s.cur.pc + 32 }, 0) := by
  have hgood : firstAt (fun k => s.curCore.istBad.contains (s.cur.pc / 32 + k)) 0 (rangeFrom 0 ([Instr.notAnInstruction w] : List Instr).length) = none := by
    rw [h.ist]
    rfl
  unfold State.fetchFault
  rw [hgood, leadsTo_notAnInstruction h]
  rfl

/-- The exception of a word that is no instruction. -/
def wordFault (s : State) (e : Reject) : Exc :=
  if fetchable (s.cur.pc + 32) = true then (if e = .unlistedForm then Exc.operand else Exc.op) else { cause := 0x01, addr := s.cur.pc + 32 }

theorem illegalOp_notAnInstruction {e : Reject} (hd : decode w = .error e) :
    s.illegalOp (.notAnInstruction w) = decide (e ≠ .unlistedForm) := by
  have hdef : s.illegalOp (.notAnInstruction w) = match decode w with | .error .unlistedForm => false | _ => true := rfl
  rw [hdef, hd]
  cases e <;> rfl

theorem badStatic_notAnInstruction (here : Nat) : s.badStatic (.notAnInstruction w) here = true := Bool.or_true _

theorem checkConvoy_notAnInstruction {e : Reject} (h : AtWord s w) (hd : decode w = .error e) :
    s.checkConvoy s.cur.pc (.notAnInstruction w) = .error (wordFault s e, 1, 0) := by
  unfold State.checkConvoy wordFault
  rw [h.form]
  dsimp only
  rw [fetchFault_notAnInstruction h]
  by_cases hfetch : fetchable (s.cur.pc + 32) = true
  · rw [if_pos hfetch, if_pos hfetch]
    by_cases he : e = .unlistedForm
    · subst he
      have hplace : s.cur.badPlace s.cur.pc s.cur.pc [.notAnInstruction w] = false := by simp [Ctx.badPlace, h.loops, h.span]
      have hbad : s.operandBad [.notAnInstruction w] 0 (.notAnInstruction w) s.cur.pc = true := by
        rw [State.operandBad, badStatic_notAnInstruction, Bool.true_or]
      have hop : s.operandAt s.cur.pc [.notAnInstruction w] = some 0 := by
        simp [State.operandAt, isGuard_unlisted hd, vecPrefix, Instr.vec, rangeFrom, firstAt, hbad]
      simp [firstAt, illegalOp_notAnInstruction hd, hplace, hop]
    · simp [firstAt, illegalOp_notAnInstruction hd, he]
  · rw [if_neg hfetch, if_neg hfetch]
    rfl

theorem front_notAnInstruction {e : Reject} (h : AtWord s w) (hd : decode w = .error e) :
    s.front (.notAnInstruction w) = .error (.fault (wordFault s e), 1, 0) := by
  have hleft : s.cur.leftSpan = false := by simp [Ctx.leftSpan, h.span]
  simp [State.front, h.cv, hleft, h.bk, scoreboard_notAnInstruction h.span h.form, checkConvoy_notAnInstruction h hd]
end word

theorem wordFault_origin (s : State) (e : Reject) : (wordFault s e).origin = none := by
  unfold wordFault
  split
  · split <;> rfl
  · rfl

theorem wordFault_cause (s : State) (e : Reject) :
    (wordFault s e).cause = if e = .unlistedForm ∧ fetchable (s.cur.pc + 32) = true then 2 else 1 := by
  unfold wordFault
  by_cases hfetch : fetchable (s.cur.pc + 32) = true
  · by_cases he : e = .unlistedForm
    · rw [if_pos hfetch, if_pos he, if_pos ⟨he, hfetch⟩]
      rfl
    · rw [if_pos hfetch, if_neg he, if_neg (fun h => he h.1)]
      rfl
  · rw [if_neg hfetch, if_neg (fun h => hfetch h.2)]

/-- A fault before a word is taken up ends the slice of a compute core with a record of its cause and its place. -/
theorem issue_fault_tells {i : Instr} {s : State} {r : SliceRun} {e : Exc} {n k : Nat} {body : Nat → Body} (hf : s.fetching = true)
    (hc : s.onSys = false) (hs : s.slice = some r) (h : s.front i = .error (.fault e, n, k)) (ho : e.origin = none) :
    ∃ t x, issue i s body = .next t ∧ t.slice = none ∧ t.disp.waitRecs = s.disp.waitRecs ++ [x] ∧ x.cause = e.cause ∧ x.rkind = 1
      ∧ x.core = s.focusCore ∧ x.ctx = s.focusCtx ∧ x.head = s.origin.head ∧ x.addr = e.addr := by
  have hi : issue i s body = .next (s.raiseFault (s.stopOrigin n k) e) := by simp [issue, hf, h, State.stopWith]
  have hplace : e.origin.getD (s.stopOrigin n k) = s.stopOrigin n k := by rw [ho]; rfl
  have hcore : (e.origin.getD (s.stopOrigin n k)).core < 1024 := by
    rw [hplace]
    simpa [State.stopOrigin, State.origin, State.onSys] using hc
  obtain ⟨x, hnone, hrecs, hcause, hkind, hxcore, hxctx, hhead, haddr, -⟩ := raiseFault_tells hcore hs
  rw [hplace] at hxcore hxctx hhead
  exact ⟨_, x, hi, hnone, hrecs, hcause, hkind, hxcore, hxctx, hhead, haddr⟩

/-- Settles O5: the fetch fault comes first, then the opcode, then the form. -/
theorem notAnInstruction : Obligations.NotAnInstruction := by
  intro s w r e hfetching hsys hs hcv hspan hbk hbad hform hloops hredo hdecode
  have hfront := front_notAnInstruction (w := w) ⟨hcv, hspan, hbk, hbad, hform, hloops, hredo⟩ hdecode
  obtain ⟨t, x, ht, hnone, hrecs, hcause, hkind, hcore, hctx, hhead, haddr⟩ :=
    issue_fault_tells (body := fun _ _ => fail Exc.op) hfetching hsys hs hfront (wordFault_origin s e)
  refine ⟨t, x, ht, hnone, hrecs, hcause.trans (wordFault_cause s e), fun hno => haddr.trans ?_, hkind, hhead.trans ?_, hcore, hctx⟩
  · rw [wordFault, if_neg (by simp [hno])]
  · simp [State.origin, hcv]

end Sys2Proof.Proofs
end

section
/-! TRAP and BRK (R300, R303, R318), the trap queue and the trap entry of a system core (R150, R300, R301), and a halt that
lands where a comparator matches (R311, R314). -/

namespace Sys2Proof.Proofs

open Sys2Proof Sys2Proof.Machine Sys2Proof.Safety Sys2Proof.Claims Sys2Proof.Laws

/-! ## A halt at a breakpoint (R311, R314, log 94) -/

/-- A context at the head that its armed comparator names, with ACT = 1, while a halt is requested. -/
def haltAtBreak : State :=
  { slice := some { cores := [0] }, dbg := { en := true }
    cores := [(0, { ctxs := [(0, { st := .run, haltReq := some .hctl })], bka := [(0, 0xC000000000000000)] })] }

/-- The halt lands after the BREAKPOINT of the comparator: two records wait for the trap queue. -/
theorem haltAtBreak_lands : ∃ t, exec (.haltLanding 0 0) haltAtBreak = .next t ∧ t.disp.trapWait.length = 2 := ⟨_, rfl, rfl⟩

/-- Refutes O51: a halt that lands where a comparator matches is told by two records, the BREAKPOINT first. -/
theorem not_halts : ¬ Obligations.Halts := by
  intro h
  obtain ⟨-, -, hland, -⟩ := h haltAtBreak 0 0
  obtain ⟨t, x, ht, -, -, hwait, -⟩ := hland rfl rfl
  obtain ⟨u, hu, hlen⟩ := haltAtBreak_lands
  obtain rfl : t = u := Host.Outcome.next.inj (ht.symm.trans hu)
  rw [hwait] at hlen
  cases hlen

/-! ## TRAP and BRK (R300, R303, R318) -/

/-- A trap stops its context and adds its record to those that wait. -/
structure Trapped (s : State) (cause info : Nat) (t : State) : Prop where
  trapped : t.cur.trapped = true
  regs : t.cur.regs = s.cur.regs
  land : t.cur.land = s.cur.land
  flg : t.cur.flg = s.cur.flg
  wb : t.cur.wb = s.cur.wb
  loops : t.cur.loops = s.cur.loops
  pc : t.cur.pc = s.cur.pc
  record : ∃ x, t.disp.trapWait = s.disp.trapWait ++ [x] ∧ x.cause = cause ∧ x.rkind = 5 ∧ x.info = info ∧ x.core = s.focusCore
    ∧ x.ctx = s.focusCtx ∧ x.head = s.origin.head
  memory : SameMemory s t

theorem holdTurns_keeps (c : Ctx) : c.holdTurns.regs = c.regs ∧ c.holdTurns.land = c.land ∧ c.holdTurns.flg = c.flg ∧ c.holdTurns.wb = c.wb
    ∧ c.holdTurns.loops = c.loops ∧ c.holdTurns.pc = c.pc := by
  unfold Ctx.holdTurns
  split
  · split <;> exact ⟨rfl, rfl, rfl, rfl, rfl, rfl⟩
  · exact ⟨rfl, rfl, rfl, rfl, rfl, rfl⟩

/-- The context in focus after a trap of it. -/
theorem cur_raiseTrap (s : State) (cause addr info : Nat) :
    (s.raiseTrap s.origin cause addr info true).cur = { s.cur.holdTurns with trapped := true } := by
  have hin : ((s.modCtx s.focusCore s.focusCtx Ctx.holdTurns).ctx s.focusCore s.focusCtx) = s.cur.holdTurns := ctx_modCtx_self _ _ _ _
  exact (ctx_modCtx_self _ _ _ (fun c : Ctx => { c with trapped := true })).trans (congrArg (fun c : Ctx => { c with trapped := true }) hin)

theorem raiseTrap_traps (s : State) (cause addr info : Nat) : Trapped s cause info (s.raiseTrap s.origin cause addr info true) := by
  have hcur := cur_raiseTrap s cause addr info
  obtain ⟨hregs, hland, hflg, hwb, hloops, hpc⟩ := holdTurns_keeps s.cur
  refine ⟨by rw [hcur], by rw [hcur, ← hregs], by rw [hcur, ← hland], by rw [hcur, ← hflg], by rw [hcur, ← hwb], by rw [hcur, ← hloops],
    by rw [hcur, ← hpc], ⟨_, rfl, rfl, rfl, rfl, rfl, rfl, rfl⟩, fun p a => ?_⟩
  have hheld := spaceAt_modCtx s s.focusCore s.focusCtx Ctx.holdTurns p
  have hstop := spaceAt_modCtx { s.modCtx s.focusCore s.focusCtx Ctx.holdTurns with disp := (s.raiseTrap s.origin cause addr info true).disp }
    s.focusCore s.focusCtx (fun c => { c with trapped := true }) p
  have hdisp : State.spaceAt { s.modCtx s.focusCore s.focusCtx Ctx.holdTurns with disp := (s.raiseTrap s.origin cause addr info true).disp } p
      = (s.modCtx s.focusCore s.focusCtx Ctx.holdTurns).spaceAt p := by cases p <;> rfl
  exact congrArg (fun x : Space => x.bytes.byte a) (hstop.trans (hdisp.trans hheld))

/-- A word of a compute core whose body traps stops its context after the word. -/
theorem stops_after {i : Instr} {s s1 : State} {v : Cv} {cause addr info : Nat} {body : Nat → Body} (h : Issues i s v s1)
    (hb : body s.cur.pc s1 = .ok (s1.raiseTrap s1.origin cause addr info true)) :
    ∃ t x, issue i s body = .next t ∧ t.cur.trapped = true ∧ t.cur.pc = nextPc s v ∧ t.disp.trapWait = s.disp.trapWait ++ [x]
      ∧ x.cause = cause ∧ x.rkind = 5 ∧ x.info = info ∧ x.core = s.focusCore ∧ x.ctx = s.focusCtx ∧ x.head = v.head ∧ KeepsRegs s t
      ∧ SameMemory s t := by
  obtain ⟨htaken, hgoes⟩ := h
  have f := taken_fronted htaken
  have T := raiseTrap_traps s1 cause addr info
  obtain ⟨cv, ht⟩ := completes_on htaken hgoes hb T.loops T.pc
  obtain ⟨x, hwait, hcause, hkind, hinfo, hcore, hctx, hhead⟩ := T.record
  refine ⟨_, x, ht, ?_, ?_, ?_, hcause, hkind, hinfo, hcore.trans f.focusCore, hctx.trans f.focusCtx, hhead.trans ?_,
    keepsRegs_closed f T.regs T.land T.flg T.wb _ _ _, ?_⟩
  · rw [cur_closed]
    exact T.trapped
  · rw [cur_closed]
    rfl
  · rw [closed_disp, hwait, f.disp]
  · simp [State.origin, f.cv]
  · exact sameMemory_trans (sameMemory_trans (onlyFocus_sameMemory f.only) T.memory) (fun p a => by rw [closed_spaceAt])

/-- A context that a BRK asks to halt. -/
def brkHalt (c : Ctx) : Ctx := { c with haltReq := some (c.haltReq.getD .brk) }

/-- What TRAP and BRK do once they are taken up. -/
def trapBody (b : Reg) : Body := fun s =>
  if s.onSys then .ok (s.modCur fun c => { c with sysTraps := c.sysTraps ++ [(0x21, b.toNat)] })
  else .ok (s.raiseTrap s.origin 0x21 0 b.toNat true)

def brkBody (b : Reg) : Body := fun s =>
  if s.onSys then .ok (s.modCur fun c => { c with sysTraps := c.sysTraps ++ [(0x20, b.toNat)] })
  else if s.dbg.brkh then .ok (if s.dbg.en then s.modCur brkHalt else s)
  else .ok (s.raiseTrap s.origin 0x20 s.origin.head b.toNat true)

theorem exec_trap (b : Reg) (s : State) : exec (.trap b) s = issue (.trap b) s fun _ => trapBody b := rfl

theorem exec_brk (b : Reg) (s : State) : exec (.brk b) s = issue (.brk b) s fun _ => brkBody b := rfl

/-- Settles O47. -/
theorem trapWords : Obligations.TrapWords := by
  intro b s s1 v hsys
  refine ⟨fun h => ?_, fun hbrkh h => ?_, fun hbrkh hen _ h => ?_⟩
  · have f := taken_fronted h.1
    rw [exec_trap]
    exact stops_after (body := fun _ => trapBody b) h (by rw [trapBody, f.onSys, hsys]; rfl)
  · have f := taken_fronted h.1
    rw [exec_brk]
    exact stops_after (body := fun _ => brkBody b) h (by rw [brkBody, f.onSys, hsys, f.dbg, hbrkh]; rfl)
  · obtain ⟨htaken, hgoes⟩ := h
    have f := taken_fronted htaken
    have hb : brkBody b s1 = .ok (s1.modCur brkHalt) := by rw [brkBody, f.onSys, hsys, f.dbg, hbrkh, hen]; rfl
    obtain ⟨cv, ht⟩ := completes_on (body := fun _ => brkBody b) htaken hgoes hb (by rw [cur_modCur]; rfl) (by rw [cur_modCur]; rfl)
    refine ⟨_, (exec_brk b s).trans ht, ?_, ?_, ?_, onlyFocus_closed (onlyFocus_mod f.only _) _ _ _⟩
    · rw [cur_closed, cur_modCur]
      rfl
    · exact keepsRegs_closed f (by rw [cur_modCur]; rfl) (by rw [cur_modCur]; rfl) (by rw [cur_modCur]; rfl) (by rw [cur_modCur]; rfl) _ _ _
    · rw [cur_closed]
      rfl

/-! ## The trap queue (R150, R300) -/

theorem leastBy_mem {α : Type} {key : α → Nat} {l : List α} : ∀ {x : α}, leastBy key l = some x → x ∈ l := by
  induction l with
  | nil => exact fun h => by cases h
  | cons a r ih =>
    intro x h
    rw [leastBy] at h
    cases hr : leastBy key r with
    | none =>
      rw [hr] at h
      cases h
      exact List.mem_cons_self
    | some y =>
      rw [hr] at h
      dsimp only at h
      split at h
      · cases h
        exact List.mem_cons_of_mem _ (ih hr)
      · cases h
        exact List.mem_cons_self

/-- The entry with the least key of a list, where its key is below that of every other. -/
theorem leastBy_least {α : Type} {key : α → Nat} {x : α} {l : List α} (hx : x ∈ l) (h : ∀ y ∈ l, y ≠ x → key x < key y) :
    leastBy key l = some x := by
  induction l with
  | nil => exact absurd hx List.not_mem_nil
  | cons a r ih =>
    by_cases hr : x ∈ r
    · rw [leastBy, ih hr fun y hy => h y (List.mem_cons_of_mem _ hy)]
      dsimp only
      by_cases ha : a = x
      · rw [ha, if_neg (Nat.lt_irrefl _)]
      · rw [if_pos (h a List.mem_cons_self ha)]
    · have ha : x = a := (List.mem_cons.mp hx).resolve_right hr
      subst ha
      rw [leastBy]
      cases hl : leastBy key r with
      | none => rfl
      | some y =>
        have hy := leastBy_mem hl
        exact if_neg (Nat.not_lt.mpr (Nat.le_of_lt (h y (List.mem_cons_of_mem _ hy) fun e => hr (e ▸ hy))))

/-- The state once the oldest record has entered the trap queue. -/
def enqueued (s : State) (x : Record) : State := State.putTrap { s with disp := { s.disp with trapWait := s.disp.trapWait.erase x } } x

theorem exec_trapRecordEnqueue {s : State} {x : Record} (h : leastBy Record.key s.disp.trapWait = some x) (hroom : s.disp.trapq.length < 64) :
    exec .trapRecordEnqueue s = .next ((enqueued s x).abortExhausted x) := by
  change execTrapRecordEnqueue s = _
  unfold execTrapRecordEnqueue
  rw [h]
  exact if_pos hroom

theorem exec_trapRecordEnqueue_full {s : State} (h : 64 ≤ s.disp.trapq.length) : exec .trapRecordEnqueue s = .fault .notEnabled := by
  change execTrapRecordEnqueue s = _
  unfold execTrapRecordEnqueue
  split
  · exact if_neg (Nat.not_lt.mpr h)
  · rfl

/-- The pool of the core is exhausted for a QUEUE-OVERFLOW of the running slice (R150). -/
def Exhausted (s : State) (x : Record) : Prop :=
  x.cause = 0x22 ∧ (s.core x.core).pool.isEmpty = true ∧ ∃ r, s.slice = some r ∧ x.sliceid = r.lr.sliceid

theorem abortExhausted_not {s : State} {x : Record} (h : ¬ Exhausted s x) : s.abortExhausted x = s := by
  unfold State.abortExhausted
  split
  next r hs =>
    refine if_neg fun hc => h ?_
    simp only [Bool.and_eq_true, beq_iff_eq] at hc
    obtain ⟨⟨hcause, hid⟩, hpool⟩ := hc
    exact ⟨hcause, hpool, r, hs, hid⟩
  next => rfl

theorem killNames_keeps (s : State) (r : SliceRun) (x : Record) : (s.killNames r x).cause = x.cause ∧ (s.killNames r x).rkind = x.rkind
    ∧ (s.killNames r x).sliceid = x.sliceid ∧ (s.killNames r x).hosttag = x.hosttag := by
  unfold State.killNames
  dsimp only
  split
  · split <;> exact ⟨rfl, rfl, rfl, rfl⟩
  · split <;> exact ⟨rfl, rfl, rfl, rfl⟩

/-- A kill of the running slice ends it with one record of its cause. -/
theorem killRunning_tells (s : State) (r : SliceRun) (cause flags : Nat) : ∃ y, (s.killRunning r cause flags).slice = none
    ∧ (s.killRunning r cause flags).disp.waitRecs = s.disp.waitRecs ++ [y] ∧ y.cause = cause ∧ y.rkind = (if cause = 0 then 4 else 1)
    ∧ y.sliceid = s.lr.sliceid ∧ y.hosttag = s.lr.hosttag := by
  let rec0 := s.killNames r (s.mkRecord { core := r.cores.headD 0, members := 0, phc := s.phc.toNat } { cause := cause } (if cause = 0 then 4 else 1))
  obtain ⟨hcause, hkind, hid, htag⟩ := killNames_keeps s r
    (s.mkRecord { core := r.cores.headD 0, members := 0, phc := s.phc.toNat } { cause := cause } (if cause = 0 then 4 else 1))
  obtain ⟨hnone, hrecs⟩ := endSlice_ends (s.sendRecord { rec0 with info := rec0.info + flags + s.missed r }) false
  exact ⟨{ rec0 with info := rec0.info + flags + s.missed r }, hnone, hrecs, hcause, hkind, hid, htag⟩

theorem abortExhausted_ends {s : State} {x : Record} (h : Exhausted s x) : ∃ y, (s.abortExhausted x).slice = none
    ∧ (s.abortExhausted x).disp.waitRecs = s.disp.waitRecs ++ [y] ∧ y.cause = 0x13 ∧ y.rkind = 1 := by
  obtain ⟨hcause, hpool, r, hs, hid⟩ := h
  have hkill : s.abortExhausted x = s.killRunning r 0x13 0 := by
    unfold State.abortExhausted
    rw [hs]
    exact if_pos (by simp [hcause, hid, hpool])
  rw [hkill]
  obtain ⟨y, hnone, hrecs, hcause, hkind, -, -⟩ := killRunning_tells s r 0x13 0
  exact ⟨y, hnone, hrecs, hcause, hkind⟩

theorem trapRecord_enters {s : State} {x : Record} (hx : x ∈ s.disp.trapWait) (hleast : ∀ y, y ∈ s.disp.trapWait → y ≠ x → x.key < y.key)
    (hroom : s.disp.trapq.length < 64) :
    (¬ Exhausted s x → ∃ t, exec .trapRecordEnqueue s = .next t ∧ t.disp.trapq = s.disp.trapq ++ [{ x with place := s.disp.freeTrap }]
      ∧ t.disp.trapWait = s.disp.trapWait.erase x ∧ t.slice = s.slice ∧ t.cores = s.cores)
    ∧ (Exhausted s x → ∃ t y, exec .trapRecordEnqueue s = .next t ∧ t.slice = none ∧ t.disp.waitRecs = s.disp.waitRecs ++ [y]
      ∧ y.cause = 0x13 ∧ y.rkind = 1) := by
  have hexec := exec_trapRecordEnqueue (leastBy_least hx hleast) hroom
  refine ⟨fun hno => ⟨_, hexec, ?_⟩, fun hyes => ?_⟩
  · rw [abortExhausted_not (s := enqueued s x) hno]
    exact ⟨rfl, rfl, rfl, rfl⟩
  · obtain ⟨y, hnone, hrecs, hcause, hkind⟩ := abortExhausted_ends (s := enqueued s x) hyes
    exact ⟨_, y, hexec, hnone, hrecs, hcause, hkind⟩

/-! ## The trap entry of a system core (R301) -/

/-- A system core takes a trap of its own (R301). -/
def entersTrap (now cause info : Nat) (c : Ctx) : Ctx :=
  Ctx.takeTrap { c with pc := match c.cv with | some v => v.head | none => c.pc
                        sysTraps := c.sysTraps.drop 1, issueAt := Nat.max c.issueAt now } cause info

theorem exec_systemTrapEntry {s : State} {k cause info : Nat} {r : List (Nat × Nat)} (hk : k < 8) (hbound : s.trapBoundary k = true)
    (htraps : (s.ctx (sysCore k) 0).sysTraps = (cause, info) :: r) :
    exec (.systemTrapEntry k) s = .next (s.modCtx (sysCore k) 0 (entersTrap s.now cause info)) := by
  have hnext : s.nextTrap k = some (cause, info, true) := by rw [State.nextTrap, htraps]
  have hgo : (!(decide (k < 8) && s.trapBoundary k)) = false := by simp [hk, hbound]
  have hexec : exec (.systemTrapEntry k) s = execSystemTrapEntry k s := rfl
  unfold execSystemTrapEntry at hexec
  rw [hgo, hnext] at hexec
  exact hexec

/-- Settles O48. -/
theorem traps : Obligations.Traps := by
  intro s
  refine ⟨fun x hx hleast hroom => trapRecord_enters hx hleast hroom, exec_trapRecordEnqueue_full, fun k cause info r hk hbound htraps hcv => ?_⟩
  refine ⟨_, exec_systemTrapEntry hk hbound htraps, ?_⟩
  rw [ctx_modCtx_self, entersTrap, hcv, htraps]
  exact ⟨rfl, rfl, rfl, rfl, rfl, rfl, rfl, rfl, rfl, fun p a => by rw [spaceAt_modCtx]⟩

end Sys2Proof.Proofs
end

section
/-! Supersteps: the PHASE instructions (R232, R233, R237, R239), arrivals (R232, R234, R237), the hourglass, the budget and the
photonic layer (R240, R241, R264, R296). -/

namespace Sys2Proof.Proofs

open Sys2Proof Sys2Proof.Machine Sys2Proof.Safety Sys2Proof.Claims Sys2Proof.Laws

/-! ## The PHASE instructions -/

theorem le_foldl_max {α : Type} (key : α → Nat) (l : List α) : ∀ a : Nat, a ≤ l.foldl (fun m x => Nat.max m (key x)) a := by
  induction l with
  | nil => exact Nat.le_refl
  | cons x r ih => exact fun a => Nat.le_trans (Nat.le_max_left a (key x)) (ih _)

/-- An arrival takes effect in a later cycle. -/
theorem lt_arrivalDue (c : Ctx) (now : Nat) : now < c.arrivalDue now := by
  have hstart : now < Nat.max c.doneAt (now + 1) := Nat.lt_of_lt_of_le (Nat.lt_succ_self now) (Nat.le_max_right _ _)
  have hland := le_foldl_max Landing.cycle c.land (Nat.max c.doneAt (now + 1))
  have hvq := le_foldl_max VConvoy.retire c.vq (c.land.foldl (fun m l => Nat.max m l.cycle) (Nat.max c.doneAt (now + 1)))
  have hwrites := le_foldl_max (fun q : Nat × Nat => q.2 + 1) c.writes
    (c.vq.foldl (fun m q => Nat.max m q.retire) (c.land.foldl (fun m l => Nat.max m l.cycle) (Nat.max c.doneAt (now + 1))))
  exact Nat.lt_of_lt_of_le hstart (Nat.le_trans hland (Nat.le_trans hvq hwrites))

/-- A context that PARR has made ARRIVED. -/
def arrivesAt (now : Nat) (c : Ctx) : Ctx := { c with st := .arrived, parrEff := false, parrAt := c.arrivalDue now, parrIssued := now }

/-- A context that PWAIT leaves waiting, or running on in the new superstep. -/
def waitsOn (c : Ctx) : Ctx := { c with st := .waiting }
def runsOn (phc : BitVec 64) (now : Nat) (c : Ctx) : Ctx := { c with st := .run, view := phc, issueAt := now + 2 }

def parrBody : Body := fun s => if s.onSys then .ok s else .ok (s.modCur (arrivesAt s.now))

def pwaitBody : Body := fun s =>
  if s.onSys then .ok s
  else match s.cur.st with
    | .arrived => .ok (s.modCur waitsOn)
    | _ => .ok (s.modCur (runsOn s.phc s.now))

theorem exec_parr (s : State) : exec .parr s = issue .parr s fun _ => parrBody := rfl

theorem exec_pwait (s : State) : exec .pwait s = issue .pwait s fun _ => pwaitBody := rfl

/-- A word whose body changes its context alone, and of that neither registers nor what the front end moves. -/
theorem ctx_completes {i : Instr} {s s1 : State} {v : Cv} {g : Ctx → Ctx} {body : Nat → Body} (h : Issues i s v s1)
    (hb : body s.cur.pc s1 = .ok (s1.modCur g)) (hg : ∀ c, (g c).regs = c.regs ∧ (g c).land = c.land ∧ (g c).flg = c.flg ∧ (g c).wb = c.wb
      ∧ (g c).loops = c.loops ∧ (g c).pc = c.pc) :
    ∃ cv l, issue i s body = .next (closed (s1.modCur g) cv l (nextPc s v)) ∧ KeepsRegs s (closed (s1.modCur g) cv l (nextPc s v))
      ∧ OnlyFocus s (closed (s1.modCur g) cv l (nextPc s v)) := by
  obtain ⟨htaken, hgoes⟩ := h
  have f := taken_fronted htaken
  obtain ⟨hregs, hland, hflg, hwb, hloops, hpc⟩ := hg s1.cur
  obtain ⟨cv, ht⟩ := completes_on htaken hgoes hb (by rw [cur_modCur, hloops]) (by rw [cur_modCur, hpc])
  refine ⟨cv, _, ht, ?_, onlyFocus_closed (onlyFocus_mod f.only _) _ _ _⟩
  exact keepsRegs_closed f (by rw [cur_modCur, hregs]) (by rw [cur_modCur, hland]) (by rw [cur_modCur, hflg]) (by rw [cur_modCur, hwb]) _ _ _

/-- A core with a pending arrival of a context at a barrier. -/
def barArrives (m : BitVec 4) (n ctx now due : Nat) (k : Core) : Core :=
  { k with bars := k.bars.put n { SMap.get {} k.bars n with mask := m, pending := (SMap.get {} k.bars n).pending ||| BitVec.ofNat 4 (2 ^ ctx)
                                                            due := (SMap.get {} k.bars n).due.put ctx (now, due) } }

theorem exec_cbarr (a b : Reg) (s : State) : exec (.cbarr a b) s = issue (.cbarr a b) s fun _ s =>
    .ok (s.modCurCore (barArrives ((s.reg a).setWidth 4) b.toNat s.focusCtx s.now (s.cur.arrivalDue s.now))) := rfl

def cbwaitBody (b : Reg) : Body := fun s =>
  if (SMap.get {} s.curCore.bars b.toNat).pending.getLsbD s.focusCtx || (SMap.get {} s.curCore.bars b.toNat).effect.getLsbD s.focusCtx
  then .error .event else .ok s

theorem exec_cbwait (b : Reg) (s : State) : exec (.cbwait b) s = issue (.cbwait b) s fun _ => cbwaitBody b := rfl

/-- A state whose slice has asked to yield. -/
def yields (s : State) : State := { s with slice := s.slice.map fun r => { r with yreq := true } }

theorem exec_yield (s : State) : exec .yield s = issue .yield s fun _ s => .ok (if s.onSys then s else yields s) := rfl

/-- A bit of four is set by its power of two. -/
theorem getLsbD_or_bit (x : BitVec 4) {k : Nat} (h : k < 4) : (x ||| BitVec.ofNat 4 (2 ^ k)).getLsbD k = true := err_bit x h

/-- CBARR notes a pending arrival under the mask of its register. -/
theorem cbarr_notes {a b : Reg} {s s1 : State} {v : Cv} (h : Issues (.cbarr a b) s v s1) (hctx : s.focusCtx < 4) :
    ∃ t, exec (.cbarr a b) s = .next t ∧ (SMap.get {} t.curCore.bars b.toNat).mask = (s.reg a).setWidth 4
      ∧ (SMap.get {} t.curCore.bars b.toNat).pending.getLsbD s.focusCtx = true
      ∧ (∀ n, n ≠ b.toNat → SMap.get {} t.curCore.bars n = SMap.get {} s.curCore.bars n) ∧ KeepsRegs s t ∧ SameMemory s t := by
  obtain ⟨htaken, hgoes⟩ := h
  have f := taken_fronted htaken
  let g := barArrives ((s1.reg a).setWidth 4) b.toNat s1.focusCtx s1.now (s1.cur.arrivalDue s1.now)
  have hcur : (s1.modCurCore g).cur = s1.cur := cur_modCurCore rfl
  obtain ⟨cv, ht⟩ := completes_on (body := fun _ s =>
    .ok (s.modCurCore (barArrives ((s.reg a).setWidth 4) b.toNat s.focusCtx s.now (s.cur.arrivalDue s.now)))) htaken hgoes rfl
    (by rw [hcur]) (by rw [hcur])
  have hbars : ∀ l p, (closed (s1.modCurCore g) cv l p).curCore.bars = (g s1.curCore).bars := fun l p => by
    rw [closed_curCore, curCore_modCurCore]
    rfl
  refine ⟨_, (exec_cbarr a b s).trans ht, ?_, ?_, fun n hn => ?_, ?_, ?_⟩
  · rw [hbars, ← f.reg]
    exact congrArg Bar.mask (get_put_self _ _ _ _)
  · rw [hbars, ← f.focusCtx]
    refine (congrArg (fun r : Bar => r.pending.getLsbD s1.focusCtx) (get_put_self _ _ _ _)).trans ?_
    exact getLsbD_or_bit _ (f.focusCtx ▸ hctx)
  · rw [hbars, ← f.bars]
    exact get_put_ne _ _ _ hn
  · exact keepsRegs_closed f (by rw [hcur]) (by rw [hcur]) (by rw [hcur]) (by rw [hcur]) _ _ _
  · refine sameMemory_trans (onlyFocus_sameMemory f.only) fun p a => ?_
    rw [closed_spaceAt, spaceAt_modCurCore rfl]

/-- YIELD asks for the slice. -/
theorem yield_asks {s s1 : State} {v : Cv} {r : SliceRun} (hsys : s.onSys = false) (h : Issues .yield s v s1) (hs : s.slice = some r) :
    ∃ t, exec .yield s = .next t ∧ t.slice = some { r with yreq := true } ∧ rest t.cur = rest s.cur ∧ KeepsRegs s t ∧ SameMemory s t := by
  obtain ⟨htaken, hgoes⟩ := h
  have f := taken_fronted htaken
  have hb : (if s1.onSys then s1 else yields s1) = yields s1 := if_neg (by rw [f.onSys, hsys]; exact Bool.false_ne_true)
  obtain ⟨cv, ht⟩ := completes_on (body := fun _ s => .ok (if s.onSys then s else yields s)) htaken hgoes (congrArg Except.ok hb) rfl rfl
  refine ⟨_, (exec_yield s).trans ht, ?_, ?_, keepsRegs_closed f rfl rfl rfl rfl _ _ _, ?_⟩
  · rw [closed_slice, yields, f.slice, hs]
    rfl
  · exact (closed_rest _ _ _ _).trans f.rest
  · refine sameMemory_trans (onlyFocus_sameMemory f.only) fun p a => ?_
    rw [closed_spaceAt]
    cases p <;> rfl

/-- Settles O33, word by word. -/
theorem phaseWords : Obligations.PhaseWords := by
  intro a b s s1 v hsys
  refine ⟨fun h => ?_, fun h hst => ?_, fun h hst => ?_, cbarr_notes, fun h hpend heff => ?_, fun r h hs => yield_asks hsys h hs⟩
  · have f := taken_fronted h.1
    have hb : parrBody s1 = .ok (s1.modCur (arrivesAt s1.now)) := by rw [parrBody, f.onSys, hsys]; rfl
    rw [f.now] at hb
    obtain ⟨cv, l, ht, hkeeps, honly⟩ := ctx_completes (body := fun _ => parrBody) h hb fun c => ⟨rfl, rfl, rfl, rfl, rfl, rfl⟩
    refine ⟨_, (exec_parr s).trans ht, ?_, ?_, ?_, ?_, hkeeps, ?_, honly⟩ <;> rw [cur_closed, cur_modCur]
    · rfl
    · rfl
    · rfl
    · exact lt_arrivalDue _ _
  · have f := taken_fronted h.1
    have hb : pwaitBody s1 = .ok (s1.modCur waitsOn) := by rw [pwaitBody, f.onSys, hsys, f.st, hst]; rfl
    obtain ⟨cv, l, ht, hkeeps, honly⟩ := ctx_completes (body := fun _ => pwaitBody) h hb fun c => ⟨rfl, rfl, rfl, rfl, rfl, rfl⟩
    refine ⟨_, (exec_pwait s).trans ht, ?_, ?_, hkeeps, ?_, honly⟩ <;> rw [cur_closed, cur_modCur]
    · rfl
    · exact f.fld (·.view) fun _ => rfl
  · have f := taken_fronted h.1
    have hb : pwaitBody s1 = .ok (s1.modCur (runsOn s.phc s.now)) := by rw [pwaitBody, f.onSys, hsys, f.st, hst, f.phc, f.now]; rfl
    obtain ⟨cv, l, ht, hkeeps, honly⟩ := ctx_completes (body := fun _ => pwaitBody) h hb fun c => ⟨rfl, rfl, rfl, rfl, rfl, rfl⟩
    refine ⟨_, (exec_pwait s).trans ht, ?_, ?_, ?_, hkeeps, ?_, honly⟩ <;> rw [cur_closed, cur_modCur] <;> rfl
  · obtain ⟨htaken, hgoes⟩ := h
    have f := taken_fronted htaken
    have hb : cbwaitBody b s1 = .ok s1 := by
      rw [cbwaitBody, f.bars, f.focusCtx, hpend, heff]
      rfl
    obtain ⟨cv, ht⟩ := completes_on (body := fun _ => cbwaitBody b) htaken hgoes hb rfl rfl
    refine ⟨_, (exec_cbwait b s).trans ht, (closed_rest _ _ _ _).trans f.rest, keepsRegs_closed f rfl rfl rfl rfl _ _ _, ?_,
      onlyFocus_closed f.only _ _ _⟩
    rw [cur_closed]
    rfl

/-! ## Arrivals (R232, R234, R237) -/

theorem core_wake (s : State) (core : Nat) : (s.wake core).core core
    = { s.core core with ctxs := (s.core core).ctxs.mapVals fun _ t => { t with stalled := false } } := core_modCore_self _ _ _

theorem parr_takesEffect {s : State} {core ctx : Nat} (h : s.parrDue core ctx = true) :
    ∃ t, exec (.parrTakesEffect core ctx) s = .next t ∧ (t.ctx core ctx).parrEff = true ∧ SameMemory s t := by
  refine ⟨_, if_pos h, ?_, fun p a => ?_⟩
  · rw [ctx_wake, ctx_modCtx_self]
  · rw [spaceAt_wake, spaceAt_modCtx]

/-- A core that is ARRIVED. -/
def arrivedCore (now : Nat) (k : Core) : Core := { k with arrived := true, arrivedAt := now }

/-- What an arrival does to the slice: the hourglass runs, and the last one starts the change (R234, R235, R240). -/
def withHourglass (s : State) (r : SliceRun) : SliceRun := if r.hgOn then r else { r with hgOn := true, hg := s.startClock }

def arrivedSlice (s : State) (r : SliceRun) : SliceRun :=
  if (withHourglass s r).cores.all fun c => (s.core c).arrived then { withHourglass s r with arrivedAt := some s.now } else withHourglass s r

theorem withHourglass_hgOn (s : State) (r : SliceRun) : (withHourglass s r).hgOn = true := by
  unfold withHourglass
  split
  next h => exact h
  next => rfl

theorem arrivedSlice_hgOn (s : State) (r : SliceRun) : (arrivedSlice s r).hgOn = true := by
  unfold arrivedSlice
  split <;> exact withHourglass_hgOn s r

/-- The state once a core is ARRIVED. -/
def coreArrived (s : State) (core : Nat) : State :=
  let t := s.modCore core (arrivedCore s.now)
  { t with slice := t.slice.map (arrivedSlice t) }

theorem exec_coreArrived {s : State} {core : Nat} (h : s.arriveDue core = true) : exec (.coreArrived core) s = .next (coreArrived s core) :=
  if_neg (by simp [h])

theorem core_arrives {s : State} {core : Nat} (h : s.arriveDue core = true) :
    ∃ t, exec (.coreArrived core) s = .next t ∧ (t.core core).arrived = true ∧ (t.core core).arrivedAt = s.now
      ∧ (∀ r, t.slice = some r → r.hgOn = true) ∧ SameMemory s t := by
  have hcore : (coreArrived s core).core core = arrivedCore s.now (s.core core) := core_modCore_self _ _ _
  refine ⟨_, exec_coreArrived h, by rw [hcore]; rfl, by rw [hcore]; rfl, fun r hr => ?_, fun p a => ?_⟩
  · obtain ⟨r0, -, rfl⟩ := Option.map_eq_some_iff.mp hr
    exact arrivedSlice_hgOn _ _
  · have hspace := spaceAt_modCore (s := s) (core := core) (f := arrivedCore s.now) rfl p
    rw [← hspace]
    cases p <;> rfl

/-- A core in which an arrival at a barrier has taken effect. -/
def barEffect (bar ctx now : Nat) (k : Core) : Core :=
  { k with bars := k.bars.put bar { SMap.get {} k.bars bar with
      pending := (SMap.get {} k.bars bar).pending &&& ~~~BitVec.ofNat 4 (2 ^ ctx)
      effect := (SMap.get {} k.bars bar).effect ||| BitVec.ofNat 4 (2 ^ ctx)
      due := (SMap.get {} k.bars bar).due.del ctx, last := now } }

theorem getLsbD_andNot_bit (x : BitVec 4) {k : Nat} (h : k < 4) : (x &&& ~~~BitVec.ofNat 4 (2 ^ k)).getLsbD k = false := by
  have hk : k = 0 ∨ k = 1 ∨ k = 2 ∨ k = 3 := by omega
  rcases hk with rfl | rfl | rfl | rfl <;> simp

theorem barArrival_effect {s : State} {core ctx bar : Nat} (h : s.barDue core ctx bar = true) (hctx : ctx < 4) :
    ∃ t, exec (.cbArrivalEffect core ctx bar) s = .next t ∧ (SMap.get {} (t.core core).bars bar).pending.getLsbD ctx = false
      ∧ (SMap.get {} (t.core core).bars bar).effect.getLsbD ctx = true ∧ SameMemory s t := by
  have hexec : exec (.cbArrivalEffect core ctx bar) s = .next (s.modCore core (barEffect bar ctx s.now)) := if_pos h
  have hbar : SMap.get {} ((s.modCore core (barEffect bar ctx s.now)).core core).bars bar
      = SMap.get {} (barEffect bar ctx s.now (s.core core)).bars bar := by rw [core_modCore_self]
  refine ⟨_, hexec, ?_, ?_, fun p a => by rw [spaceAt_modCore rfl]⟩
  · rw [hbar, barEffect, get_put_self]
    exact getLsbD_andNot_bit _ hctx
  · rw [hbar, barEffect, get_put_self]
    exact getLsbD_or_bit _ hctx

theorem barGeneration_completes {s : State} {core bar : Nat} (hin : s.inSlice core = true) (hfrozen : s.dbg.frozen = false)
    (hfull : (s.core core).barFull (SMap.get {} (s.core core).bars bar) = true) (hlast : (SMap.get {} (s.core core).bars bar).last < s.now) :
    ∃ t, exec (.cbGenerationComplete core bar) s = .next t ∧ (t.core core).order = (s.core core).order + 1
      ∧ SMap.get {} (t.core core).bars bar = {} ∧ SameMemory s t := by
  refine ⟨_, if_pos (by rw [hin, hfrozen, hfull]; simpa using hlast), ?_, ?_, fun p a => ?_⟩
  · rw [core_wake, core_setCore_self]
  · rw [core_wake, core_setCore_self]
    exact get_del_self _ _ _
  · rw [spaceAt_wake]
    cases p with
    | loc c =>
      by_cases hc : c = core
      · subst hc
        simp only [State.spaceAt, core_setCore_self]
      · simp only [State.spaceAt, core_setCore_ne _ _ hc]
    | phys => rfl
    | host => rfl
    | peer => rfl

/-- Settles O34. -/
theorem arrivalSteps : Obligations.ArrivalSteps := fun _ _ _ _ =>
  ⟨parr_takesEffect, core_arrives, barArrival_effect, barGeneration_completes⟩

/-! ## The hourglass, the budget and the photonic layer (R240, R241, R264, R296) -/

/-- What STRAGGLER names: the first core that is missing. -/
def stragglerOrigin (s : State) (r : SliceRun) : Origin :=
  { core := (s.missing r).headD 0, ctx := (s.core ((s.missing r).headD 0)).straggler, members := 0, phc := s.phc.toNat }

/-- The arrival table of the slice, as the dispatcher writes it (R298). -/
def arrivalsTold (s : State) (r : SliceRun) : State :=
  let table := r.cores.foldl (fun (m : SMap (BitVec 8)) c => m.put c (BitVec.ofNat 8 (s.arrivalEntry c))) []
  State.putSystem { s with disp := { s.disp with arrivals := table } } Config.arrivalTable.toNat 8192 (tableBits table)

/-- The hourglass runs once more. -/
def hourglassAgain (s : State) : State := { s with slice := s.slice.map fun r => { r with hgExtended := true, hg := s.startClock } }

theorem exec_straggler {s : State} {r : SliceRun} (hs : s.slice = some r) (h : s.expired = true) : exec .straggler s =
    if r.lr.hglpol || r.hgExtended then
      .next ((arrivalsTold s r).raiseFault (stragglerOrigin s r) { cause := 0x24, addr := Config.arrivalTable.toNat, info := (s.missing r).length })
    else
      .next (hourglassAgain ((arrivalsTold s r).raiseTrap (stragglerOrigin s r) 0x24 Config.arrivalTable.toNat (s.missing r).length false)) := by
  change execStraggler s = _
  unfold execStraggler
  split
  next hnone => rw [hs] at hnone; cases hnone
  next q hq =>
    obtain rfl : r = q := Option.some.inj (hs.symm.trans hq)
    exact if_neg (by rw [h]; exact Bool.false_ne_true)

theorem straggler_aborts {s : State} {r : SliceRun} (hs : s.slice = some r) (h : s.expired = true) (hpol : r.lr.hglpol = true ∨ r.hgExtended = true)
    (hcores : ∀ c, c ∈ r.cores → c < 1024) (hmissing : s.missing r ≠ []) :
    ∃ t x, exec .straggler s = .next t ∧ t.slice = none ∧ t.disp.waitRecs = s.disp.waitRecs ++ [x] ∧ x.cause = 0x24 ∧ x.rkind = 1 := by
  have hcore : (stragglerOrigin s r).core < 1024 := by
    obtain ⟨c, l, hl⟩ := List.exists_cons_of_ne_nil hmissing
    have hmem : c ∈ s.missing r := hl ▸ List.mem_cons_self
    have hc := hcores c (List.mem_filter.mp hmem).1
    simpa [stragglerOrigin, hl] using hc
  obtain ⟨x, hnone, hrecs, hcause, hkind, -⟩ := raiseFault_tells (s := arrivalsTold s r) (o := stragglerOrigin s r)
    (e := { cause := 0x24, addr := Config.arrivalTable.toNat, info := (s.missing r).length }) hcore hs
  exact ⟨_, x, (exec_straggler hs h).trans (if_pos (by simpa only [Bool.or_eq_true] using hpol)), hnone, hrecs, hcause, hkind⟩

theorem straggler_traps {s : State} {r : SliceRun} (hs : s.slice = some r) (h : s.expired = true) (hpol : r.lr.hglpol = false) (hext : r.hgExtended = false) :
    ∃ t q x, exec .straggler s = .next t ∧ t.slice = some q ∧ q.hgExtended = true ∧ t.disp.trapWait = s.disp.trapWait ++ [x] ∧ x.cause = 0x24 := by
  have hslice : (arrivalsTold s r).slice = some r := hs
  refine ⟨_, { r with hgExtended := true, hg := State.startClock _ }, _, (exec_straggler hs h).trans (if_neg (by simp [hpol, hext])),
    congrArg (Option.map _) hslice, rfl, rfl, rfl⟩

/-- Settles O37. -/
theorem watchSteps : Obligations.WatchSteps := by
  intro s r hs
  refine ⟨fun h hpol hcores _ hmissing => straggler_aborts hs h hpol hcores hmissing, straggler_traps hs,
    fun h => ⟨_, _, if_pos h, congrArg (Option.map _) hs, rfl, rfl⟩, fun c hc hle => ?_⟩
  have hexec : exec .photonicWakeup s = execPhotonicWakeup s := rfl
  unfold execPhotonicWakeup at hexec
  rw [hc] at hexec
  exact ⟨_, hexec.trans (if_pos hle), rfl, rfl⟩

end Sys2Proof.Proofs
end

section
/-! What a context does between its issues: convoys of the vector unit (R173), EXIT (R125), and the closure and overrun of a
sealed span (R118, R119). -/

namespace Sys2Proof.Proofs

open Sys2Proof Sys2Proof.Machine Sys2Proof.Safety Sys2Proof.Claims Sys2Proof.Laws

section context
variable {s : State} {core ctx : Nat}

theorem spaceAt_setCtx (s : State) (core ctx : Nat) (c : Ctx) (p : Place) : (s.setCtx core ctx c).spaceAt p = s.spaceAt p :=
  spaceAt_modCtx s core ctx (fun _ => c) p

/-! ## Convoys of the vector unit (R173) -/

/-- The one convoy of a queue is the one picked when it may be. -/
theorem pickConvoy_single {f : VConvoy → Bool} {q : VConvoy} (h : f q = true) : pickConvoy f [q] = some q := by
  simp [pickConvoy, h]

theorem swapConvoy_single (q q' : VConvoy) : swapConvoy q q' [q] = [q'] := by simp [swapConvoy]

theorem retireConvoy_single (q : VConvoy) : retireConvoy q [q] = [] := by simp [retireConvoy, dropConvoy]

theorem vq_wake (s : State) (core ctx : Nat) : ((s.wake core).ctx core ctx).vq = (s.ctx core ctx).vq := by rw [ctx_wake]

theorem convoy_starts (hlive : s.ctxLive core ctx = true) {q : VConvoy} (hq : (s.ctx core ctx).vq = [q]) (h : q.started = 0)
    (hdue : q.starts.headD 0 ≤ s.now) : ∃ t, exec (.vectorConvoyStart core ctx) s = .next t
      ∧ (t.ctx core ctx).vq = [{ q with started := 1 }] ∧ SameMemory s t := by
  have hpick : (if s.ctxLive core ctx then pickConvoy (VConvoy.mayStart s.now) (s.ctx core ctx).vq else none) = some q := by
    rw [if_pos hlive, hq, pickConvoy_single (by simp only [VConvoy.mayStart, h, hdue, beq_self_eq_true, decide_true, Bool.and_self])]
  have hexec : exec (.vectorConvoyStart core ctx) s = execVectorConvoyStart core ctx s := rfl
  unfold execVectorConvoyStart at hexec
  dsimp only at hexec
  rw [hpick] at hexec
  refine ⟨_, hexec, ?_, fun p a => by rw [spaceAt_wake, spaceAt_setCtx]⟩
  rw [vq_wake, ctx_setCtx_self, hq, swapConvoy_single]

theorem convoy_goesOn (hlive : s.ctxLive core ctx = true) {q : VConvoy} (hq : (s.ctx core ctx).vq = [q]) (h : q.started ≠ 0)
    (hmore : q.started < q.starts.length) (hdue : q.starts.getD q.started 0 ≤ s.now) : ∃ t, exec (.vectorMemberStart core ctx) s = .next t
      ∧ (t.ctx core ctx).vq = [{ q with started := q.started + 1 }] ∧ SameMemory s t := by
  have hmay : VConvoy.mayGoOn s.now q = true := by
    rw [VConvoy.mayGoOn, bne_iff_ne.mpr h, decide_eq_true hmore, decide_eq_true hdue]
    rfl
  have hpick : (if s.ctxLive core ctx then pickConvoy (VConvoy.mayGoOn s.now) (s.ctx core ctx).vq else none) = some q := by
    rw [if_pos hlive, hq, pickConvoy_single hmay]
  have hexec : exec (.vectorMemberStart core ctx) s = execVectorMemberStart core ctx s := rfl
  unfold execVectorMemberStart at hexec
  dsimp only at hexec
  rw [hpick] at hexec
  refine ⟨_, hexec, ?_, fun p a => by rw [spaceAt_wake, spaceAt_setCtx]⟩
  rw [vq_wake, ctx_setCtx_self, hq, swapConvoy_single]

/-- A sample moves the counts and what is held for the trace, and no convoy, flag or memory. -/
structure Sampled (s t : State) (core ctx : Nat) : Prop where
  vq : (t.ctx core ctx).vq = (s.ctx core ctx).vq
  flg : (t.ctx core ctx).flg = (s.ctx core ctx).flg
  space : ∀ p, t.spaceAt p = s.spaceAt p

theorem Sampled.trans {s t u : State} {core ctx : Nat} (h : Sampled s t core ctx) (g : Sampled t u core ctx) : Sampled s u core ctx :=
  ⟨g.vq.trans h.vq, g.flg.trans h.flg, fun p => (g.space p).trans (h.space p)⟩

theorem sampled_modCtx (s : State) (core ctx : Nat) {f : Ctx → Ctx} (hf : ∀ c, (f c).vq = c.vq ∧ (f c).flg = c.flg) :
    Sampled s (s.modCtx core ctx f) core ctx :=
  ⟨by rw [ctx_modCtx_self, (hf _).1], by rw [ctx_modCtx_self, (hf _).2], spaceAt_modCtx s core ctx f⟩

theorem spaceAt_trace (s : State) (r : TraceRec) (p : Place) : (s.trace r).spaceAt p = s.spaceAt p := by
  unfold State.trace
  split
  · cases p <;> rfl
  · rfl

theorem ctx_trace (s : State) (r : TraceRec) (core ctx : Nat) : (s.trace r).ctx core ctx = s.ctx core ctx := by
  unfold State.trace
  split <;> rfl

theorem sampled_trace (s : State) (r : TraceRec) (core ctx : Nat) : Sampled s (s.trace r) core ctx :=
  ⟨by rw [ctx_trace], by rw [ctx_trace], spaceAt_trace s r⟩

theorem sampled_record (s : State) (core ctx : Nat) (q : VConvoy) (st : List Nat) (kind : Nat) :
    Sampled s (s.sampleRecord core ctx q st kind).2 core ctx := by
  unfold State.sampleRecord
  dsimp only
  split <;> exact ⟨rfl, rfl, fun p => by cases p <;> rfl⟩

theorem sampled_convoy (s : State) (core ctx : Nat) (q : VConvoy) : Sampled s (s.sampleConvoy core ctx q) core ctx := by
  unfold State.sampleConvoy
  split
  · exact ⟨rfl, rfl, fun _ => rfl⟩
  · next st _ =>
    have hcount := sampled_modCtx s core ctx (f := fun c => { c with vmemCount := c.vmemCount + 1 }) fun c => ⟨rfl, rfl⟩
    dsimp only
    split
    · exact hcount
    next k _ =>
      have hrecord := hcount.trans (sampled_record (s.modCtx core ctx fun c => { c with vmemCount := c.vmemCount + 1 }) core ctx q st k)
      split
      · exact hrecord.trans (sampled_modCtx _ core ctx fun c => ⟨rfl, rfl⟩)
      · exact hrecord.trans (sampled_trace _ _ core ctx)

theorem convoy_retires (hlive : s.ctxLive core ctx = true) {q : VConvoy} (hq : (s.ctx core ctx).vq = [q]) (h : q.starts.length ≤ q.started)
    (hdue : q.retire ≤ s.now) : ∃ t, exec (.vectorConvoyRetire core ctx) s = .next t ∧ (t.ctx core ctx).vq = []
      ∧ (t.ctx core ctx).flg = (s.ctx core ctx).flg ||| q.flags ∧ SameMemory s t := by
  have hmay : VConvoy.mayRetire s.now q = true := by rw [VConvoy.mayRetire, decide_eq_true h, decide_eq_true hdue]; rfl
  have hpick : (if s.ctxLive core ctx then pickConvoy (VConvoy.mayRetire s.now) (s.ctx core ctx).vq else none) = some q := by
    rw [if_pos hlive, hq, pickConvoy_single hmay]
  have hexec : exec (.vectorConvoyRetire core ctx) s = execVectorConvoyRetire core ctx s := rfl
  unfold execVectorConvoyRetire at hexec
  dsimp only at hexec
  rw [hpick] at hexec
  dsimp only at hexec
  rw [hq, retireConvoy_single] at hexec
  have hs := sampled_convoy (s.setCtx core ctx (({ s.ctx core ctx with vq := [], flg := (s.ctx core ctx).flg ||| q.flags } : Ctx).gather s.now q.flags))
    core ctx q
  refine ⟨_, hexec, ?_, ?_, fun p a => by rw [spaceAt_wake, hs.space, spaceAt_setCtx]⟩
  · rw [vq_wake, hs.vq, ctx_setCtx_self]
    rfl
  · rw [ctx_wake]
    exact hs.flg.trans (congrArg Ctx.flg (ctx_setCtx_self _ _ _ _))

/-! ## EXIT (R125) -/

/-- A context that has EXITED. -/
def exitedCtx (c : Ctx) : Ctx := { c with st := .exited, exiting := false, stalled := false, haltReq := none, smpl := none, heldSmpl := none }

theorem ctx_modCore_keep (s : State) {core : Nat} {f : Core → Core} (h : (f (s.core core)).ctxs = (s.core core).ctxs) (ctx : Nat) :
    (s.modCore core f).ctx core ctx = s.ctx core ctx := by
  rw [ctx_modCore, Core.ctx, h]
  rfl

theorem exit_completes (h : s.exitDue core ctx = true) : ∃ t, exec (.exitComplete core ctx) s = .next t ∧ (t.ctx core ctx).st = .exited
    ∧ (t.ctx core ctx).exiting = false ∧ SameMemory s t := by
  have hexec : exec (.exitComplete core ctx) s = .next (((s.modCtx core ctx exitedCtx).modCore core fun k =>
      { k with bars := barsExit ctx s.now k.bars }).wake core) := if_pos h
  refine ⟨_, hexec, ?_, ?_, fun p a => ?_⟩
  · rw [ctx_wake, ctx_modCore_keep _ rfl, ctx_modCtx_self]
    rfl
  · rw [ctx_wake, ctx_modCore_keep _ rfl, ctx_modCtx_self]
    rfl
  · rw [spaceAt_wake, spaceAt_modCore rfl, spaceAt_modCtx]

/-! ## Spans (R118, R119) -/

/-- The registers and the closed span of a context, and every memory, are as before. -/
structure SpanKept (s t : State) (core ctx : Nat) : Prop where
  span : (t.ctx core ctx).span = (s.ctx core ctx).span
  regs : (t.ctx core ctx).regs = (s.ctx core ctx).regs
  space : ∀ p, t.spaceAt p = s.spaceAt p

theorem SpanKept.refl (s : State) (core ctx : Nat) : SpanKept s s core ctx := ⟨rfl, rfl, fun _ => rfl⟩

theorem SpanKept.trans {s t u : State} {core ctx : Nat} (h : SpanKept s t core ctx) (g : SpanKept t u core ctx) : SpanKept s u core ctx :=
  ⟨g.span.trans h.span, g.regs.trans h.regs, fun p => (g.space p).trans (h.space p)⟩

theorem SpanKept.foldl {α : Type} {core ctx : Nat} {f : State → α → State} (hf : ∀ s a, SpanKept s (f s a) core ctx) (l : List α) :
    ∀ s, SpanKept s (l.foldl f s) core ctx := by
  induction l with
  | nil => exact fun s => SpanKept.refl s core ctx
  | cons a r ih => exact fun s => (hf s a).trans (ih _)

theorem spanKept_modCtx (s : State) (core ctx : Nat) {f : Ctx → Ctx} (hf : ∀ c, (f c).span = c.span ∧ (f c).regs = c.regs) :
    SpanKept s (s.modCtx core ctx f) core ctx :=
  ⟨by rw [ctx_modCtx_self, (hf _).1], by rw [ctx_modCtx_self, (hf _).2], spaceAt_modCtx s core ctx f⟩

/-- A context that a trap has stopped. -/
def stoppedByTrap (c : Ctx) : Ctx := { c with trapped := true }

theorem spanKept_raiseTrap (s : State) (o : Origin) (cause addr info : Nat) : SpanKept s (s.raiseTrap o cause addr info true) o.core o.ctx := by
  have hheld : SpanKept s (s.modCtx o.core o.ctx Ctx.holdTurns) o.core o.ctx := spanKept_modCtx s o.core o.ctx fun c => by
    unfold Ctx.holdTurns
    split
    · split <;> exact ⟨rfl, rfl⟩
    · exact ⟨rfl, rfl⟩
  have htold : ∀ (t : State) (d : Disp), SpanKept t { t with disp := d } o.core o.ctx := fun t d => ⟨rfl, rfl, fun p => by cases p <;> rfl⟩
  exact (hheld.trans (htold _ _)).trans (spanKept_modCtx _ o.core o.ctx (f := stoppedByTrap) fun c => ⟨rfl, rfl⟩)

theorem spanKept_raiseTraps (o : Origin) (l : List (Nat × Nat × Nat)) (s : State) :
    SpanKept s (l.foldl (fun s t => s.raiseTrap o t.1 t.2.1 t.2.2 true) s) o.core o.ctx :=
  SpanKept.foldl (fun s t => spanKept_raiseTrap s o t.1 t.2.1 t.2.2) l s

theorem spanKept_trace (s : State) (r : TraceRec) (core ctx : Nat) : SpanKept s (s.trace r) core ctx :=
  ⟨by rw [ctx_trace], by rw [ctx_trace], spaceAt_trace s r⟩

theorem spanKept_afterSpan (s : State) (core ctx : Nat) : SpanKept s (s.afterSpan core ctx) core ctx := by
  unfold State.afterSpan
  dsimp only
  refine SpanKept.trans ?_ (spanKept_raiseTraps _ _ _)
  refine SpanKept.trans ?_ (SpanKept.foldl (fun s r => spanKept_trace s r core ctx) _ _)
  refine SpanKept.trans ?_ (spanKept_modCtx _ core ctx ?_)
  · exact spanKept_modCtx s core ctx fun c => ⟨rfl, rfl⟩
  · exact fun c => ⟨rfl, rfl⟩

/-- A context whose span is closed. -/
def outOfSpan (c : Ctx) : Ctx := { c with span := none }

theorem span_closes (hlive : s.ctxLive core ctx = true) (h : (s.ctx core ctx).spanDone s.now = true) :
    ∃ t, exec (.spanClose core ctx) s = .next t ∧ (t.ctx core ctx).span = none ∧ (t.ctx core ctx).regs = (s.ctx core ctx).regs ∧ SameMemory s t := by
  have hexec : exec (.spanClose core ctx) s = .next ((s.modCtx core ctx outOfSpan).afterSpan core ctx) := if_pos (by rw [hlive, h]; rfl)
  have hk := spanKept_afterSpan (s.modCtx core ctx outOfSpan) core ctx
  refine ⟨_, hexec, ?_, ?_, fun p a => by rw [hk.space, spaceAt_modCtx]⟩
  · rw [hk.span, ctx_modCtx_self]
    rfl
  · rw [hk.regs, ctx_modCtx_self]
    rfl

theorem span_overruns (hlive : s.ctxLive core ctx = true) {r : SliceRun} {w : Nat} (h : (s.ctx core ctx).overrun s.now = some w) (hcore : core < 1024)
    (hs : s.slice = some r) : ∃ t x, exec (.spanOverrun core ctx) s = .next t ∧ t.slice = none ∧ t.disp.waitRecs = s.disp.waitRecs ++ [x]
      ∧ x.cause = 0x09 ∧ x.addr = w := by
  have hw : (if s.ctxLive core ctx then (s.ctx core ctx).overrun s.now else none) = some w := by rw [if_pos hlive, h]
  have hexec : exec (.spanOverrun core ctx) s = execSpanOverrun core ctx s := rfl
  unfold execSpanOverrun at hexec
  rw [hw] at hexec
  obtain ⟨x, hnone, hrecs, hcause, -, -, -, -, haddr, -⟩ := raiseFault_tells (s := s) (e := { cause := 0x09, addr := w })
    (o := { core := core, ctx := ctx, head := ((s.ctx core ctx).cv.getD { head := (s.ctx core ctx).pc, n := s.membersAt core ctx (s.ctx core ctx).pc, idx := 0 }).head
            members := ((s.ctx core ctx).cv.getD { head := (s.ctx core ctx).pc, n := s.membersAt core ctx (s.ctx core ctx).pc, idx := 0 }).n
            midx := ((s.ctx core ctx).cv.getD { head := (s.ctx core ctx).pc, n := s.membersAt core ctx (s.ctx core ctx).pc, idx := 0 }).idx
            phc := s.phc.toNat, span := (s.ctx core ctx).span.map fun p => s.now - p.start }) hcore hs
  exact ⟨_, x, hexec, hnone, hrecs, hcause, haddr⟩
end context

/-- Settles O50. -/
theorem contextSteps : Obligations.ContextSteps := fun _ _ _ hlive =>
  ⟨fun _ => convoy_starts hlive, fun _ => convoy_goesOn hlive, fun _ => convoy_retires hlive, exit_completes, span_closes hlive,
    fun _ _ => span_overruns hlive⟩

end Sys2Proof.Proofs
end

section
/-! What the operations on memories (R22, R342 to R349) change of a machine: the memories themselves, the count of poisoned words and the
free draws, and of a core its scratchpad alone. -/

namespace Sys2Proof.Proofs

open Sys2Proof Sys2Proof.Machine Sys2Proof.Safety Sys2Proof.Claims Sys2Proof.Laws

section spaces
variable {s t u : State}

/-- What every step of a fold keeps, the fold keeps. -/
theorem foldl_keeps {α β γ : Type} {g : β → γ} {f : β → α → β} (h : ∀ b a, g (f b a) = g b) (l : List α) : ∀ b, g (l.foldl f b) = g b := by
  induction l with
  | nil => exact fun _ => rfl
  | cons a r ih => exact fun b => (ih _).trans (h b a)

theorem spaceAt_setSpace_self (s : State) (p : Place) (m : Space) : (s.setSpace p m).spaceAt p = m := by
  cases p with
  | loc c => exact congrArg Core.loc (core_modCore_self s c _)
  | _ => rfl

theorem spaceAt_setSpace_ne (s : State) {p q : Place} (m : Space) (h : q ≠ p) : (s.setSpace p m).spaceAt q = s.spaceAt q := by
  cases p with
  | loc c =>
    cases q with
    | loc d => exact congrArg Core.loc (core_modCore_ne s _ fun e => h (e ▸ rfl))
    | _ => rfl
  | phys =>
    cases q with
    | phys => exact absurd rfl h
    | _ => rfl
  | host =>
    cases q with
    | host => exact absurd rfl h
    | _ => rfl
  | peer =>
    cases q with
    | peer => exact absurd rfl h
    | _ => rfl

theorem spaceAt_modSpace_self (s : State) (p : Place) (f : Space → Space) : (s.modSpace p f).spaceAt p = f (s.spaceAt p) :=
  spaceAt_setSpace_self ..

theorem spaceAt_modSpace_ne (s : State) {p q : Place} (f : Space → Space) (h : q ≠ p) : (s.modSpace p f).spaceAt q = s.spaceAt q :=
  spaceAt_setSpace_ne _ _ h

/-- Nothing changes but memories, free draws and what bring-up counts. -/
structure SpacesOnly (s t : State) : Prop where
  fields : ∃ cores phys host peer free bar, t = { s with cores := cores, phys := phys, host := host, peer := peer, free := free, bar := bar }
  core : ∀ c, ∃ m, t.core c = { s.core c with loc := m }

theorem SpacesOnly.refl (s : State) : SpacesOnly s s := ⟨⟨_, _, _, _, _, _, rfl⟩, fun _ => ⟨_, rfl⟩⟩

theorem SpacesOnly.trans (h : SpacesOnly s t) (g : SpacesOnly t u) : SpacesOnly s u := by
  obtain ⟨⟨_, _, _, _, _, _, rfl⟩, hcore⟩ := h
  obtain ⟨⟨_, _, _, _, _, _, rfl⟩, gcore⟩ := g
  refine ⟨⟨_, _, _, _, _, _, rfl⟩, fun c => ?_⟩
  obtain ⟨m, hm⟩ := hcore c
  obtain ⟨n, hn⟩ := gcore c
  exact ⟨n, by rw [hn, hm]⟩

theorem SpacesOnly.foldl {α : Type} {f : State → α → State} (hf : ∀ s a, SpacesOnly s (f s a)) (l : List α) : ∀ s, SpacesOnly s (l.foldl f s) := by
  induction l with
  | nil => exact SpacesOnly.refl
  | cons a r ih => exact fun s => (hf s a).trans (ih _)

theorem SpacesOnly.ctx (h : SpacesOnly s t) (c x : Nat) : t.ctx c x = s.ctx c x := by
  obtain ⟨m, hm⟩ := h.core c
  rw [State.ctx, hm]
  rfl

theorem SpacesOnly.cur (h : SpacesOnly s t) : t.cur = s.cur := by
  have hfocus : t.focusCore = s.focusCore ∧ t.focusCtx = s.focusCtx := by
    obtain ⟨⟨_, _, _, _, _, _, rfl⟩, -⟩ := h
    exact ⟨rfl, rfl⟩
  rw [State.cur, hfocus.1, hfocus.2, h.ctx]
  rfl

theorem spacesOnly_setSpace (s : State) (p : Place) (m : Space) : SpacesOnly s (s.setSpace p m) := by
  cases p with
  | loc c =>
    refine ⟨⟨_, _, _, _, _, _, rfl⟩, fun d => ?_⟩
    by_cases h : d = c
    · subst h
      exact ⟨m, core_modCore_self ..⟩
    · exact ⟨_, core_modCore_ne _ _ h⟩
  | _ => exact ⟨⟨_, _, _, _, _, _, rfl⟩, fun _ => ⟨_, rfl⟩⟩

theorem spacesOnly_modSpace (s : State) (p : Place) (f : Space → Space) : SpacesOnly s (s.modSpace p f) := spacesOnly_setSpace ..

theorem spacesOnly_countPoison (s : State) (n : Nat) : SpacesOnly s (s.countPoison n) := ⟨⟨_, _, _, _, _, _, rfl⟩, fun _ => ⟨_, rfl⟩⟩

theorem spacesOnly_drawWord (s : State) : SpacesOnly s s.drawWord.2 := ⟨⟨_, _, _, _, _, _, rfl⟩, fun _ => ⟨_, rfl⟩⟩

theorem spacesOnly_markBad (s : State) (p : Place) (w : Nat) : SpacesOnly s (s.markBad p w) := by
  unfold State.markBad
  split
  · exact (spacesOnly_modSpace ..).trans (spacesOnly_countPoison ..)
  · exact SpacesOnly.refl s

theorem spacesOnly_copied (s : State) (p : Place) (ws : List Nat) : SpacesOnly s (s.copied p ws) := by
  unfold State.copied
  split
  · exact SpacesOnly.refl s
  · exact (spacesOnly_modSpace ..).trans (SpacesOnly.foldl (fun s w => spacesOnly_markBad s p w) ws _)

/-! ## The stored bits -/

/-- Every memory holds the same bytes. -/
def SameBytes (s t : State) : Prop := ∀ p, (t.spaceAt p).bytes = (s.spaceAt p).bytes

theorem SameBytes.refl (s : State) : SameBytes s s := fun _ => rfl

theorem SameBytes.trans (h : SameBytes s t) (g : SameBytes t u) : SameBytes s u := fun p => (g p).trans (h p)

theorem SameBytes.foldl {α : Type} {f : State → α → State} (hf : ∀ s a, SameBytes s (f s a)) (l : List α) : ∀ s, SameBytes s (l.foldl f s) := by
  induction l with
  | nil => exact SameBytes.refl
  | cons a r ih => exact fun s => (hf s a).trans (ih _)

theorem SameBytes.memory (h : SameBytes s t) : SameMemory s t := fun p a => by rw [h]

theorem sameBytes_modSpace (s : State) (p : Place) {f : Space → Space} (hf : (f (s.spaceAt p)).bytes = (s.spaceAt p).bytes) :
    SameBytes s (s.modSpace p f) := fun q => by
  by_cases h : q = p
  · rw [h, spaceAt_modSpace_self, hf]
  · rw [spaceAt_modSpace_ne _ _ h]

theorem sameBytes_countPoison (s : State) (n : Nat) : SameBytes s (s.countPoison n) := fun p => by cases p <;> rfl

theorem sameBytes_drawWord (s : State) : SameBytes s s.drawWord.2 := fun p => by cases p <;> rfl

theorem sameBytes_markBad (s : State) (p : Place) (w : Nat) : SameBytes s (s.markBad p w) := by
  unfold State.markBad
  split
  · exact (sameBytes_modSpace s p (f := fun m => m.poison w) rfl).trans (sameBytes_countPoison _ _)
  · exact SameBytes.refl s

theorem countRead_bytes (m : Space) (ws : List Nat) : (m.countRead ws).bytes = m.bytes := by
  unfold Space.countRead
  split <;> rfl

theorem sameBytes_copied (s : State) (p : Place) (ws : List Nat) : SameBytes s (s.copied p ws) := by
  unfold State.copied
  split
  · exact SameBytes.refl s
  · exact (sameBytes_modSpace s p (f := fun m => m.countRead ws) (countRead_bytes ..)).trans (SameBytes.foldl (fun s w => sameBytes_markBad s p w) ws _)
end spaces

end Sys2Proof.Proofs
end

section
/-! The debug unit: the marker word (R318), the trace buffer (R321) and the view of a core through SVDATA (R316, R317), whose
words are those that R304 lays out. -/

namespace Sys2Proof.Proofs

open Sys2Proof Sys2Proof.Machine Sys2Proof.Safety Sys2Proof.Claims Sys2Proof.Laws

section debug
variable {s s1 : State} {core : Nat}

/-! ## DMARK (R318, R320) -/

/-- A context that holds one more trace record for the closure of its span. -/
def holdsTrace (r : TraceRec) (c : Ctx) : Ctx := { c with heldTrace := c.heldTrace ++ [r] }

theorem exec_dmark (a : Reg) (s : State) : exec (.dmark a) s = issue (.dmark a) s fun _ s =>
    .ok (if s.cur.span.isSome then s.modCur (holdsTrace (s.marker (s.reg a))) else s.trace (s.marker (s.reg a))) := rfl

theorem onlyFocus_dbg {t : State} (h : OnlyFocus s t) : t.dbg = s.dbg := by
  obtain ⟨c, vc, rfl⟩ := h
  rfl

theorem dmark_traces {a : Reg} {v : Cv} (ht : Taken (.dmark a) s v s1) (hg : Goes s v s.cur.loops (s.cur.pc + 32)) (hen : s.dbg.en = true)
    (hspan : s1.cur.span = none) : ∃ t, exec (.dmark a) s = .next t ∧ t.dbg.waiting = s.dbg.waiting ++ [s1.marker (s.reg a)]
      ∧ t.cur.regs = s.cur.regs ∧ SameMemory s t := by
  have f := taken_fronted ht
  have hreg : s1.reg a = s.reg a := by rw [State.reg, Ctx.reg, f.regs, f.wb]; rfl
  have hdbg := onlyFocus_dbg f.only
  have htrace : s1.trace (s1.marker (s.reg a)) = { s1 with dbg := { s1.dbg with waiting := s1.dbg.waiting ++ [s1.marker (s.reg a)] } } :=
    if_pos (by rw [hdbg, hen])
  obtain ⟨cv, hn⟩ := completes_on (s2 := s1.trace (s1.marker (s.reg a))) ht hg (body := fun _ s =>
    .ok (if s.cur.span.isSome then s.modCur (holdsTrace (s.marker (s.reg a))) else s.trace (s.marker (s.reg a))))
    (by simp only [hreg, hspan, Option.isSome_none, Bool.false_eq_true, if_false]) (by rw [htrace]; rfl) (by rw [htrace]; rfl)
  refine ⟨_, (exec_dmark a s).trans hn, ?_, ?_, ?_⟩
  · rw [closed_dbg, htrace, hdbg]
  · rw [cur_closed, htrace]
    exact f.regs
  · intro p b
    rw [closed_spaceAt, spaceAt_trace]
    exact congrArg (·.bytes.byte b) (onlyFocus_spaceAt f.only p)

theorem dmark_held {a : Reg} {v : Cv} (ht : Taken (.dmark a) s v s1) (hg : Goes s v s.cur.loops (s.cur.pc + 32))
    (hspan : s1.cur.span.isSome = true) : ∃ t, exec (.dmark a) s = .next t ∧ t.cur.heldTrace = s1.cur.heldTrace ++ [s1.marker (s.reg a)]
      ∧ t.dbg.waiting = s.dbg.waiting ∧ t.cur.regs = s.cur.regs ∧ SameMemory s t := by
  have f := taken_fronted ht
  have hreg : s1.reg a = s.reg a := by rw [State.reg, Ctx.reg, f.regs, f.wb]; rfl
  have hb : (if s1.cur.span.isSome then s1.modCur (holdsTrace (s1.marker (s1.reg a))) else s1.trace (s1.marker (s1.reg a)))
      = s1.modCur (holdsTrace (s1.marker (s.reg a))) := by rw [if_pos hspan, hreg]
  obtain ⟨cv, hn⟩ := completes_on (s2 := s1.modCur (holdsTrace (s1.marker (s.reg a)))) ht hg (body := fun _ s =>
    .ok (if s.cur.span.isSome then s.modCur (holdsTrace (s.marker (s.reg a))) else s.trace (s.marker (s.reg a))))
    (congrArg Except.ok hb) (by rw [cur_modCur]; rfl) (by rw [cur_modCur]; rfl)
  refine ⟨_, (exec_dmark a s).trans hn, ?_, ?_, ?_, ?_⟩
  · rw [cur_closed, cur_modCur]
    rfl
  · rw [closed_dbg]
    exact congrArg Debug.waiting (onlyFocus_dbg (onlyFocus_mod f.only _))
  · rw [cur_closed, cur_modCur]
    exact f.regs
  · intro p b
    exact congrArg (·.bytes.byte b) (onlyFocus_spaceAt (onlyFocus_closed (onlyFocus_mod f.only _) _ _ _) p)

/-! ## The trace buffer (R321) -/

theorem record_enters {r : TraceRec} (hr : r ∈ s.dbg.waiting) (hleast : ∀ y, y ∈ s.dbg.waiting → y ≠ r → traceKey r < traceKey y)
    (hsize : s.dbg.tbsize ≠ 0) (hstop : s.dbg.tbstop = false) (hsyn : s.phys.syn = []) : ∃ t, exec .traceRecord s = .next t
      ∧ t.dbg.waiting = s.dbg.waiting.erase r ∧ t.dbg.tbwp = s.dbg.tbwp + 1
      ∧ t.phys.bytes.bits (s.dbg.tbbase.toNat + 256 * (s.dbg.tbwp % s.dbg.tbsize.toNat)) 256 = r.toNat := by
  have hpick : leastBy traceKey s.dbg.waiting = some r := leastBy_least hr hleast
  have hexec : exec .traceRecord s = .next (s.putTrace r) := by
    change execTraceRecord s = _
    rw [execTraceRecord, hpick]
  have hput : s.putTrace r = { s with
      phys := s.phys.writeRaw (s.dbg.tbbase.toNat + 256 * (s.dbg.tbwp % s.dbg.tbsize.toNat)) 256 r.toNat
      dbg := { s.dbg with waiting := s.dbg.waiting.erase r, tbwp := s.dbg.tbwp + 1 } } := by
    have hne : s.dbg.tbsize.toNat ≠ 0 := fun h => hsize (BitVec.eq_of_toNat_eq h)
    rw [State.putTrace]
    simp only [hstop, Bool.false_and, Bool.or_false, decide_eq_true_eq, if_neg hne]
  refine ⟨_, hexec, by rw [hput], by rw [hput], ?_⟩
  rw [hput, writeRaw_clean hsyn, bits_setBits, Nat.mod_eq_of_lt r.isLt]

/-! ## Words of the view (R304, R316) -/

theorem foldr_digits (f : Nat → Nat) (B n : Nat) : ∀ a, (rangeFrom a n).foldr (fun j acc => f j + B * acc) 0
    = ((List.range n).map fun j => f (a + j) * B ^ j).sum := by
  induction n with
  | zero => exact fun _ => rfl
  | succ n ih =>
    intro a
    rw [rangeFrom, List.foldr_cons, ih, List.range_succ_eq_map, List.map_cons, List.sum_cons, List.map_map, ← List.sum_map_mul_left]
    refine congrArg₂ (· + ·) (by simp) (congrArg List.sum (List.map_congr_left fun j _ => ?_))
    simp only [Function.comp_apply, Nat.succ_eq_add_one, pow_succ, Nat.add_right_comm a 1 j, Nat.add_assoc]
    ring

theorem wordOf_eq (x i : Nat) : wordOf x i = wordIn x i := by rw [wordOf, wordIn, Nat.shiftRight_eq_div_pow]

theorem barWord_eq (k : Core) (x : Nat) : k.barWord x = ((List.range 4).map fun b =>
    (SMap.get {} k.bars b).mask.toNat * 2 ^ (4 * b)
      + (if (SMap.get {} k.bars b).pending.getLsbD x = true ∨ (SMap.get {} k.bars b).effect.getLsbD x = true then 2 ^ (16 + b) else 0)).sum := by
  have hbit (b : Nat) : ((SMap.get {} k.bars b).pending.getLsbD x || (SMap.get {} k.bars b).effect.getLsbD x).toNat * 2 ^ (16 + b)
      = if (SMap.get {} k.bars b).pending.getLsbD x = true ∨ (SMap.get {} k.bars b).effect.getLsbD x = true then 2 ^ (16 + b) else 0 := by
    rw [toNat_eq_ite, ite_one_mul]
    exact if_congr Bool.or_eq_true_iff rfl rfl
  simp only [Core.barWord, rangeFrom, List.foldl_cons, List.foldl_nil, hbit, List.range, List.range.loop, List.map_cons, List.map_nil,
    List.sum_cons, List.sum_nil, Nat.zero_add, Nat.add_zero, Nat.add_assoc, Nat.reduceAdd]

/-- The words of the loop stack: entry, and which of its three (R304). -/
theorem statusWord_loop {x i : Nat} (hi : 16 ≤ i ∧ i ≤ 27) : s.statusWord core x i
    = match (s.ctx core x).loops.reverse[(i - 16) / 3]? with
      | some e => if (i - 16) % 3 = 0 then e.start else if (i - 16) % 3 = 1 then e.stop else e.count
      | none => 0 := by
  have hin : (decide (16 ≤ i) && decide (i ≤ 27)) = true := by rw [decide_eq_true hi.1, decide_eq_true hi.2]; rfl
  have hword : s.statusWord core x i = if 16 ≤ i && i ≤ 27 then
      (match (s.ctx core x).loops.reverse[(i - 16) / 3]? with
      | some e => (match (i - 16) % 3 with | 0 => e.start | 1 => e.stop | _ => e.count)
      | none => 0) else 0 := by
    unfold State.statusWord
    split
    case h_19 => rfl
    all_goals omega
  rw [hword, if_pos hin]
  cases (s.ctx core x).loops.reverse[(i - 16) / 3]? with
  | none => rfl
  | some e =>
    have hlt : (i - 16) % 3 < 3 := Nat.mod_lt _ (by decide)
    dsimp only
    generalize (i - 16) % 3 = n at hlt
    interval_cases n <;> rfl

/-- A status word is what R304 lays out; word 28, the arrival entry, is left out there. -/
theorem statusWord_eq {x i y : Nat} (h : statusOf s core x i = some y) : s.statusWord core x i = y := by
  unfold statusOf at h
  split at h
  case h_11 =>
    rw [← Option.some.inj h]
    change (match (s.ctx core x).vpart with | some n => n + 2 ^ 63 | none => 0) = _
    cases (s.ctx core x).vpart with
    | none => rfl
    | some n => exact Nat.add_comm ..
  case h_16 => exact (barWord_eq (s.core core) x).trans (Option.some.inj h)
  case h_17 =>
    rw [← Option.some.inj h]
    change s.hgCount core = _
    unfold State.hgCount
    cases s.slice with
    | none => rfl
    | some r => exact if_congr List.contains_iff_mem rfl rfl
  case h_20 =>
    dsimp only at h
    split at h
    next hi =>
      rw [statusWord_loop hi]
      generalize (s.ctx core x).loops.reverse[(i - 16) / 3]? = e at h ⊢
      cases e with
      | none => exact Option.some.inj h
      | some e => exact Option.some.inj h
    next => cases h
  all_goals exact Option.some.inj h

theorem tailAt_eq (q : Queue) : q.tailAt = Nat.max 1 (Nat.min q.segs.length ((q.head + q.avail + 62) / 63)) - 1 := rfl

theorem entry_eq (q : Queue) : q.entry 0 = ringAt q 0 := by
  cases hsegs : q.segs with
  | nil => simp [Queue.entry, ringAt, hsegs]
  | cons a r =>
    have hlen : Nat.max (a :: r).length 1 = (a :: r).length := Nat.max_eq_left (Nat.succ_le_succ (Nat.zero_le _))
    rw [Queue.entry, ringAt, hsegs, hlen]

/-- The two words of a queue (R143, R304). -/
theorem savedQueue_eq (q : Queue) (i : Nat) : wordOf q.saved i = if q.dir = 0 then 0 else wordIn (q.dir + (q.segs.length - 1) * 2 ^ 2
    + q.cov * 2 ^ 10 + q.avail * 2 ^ 26 + q.segs.getD (Nat.max 1 (Nat.min q.segs.length ((q.head + q.avail + 62) / 63)) - 1) 0 * 2 ^ 42
    + ringAt q 0 * 2 ^ 65) i := by
  rw [wordOf_eq, Queue.saved]
  split
  · simp [wordIn]
  · rw [tailAt_eq, entry_eq, Nat.mul_comm (2 ^ 2), Nat.mul_comm (2 ^ 10), Nat.mul_comm (2 ^ 26), Nat.mul_comm (2 ^ 42), Nat.mul_comm (2 ^ 65)]

section view
variable {w y : Nat}

theorem viewBlock_eq : viewBlock = 33280 := rfl
theorem viewLocal_eq : viewLocal = 164352 := rfl
theorem viewEnd_eq : viewEnd = 180736 := rfl

theorem byte512 (w : Nat) : 64 * w / 512 = w / 8 := by omega

/-- A word of the core block that no fault has left undefined reads as the block lays it out, or all ones (R316, R317). -/
theorem view_block (hblock : w / 8 < 4160) (hdef : w / 8 < 2560 ∨ 4097 ≤ w / 8 ∨ (s.core core).me.undef = false ∨ s.blockOpen core w = false) :
    (s.view core w).1 = if s.blockOpen core w = true then s.coreWord core w else 2 ^ 64 - 1 := by
  have hw : w < viewBlock := by have := viewBlock_eq; omega
  have hfree : (s.blockOpen core w && (s.core core).me.undef && decide (2561 ≤ w / 8) && decide (w / 8 < 4097)
      && !(s.core core).me.known.contains w) = false := by
    rcases hdef with hlow | hhigh | hundef | hshut
    · rw [decide_eq_false (show ¬2561 ≤ w / 8 by omega)]; simp
    · rw [decide_eq_false (show ¬w / 8 < 4097 by omega)]; simp
    · rw [hundef]; simp
    · rw [hshut]; simp
  rw [State.view]
  rw [if_pos hw, if_neg (by rw [hfree]; exact Bool.false_ne_true)]

theorem open_iff (c : Ctx) : c.open = true ↔ ¬(c.halted = false ∧ c.aborted = false) := by
  rw [Ctx.open]
  cases c.halted <;> cases c.aborted <;> decide

theorem open_iff_partOpen (c : Ctx) : c.open = true ↔ partOpen c := Bool.or_eq_true_iff

theorem stopped_iff (c : Ctx) : c.stopped = true ↔ ¬(c.halted = false ∨ c.aborted = true) := by
  rw [Ctx.stopped]
  cases c.halted <;> cases c.aborted <;> decide

theorem blockOpen_ctx (hsec : w / 8 < 2560) : s.blockOpen core w = (s.ctx core (w / 8 / 640)).open := if_pos hsec

theorem blockOpen_matrix (hlow : ¬w / 8 < 2560) (hsec : w / 8 < 4097) : s.blockOpen core w = ((s.core core).ctx (s.core core).meown).stopped :=
  (if_neg hlow).trans (if_pos hsec)

theorem blockOpen_rest (hlow : 4097 ≤ w / 8) : s.blockOpen core w = true :=
  (if_neg (by omega)).trans (if_neg (by omega))

/-- A word of a context's part. -/
theorem view_ctx (hsec : w / 8 < 2560) (h : debugWord s core (64 * w) = some y) : (s.view core w).1 = y := by
  rw [debugWord] at h
  simp only [byte512, Nat.mul_div_cancel_left w (show 0 < 64 by decide), if_pos hsec] at h
  rw [view_block (by omega) (Or.inl hsec), blockOpen_ctx hsec]
  split at h
  next hshut => rw [if_neg fun ho => (open_iff _).mp ho hshut]; exact Option.some.inj h
  next hopen =>
  rw [if_pos ((open_iff _).mpr hopen), State.coreWord]
  rw [if_pos hsec, State.ctxWord]
  split at h
  next hstatus => rw [if_pos hstatus]; exact statusWord_eq h
  next hstatus =>
  rw [if_neg hstatus]
  split at h
  next hreg => rw [if_pos hreg]; exact Option.some.inj h
  next hreg =>
  rw [if_neg hreg]
  split at h
  next htag =>
    rw [if_pos htag, foldr_digits (fun j => (s.ctx core (w / 8 / 640)).tag (8 * (w % 5120 - 560) + j)), ← Option.some.inj h]
    simp only [Nat.zero_add]
  next htag =>
  rw [if_neg htag]
  split at h
  next hmask => rw [if_pos hmask, wordOf_eq]; exact Option.some.inj h
  next hmask =>
  rw [if_neg hmask]
  split at h
  next hkreg => rw [if_pos hkreg, wordOf_eq]; exact Option.some.inj h
  next hkreg =>
  rw [if_neg hkreg]
  split at h
  next hvreg => rw [if_pos hvreg, wordOf_eq]; exact Option.some.inj h
  next hvreg => rw [if_neg hvreg]; exact Option.some.inj h

theorem pair_eq (p : SMap (BitVec 32)) (i : Nat) : (SMap.get 0 p i).toNat + 2 ^ 32 * (SMap.get 0 p (i + 1)).toNat
    = (SMap.get 0 p i).toNat + (SMap.get 0 p (i + 1)).toNat * 2 ^ 32 := by rw [Nat.mul_comm]

/-- The words of the matrix sector (R226, R304). -/
theorem matrixSector_eq (hsec : w / 8 = 2560) : s.coreWord core w
    = if w = 2560 * 8 then (s.core core).me.gm + (s.core core).me.gn * 2 ^ 8 + (s.core core).me.gk * 2 ^ 16 + (if (s.core core).me.sp = true then 2 ^ 24 else 0)
      else if w = 2560 * 8 + 1 then (mstateOf (s.core core).me).toNat / 2 ^ 28 % 2 ^ 20 * 2 ^ 28
      else if w = 2560 * 8 + 2 then (s.core core).me.amax.toNat else 0 := by
  rw [State.coreWord]
  dsimp only
  rw [if_neg (by omega), if_pos hsec]
  obtain ⟨n, hn, rfl⟩ : ∃ n, n < 8 ∧ w = 2560 * 8 + n := ⟨w - 2560 * 8, by omega, by omega⟩
  have hmod : (2560 * 8 + n) % 8 = n := by omega
  rw [hmod]
  interval_cases n
  · rw [if_pos rfl]
    change _ + 2 ^ 8 * _ + 2 ^ 16 * _ + 2 ^ 24 * _ = _
    rw [toNat_eq_ite, mul_ite_one, Nat.mul_comm (2 ^ 8), Nat.mul_comm (2 ^ 16)]
  · exact congrArg (fun x : Word => x.toNat / 2 ^ 28 % 2 ^ 20 * 2 ^ 28) (mstate_eq _)
  all_goals rfl

/-- A word of the matrix part. -/
theorem view_matrix (hlow : ¬w / 8 < 2560) (hsec : w / 8 < 4097) (h : debugWord s core (64 * w) = some y) : (s.view core w).1 = y := by
  rw [debugWord] at h
  simp only [byte512, Nat.mul_div_cancel_left w (show 0 < 64 by decide), if_neg hlow, if_pos hsec] at h
  split at h
  next hshut =>
    have hblock : ¬s.blockOpen core w = true := fun ho => (stopped_iff _).mp ((blockOpen_matrix hlow hsec).symm.trans ho) hshut
    rw [view_block (by omega) (Or.inr (Or.inr (Or.inr (Bool.eq_false_iff.mpr hblock)))), if_neg hblock]
    exact Option.some.inj h
  next hopen =>
  split at h
  next => cases h
  next hundef =>
  rw [view_block (by omega) (Or.inr (Or.inr (Or.inl (Bool.eq_false_iff.mpr hundef)))), blockOpen_matrix hlow hsec, if_pos ((stopped_iff _).mpr hopen)]
  by_cases hfirst : w / 8 = 2560
  · rw [matrixSector_eq hfirst]
    simp only [hfirst, if_true] at h
    split at h
    next hsize => rw [if_pos hsize]; exact Option.some.inj h
    next hsize =>
    rw [if_neg hsize]
    split at h
    next hstate => rw [if_pos hstate]; exact Option.some.inj h
    next hstate =>
    rw [if_neg hstate]
    split at h
    next hmax => rw [if_pos hmax]; exact Option.some.inj h
    next hmax => rw [if_neg hmax]; exact Option.some.inj h
  · rw [if_neg (by omega), if_neg (by omega), if_neg (by omega), if_neg hfirst] at h
    rw [State.coreWord]
    dsimp only
    rw [if_neg hlow, if_neg hfirst]
    split at h
    next hwact => rw [if_pos hwact]; exact Option.some.inj h
    next hwact =>
    rw [if_neg hwact]
    split at h
    next hwsh => rw [if_pos hwsh]; exact Option.some.inj h
    next hwsh =>
    rw [if_neg hwsh]
    split at h
    next hacc => rw [if_pos hacc, pair_eq]; exact Option.some.inj h
    next hacc => rw [if_neg hacc, if_pos hsec, pair_eq]; exact Option.some.inj h

/-- The facing and the queues. -/
theorem view_rest (hlow : ¬w / 8 < 4097) (hsec : w / 8 < 4160) (h : debugWord s core (64 * w) = some y) : (s.view core w).1 = y := by
  rw [debugWord] at h
  have h2560 : ¬w / 8 < 2560 := by omega
  simp only [byte512, Nat.mul_div_cancel_left w (show 0 < 64 by decide), if_neg hlow, if_neg h2560] at h
  rw [view_block hsec (Or.inr (Or.inl (by omega))), blockOpen_rest (by omega), if_pos rfl, State.coreWord]
  dsimp only
  rw [if_neg h2560, if_neg (by omega), if_neg (by omega), if_neg (by omega), if_neg (by omega), if_neg hlow]
  split at h
  next hfacing =>
    have hfirst : w * 64 - 4097 * 512 = 64 * (w - 4097 * 8) := by omega
    rw [if_pos hfacing, foldr_digits (fun j => ((s.core core).loc.isIn (64 * (w - 4097 * 8) + j) s.now).toNat), ← Option.some.inj h]
    simp only [Nat.zero_add, toNat_eq_ite, ite_one_mul, hfirst]
  next hfacing =>
  rw [if_neg hfacing]
  split at h
  next hqueue => rw [if_pos hqueue, savedQueue_eq]; exact Option.some.inj h
  next hqueue => rw [if_neg hqueue]; exact Option.some.inj h

/-- A word of the scratchpad, where it can be read and no word needs correction. -/
theorem view_local (hlow : ¬w / 8 < 4160) (hsec : w / 8 < 4160 + 16384) (h : debugWord s core (64 * w) = some y) : (s.view core w).1 = y := by
  have h2560 : ¬w / 8 < 2560 := by omega
  have h4097 : ¬w / 8 < 4097 := by omega
  have h4129 : ¬w / 8 < 4129 := by omega
  have h4133 : ¬w / 8 < 4133 := by omega
  have hin : 64 * w < (4160 + 16384) * 512 := by omega
  have hblock : ¬w < viewBlock := by have := viewBlock_eq; omega
  have hlocal : w < viewLocal := by have := viewLocal_eq; omega
  have hplace : 64 * (w - viewBlock) = 64 * w - 4160 * 512 := by have := viewBlock_eq; omega
  rw [debugWord] at h
  simp only [byte512, if_neg h2560, if_neg h4097, if_neg h4129, if_neg h4133, if_neg hlow, if_pos hin] at h
  rw [State.view]
  rw [if_neg hblock, if_pos hlocal]
  split at h
  next hshut =>
    have : ¬(s.core core).localOpen = true := fun ho => Bool.false_ne_true (hshut.symm.trans ho)
    rw [if_neg this]
    exact Option.some.inj h
  next hopen =>
  rw [if_pos (show (s.core core).localOpen = true from Bool.not_eq_false _ ▸ hopen)]
  split at h
  next hsyn => rw [← Option.some.inj h, ← hplace]; exact readBits_clean hsyn ..
  next => cases h

/-- Two words of the instruction store. -/
theorem view_store (hlow : ¬w / 8 < 4160 + 16384) (h : debugWord s core (64 * w) = some y) : (s.view core w).1 = y := by
  have h2560 : ¬w / 8 < 2560 := by omega
  have h4097 : ¬w / 8 < 4097 := by omega
  have h4129 : ¬w / 8 < 4129 := by omega
  have h4133 : ¬w / 8 < 4133 := by omega
  have h4160 : ¬w / 8 < 4160 := by omega
  have hin : ¬64 * w < (4160 + 16384) * 512 := by omega
  have hblock : ¬w < viewBlock := by have := viewBlock_eq; omega
  have hlocal : ¬w < viewLocal := by have := viewLocal_eq; omega
  have hplace : (64 * w - (4160 + 16384) * 512) / 32 = 2 * (w - viewLocal) := by have := viewLocal_eq; omega
  rw [debugWord] at h
  simp only [byte512, if_neg h2560, if_neg h4097, if_neg h4129, if_neg h4133, if_neg h4160, if_neg hin] at h
  split at h
  next hend =>
    have hlast : w < viewEnd := by have := viewEnd_eq; omega
    rw [State.view]
    rw [if_neg hblock, if_neg hlocal, if_pos hlast, ← Option.some.inj h, hplace]
    exact pair_eq ..
  next => cases h

theorem view_eq (h : debugWord s core (64 * w) = some y) : (s.view core w).1 = y := by
  by_cases hctx : w / 8 < 2560
  · exact view_ctx hctx h
  by_cases hmatrix : w / 8 < 4097
  · exact view_matrix hctx hmatrix h
  by_cases hblock : w / 8 < 4160
  · exact view_rest hmatrix hblock h
  by_cases hlocal : w / 8 < 4160 + 16384
  · exact view_local hblock hlocal h
  · exact view_store hlocal h
end view

/-! ## SVDATA (R316, R317) -/

theorem spacesOnly_view (s : State) (core w : Nat) : SpacesOnly s (s.view core w).2 := by
  unfold State.view
  dsimp only
  split
  · split
    · exact spacesOnly_drawWord s
    · exact SpacesOnly.refl s
  split
  · split
    · exact spacesOnly_copied ..
    · exact SpacesOnly.refl s
  split
  · exact SpacesOnly.refl s
  · exact spacesOnly_drawWord s

theorem sameBytes_view (s : State) (core w : Nat) : SameBytes s (s.view core w).2 := by
  unfold State.view
  dsimp only
  split
  · split
    · exact sameBytes_drawWord s
    · exact SameBytes.refl s
  split
  · split
    · exact sameBytes_copied s _ _
    · exact SameBytes.refl s
  split
  · exact SameBytes.refl s
  · exact sameBytes_drawWord s

/-- g4 of context 0 stands at 2304 (R304). -/
theorem reg4_shows (hopen : partOpen (s.ctx core 0)) : debugWord s core 2304 = some (SMap.get 0 (s.ctx core 0).regs 4).toNat := by
  have hshut : ¬((s.ctx core 0).halted = false ∧ (s.ctx core 0).aborted = false) := (open_iff _).mp ((open_iff_partOpen _).mpr hopen)
  rw [debugWord]
  exact (if_pos (by decide)).trans ((if_neg hshut).trans rfl)

/-- The place that SVADDR names next. -/
theorem svaddr_stepView {s : State} {core : Nat} : ((s.stepView core).core core).svaddr = ((s.core core).svaddr + 64) % 2 ^ 64 :=
  congrArg Core.svaddr (core_modCore_self ..)

theorem svdata_reads (s : State) (core : Nat) : ∃ t, exec (.svdataRead core) s = .next t
    ∧ (t.core core).svaddr = ((s.core core).svaddr + 64) % 2 ^ 64 ∧ SameMemory s t
    ∧ ∀ y, (s.core core).svaddr % 64 = 0 → debugWord s core (s.core core).svaddr = some y → t.dbg.svread = BitVec.ofNat 64 y := by
  refine ⟨_, rfl, ?_, ?_, fun y halign hword => ?_⟩
  · obtain ⟨m, hm⟩ := (spacesOnly_view s core ((s.core core).svaddr / 64)).core core
    rw [svaddr_stepView]
    change (((s.view core _).2.core core).svaddr + 64) % 2 ^ 64 = _
    rw [hm]
  · intro p b
    rw [State.stepView, spaceAt_modCore rfl]
    exact (sameBytes_view s core ((s.core core).svaddr / 64)).memory p b
  · have hplace : 64 * ((s.core core).svaddr / 64) = (s.core core).svaddr := Nat.mul_div_cancel' (Nat.dvd_of_mod_eq_zero halign)
    exact congrArg (BitVec.ofNat 64) (view_eq (hplace.symm ▸ hword))

theorem ctx_stepView (s : State) (core c : Nat) : (s.stepView core).ctx core c = s.ctx core c := ctx_modCore_keep s rfl c

/-- A write of a word of a context's part that may be written. -/
theorem setView_ctx {c i x : Nat} (hc : c < 4) (hi : i < 5120) (hopen : partOpen (s.ctx core c)) (h3 : 3 ≤ i) (h15 : i ≠ 15) (h28 : i ≠ 28) (h29 : i ≠ 29) :
    (s.setView core (5120 * c + i) x).ctx core c = (s.ctx core c).setWordAt i x := by
  have hblock : 5120 * c + i < viewBlock := by have := viewBlock_eq; omega
  have hsec : (5120 * c + i) / 8 < 2560 := by omega
  have hctx : (5120 * c + i) / 8 / 640 = c := by omega
  have hword : (5120 * c + i) % 5120 = i := by omega
  have hmay : s.blockOpen core (5120 * c + i) = true := by
    rw [blockOpen_ctx hsec, hctx]
    exact (open_iff_partOpen _).mpr hopen
  have hset : s.setView core (5120 * c + i) x = s.setCore core ((s.core core).setWordAt (5120 * c + i) x) := by
    rw [State.setView]
    dsimp only
    rw [if_pos hblock, hmay, if_neg (by decide), if_pos hsec, hword, if_neg (by omega), if_neg h15, if_neg h28, if_neg h29]
  rw [hset, State.ctx, core_setCore_self, Core.setWordAt, if_pos hsec, hctx, hword]
  exact ctx_setCtx_core ..

/-- A word of a context's part that shows where it stands, or that may not be written, keeps the context. -/
theorem setView_shut {c i x : Nat} (hc : c < 4) (hi : i < 5120) (h : i < 3 ∨ ¬partOpen (s.ctx core c)) :
    s.setView core (5120 * c + i) x = s := by
  have hblock : 5120 * c + i < viewBlock := by have := viewBlock_eq; omega
  have hsec : (5120 * c + i) / 8 < 2560 := by omega
  have hctx : (5120 * c + i) / 8 / 640 = c := by omega
  have hword : (5120 * c + i) % 5120 = i := by omega
  rw [State.setView]
  dsimp only
  rw [if_pos hblock]
  rcases h with hlow | hshut
  · rw [if_pos hsec, hword, if_pos hlow, ite_self]
  · have hclosed : ¬s.blockOpen core (5120 * c + i) = true := fun ho =>
      hshut ((open_iff_partOpen _).mp (by rwa [blockOpen_ctx hsec, hctx] at ho))
    rw [Bool.eq_false_iff.mpr hclosed]
    rfl

/-- A write of a word of the scratchpad. -/
theorem setView_local {a x : Nat} (ha : a < 2 ^ 23) (halign : a % 64 = 0) : s.setView core ((4160 * 512 + a) / 64) x
    = if (s.core core).localOpen = true then s.setCore core { s.core core with loc := (s.core core).loc.writeRaw a 64 x } else s := by
  have hblock : ¬(4160 * 512 + a) / 64 < viewBlock := by have := viewBlock_eq; omega
  have hlocal : (4160 * 512 + a) / 64 < viewLocal := by have := viewLocal_eq; omega
  have hplace : 64 * ((4160 * 512 + a) / 64 - viewBlock) = a := by have := viewBlock_eq; omega
  rw [State.setView]
  dsimp only
  rw [if_neg hblock, if_pos hlocal, hplace]

/-- A whole word written replaces its bits, and no other. -/
theorem writeRaw_word {m : Space} {a : Nat} (ha : a % 64 = 0) (x : Nat) : (m.writeRaw a 64 x).bytes = m.bytes.setBits a 64 x
    ∧ (m.writeRaw a 64 x).out = m.out := by
  have hwhole : partialWords a 64 = [] := by
    have hword : 64 * (a / 64) = a := Nat.mul_div_cancel' (Nat.dvd_of_mod_eq_zero ha)
    rw [partialWords, wordsOf_aligned ha]
    simp [hword]
  rw [Space.writeRaw, hwhole]
  simp

/-- A write of two words of the instruction store. -/
theorem setView_store {a x : Nat} (ha : a < 2 ^ 20) (halign : a % 64 = 0) : ((s.setView core (((4160 + 16384) * 512 + a) / 64) x).core core).ist
    = SMap.set 0 (SMap.set 0 (s.core core).ist (a / 32) (BitVec.ofNat 32 x)) (a / 32 + 1) (BitVec.ofNat 32 (x / 2 ^ 32)) := by
  have hblock : ¬((4160 + 16384) * 512 + a) / 64 < viewBlock := by have := viewBlock_eq; omega
  have hlocal : ¬((4160 + 16384) * 512 + a) / 64 < viewLocal := by have := viewLocal_eq; omega
  have hend : ((4160 + 16384) * 512 + a) / 64 < viewEnd := by have := viewEnd_eq; omega
  have hplace : 2 * (((4160 + 16384) * 512 + a) / 64 - viewLocal) = a / 32 := by have := viewLocal_eq; omega
  rw [State.setView]
  dsimp only
  rw [if_neg hblock, if_neg hlocal, if_pos hend, hplace, core_setCore_self]

theorem svaddr_setBars (k : Core) (x v : Nat) : (k.setBars x v).svaddr = k.svaddr := by
  unfold Core.setBars
  refine foldl_keeps (g := Core.svaddr) ?_ _ _
  exact fun _ _ => rfl

theorem svaddr_setQueueWord (k : Core) (n : Nat) (high : Bool) (x : Nat) : (k.setQueueWord n high x).svaddr = k.svaddr := rfl

theorem svaddr_setWordAt (k : Core) (w x : Nat) : (k.setWordAt w x).svaddr = k.svaddr := by
  unfold Core.setWordAt
  dsimp only
  split
  · rfl
  split
  · split <;> rfl
  repeat' split
  all_goals rfl

/-- SVADDR of a core stays. -/
def SvKept (s : State) (core : Nat) (t : State) : Prop := (t.core core).svaddr = (s.core core).svaddr

theorem svKept_setCore {k : Core} (h : k.svaddr = (s.core core).svaddr) : SvKept s core (s.setCore core k) := by
  rw [SvKept, core_setCore_self, h]

theorem svaddr_setView (s : State) (core w x : Nat) : SvKept s core (s.setView core w x) := by
  unfold State.setView
  dsimp only
  refine iteInduction (fun _ => ?_) fun _ => iteInduction (fun _ => iteInduction (fun _ => svKept_setCore rfl) fun _ => rfl)
    fun _ => iteInduction (fun _ => svKept_setCore rfl) fun _ => rfl
  refine iteInduction (fun _ => rfl) fun _ => iteInduction (fun _ => ?_) fun _ => iteInduction (fun _ => svKept_setCore rfl) fun _ =>
    iteInduction (fun _ => svKept_setCore ?_) fun _ => svKept_setCore (svaddr_setWordAt ..)
  · exact iteInduction (fun _ => rfl) fun _ => iteInduction (fun _ => svKept_setCore (svaddr_setBars ..)) fun _ =>
      iteInduction (fun _ => svKept_setCore rfl) fun _ =>
      iteInduction (fun _ => iteInduction (fun _ => rfl) fun _ => svKept_setCore rfl) fun _ => svKept_setCore (svaddr_setWordAt ..)
  · exact iteInduction (motive := fun k : Core => k.svaddr = (s.core core).svaddr) (fun _ => svaddr_setWordAt ..) fun _ =>
      iteInduction (motive := fun k : Core => k.svaddr = (s.core core).svaddr) (fun _ => svaddr_setWordAt ..) fun _ => svaddr_setWordAt ..

/-- The state after a write of the word at SVADDR. -/
def svWritten (s : State) (core : Nat) (x : Word) : State := (s.setView core ((s.core core).svaddr / 64) x.toNat).stepView core

theorem exec_svdataWrite (core : Nat) (x : Word) (s : State) : exec (.svdataWrite core x) s = .next (svWritten s core x) := rfl

theorem svaddr_svWritten (s : State) (core : Nat) (x : Word) : ((svWritten s core x).core core).svaddr = ((s.core core).svaddr + 64) % 2 ^ 64 := by
  rw [svWritten, svaddr_stepView, svaddr_setView s core]

section written
variable {x : Word} {c i a : Nat}

theorem viewPlace (c i : Nat) : (512 * 640 * c + 64 * i) / 64 = 5120 * c + i := by omega

theorem svWritten_open (hword : c < 4 ∧ (s.core core).svaddr = 512 * 640 * c + 64 * i) (hi : i < 5120) (hopen : partOpen (s.ctx core c))
    (h3 : 3 ≤ i) (h15 : i ≠ 15) (h28 : i ≠ 28) (h29 : i ≠ 29) : (svWritten s core x).ctx core c = (s.ctx core c).setWordAt i x.toNat := by
  rw [svWritten, hword.2, viewPlace, ctx_stepView, setView_ctx hword.1 hi hopen h3 h15 h28 h29]

theorem svWritten_shut (hword : c < 4 ∧ (s.core core).svaddr = 512 * 640 * c + 64 * i) (h : i < 3 ∨ (i < 5120 ∧ ¬partOpen (s.ctx core c))) :
    (svWritten s core x).ctx core c = s.ctx core c := by
  rw [svWritten, hword.2, viewPlace, ctx_stepView, setView_shut hword.1 (by omega) (h.imp_right And.right)]

theorem setWordAt_reg (k : Ctx) {n : Nat} (h0 : 0 < n) (hn : n < 528) (x : Nat) : k.setWordAt (32 + n) x = k.setPhys n (BitVec.ofNat 64 x) := by
  rw [Ctx.setWordAt, if_neg (by omega), if_pos (by omega), if_neg (by omega), Nat.add_sub_cancel_left]

theorem svWritten_reg {n : Nat} (hword : c < 4 ∧ (s.core core).svaddr = 512 * 640 * c + 64 * (32 + n)) (hopen : partOpen (s.ctx core c)) (h0 : 0 < n)
    (hn : n < 528) : SMap.get 0 ((svWritten s core x).ctx core c).regs n = x
      ∧ (∀ m, m ≠ n → SMap.get 0 ((svWritten s core x).ctx core c).regs m = SMap.get 0 (s.ctx core c).regs m)
      ∧ ((svWritten s core x).ctx core c).flg = (s.ctx core c).flg := by
  rw [svWritten_open hword (by omega) hopen (by omega) (by omega) (by omega) (by omega), setWordAt_reg _ h0 hn, BitVec.ofNat_toNat, BitVec.setWidth_eq]
  exact ⟨get_set_self .., fun m hm => get_set_ne _ _ _ hm, rfl⟩

/-- A status word that is written as it stands. -/
theorem svWritten_status (hword : c < 4 ∧ (s.core core).svaddr = 512 * 640 * c + 64 * i) (hopen : partOpen (s.ctx core c)) (h3 : 3 ≤ i)
    (h7 : i < 7) : (svWritten s core x).ctx core c = (s.ctx core c).setStatus i x.toNat :=
  (svWritten_open hword (by omega) hopen h3 (by omega) (by omega) (by omega)).trans (if_pos (by omega))

theorem core_stepView (s : State) (core : Nat) : (s.stepView core).core core = { s.core core with svaddr := ((s.core core).svaddr + 64) % 2 ^ 64 } :=
  core_modCore_self ..

theorem svWritten_local (hplace : (s.core core).svaddr = 4160 * 512 + a) (ha : a < 2 ^ 23) (halign : a % 64 = 0) :
    (((s.core core).ctxs.all (fun p => (p.2.halted && !p.2.aborted) || p.2.st == .exited || p.2.st == .absent) = true →
        ((svWritten s core x).core core).loc.bytes.bits a 64 = x.toNat
        ∧ ∀ q, q < a ∨ a + 64 ≤ q → bitAt ((svWritten s core x).core core).loc.bytes q = bitAt (s.core core).loc.bytes q)
      ∧ (¬(s.core core).ctxs.all (fun p => (p.2.halted && !p.2.aborted) || p.2.st == .exited || p.2.st == .absent) = true →
        ((svWritten s core x).core core).loc.bytes = (s.core core).loc.bytes)
      ∧ ((svWritten s core x).core core).loc.out = (s.core core).loc.out) := by
  rw [svWritten, hplace, setView_local ha halign, core_stepView]
  obtain ⟨hbytes, hout⟩ := writeRaw_word (m := (s.core core).loc) halign x.toNat
  split
  next hopen =>
    rw [core_setCore_self]
    refine ⟨fun _ => ⟨?_, fun q hq => ?_⟩, fun h => absurd hopen h, hout⟩
    · rw [hbytes, bits_setBits, Nat.mod_eq_of_lt x.isLt]
    · rw [hbytes]
      exact bit_setBits_out _ _ _ _ _ hq
  next hshut => exact ⟨fun h => absurd h hshut, fun _ => rfl, rfl⟩

theorem svWritten_store (hplace : (s.core core).svaddr = (4160 + 16384) * 512 + a) (ha : a < 2 ^ 20) (halign : a % 64 = 0) :
    SMap.get 0 ((svWritten s core x).core core).ist (a / 32) = BitVec.ofNat 32 x.toNat
      ∧ SMap.get 0 ((svWritten s core x).core core).ist (a / 32 + 1) = BitVec.ofNat 32 (x.toNat / 2 ^ 32)
      ∧ ∀ n, n ≠ a / 32 → n ≠ a / 32 + 1 → SMap.get 0 ((svWritten s core x).core core).ist n = SMap.get 0 (s.core core).ist n := by
  rw [svWritten, hplace, core_stepView]
  dsimp only
  rw [setView_store ha halign]
  refine ⟨?_, get_set_self .., fun n h h1 => ?_⟩
  · rw [get_set_ne _ _ _ (Nat.ne_of_lt (Nat.lt_succ_self _)), get_set_self]
  · rw [get_set_ne _ _ _ h1, get_set_ne _ _ _ h]
end written
end debug

/-- Settles O52. -/
theorem debugSteps : Obligations.DebugSteps := fun s _ _ _ core x =>
  ⟨dmark_traces, dmark_held, fun _ => record_enters, ⟨_, rfl, rfl, rfl, fun p _ => by cases p <;> rfl⟩, svdata_reads s core,
    fun hopen => reg4_shows hopen, _, exec_svdataWrite core x s, svaddr_svWritten s core x, fun _ _ => svWritten_reg, fun _ _ => svWritten_shut,
    fun _ h ho => svWritten_status h ho (by decide) (by decide), fun _ h ho => svWritten_status h ho (by decide) (by decide),
    fun _ h ho => (svWritten_status h ho (by decide) (by decide)).trans (by rw [Ctx.setStatus, BitVec.ofNat_toNat, BitVec.setWidth_eq]),
    fun _ h ho => (svWritten_status h ho (by decide) (by decide)).trans (by rw [Ctx.setStatus, BitVec.ofNat_toNat, BitVec.setWidth_eq]),
    fun _ => svWritten_local, fun _ => svWritten_store⟩

end Sys2Proof.Proofs
end

section
/-! How a picked slice starts and resumes (R288, R305): each core of its set takes the state that its index gives it. -/

namespace Sys2Proof.Proofs

open Sys2Proof Sys2Proof.Machine Sys2Proof.Safety Sys2Proof.Claims Sys2Proof.Laws

section begins
variable {s : State} {b : Ready}

/-! ## Cores set in turn -/

theorem nodup_rangeFrom (n : Nat) : ∀ a, (rangeFrom a n).Nodup := by
  induction n with
  | zero => exact fun _ => List.nodup_nil
  | succ n ih =>
    intro a
    refine List.nodup_cons.mpr ⟨fun h => ?_, ih (a + 1)⟩
    have := (mem_rangeFrom _ _ _).mp h
    omega

theorem nodup_cores (r : LaunchRec) : r.cores.Nodup := (nodup_rangeFrom 1024 0).filter _

/-- A walk over the cores with their indices leaves in each core what its own step puts there. -/
theorem core_foldl_zip {F : State → Nat × Nat → State} {P : Nat → Nat → Core → Prop} (hself : ∀ s p, P p.1 p.2 ((F s p).core p.1))
    (hne : ∀ s p c, c ≠ p.1 → (F s p).core c = s.core c) (l : List Nat) : l.Nodup → ∀ (a : Nat) (s : State) (i c : Nat), l[i]? = some c →
      P c (a + i) (((l.zip (rangeFrom a l.length)).foldl F s).core c) := by
  induction l with
  | nil => intro _ a s i c h; cases h
  | cons d r ih =>
    intro hnodup a s i c h
    obtain ⟨hnot, hrest⟩ := List.nodup_cons.mp hnodup
    rw [List.length_cons, rangeFrom, List.zip_cons_cons, List.foldl_cons]
    cases i with
    | zero =>
      obtain rfl := Option.some.inj h
      have hkeep : ∀ l : List (Nat × Nat), (∀ p ∈ l, d ≠ p.1) → ∀ t : State, (l.foldl F t).core d = t.core d := by
        intro l
        induction l with
        | nil => exact fun _ _ => rfl
        | cons p q ihq =>
          intro hp t
          rw [List.foldl_cons, ihq (fun x hx => hp x (List.mem_cons_of_mem _ hx)), hne _ _ _ (hp p List.mem_cons_self)]
      rw [hkeep _ (fun p hp e => hnot (e ▸ (List.of_mem_zip hp).1))]
      exact hself s (d, a)
    | succ i =>
      have := ih hrest (a + 1) (F s (d, a)) i c h
      rwa [show a + (i + 1) = a + 1 + i by omega]

/-! ## Start (R288) -/

theorem get_map_pairs {α : Type} (d : α) (f : Nat → α) (l : List Nat) (n : Nat) :
    SMap.get d (l.map fun x => (x, f x)) n = if n ∈ l then f n else d := by
  induction l with
  | nil => rfl
  | cons a r ih =>
    rw [List.map_cons, SMap.get, ih]
    by_cases h : a = n
    · simp [h]
    · simp [h, Ne.symm h]

/-- A present context at a start: it runs from ENTRY, with the argument address in g2, the index of its core in g3 and zero in every
other register (R56, R288). -/
theorem freshCtx_reg (r : LaunchRec) (i x t : Nat) : ({ freshCtx r i x with issueAt := t } : Ctx).reg 2 = BitVec.ofNat 64 r.argaddr
    ∧ ({ freshCtx r i x with issueAt := t } : Ctx).reg 3 = BitVec.ofNat 64 i
    ∧ ∀ n : Reg, n ≠ 2 → n ≠ 3 → ({ freshCtx r i x with issueAt := t } : Ctx).reg n = 0 := by
  have hregs (n : Reg) (h0 : n ≠ 0) : ({ freshCtx r i x with issueAt := t } : Ctx).reg n
      = SMap.get 0 (SMap.set 0 (SMap.set 0 [] 2 (BitVec.ofNat 64 r.argaddr)) 3 (BitVec.ofNat 64 i)) (physReg 0 n.toNat) := if_neg h0
  have h3 : physReg 0 (3 : Reg).toNat = 3 := rfl
  have h2 : physReg 0 (2 : Reg).toNat = 2 := rfl
  refine ⟨?_, ?_, fun n hn2 hn3 => ?_⟩
  · rw [hregs 2 (by decide)]
    exact (get_set_ne _ _ _ (by decide)).trans (get_set_self ..)
  · rw [hregs 3 (by decide)]
    exact get_set_self ..
  · by_cases h0 : n = 0
    · exact if_pos h0
    · rw [hregs n h0, get_set_ne _ _ _ fun e => hn3 (physReg_inj 0 (e.trans h3.symm)), get_set_ne _ _ _ fun e => hn2 (physReg_inj 0 (e.trans h2.symm))]
      rfl

/-- What a core holds after a start (R288): its clock starts, the contexts that CTXMASK names are fresh, and no other is there. -/
def StartedCore (s : State) (b : Ready) (i : Nat) (k : Core) : Prop :=
  k.vcyc = Clock.start s.now ∧ ∃ t, k.ctxs = b.lr.contexts.map fun x => (x, { freshCtx b.lr i x with issueAt := t })

theorem clock_starts (now : Nat) : (Clock.start now).read now = 0 := by simp [Clock.start, Clock.read]

theorem StartedCore.ctx {k : Core} {i : Nat} (h : StartedCore s b i k) : ∃ t, ∀ x, k.ctx x
    = if x ∈ b.lr.contexts then { freshCtx b.lr i x with issueAt := t } else {} := by
  obtain ⟨-, t, hctxs⟩ := h
  exact ⟨t, fun x => by rw [Core.ctx, hctxs]; exact get_map_pairs ..⟩

/-- Core p.1, of index p.2, starts. -/
def startCore (here : State) (lr : LaunchRec) (s : State) (p : Nat × Nat) : State :=
  s.setCore p.1 { here.freshCore lr p.1 p.2 with ctxs := (here.freshCore lr p.1 p.2).ctxs.mapVals fun _ c => { c with issueAt := s.now } }

theorem copied_loads (s : State) (root : Nat) (l : List (Nat × Nat)) : Copied s (s.loads root l) := by
  unfold State.loads State.walks
  split
  · exact copied_copied ..
  · exact (copied_copied ..).trans (copied_copied ..)

/-- The state in which the cores of a slice start: it has the device. -/
def slicePlaced (s : State) (b : Ready) : State :=
  { (s.loads b.lr.ttroot (b.lr.imageRanges false)).runSlice b 0 b.lr.deadline b.lr.budget with raceLog := [], raceDrop := 0 }

theorem exec_sliceStart (hpicked : s.disp.picked = some b) (hdue : s.startDue false = true) (hstart : s.startable b = true) :
    exec .sliceStart s = .next ((Machine.indexed b.lr.cores).foldl (startCore s b.lr) (slicePlaced s b)) := by
  change execSliceStart s = _
  unfold execSliceStart
  rw [hpicked]
  dsimp only
  rw [hdue, hstart]
  rfl

theorem now_runSlice (s : State) (b : Ready) (p : BitVec 64) (d n : Nat) : (s.runSlice b p d n).now = s.now := (copied_latchReads s).now

theorem slice_starts (hpicked : s.disp.picked = some b) (hstart : s.startable b = true) (hdue : s.startDue false = true) :
    ∃ t r, exec .sliceStart s = .next t ∧ t.slice = some r ∧ r.lr = b.lr ∧ t.phc = 0
      ∧ ∀ i core, b.lr.cores[i]? = some core → (t.core core).vcyc.read t.now = 0
        ∧ (∀ x, x ∈ b.lr.contexts → (t.ctx core x).st = .run ∧ (t.ctx core x).pc = 32 * b.lr.entry
          ∧ (t.ctx core x).reg 2 = BitVec.ofNat 64 b.lr.argaddr ∧ (t.ctx core x).reg 3 = BitVec.ofNat 64 i
          ∧ ∀ n, n ≠ 2 → n ≠ 3 → (t.ctx core x).reg n = 0)
        ∧ (∀ x, x ∉ b.lr.contexts → (t.ctx core x).st = .absent) := by
  have hslice : ((Machine.indexed b.lr.cores).foldl (startCore s b.lr) (slicePlaced s b)).slice = (slicePlaced s b).slice :=
    foldl_keeps (g := State.slice) (f := startCore s b.lr) (fun _ _ => rfl) _ _
  have hphc : ((Machine.indexed b.lr.cores).foldl (startCore s b.lr) (slicePlaced s b)).phc = (slicePlaced s b).phc :=
    foldl_keeps (g := State.phc) (f := startCore s b.lr) (fun _ _ => rfl) _ _
  have hnow : ((Machine.indexed b.lr.cores).foldl (startCore s b.lr) (slicePlaced s b)).now = s.now :=
    (foldl_keeps (g := State.now) (f := startCore s b.lr) (fun _ _ => rfl) _ _).trans
      ((now_runSlice _ b 0 b.lr.deadline b.lr.budget).trans (copied_loads s _ _).now)
  refine ⟨_, _, exec_sliceStart hpicked hdue hstart, hslice.trans rfl, rfl, hphc, fun i core hi => ?_⟩
  have hcore := core_foldl_zip (F := startCore s b.lr) (P := fun _ i k => StartedCore s b i k)
    (fun u p => by
      rw [startCore, core_setCore_self]
      exact ⟨rfl, u.now, List.map_map⟩)
    (fun u p c hc => core_setCore_ne _ _ hc) b.lr.cores (nodup_cores _) 0 (slicePlaced s b) i core hi
  rw [Nat.zero_add] at hcore
  obtain ⟨t, hctx⟩ := hcore.ctx
  refine ⟨?_, fun x hx => ?_, fun x hx => ?_⟩
  · rw [hnow]
    exact (congrArg (fun c : Clock => c.read s.now) hcore.1).trans (clock_starts s.now)
  · have hx' := (hctx x).trans (if_pos hx)
    rw [State.ctx, Machine.indexed, hx']
    exact ⟨rfl, rfl, freshCtx_reg b.lr i x t⟩
  · rw [State.ctx, Machine.indexed, (hctx x).trans (if_neg hx)]

/-! ## Resume (R305) -/

/-- What the slice and the dispatcher hold of a start. -/
def sliceState (s : State) : Option SliceRun × BitVec 64 × Option Ready := (s.slice, s.phc, s.disp.picked)

theorem sliceState_drainedBefore (s : State) (id core n : Nat) : sliceState (s.drainedBefore id core n).2 = sliceState s := by
  unfold State.drainedBefore
  split <;> rfl

/-- The drains of a resumed slice's queues leave the slice alone (R148). -/
theorem sliceState_resumeDrains (s : State) (id core : Nat) : sliceState (s.resumeDrains id core) = sliceState s := by
  refine foldl_keeps (g := sliceState) (fun u p => ?_) _ _
  split
  · rfl
  · exact sliceState_drainedBefore u id core p.1

/-- Word i of the header of a save. -/
def headerWord (s : State) (b : Ready) (i : Nat) : Nat := (s.deviceBits b.lr.ttroot (b.lr.state + 64 * i) 64).getD 0

/-- The state in which the cores of a saved slice are restored. -/
def sliceReplaced (s : State) (b : Ready) : State :=
  (s.loads b.lr.ttroot ((b.lr.state, 256) :: b.lr.imageRanges true)).runSlice b (BitVec.ofNat 64 (headerWord s b 1)) (headerWord s b 3) (headerWord s b 2)

theorem slice_runSlice (s : State) (b : Ready) (p : BitVec 64) (d n : Nat) : ∃ r, (s.runSlice b p d n).slice = some r ∧ r.lr = b.lr
    ∧ r.budget = n ∧ r.deadline = d := ⟨_, rfl, rfl, rfl, rfl⟩

theorem slice_sliceReplaced (s : State) (b : Ready) : ∃ r, (sliceReplaced s b).slice = some r ∧ r.lr = b.lr ∧ r.budget = headerWord s b 2
    ∧ r.deadline = headerWord s b 3 := slice_runSlice ..

/-- Core p.1, of index p.2, is restored. -/
def resumeCore (here : State) (lr : LaunchRec) (s : State) (p : Nat × Nat) : State :=
  (s.setCore p.1 (here.restoreCore lr p.1 p.2)).resumeDrains lr.sliceid p.1

theorem exec_sliceResume (hpicked : s.disp.picked = some b) (hdue : s.startDue true = true) (hstart : s.startable b = true) :
    exec .sliceResume s = .next ((Machine.indexed b.lr.cores).foldl (resumeCore s b.lr) (sliceReplaced s b)) := by
  change execSliceResume s = _
  unfold execSliceResume
  rw [hpicked]
  dsimp only
  rw [hdue, hstart]
  rfl

theorem slice_resumes (hpicked : s.disp.picked = some b) (hstart : s.startable b = true) (hdue : s.startDue true = true) :
    ∃ t r, exec .sliceResume s = .next t ∧ t.slice = some r ∧ r.lr = b.lr ∧ t.disp.picked = none
      ∧ t.phc = BitVec.ofNat 64 ((s.deviceBits b.lr.ttroot (b.lr.state + 64) 64).getD 0)
      ∧ r.budget = (s.deviceBits b.lr.ttroot (b.lr.state + 128) 64).getD 0
      ∧ r.deadline = (s.deviceBits b.lr.ttroot (b.lr.state + 192) 64).getD 0 := by
  have hkeep : sliceState ((Machine.indexed b.lr.cores).foldl (resumeCore s b.lr) (sliceReplaced s b)) = sliceState (sliceReplaced s b) :=
    foldl_keeps (g := sliceState) (f := resumeCore s b.lr) (fun u p => sliceState_resumeDrains ..) _ _
  obtain ⟨r, hr, hlr, hbudget, hdeadline⟩ := slice_sliceReplaced s b
  refine ⟨_, r, exec_sliceResume hpicked hdue hstart, (congrArg Prod.fst hkeep).trans hr, hlr, (congrArg (·.2.2) hkeep).trans rfl,
    (congrArg (·.2.1) hkeep).trans rfl, hbudget, hdeadline⟩
end begins

/-- Settles O42. -/
theorem sliceBegins : Obligations.SliceBegins := fun _ _ hpicked hstart => ⟨slice_starts hpicked hstart, slice_resumes hpicked hstart⟩

end Sys2Proof.Proofs
end

section
/-! The dispatcher's queue (R287, R291, R295): a record that passes its checks joins it, one that fails them sends its LAUNCH record, and a
kill takes a slice out of it (R303). -/

namespace Sys2Proof.Proofs

open Sys2Proof Sys2Proof.Machine Sys2Proof.Safety Sys2Proof.Claims Sys2Proof.Laws

section queue
variable {s : State}

/-! ## Reads of memory without errors -/

theorem walks_clean (h : s.phys.syn = []) (root : Nat) (l : List (Nat × Nat)) : s.walks root l = s := by
  rw [State.walks, h]
  rfl

theorem loads_clean (h : s.phys.syn = []) (root : Nat) (l : List (Nat × Nat)) : s.loads root l = s := by
  rw [State.loads, walks_clean h]
  exact copied_clean (p := .phys) h _

theorem syn_goOuts (l : List Nat) (m : Space) : (l.foldl Space.goOut m).syn = m.syn := by
  refine foldl_keeps (g := Space.syn) (fun m sec => ?_) l m
  unfold Space.goOut
  split <;> rfl

theorem syn_store {m : Space} (h : m.syn = []) (a n x : Nat) : (m.store a n x).syn = [] := by
  rw [Space.store, writeRaw_clean ((syn_goOuts _ m).trans h)]
  exact (syn_goOuts _ m).trans h

theorem syn_roomReady (h : s.phys.syn = []) : s.roomReady.phys.syn = [] := by
  unfold State.roomReady
  split
  · exact syn_store h ..
  · exact h

/-! ## The ready queue (R295) -/

/-- Some slice runs or loads. -/
def Busy (s : State) : Prop := s.slice.isSome = true ∨ s.disp.picked.isSome = true

theorem pick_busy (h : Busy s) : s.pick = s := if_pos (Bool.or_eq_true_iff.mpr h)

/-- A slice joins the ready queue; module memory alone changes besides. -/
theorem pushReady_eq (s : State) (b : Ready) : ∃ m, s.pushReady b
    = { s with phys := m, disp := { s.disp with ready := s.disp.ready ++ [{ b with place := s.disp.freePlace }] } } := ⟨_, rfl⟩

theorem pick_one (hslice : s.slice = none) (hpicked : s.disp.picked = none) {b : Ready} (hready : s.disp.ready = [b]) :
    ∃ m a, s.pick = { s with phys := m, free := s.free + 1, disp := { s.disp with ready := [], picked := some b, startAt := a } } ∧ s.now < a := by
  obtain ⟨m, hm⟩ := popReady_eq s.drawNat.2 b.lr.sliceid
  have hpop : s.drawNat.2.disp.ready.filter (fun c => c.lr.sliceid != b.lr.sliceid) = [] := by
    rw [show s.drawNat.2.disp.ready = [b] from hready]
    simp
  have hidle : ¬(s.slice.isSome || s.disp.picked.isSome) = true := by rw [hslice, hpicked]; exact Bool.false_ne_true
  have hpick : s.pick = { s.drawNat.2.popReady b.lr.sliceid with
      disp := { (s.drawNat.2.popReady b.lr.sliceid).disp with picked := some b, startAt := (s.drawNat.2.popReady b.lr.sliceid).now + 1 + s.drawNat.1 } } := by
    rw [State.pick, if_neg hidle, hready]
    rfl
  rw [hpick, hm, hpop]
  exact ⟨m, s.now + 1 + s.drawNat.1, rfl, by omega⟩

/-! ## Queueing a record (R287, R291, R360) -/

/-- The entry of a record that joins the queue for a walk. -/
def readyOf (r : LaunchRec) (walk : Option Nat) (pred : List Nat) : Ready :=
  { deadline := r.deadline, saved := r.fromsave, lr := { r with pred := pred }, walk := walk }

theorem queueRecord_unread {addr : Nat} (h : s.readLaunch addr = none) (walk : Option Nat) (pred : List Nat) :
    s.queueRecord addr walk pred = (.rejected, (s.loads s.sysroot [(addr, 2048)]).rejectUnread addr 12 0 0) := by
  unfold State.queueRecord
  rw [h]

/-- A record read from memory without errors ends as its check says. -/
theorem queueRecord_read {addr : Nat} {r : LaunchRec} {live q : List Nat} {bad : Bool} (hsyn : s.phys.syn = [])
    (h : s.readLaunch addr = some (r, live, q, bad)) (walk : Option Nat) (pred : List Nat) :
    s.queueRecord addr walk pred = match s.launchCheck r live q bad with
      | 0 =>
        if 1024 ≤ s.disp.ready.length then (.full, s)
        else if 64 * s.disp.segs == s.disp.ready.length && s.disp.segs < 16 then (.unlinked, s)
        else (.ready, (s.pushReady (readyOf r walk pred)).pick)
      | sub => (.rejected, s.rejectSlice r r.deadline sub) := by
  unfold State.queueRecord
  rw [h]
  dsimp only
  rw [loads_clean hsyn, loads_clean hsyn, walks_clean hsyn, loads_clean hsyn, ite_self]
  rfl

theorem queueRecord_rejected {addr : Nat} {r : LaunchRec} {live q : List Nat} {bad : Bool} (hsyn : s.phys.syn = [])
    (h : s.readLaunch addr = some (r, live, q, bad)) (hcheck : s.launchCheck r live q bad ≠ 0) (walk : Option Nat) (pred : List Nat) :
    s.queueRecord addr walk pred = (.rejected, s.rejectSlice r r.deadline (s.launchCheck r live q bad)) := by
  rw [queueRecord_read hsyn h]
  split
  next h0 => exact absurd h0 hcheck
  next => rfl

theorem queueRecord_good {addr : Nat} {r : LaunchRec} {live q : List Nat} {bad : Bool} (hsyn : s.phys.syn = [])
    (h : s.readLaunch addr = some (r, live, q, bad)) (hcheck : s.launchCheck r live q bad = 0) (walk : Option Nat) (pred : List Nat) :
    s.queueRecord addr walk pred = if 1024 ≤ s.disp.ready.length then (.full, s)
      else if 64 * s.disp.segs == s.disp.ready.length && s.disp.segs < 16 then (.unlinked, s)
      else (.ready, (s.pushReady (readyOf r walk pred)).pick) := by
  rw [queueRecord_read hsyn h, hcheck]
  rfl

/-- A record that passes its checks joins the queue, a further segment linked where every linked one is full (R291). -/
theorem enqueue_good {addr : Nat} {r : LaunchRec} {live q : List Nat} (hsyn : s.phys.syn = []) (hroom : s.disp.ready.length < 1024)
    (h : s.readLaunch addr = some (r, live, q, false)) (hu : s.roomReady.readLaunch addr = some (r, live, q, false))
    (hcheck : s.launchCheck r live q false = 0) (hcheck' : s.roomReady.launchCheck r live q false = 0) (walk : Option Nat) (pred : List Nat) :
    s.enqueue addr walk pred = (.ready, (s.roomReady.pushReady (readyOf r walk pred)).pick) := by
  unfold State.enqueue
  rw [queueRecord_good hsyn h hcheck, if_neg (Nat.not_le.mpr hroom)]
  by_cases hfull : (64 * s.disp.segs == s.disp.ready.length && s.disp.segs < 16) = true
  · have hlink : s.roomReady = s.linkReady := if_pos hfull
    have hmore : ¬(64 * (s.disp.segs + 1) == s.disp.ready.length && decide (s.disp.segs + 1 < 16)) = true := by
      rw [Bool.and_eq_true, beq_iff_eq] at hfull ⊢
      omega
    rw [if_pos hfull]
    dsimp only
    rw [queueRecord_good (syn_roomReady hsyn) hu hcheck', hlink]
    exact (if_neg (Nat.not_le.mpr hroom)).trans (if_neg hmore)
  · have hsame : s.roomReady = s := if_neg hfull
    rw [if_neg hfull, hsame]

theorem enqueue_full {addr : Nat} {r : LaunchRec} {live q : List Nat} (hsyn : s.phys.syn = []) (hfull : 1024 ≤ s.disp.ready.length)
    (h : s.readLaunch addr = some (r, live, q, false)) (hcheck : s.launchCheck r live q false = 0) (walk : Option Nat) (pred : List Nat) :
    s.enqueue addr walk pred = (.full, s) := by
  unfold State.enqueue
  rw [queueRecord_good hsyn h hcheck, if_pos hfull]

/-- A record joins the queue where the linked segments have room. -/
theorem queueRecord_joins {addr : Nat} {r : LaunchRec} {live q : List Nat} (hsyn : s.phys.syn = []) (hroom : s.disp.ready.length < 1024)
    (hsegs : 64 * s.disp.segs ≠ s.disp.ready.length) (h : s.readLaunch addr = some (r, live, q, false))
    (hcheck : s.launchCheck r live q false = 0) (walk : Option Nat) (pred : List Nat) :
    s.queueRecord addr walk pred = (.ready, (s.pushReady (readyOf r walk pred)).pick) := by
  rw [queueRecord_good hsyn h hcheck, if_neg (Nat.not_le.mpr hroom), if_neg (by simp [hsegs])]

/-! ## Kills (R303) -/

theorem taken_pick (s : State) : s.pick.disp.taken = s.disp.taken := by
  obtain ⟨m, n, q, p, a, hpick⟩ := pick_eq s
  rw [hpick]

theorem taken_walkEnds (s : State) (w : Option Nat) (completed : Bool) : (s.walkEnds w completed).disp.taken = s.disp.taken := by
  unfold State.walkEnds
  split
  · rfl
  · split <;> rfl

theorem taken_endSlice (s : State) (completed : Bool) : (s.endSlice completed).disp.taken = s.disp.taken := by
  unfold State.endSlice
  split
  · rfl
  · exact (taken_pick _).trans (taken_walkEnds _ _ _)

theorem kill_running {r : SliceRun} (hs : s.slice = some r) {sid : Nat} (hid : r.lr.sliceid = sid) (cause : Nat) :
    s.kill sid cause = (true, s.killRunning r cause 0) := by
  unfold State.kill
  rw [hs]
  exact if_pos hid

theorem kill_waiting {sid : Nat} (h : ∀ r, s.slice = some r → r.lr.sliceid ≠ sid) (cause : Nat) : s.kill sid cause = s.killWaiting sid cause := by
  unfold State.kill
  split
  next r hs => exact if_neg (h r hs)
  next => rfl

theorem killWaiting_none {sid : Nat} (h : ∀ b, b ∈ s.disp.picked.toList ++ s.disp.ready → b.lr.sliceid ≠ sid) (cause : Nat) :
    s.killWaiting sid cause = (false, s) := by
  have hfind : (s.disp.picked.toList ++ s.disp.ready).find? (fun b => b.lr.sliceid == sid) = none :=
    List.find?_eq_none.mpr fun b hb => by simpa using h b hb
  unfold State.killWaiting
  rw [hfind]

theorem find?_unique {α : Type} {p : α → Bool} {l : List α} {b : α} (hb : b ∈ l) (hp : p b = true) (h : ∀ c ∈ l, p c = true → c = b) :
    l.find? p = some b := by
  cases hfind : l.find? p with
  | none => exact absurd hp (Bool.eq_false_iff.mp (by simpa using List.find?_eq_none.mp hfind b hb))
  | some c => exact congrArg some (h c (List.mem_of_find?_eq_some hfind) (List.find?_some hfind))

theorem killWaiting_ready {b : Ready} {sid : Nat} (hpicked : s.disp.picked = none) (hb : b ∈ s.disp.ready) (hid : b.lr.sliceid = sid)
    (h : ∀ c, c ∈ s.disp.ready → c.lr.sliceid = sid → c = b) (cause : Nat) : s.killWaiting sid cause = (true, s.dropReady b cause 0) := by
  have hfind : (s.disp.picked.toList ++ s.disp.ready).find? (fun b => b.lr.sliceid == sid) = some b := by
    rw [hpicked]
    exact find?_unique hb (beq_iff_eq.mpr hid) fun c hc hc' => h c hc (beq_iff_eq.mp hc')
  unfold State.killWaiting
  rw [hfind]

/-- The queue after a pick holds nothing new. -/
theorem mem_ready_pick {c : Ready} (h : c ∈ s.pick.disp.ready) : c ∈ s.disp.ready := by
  unfold State.pick at h
  split at h
  · exact h
  split at h
  · exact h
  · dsimp only at h
    rw [popReady_ready] at h
    exact List.mem_of_mem_filter h

/-- The state without a slice that has not started. -/
def droppedReady (s : State) (b : Ready) : State :=
  { s.popReady b.lr.sliceid with
    disp := { (s.popReady b.lr.sliceid).disp with picked := (s.popReady b.lr.sliceid).disp.picked.filter fun (x : Ready) => x.lr.sliceid != b.lr.sliceid } }

theorem dropReady_eq (s : State) (b : Ready) (cause flags : Nat) : s.dropReady b cause flags
    = ((((droppedReady s b).sendRecord ((droppedReady s b).killRecord b cause flags)).walkEnds b.walk false).sysEvent 2).pick := rfl

theorem droppedReady_keeps (s : State) (b : Ready) : (droppedReady s b).slice = s.slice ∧ (droppedReady s b).disp.taken = s.disp.taken
    ∧ (droppedReady s b).disp.waitRecs = s.disp.waitRecs ∧ (droppedReady s b).disp.ready = s.disp.ready.filter fun c => c.lr.sliceid != b.lr.sliceid := by
  obtain ⟨m, hm⟩ := popReady_eq s b.lr.sliceid
  rw [droppedReady, hm]
  exact ⟨rfl, rfl, rfl, rfl⟩

/-- A slice that has not started leaves the queue with one record (R303). -/
theorem dropReady_tells (s : State) (b : Ready) (cause flags : Nat) : (∀ c, c ∈ (s.dropReady b cause flags).disp.ready → c.lr.sliceid ≠ b.lr.sliceid)
    ∧ (s.dropReady b cause flags).slice = s.slice ∧ (s.dropReady b cause flags).disp.taken = s.disp.taken
    ∧ ∃ x, (s.dropReady b cause flags).disp.waitRecs = s.disp.waitRecs ++ [x] ∧ x.rkind = (if cause = 0 then 4 else 1) ∧ x.cause = cause
      ∧ x.sliceid = b.lr.sliceid ∧ x.hosttag = b.lr.hosttag := by
  obtain ⟨hslice, htaken, hrecs, hready⟩ := droppedReady_keeps s b
  obtain ⟨hwslice, hwrecs⟩ := walkEnds_keeps ((droppedReady s b).sendRecord ((droppedReady s b).killRecord b cause flags)) b.walk false
  rw [dropReady_eq]
  refine ⟨fun c hc => ?_, ?_, ?_, (droppedReady s b).killRecord b cause flags, ?_, rfl, rfl, rfl, rfl⟩
  · have hpick := mem_ready_pick hc
    have hin : c ∈ (droppedReady s b).disp.ready :=
      (congrArg (c ∈ ·) (ready_walkEnds ((droppedReady s b).sendRecord ((droppedReady s b).killRecord b cause flags)) b.walk false)).mp hpick
    rw [hready] at hin
    simpa using (List.mem_filter.mp hin).2
  · exact (pick_keeps _).1.trans (hwslice.trans hslice)
  · exact (taken_pick _).trans ((taken_walkEnds _ b.walk false).trans htaken)
  · exact (pick_keeps _).2.trans (hwrecs.trans (congrArg (· ++ [(droppedReady s b).killRecord b cause flags]) hrecs))

/-! ## Submission entries (R291) -/

section entry
variable {a : Nat}

/-- An entry that is not taken. -/
def Untaken (s : State) : Prop := exec .submitSlice s = .fault .notEnabled ∧ exec .submitGraph s = .fault .notEnabled
  ∧ exec .submitKill s = .fault .notEnabled ∧ exec .submitIgnored s = .fault .notEnabled

theorem slice_untaken (h : s.entry = some (1, a)) (hfull : 1024 ≤ s.disp.ready.length) : Untaken s := by
  refine ⟨?_, ?_, ?_, ?_⟩
  · change execSubmitSlice s = _
    unfold execSubmitSlice
    rw [h]
    exact if_neg (Nat.not_lt.mpr hfull)
  · change execSubmitGraph s = _
    unfold execSubmitGraph
    rw [h]
    rfl
  · change execSubmitKill s = _
    unfold execSubmitKill
    rw [h]
    rfl
  · change execSubmitIgnored s = _
    unfold execSubmitIgnored
    rw [h]
    rfl

theorem freeWalk_none (h : ∀ k, k < 16 → (SMap.get? s.disp.walks k).isSome = true) : s.disp.freeWalk = none := by
  refine List.find?_eq_none.mpr fun k hk => ?_
  have hlt := (mem_rangeFrom _ _ _).mp hk
  have := h k (by omega)
  rw [Option.isNone_iff_eq_none]
  exact fun hnone => by simp [hnone] at this

theorem graph_untaken (h : s.entry = some (2, a)) (hfull : ∀ k, k < 16 → (SMap.get? s.disp.walks k).isSome = true) : Untaken s := by
  refine ⟨?_, ?_, ?_, ?_⟩
  · change execSubmitSlice s = _
    unfold execSubmitSlice
    rw [h]
    rfl
  · change execSubmitGraph s = _
    unfold execSubmitGraph
    rw [h, freeWalk_none hfull]
    rfl
  · change execSubmitKill s = _
    unfold execSubmitKill
    rw [h]
    rfl
  · change execSubmitIgnored s = _
    unfold execSubmitIgnored
    rw [h]
    rfl

theorem ignored_taken {kind : Nat} (h : s.entry = some (kind, a)) (hkind : kind = 0 ∨ 3 < kind) : exec .submitIgnored s = .next s.takeEntry := by
  change execSubmitIgnored s = _
  unfold execSubmitIgnored
  rw [h]
  refine if_neg ?_
  simp only [Bool.or_eq_true, decide_eq_true_eq]
  omega

theorem exec_submitSlice (h : s.entry = some (1, a)) (hroom : s.disp.ready.length < 1024) : exec .submitSlice s = .next (s.takeEntry.enqueue a none []).2 := by
  change execSubmitSlice s = _
  unfold execSubmitSlice
  rw [h]
  exact if_pos hroom

theorem exec_submitKill (h : s.entry = some (3, a)) : exec .submitKill s = .next (s.takeEntry.kill (a % 2 ^ 16) 0).2 := by
  change execSubmitKill s = _
  unfold execSubmitKill
  rw [h]
  rfl

/-- The segments linked once there is room for a further entry (R291). -/
def roomSegs (s : State) : Nat := if 64 * s.disp.segs = s.disp.ready.length ∧ s.disp.segs < 16 then s.disp.segs + 1 else s.disp.segs

/-- A slice joins the queue once there is room; module memory alone changes besides. -/
theorem pushRoom_eq (s : State) (b : Ready) : ∃ m, s.roomReady.pushReady b = { s with
    phys := m, disp := { s.disp with ready := s.disp.ready ++ [{ b with place := s.disp.freePlace }], segs := roomSegs s } } := by
  unfold State.roomReady roomSegs
  by_cases h : 64 * s.disp.segs = s.disp.ready.length ∧ s.disp.segs < 16
  · rw [if_pos (by simpa using h), if_pos h]
    exact ⟨_, rfl⟩
  · rw [if_neg (by simpa using h), if_neg h]
    exact ⟨_, rfl⟩
end entry
end queue

end Sys2Proof.Proofs
end

section
/-! The entries of the submission ring (R287, R291, R293): what the dispatcher does with each. -/

namespace Sys2Proof.Proofs

open Sys2Proof Sys2Proof.Machine Sys2Proof.Safety Sys2Proof.Claims Sys2Proof.Laws

section submissions
variable {s : State} {a : Nat}

/-! ## Slices -/

/-- A record of an entry that passes its checks, with the queue as it stands and with a further segment. -/
structure Passes (s : State) (a : Nat) (r : LaunchRec) : Prop where
  room : s.disp.ready.length < 1024
  clean : s.phys.syn = []
  good : ∃ live q, s.readLaunch a = some (r, live, q, false) ∧ s.roomReady.readLaunch a = some (r, live, q, false)
    ∧ s.launchCheck r live q false = 0 ∧ s.roomReady.launchCheck r live q false = 0

theorem roomReady_takeEntry (s : State) : s.takeEntry.roomReady = s.roomReady.takeEntry := by
  by_cases h : (64 * s.disp.segs == s.disp.ready.length && decide (s.disp.segs < 16)) = true
  · have hs : s.roomReady = s.linkReady := if_pos h
    rw [hs]
    exact if_pos h
  · have hs : s.roomReady = s := if_neg h
    rw [hs]
    exact if_neg h

theorem exec_submitSlice_good {r : LaunchRec} (h : s.entry = some (1, a)) (hp : Passes s a r) :
    exec .submitSlice s = .next (s.takeEntry.roomReady.pushReady (readyOf r none [])).pick := by
  obtain ⟨hroom, hsyn, live, q, hread, hread', hcheck, hcheck'⟩ := hp
  rw [exec_submitSlice h hroom, enqueue_good (s := s.takeEntry) (r := r) (live := live) (q := q) hsyn hroom hread ?_ hcheck ?_ none []]
  · rw [roomReady_takeEntry]
    exact hread'
  · rw [roomReady_takeEntry]
    exact hcheck'

/-- A slice that joins the queue while another runs or loads. -/
theorem slice_queued {r : LaunchRec} (h : s.entry = some (1, a)) (hp : Passes s a r) (hbusy : Busy s) :
    ∃ t, exec .submitSlice s = .next t ∧ t.disp.taken = s.disp.taken + 1
      ∧ ∃ y, t.disp.ready = s.disp.ready ++ [y] ∧ y.lr = { r with pred := [] } ∧ y.deadline = r.deadline
        ∧ y.saved = r.fromsave ∧ y.walk = none ∧ t.disp.waitRecs = s.disp.waitRecs ∧ t.slice = s.slice ∧ t.disp.picked = s.disp.picked
        ∧ t.disp.segs = roomSegs s := by
  obtain ⟨m, hpush⟩ := pushRoom_eq s.takeEntry (readyOf r none [])
  refine ⟨_, exec_submitSlice_good h hp, ?_⟩
  rw [pick_busy (by rw [hpush]; exact hbusy), hpush]
  exact ⟨rfl, _, rfl, rfl, rfl, rfl, rfl, rfl, rfl, rfl, rfl⟩

/-- A slice that an idle device picks at once. -/
theorem slice_picked {r : LaunchRec} (h : s.entry = some (1, a)) (hp : Passes s a r) (hslice : s.slice = none)
    (hpicked : s.disp.picked = none) (hready : s.disp.ready = []) :
    ∃ t, exec .submitSlice s = .next t ∧ t.disp.taken = s.disp.taken + 1
      ∧ ∃ y, t.disp.picked = some y ∧ y.lr = { r with pred := [] } ∧ y.saved = r.fromsave ∧ t.disp.ready = []
        ∧ s.now < t.disp.startAt ∧ t.disp.waitRecs = s.disp.waitRecs ∧ t.slice = none := by
  obtain ⟨m, hpush⟩ := pushRoom_eq s.takeEntry (readyOf r none [])
  have hone : (s.takeEntry.roomReady.pushReady (readyOf r none [])).disp.ready = [{ readyOf r none [] with place := s.disp.freePlace }] := by
    rw [hpush]
    exact congrArg (· ++ [{ readyOf r none [] with place := s.disp.freePlace }]) hready
  obtain ⟨m', n, hpick, hlater⟩ := pick_one (s := s.takeEntry.roomReady.pushReady (readyOf r none [])) (by rw [hpush]; exact hslice)
    (by rw [hpush]; exact hpicked) hone
  rw [hpush] at hlater
  refine ⟨_, exec_submitSlice_good h hp, ?_⟩
  rw [hpick, hpush]
  exact ⟨rfl, _, rfl, rfl, rfl, rfl, hlater, rfl, hslice⟩

/-- What a LAUNCH record of a submission leaves: it waits to be written, and queue, walks and slice are as they were (R287, R297). -/
def Launches (s t : State) (x : Record) : Prop := t.disp.taken = s.disp.taken + 1 ∧ t.disp.waitRecs = s.disp.waitRecs ++ [x] ∧ x.rkind = 1
  ∧ x.cause = 0x14 ∧ t.disp.ready = s.disp.ready ∧ t.disp.walks = s.disp.walks ∧ t.slice = s.slice

theorem Launches.launch {t : State} {x : Record} {i : Instr} {holds : Record → Prop} (h : Launches s t x) (hexec : exec i s = .next t) (hx : holds x) :
    ∃ t, exec i s = .next t ∧ t.disp.taken = s.disp.taken + 1 ∧ ∃ x, t.disp.waitRecs = s.disp.waitRecs ++ [x] ∧ x.rkind = 1
      ∧ x.cause = 0x14 ∧ t.disp.ready = s.disp.ready ∧ t.disp.walks = s.disp.walks ∧ t.slice = s.slice ∧ holds x := by
  obtain ⟨htaken, hrecs, hkind, hcause, hready, hwalks, hslice⟩ := h
  exact ⟨t, hexec, htaken, x, hrecs, hkind, hcause, hready, hwalks, hslice, hx⟩

theorem launches_unread {t : State} (hdisp : t.disp = s.takeEntry.disp) (hslice : t.slice = s.slice) (sub tag vec : Nat) :
    Launches s (t.rejectUnread a sub tag vec) (launchReject a (if t.power.trip then 15 else sub) 0 tag vec) := by
  have hrejected : (t.rejectUnread a sub tag vec).disp
      = { s.takeEntry.disp with waitRecs := s.disp.waitRecs ++ [launchReject a (if t.power.trip then 15 else sub) 0 tag vec] } := by
    rw [← hdisp, show s.disp.waitRecs = t.disp.waitRecs by rw [hdisp]; rfl]
    rfl
  exact ⟨by rw [hrejected]; rfl, by rw [hrejected], rfl, rfl, by rw [hrejected]; rfl, by rw [hrejected]; rfl, hslice⟩

theorem spacesOnly_loads (s : State) (root : Nat) (l : List (Nat × Nat)) : SpacesOnly s (s.loads root l) := by
  unfold State.loads State.walks
  split
  · exact spacesOnly_copied ..
  · exact (spacesOnly_copied ..).trans (spacesOnly_copied ..)

theorem slice_unread (h : s.entry = some (1, a)) (hroom : s.disp.ready.length < 1024) (hread : s.readLaunch a = none) :
    ∃ t, exec .submitSlice s = .next t ∧ ∃ x, Launches s t x ∧ x.addr = a ∧ x.sliceid = 0 ∧ x.info = if s.power.trip = true then 15 else 12 := by
  have hqueue : s.takeEntry.enqueue a none [] = (.rejected, (s.takeEntry.loads s.sysroot [(a, 2048)]).rejectUnread a 12 0 0) := by
    unfold State.enqueue
    rw [queueRecord_unread (s := s.takeEntry) hread]
    rfl
  have hload := copied_loads s.takeEntry s.sysroot [(a, 2048)]
  have hpower : (s.takeEntry.loads s.sysroot [(a, 2048)]).power = s.power := by
    obtain ⟨⟨_, _, _, _, _, _, hfields⟩, -⟩ := spacesOnly_loads s.takeEntry s.sysroot [(a, 2048)]
    rw [hfields]
    rfl
  refine ⟨_, exec_submitSlice h hroom, launchReject a (if s.power.trip then 15 else 12) 0 0 0, ?_, rfl, rfl, rfl⟩
  rw [hqueue, ← hpower]
  exact launches_unread hload.disp hload.slice 12 0 0

theorem slice_rejected {r : LaunchRec} {live q : List Nat} {bad : Bool} (h : s.entry = some (1, a)) (hroom : s.disp.ready.length < 1024)
    (hsyn : s.phys.syn = []) (hread : s.readLaunch a = some (r, live, q, bad)) (hcheck : s.launchCheck r live q bad ≠ 0) :
    ∃ t, exec .submitSlice s = .next t ∧ ∃ x, Launches s t x ∧ x.sliceid = r.sliceid ∧ x.hosttag = r.hosttag ∧ x.vec = r.msivec
      ∧ x.info = s.launchCheck r live q bad + if r.deadline < s.dtime.toNat then 2 ^ 63 else 0 := by
  have hqueue : s.takeEntry.enqueue a none [] = (.rejected, s.takeEntry.rejectSlice r r.deadline (s.launchCheck r live q bad)) := by
    unfold State.enqueue
    rw [queueRecord_rejected (s := s.takeEntry) hsyn hread hcheck]
    rfl
  rw [exec_submitSlice h hroom, hqueue]
  exact ⟨_, rfl, _, ⟨rfl, rfl, rfl, rfl, rfl, rfl, rfl⟩, rfl, rfl, rfl, rfl⟩

/-! ## Graphs (R293) -/

theorem field_lower (x n : Nat) : field x n 0 = x % 2 ^ (n + 1) := by simp [field]

/-- The walk of a graph at node 0. -/
def walkBegun (hdr : Nat) (code : List (BitVec 256)) : Walk :=
  { code := code, predBase := field hdr 127 64, predN := field hdr 132 128, hosttag := field hdr 191 160, vec := field hdr 202 192 }

/-- What becomes of a graph whose header and nodes are read (R293). -/
def graphRead (s : State) (a k hdr : Nat) (code : Option (List (BitVec 256))) : Host.Outcome State Fault Refusal :=
  match code with
  | none => .next (s.rejectUnread a 14 (field hdr 191 160) (field hdr 202 192))
  | some code =>
    if s.power.trip || graphBad hdr code then .next (s.rejectUnread a 14 (field hdr 191 160) (field hdr 202 192))
    else .next { s with disp := { s.disp with walks := s.disp.walks.put k (walkBegun hdr code) } }

/-- A graph entry with a free walk reads the header and then the nodes. -/
def graphTaken (s : State) (a k : Nat) : Host.Outcome State Fault Refusal :=
  match s.deviceBits s.sysroot a 512 with
  | none => .next ((s.loads s.sysroot [(a, 512)]).rejectUnread a 14 0 0)
  | some hdr =>
    let s := s.loads s.sysroot [(a, 512 + 256 * Nat.min (field hdr 15 0) 4096)]
    graphRead s a k hdr (if 4096 < field hdr 15 0 then none
      else (s.readTable s.sysroot (a + 512) (field hdr 15 0) 256).map fun l => l.map fun x => BitVec.ofNat 256 x)

theorem exec_submitGraph {k : Nat} (h : s.entry = some (2, a)) (hk : s.disp.freeWalk = some k) : exec .submitGraph s = graphTaken s.takeEntry a k := by
  change execSubmitGraph s = _
  unfold execSubmitGraph
  rw [h, hk]
  rfl

theorem graphTaken_read {s : State} {k hdr : Nat} {l : List Nat} (hsyn : s.phys.syn = []) (hhdr : s.deviceBits s.sysroot a 512 = some hdr)
    (hcount : hdr % 2 ^ 16 ≤ 4096) (hcode : s.readTable s.sysroot (a + 512) (hdr % 2 ^ 16) 256 = some l) :
    graphTaken s a k = graphRead s a k hdr (some (l.map (BitVec.ofNat 256))) := by
  unfold graphTaken
  rw [hhdr]
  dsimp only
  rw [loads_clean hsyn, field_lower, if_neg (Nat.not_lt.mpr hcount), hcode]
  rfl

section graph
variable {k hdr : Nat} {l : List Nat} (h : s.entry = some (2, a)) (hk : s.disp.freeWalk = some k) (hsyn : s.phys.syn = [])
  (hhdr : s.deviceBits s.sysroot a 512 = some hdr) (hcount : hdr % 2 ^ 16 ≤ 4096)
  (hcode : s.readTable s.sysroot (a + 512) (hdr % 2 ^ 16) 256 = some l)
include h hk hsyn hhdr hcount hcode

/-- A graph that keeps R293 begins a walk at node 0. -/
theorem graph_begins (htrip : s.power.trip = false) (hgood : graphBad hdr (l.map (BitVec.ofNat 256)) = false) :
    ∃ t, exec .submitGraph s = .next t ∧ t.disp.taken = s.disp.taken + 1 ∧ ∃ w, t.disp.walks = s.disp.walks.put k w
      ∧ w.code = l.map (BitVec.ofNat 256) ∧ w.node = 0 ∧ w.loops = [] ∧ w.result = none ∧ w.waiting = false ∧ w.loopmax = false
      ∧ w.hosttag = hdr / 2 ^ 160 % 2 ^ 32 ∧ w.vec = hdr / 2 ^ 192 % 2 ^ 11 ∧ w.predBase = hdr / 2 ^ 64 % 2 ^ 64 ∧ w.predN = hdr / 2 ^ 128 % 2 ^ 5
      ∧ t.disp.waitRecs = s.disp.waitRecs ∧ t.disp.ready = s.disp.ready := by
  have hgo : (s.takeEntry.power.trip || graphBad hdr (l.map (BitVec.ofNat 256))) = false := by rw [hgood]; exact (Bool.or_false _).trans htrip
  rw [exec_submitGraph h hk, graphTaken_read (s := s.takeEntry) hsyn hhdr hcount hcode]
  unfold graphRead
  dsimp only
  rw [hgo]
  exact ⟨_, rfl, rfl, _, rfl, rfl, rfl, rfl, rfl, rfl, rfl, field_eq .., field_eq .., field_eq .., field_eq .., rfl, rfl⟩

/-- A graph that breaks R293 sends its LAUNCH record. -/
theorem graph_rejected (htrip : s.power.trip = false) (hbad : graphBad hdr (l.map (BitVec.ofNat 256)) = true) :
    ∃ t, exec .submitGraph s = .next t ∧ ∃ x, Launches s t x ∧ x.info = 14 ∧ x.addr = a := by
  have hgo : (s.takeEntry.power.trip || graphBad hdr (l.map (BitVec.ofNat 256))) = true := by rw [hbad]; exact Bool.or_true _
  have hinfo : (if s.takeEntry.power.trip then 15 else 14) = 14 := by rw [show s.takeEntry.power.trip = false from htrip]; rfl
  rw [exec_submitGraph h hk, graphTaken_read (s := s.takeEntry) hsyn hhdr hcount hcode]
  unfold graphRead
  dsimp only
  rw [hgo]
  exact ⟨_, rfl, _, launches_unread rfl rfl 14 _ _, hinfo, rfl⟩
end graph

/-! ## Kills (R303) -/

theorem running_killed {r : SliceRun} (h : s.entry = some (3, a)) (hs : s.slice = some r) (hid : r.lr.sliceid = a % 2 ^ 16) :
    ∃ t, exec .submitKill s = .next t ∧ t.disp.taken = s.disp.taken + 1 ∧ t.slice = none ∧ ∃ x, t.disp.waitRecs = s.disp.waitRecs ++ [x]
      ∧ x.rkind = 4 ∧ x.cause = 0 ∧ x.sliceid = r.lr.sliceid ∧ x.hosttag = r.lr.hosttag := by
  obtain ⟨y, hnone, hrecs, hcause, hkind, hname, htag⟩ := killRunning_tells s.takeEntry r 0 0
  have hlr : s.takeEntry.lr = r.lr := by
    unfold State.lr
    rw [show s.takeEntry.slice = some r from hs]
  refine ⟨_, exec_submitKill h, ?_⟩
  rw [kill_running (s := s.takeEntry) hs hid]
  exact ⟨taken_endSlice _ _, hnone, y, hrecs, hkind, hcause, hlr ▸ hname, hlr ▸ htag⟩

theorem ready_killed {b : Ready} (h : s.entry = some (3, a)) (hs : ∀ r, s.slice = some r → r.lr.sliceid ≠ a % 2 ^ 16) (hpicked : s.disp.picked = none)
    (hb : b ∈ s.disp.ready) (hid : b.lr.sliceid = a % 2 ^ 16) (hone : ∀ c, c ∈ s.disp.ready → c.lr.sliceid = a % 2 ^ 16 → c = b) :
    ∃ t, exec .submitKill s = .next t ∧ t.disp.taken = s.disp.taken + 1 ∧ (∀ c, c ∈ t.disp.ready → c.lr.sliceid ≠ a % 2 ^ 16) ∧ t.slice = s.slice
      ∧ ∃ x, t.disp.waitRecs = s.disp.waitRecs ++ [x] ∧ x.rkind = 4 ∧ x.cause = 0 ∧ x.sliceid = b.lr.sliceid ∧ x.hosttag = b.lr.hosttag := by
  obtain ⟨hgone, hslice, htaken, x, hrecs, hkind, hcause, hname, htag⟩ := dropReady_tells s.takeEntry b 0 0
  refine ⟨_, exec_submitKill h, ?_⟩
  rw [kill_waiting (s := s.takeEntry) hs, killWaiting_ready (s := s.takeEntry) hpicked hb hid hone]
  exact ⟨htaken, hid ▸ hgone, hslice, x, hrecs, hkind, hcause, hname, htag⟩

theorem none_killed (h : s.entry = some (3, a)) (hs : ∀ r, s.slice = some r → r.lr.sliceid ≠ a % 2 ^ 16)
    (hnone : ∀ b, b ∈ s.disp.picked.toList ++ s.disp.ready → b.lr.sliceid ≠ a % 2 ^ 16) :
    ∃ t, exec .submitKill s = .next t ∧ t.disp.taken = s.disp.taken + 1 ∧ t.disp.ready = s.disp.ready ∧ t.disp.picked = s.disp.picked
      ∧ t.slice = s.slice ∧ t.disp.waitRecs = s.disp.waitRecs := by
  refine ⟨_, exec_submitKill h, ?_⟩
  rw [kill_waiting (s := s.takeEntry) hs, killWaiting_none (s := s.takeEntry) hnone]
  exact ⟨rfl, rfl, rfl, rfl, rfl⟩

end submissions

/-- Settles O43. -/
theorem submissions : Obligations.Submissions := by
  unfold Obligations.Submissions
  intro s a kind
  refine ⟨slice_untaken, graph_untaken, fun h hk => ⟨_, ignored_taken h hk, rfl, rfl, rfl, rfl, rfl⟩, ?_, ?_, ?_, ?_, fun r => running_killed,
    fun b => ready_killed, none_killed⟩
  · intro r live q u h hroom hsyn hread hread' hcheck hcheck'
    have hp : Passes s a r := ⟨hroom, hsyn, live, q, hread, hread', hcheck, hcheck'⟩
    exact ⟨slice_queued h hp, slice_picked h hp⟩
  · intro h hroom hread
    obtain ⟨t, hexec, x, hlaunch, hrest⟩ := slice_unread h hroom hread
    exact hlaunch.launch hexec hrest
  · intro r live q bad h hroom hsyn hread hcheck
    obtain ⟨t, hexec, x, hlaunch, hrest⟩ := slice_rejected h hroom hsyn hread hcheck
    exact hlaunch.launch hexec hrest
  · intro k hdr l h hk hsyn hhdr hcount hcode
    refine ⟨graph_begins h hk hsyn hhdr hcount hcode, fun htrip hbad => ?_⟩
    obtain ⟨t, hexec, x, hlaunch, hrest⟩ := graph_rejected h hk hsyn hhdr hcount hcode htrip hbad
    exact hlaunch.launch hexec hrest

end Sys2Proof.Proofs
end

section
/-! How a walk of a graph goes on from a node (R294, R309). -/

namespace Sys2Proof.Proofs

open Sys2Proof Sys2Proof.Machine Sys2Proof.Safety Sys2Proof.Claims Sys2Proof.Laws

section nodes
variable {s t : State} {k : Nat} {w : Walk} {x : BitVec 256}

theorem del_put (m : SMap Walk) (n : Nat) (v : Walk) : (m.put n v).del n = m.del n := by
  induction m with
  | nil => simp [SMap.put, SMap.del]
  | cons p r ih =>
    obtain ⟨j, y⟩ := p
    rw [SMap.put]
    split
    · simp [SMap.del]
    split
    next h => simp [SMap.del, h]
    · simp only [SMap.del, List.filter_cons] at ih ⊢
      rw [ih]

/-! ## The end of a walk -/

/-- A walk has ended with its record (R293, R294). -/
def WalkEnded (s : State) (k : Nat) (w : Walk) (t : State) (records : List Record) (loopmax : Bool) (cause addr : Nat) (failed : Bool) : Prop :=
  t.disp.walks = s.disp.walks.del k ∧ ∃ y, t.disp.waitRecs = records ++ [y] ∧ y.rkind = 3 ∧ y.cause = cause ∧ y.addr = addr
    ∧ y.sliceid = 0 ∧ y.hosttag = w.hosttag ∧ y.vec = w.vec
    ∧ y.info = w.node + (if loopmax = true then 2 ^ 16 else 0) + (if failed = true then 2 ^ 17 else 0)

theorem endWalk_ended {u : Walk} (hwalks : t.disp.walks.del k = s.disp.walks.del k) (htag : u.hosttag = w.hosttag) (hvec : u.vec = w.vec)
    (cause addr : Nat) (failed : Bool) : WalkEnded s k w (t.endWalk k u w.node cause addr failed) t.disp.waitRecs u.loopmax cause addr failed := by
  refine ⟨hwalks, _, rfl, rfl, rfl, rfl, rfl, htag, hvec, ?_⟩
  change w.node + 2 ^ 16 * u.loopmax.toNat + 2 ^ 17 * failed.toNat = _
  rw [toNat_eq_ite, toNat_eq_ite, mul_ite_one, mul_ite_one]

/-! ## The next node -/

/-- A walk goes on to a named node; FFFFh is the innermost loop node again, or the end (R294). -/
def WalkGoes (s : State) (k : Nat) (w : Walk) (i : Instr) (u : Walk) (next : Nat) : Prop :=
  ∃ t, exec i s = .next t ∧ t.disp.ready = s.disp.ready
    ∧ (next ≠ 0xFFFF → t.disp.walks = s.disp.walks.put k { u with node := next, last := w.node, result := none }
      ∧ t.disp.waitRecs = s.disp.waitRecs)
    ∧ (∀ l n r, next = 0xFFFF → u.loops = (l, n) :: r →
      t.disp.walks = s.disp.walks.put k { u with node := l, last := w.node, result := none } ∧ t.disp.waitRecs = s.disp.waitRecs)
    ∧ (next = 0xFFFF → u.loops = [] → WalkEnded s k w t s.disp.waitRecs u.loopmax 0 0 false)

theorem goNode_goes {i : Instr} {u : Walk} {next : Nat} (hexec : exec i s = .next (t.goNode k u w.node next)) (hdisp : t.disp = s.disp)
    (htag : u.hosttag = w.hosttag) (hvec : u.vec = w.vec) : WalkGoes s k w i u next := by
  refine ⟨_, hexec, ?_, fun hnext => ?_, fun l n r hnext hloops => ?_, fun hnext hloops => ?_⟩
  · rw [← hdisp]
    unfold State.goNode
    split
    · rfl
    · split <;> rfl
  · have hgo : t.goNode k u w.node next = { t with disp := { t.disp with walks := t.disp.walks.put k { u with node := next, last := w.node, result := none } } } :=
      if_pos hnext
    rw [hgo, hdisp]
    exact ⟨rfl, rfl⟩
  · have hgo : t.goNode k u w.node next = { t with disp := { t.disp with walks := t.disp.walks.put k { u with node := l, last := w.node, result := none } } } := by
      unfold State.goNode
      rw [if_neg (not_not_intro hnext), hloops]
    rw [hgo, hdisp]
    exact ⟨rfl, rfl⟩
  · have hgo : t.goNode k u w.node next = t.endWalk k u w.node 0 0 false := by
      unfold State.goNode
      rw [if_neg (not_not_intro hnext), hloops]
    rw [hgo, ← hdisp]
    exact endWalk_ended (by rw [hdisp]) htag hvec 0 0 false

theorem disp_readPredicate (s : State) (a : Nat) : (s.readPredicate a).disp = s.disp := (copied_loads ..).disp

/-! ## Slice nodes -/

section slice
variable (h : s.walkAt k 1 = some (w, x))
include h

theorem sliceNode_completed (hr : w.result = some true) : WalkGoes s k w (.graphSliceNode k) w (nodeNext x) := by
  refine goNode_goes (t := s) ?_ rfl rfl rfl
  change execGraphSliceNode k s = _
  unfold execGraphSliceNode
  rw [h]
  dsimp only
  rw [hr]

theorem sliceNode_failed (hr : w.result = some false) : ∃ t, exec (.graphSliceNode k) s = .next t ∧ WalkEnded s k w t s.disp.waitRecs w.loopmax 0 0 true := by
  refine ⟨s.endWalk k w w.node 0 0 true, ?_, endWalk_ended rfl rfl rfl 0 0 true⟩
  change execGraphSliceNode k s = _
  unfold execGraphSliceNode
  rw [h]
  dsimp only
  rw [hr]

/-- A walk whose slice node waits for its slice. -/
def walkWaits (s : State) (k : Nat) (w : Walk) : State := { s with disp := { s.disp with walks := s.disp.walks.put k { w with waiting := true } } }

/-- What becomes of a slice node as the queueing of its record ends. -/
def nodeQueued (k : Nat) (w : Walk) (q : Queued × State) : Host.Outcome State Fault Refusal :=
  match q with
  | (.ready, s2) => .next s2
  | (.rejected, s2) => .next (s2.endWalk k w w.node 0 0 true)
  | _ => .fault .notEnabled

theorem exec_sliceNode (hr : w.result = none) : exec (.graphSliceNode k) s
    = nodeQueued k w ((walkWaits s k w).enqueue (nodeRef x) (some k) w.preds) := by
  change execGraphSliceNode k s = _
  unfold execGraphSliceNode
  rw [h]
  dsimp only
  rw [hr]
  dsimp only
  rcases hq : (walkWaits s k w).enqueue (nodeRef x) (some k) w.preds with ⟨q, s2⟩
  dsimp only [walkWaits] at hq
  rw [hr] at hq
  rw [hq]
  cases q <;> rfl

theorem sliceNode_full (hr : w.result = none) {r : LaunchRec} {live q : List Nat} (hread : s.readLaunch (nodeRef x) = some (r, live, q, false))
    (hcheck : s.launchCheck r live q false = 0) (hsyn : s.phys.syn = []) (hfull : 1024 ≤ s.disp.ready.length) :
    exec (.graphSliceNode k) s = .fault .notEnabled := by
  rw [exec_sliceNode h hr, enqueue_full (s := walkWaits s k w) hsyn hfull hread hcheck (some k) w.preds]
  rfl

theorem sliceNode_queued (hr : w.result = none) {r : LaunchRec} {live q : List Nat} (hread : s.readLaunch (nodeRef x) = some (r, live, q, false))
    (hcheck : s.launchCheck r live q false = 0) (hsyn : s.phys.syn = []) (hroom : s.disp.ready.length < 1024)
    (hsegs : 64 * s.disp.segs ≠ s.disp.ready.length) (hbusy : Busy s) :
    ∃ t y, exec (.graphSliceNode k) s = .next t ∧ t.disp.walks = s.disp.walks.put k { w with waiting := true } ∧ t.disp.ready = s.disp.ready ++ [y]
      ∧ y.walk = some k ∧ y.lr = { r with pred := (rangeFrom 0 w.predN).map fun i => w.predBase + 512 * i } ∧ y.deadline = r.deadline
      ∧ t.disp.waitRecs = s.disp.waitRecs := by
  have hq : (walkWaits s k w).enqueue (nodeRef x) (some k) w.preds
      = (.ready, ((walkWaits s k w).pushReady (readyOf r (some k) w.preds)).pick) := by
    unfold State.enqueue
    rw [queueRecord_joins (s := walkWaits s k w) hsyn hroom hsegs hread hcheck]
  obtain ⟨m, hpush⟩ := pushReady_eq (walkWaits s k w) (readyOf r (some k) w.preds)
  refine ⟨_, { readyOf r (some k) w.preds with place := (walkWaits s k w).disp.freePlace }, (exec_sliceNode h hr).trans (congrArg (nodeQueued k w) hq), ?_⟩
  rw [pick_busy (by rw [hpush]; exact hbusy), hpush]
  exact ⟨rfl, rfl, rfl, rfl, rfl, rfl⟩

theorem sliceNode_rejected (hr : w.result = none) {r : LaunchRec} {live q : List Nat} {bad : Bool}
    (hread : s.readLaunch (nodeRef x) = some (r, live, q, bad)) (hcheck : s.launchCheck r live q bad ≠ 0) (hsyn : s.phys.syn = []) :
    ∃ t y, exec (.graphSliceNode k) s = .next t ∧ WalkEnded s k w t (s.disp.waitRecs ++ [y]) w.loopmax 0 0 true ∧ y.rkind = 1 ∧ y.cause = 0x14
      ∧ y.sliceid = r.sliceid := by
  have hq : (walkWaits s k w).enqueue (nodeRef x) (some k) w.preds
      = (.rejected, (walkWaits s k w).rejectSlice r r.deadline (s.launchCheck r live q bad)) := by
    unfold State.enqueue
    rw [queueRecord_rejected (s := walkWaits s k w) hsyn hread hcheck]
    rfl
  exact ⟨_, _, (exec_sliceNode h hr).trans (congrArg (nodeQueued k w) hq), endWalk_ended (del_put _ _ _) rfl rfl 0 0 true, rfl, rfl, rfl⟩
end slice

/-! ## Condition and loop nodes -/

theorem condNode_goes {v : Nat} (h : s.walkAt k 2 = some (w, x)) (hp : s.predicate (nodeRef x) = .ok v) :
    WalkGoes s k w (.graphCondNode k) w (if v = 0 then nodeAlt x else nodeNext x) := by
  refine goNode_goes (t := s.readPredicate (nodeRef x)) ?_ (disp_readPredicate ..) rfl rfl
  change execGraphCondNode k s = _
  unfold execGraphCondNode
  rw [h]
  dsimp only
  rw [hp]
  dsimp only
  rw [ite_not]

theorem condNode_unread {c : Nat} (h : s.walkAt k 2 = some (w, x)) (hp : s.predicate (nodeRef x) = .error c) :
    ∃ t, exec (.graphCondNode k) s = .next t ∧ WalkEnded s k w t s.disp.waitRecs w.loopmax c (nodeRef x) false := by
  refine ⟨s.endWalk k w w.node c (nodeRef x) false, ?_, endWalk_ended rfl rfl rfl c _ false⟩
  change execGraphCondNode k s = _
  unfold execGraphCondNode
  rw [h]
  dsimp only
  rw [hp]

/-- The iterations of the loop of the walk's node, and the loops around it (R294). -/
def walkCount (w : Walk) : Nat × List (Nat × Nat) :=
  match w.loops with
  | (l, i) :: r => if l = w.node then (i, r) else (0, w.loops)
  | [] => (0, [])

theorem walkCount_eq {n : Nat} {outer : List (Nat × Nat)}
    (h : w.loops = (w.node, n) :: outer ∨ (n = 0 ∧ outer = w.loops ∧ ∀ l j r, w.loops = (l, j) :: r → l ≠ w.node)) : walkCount w = (n, outer) := by
  unfold walkCount
  rcases h with h | ⟨rfl, rfl, hother⟩
  · rw [h]
    exact if_pos rfl
  · split
    next l i r hl => exact if_neg (hother l i r hl)
    next hl => rw [hl]

theorem exec_loopNode {v : Nat} (h : s.walkAt k 3 = some (w, x)) (hp : s.predicate (nodeRef x) = .ok v) :
    exec (.graphLoopNode k) s =
      if (walkCount w).1 < nodeMax x && v ≠ 0 then
        .next ((s.readPredicate (nodeRef x)).goNode k { w with loops := (w.node, (walkCount w).1 + 1) :: (walkCount w).2 } w.node (nodeAlt x))
      else .next ((s.readPredicate (nodeRef x)).goNode k
        { w with loops := (walkCount w).2, loopmax := w.loopmax || ((walkCount w).1 == nodeMax x && v != 0) } w.node (nodeNext x)) := by
  change execGraphLoopNode k s = _
  unfold execGraphLoopNode
  rw [h]
  dsimp only
  rw [hp]
  rfl

section loop
variable {v n : Nat} {outer : List (Nat × Nat)} (h : s.walkAt k 3 = some (w, x)) (hp : s.predicate (nodeRef x) = .ok v)
  (hloops : w.loops = (w.node, n) :: outer ∨ (n = 0 ∧ outer = w.loops ∧ ∀ l j r, w.loops = (l, j) :: r → l ≠ w.node))
include h hp hloops

theorem loopNode_again (hn : n < nodeMax x) (hv : v ≠ 0) :
    WalkGoes s k w (.graphLoopNode k) { w with loops := (w.node, n + 1) :: outer } (nodeAlt x) := by
  refine goNode_goes (t := s.readPredicate (nodeRef x)) ?_ (disp_readPredicate ..) rfl rfl
  rw [exec_loopNode h hp, walkCount_eq hloops]
  exact if_pos (by simp [hn, hv])

theorem loopNode_done (hv : v = 0) : WalkGoes s k w (.graphLoopNode k) { w with loops := outer } (nodeNext x) := by
  refine goNode_goes (t := s.readPredicate (nodeRef x)) ?_ (disp_readPredicate ..) rfl rfl
  rw [exec_loopNode h hp, walkCount_eq hloops, if_neg (by simp [hv])]
  simp [hv]

theorem loopNode_max (hn : n = nodeMax x) (hv : v ≠ 0) :
    WalkGoes s k w (.graphLoopNode k) { w with loops := outer, loopmax := true } (nodeNext x) := by
  refine goNode_goes (t := s.readPredicate (nodeRef x)) ?_ (disp_readPredicate ..) rfl rfl
  have hmax : (w.loopmax || (n == nodeMax x && v != 0)) = true := by simp [hn, hv]
  rw [exec_loopNode h hp, walkCount_eq hloops, if_neg (by simp [hn]), hmax]
end loop

theorem loopNode_unread {c : Nat} (h : s.walkAt k 3 = some (w, x)) (hp : s.predicate (nodeRef x) = .error c) :
    ∃ t, exec (.graphLoopNode k) s = .next t ∧ WalkEnded s k w t s.disp.waitRecs w.loopmax c (nodeRef x) false := by
  refine ⟨s.endWalk k w w.node c (nodeRef x) false, ?_, endWalk_ended rfl rfl rfl c _ false⟩
  change execGraphLoopNode k s = _
  unfold execGraphLoopNode
  rw [h]
  dsimp only
  rw [hp]
end nodes

/-- Settles O45. -/
theorem graphNodes : Obligations.GraphNodes := fun _ _ _ _ =>
  ⟨fun h => ⟨sliceNode_completed h, sliceNode_failed h, fun hr => ⟨fun _ hq => (exec_sliceNode h hr).trans (congrArg _ hq),
      fun _ _ _ hread hcheck hsyn => ⟨sliceNode_full h hr hread hcheck hsyn, sliceNode_queued h hr hread hcheck hsyn⟩,
      fun _ _ _ _ hread hcheck hsyn => sliceNode_rejected h hr hread hcheck hsyn⟩⟩,
    fun _ h hp => condNode_goes h hp,
    fun _ _ _ h hp hloops => ⟨loopNode_again h hp hloops, fun _ => loopNode_done h hp hloops, loopNode_max h hp hloops⟩,
    fun _ hp => ⟨fun h => condNode_unread h hp, fun h => loopNode_unread h hp⟩⟩

end Sys2Proof.Proofs
end

section
/-! The end of a slice (R235, R292): a phase change that finds every context at its end closes the superstep, and the completion sends the
record. -/

namespace Sys2Proof.Proofs

open Sys2Proof Sys2Proof.Machine Sys2Proof.Safety Sys2Proof.Claims Sys2Proof.Laws

section ends
variable {s t u : State} {r : SliceRun}

/-! ## What a superstep's closing leaves of the slice -/

/-- Each core holds contexts of the same states in the same order. -/
def SameStates (s t : State) : Prop := ∀ c, (t.core c).ctxs.map (fun p => p.2.st) = (s.core c).ctxs.map (fun p => p.2.st)

theorem SameStates.trans (h : SameStates s t) (g : SameStates t u) : SameStates s u := fun c => (g c).trans (h c)

theorem SpacesOnly.states (h : SpacesOnly s t) : SameStates s t := fun c => by
  obtain ⟨m, hm⟩ := h.core c
  rw [hm]

theorem sameStates_modCore (s : State) (core : Nat) {f : Core → Core}
    (hf : ∀ k, (f k).ctxs.map (fun p => p.2.st) = k.ctxs.map (fun p => p.2.st)) : SameStates s (s.modCore core f) := fun c => by
  by_cases h : c = core
  · rw [h, core_modCore_self, hf]
  · rw [core_modCore_ne _ _ h]

theorem SameStates.foldl {α : Type} {f : State → α → State} (hf : ∀ s a, SameStates s (f s a)) (l : List α) : ∀ s, SameStates s (l.foldl f s) := by
  induction l with
  | nil => exact fun _ _ => rfl
  | cons a r ih => exact fun s => (hf s a).trans (ih _)

theorem states_mapVals (m : SMap Ctx) {f : Nat → Ctx → Ctx} (hf : ∀ n c, (f n c).st = c.st) :
    (m.mapVals f).map (fun p => p.2.st) = m.map fun p => p.2.st := by
  rw [SMap.mapVals, List.map_map]
  exact List.map_congr_left fun p _ => hf p.1 p.2

theorem allExited_eq (h : SameStates s t) (r : SliceRun) : t.allExited r = s.allExited r := by
  have hcore (u : State) (c : Nat) : ((u.core c).ctxs.all fun p => p.2.st == .exited || p.2.st == .absent)
      = ((u.core c).ctxs.map fun p => p.2.st).all fun x => x == .exited || x == .absent := by rw [List.all_map]; rfl
  unfold State.allExited
  exact congrArg (List.all r.cores) (funext fun c => by rw [hcore, hcore, h c])

theorem spacesOnly_latchReads (s : State) : SpacesOnly s s.latchReads := by
  refine SpacesOnly.foldl (fun u p => ?_) _ s
  split
  · have hdraw : SpacesOnly u u.drawBool.2 := ⟨⟨_, _, _, _, _, _, rfl⟩, fun _ => ⟨_, rfl⟩⟩
    dsimp only
    split
    · exact hdraw.trans (spacesOnly_copied ..)
    · exact hdraw
  · exact SpacesOnly.refl u

/-- What latching the tables keeps: the states of contexts, PHC, and the running slice but for its tables. -/
structure Latched (s t : State) : Prop where
  states : SameStates s t
  phc : t.phc = s.phc
  slice : ∀ r, s.slice = some r → ∃ q, t.slice = some q

theorem Latched.trans (h : Latched s t) (g : Latched t u) : Latched s u :=
  ⟨h.states.trans g.states, g.phc.trans h.phc, fun r hr => by
    obtain ⟨q, hq⟩ := h.slice r hr
    exact g.slice q hq⟩

theorem SpacesOnly.latched (h : SpacesOnly s t) : Latched s t := by
  refine ⟨h.states, ?_, fun r hr => ⟨r, ?_⟩⟩
  · obtain ⟨⟨_, _, _, _, _, _, rfl⟩, -⟩ := h
    rfl
  · obtain ⟨⟨_, _, _, _, _, _, rfl⟩, -⟩ := h
    exact hr

theorem latched_applyTlbi (s : State) : Latched s s.applyTlbi := by
  have hread : Latched s (if s.tlbiAll || !s.tlbi.isEmpty then s.latchReads else s) := by
    split
    · exact (spacesOnly_latchReads s).latched
    · exact (SpacesOnly.refl s).latched
  refine hread.trans ⟨fun _ => rfl, rfl, fun r hr => ?_⟩
  exact ⟨_, congrArg (Option.map _) hr⟩

theorem latched_latchTables (s : State) : Latched s s.latchTables := by
  refine (latched_applyTlbi s).trans ?_
  unfold State.latchTables
  dsimp only
  split
  next => exact (SpacesOnly.refl _).latched
  next r hr =>
    split
    · exact (SpacesOnly.refl _).latched
    · have hdraw : SpacesOnly s.applyTlbi s.applyTlbi.drawBool.2 := ⟨⟨_, _, _, _, _, _, rfl⟩, fun _ => ⟨_, rfl⟩⟩
      split
      · have h := (hdraw.trans (spacesOnly_latchReads _)).latched
        exact ⟨h.states, h.phc, fun _ _ => ⟨_, rfl⟩⟩
      · exact hdraw.latched

/-- A context at the end of a superstep: XACC is 0 (R235). -/
def closeCtx (c : Ctx) : Ctx := { c with xacc := 0, xaccLate := [], stalled := false }

/-- A core at the end of a superstep: its layout cache is empty, its barriers and slots are free, and XACC of its contexts is 0. -/
def closeCore (k : Core) : Core :=
  { k.lcFlush with bars := [], slots := [], ctxs := k.ctxs.mapVals fun _ => closeCtx }

/-- Every memory takes its pending flips. -/
def flipAll (s : State) : State :=
  { s with phys := s.phys.applyPending, host := s.host.applyPending, peer := s.peer.applyPending, sau := [], groups := []
           cores := s.cores.mapVals fun _ k => { k with loc := k.loc.applyPending } }

theorem closeSuperstep_eq (s : State) (r : SliceRun) :
    s.closeSuperstep r = (r.cores.foldl (fun s c => s.modCore c closeCore) (flipAll s)).latchTables := rfl

theorem get_mapVals_keeps {α β : Type} {g : α → β} {f : Nat → α → α} (hf : ∀ n x, g (f n x) = g x) (d : α) (m : SMap α) (n : Nat) :
    g (SMap.get d (m.mapVals f) n) = g (SMap.get d m n) := by
  induction m with
  | nil => rfl
  | cons p q ih =>
    rw [SMap.mapVals, List.map_cons, SMap.get, SMap.get]
    split
    · exact hf ..
    · exact ih

theorem latched_closeSuperstep (s : State) (r : SliceRun) : Latched s (s.closeSuperstep r) := by
  have hstates : SameStates s (r.cores.foldl (fun s c => s.modCore c closeCore) (flipAll s)) :=
    SameStates.trans (t := flipAll s) (fun c => get_mapVals_keeps (g := fun k : Core => k.ctxs.map fun p => p.2.st)
      (f := fun _ k => { k with loc := k.loc.applyPending }) (fun _ _ => rfl) {} s.cores c)
      (SameStates.foldl (fun s c => sameStates_modCore s c fun k => states_mapVals (f := fun _ => closeCtx) k.ctxs fun _ _ => rfl) _ _)
  have hphc : (r.cores.foldl (fun s c => s.modCore c closeCore) (flipAll s)).phc = s.phc :=
    foldl_keeps (g := State.phc) (f := fun (s : State) c => s.modCore c closeCore) (fun _ _ => rfl) _ _
  have hslice : (r.cores.foldl (fun s c => s.modCore c closeCore) (flipAll s)).slice = s.slice :=
    foldl_keeps (g := State.slice) (f := fun (s : State) c => s.modCore c closeCore) (fun _ _ => rfl) _ _
  rw [closeSuperstep_eq]
  exact Latched.trans ⟨hstates, hphc, fun q hq => ⟨q, hslice.trans hq⟩⟩ (latched_latchTables _)

/-! ## The last change (R235) -/

theorem lastChange (hs : s.slice = some r) (hdue : s.changeDue = true) (hsau : s.sau = []) (hexit : s.allExited r = true)
    (hchosen : r.chosen = false) (hpre : s.preempts r = false) :
    ∃ t q, exec .phaseChange s = .next t ∧ t.slice = some q ∧ q.ending = true ∧ t.phc = s.phc := by
  have hclose := latched_closeSuperstep s r
  obtain ⟨q, hq⟩ := hclose.slice r hs
  have hstill : (s.closeSuperstep r).allExited r = true := (allExited_eq hclose.states r).trans hexit
  have hexec : exec .phaseChange s = .next { s.closeSuperstep r with slice := (s.closeSuperstep r).slice.map fun r => { r with ending := true } } := by
    change execPhaseChange s = _
    unfold execPhaseChange
    rw [hs]
    dsimp only
    rw [hdue, hchosen, hpre, hsau]
    exact if_pos hstill
  exact ⟨_, { q with ending := true }, hexec, congrArg (Option.map fun r : SliceRun => { r with ending := true }) hq, rfl, hclose.phc⟩

/-! ## The completion (R292) -/

theorem spacesOnly_putDevice (s : State) (va x : Nat) (bad : List Bool) : SpacesOnly s (s.putDevice va x bad) := by
  unfold State.putDevice
  split
  next pa _ =>
    have hstore : SpacesOnly s (s.storeAt .phys pa 512 x) := by
      unfold State.storeAt
      exact spacesOnly_modSpace ..
    exact hstore.trans (spacesOnly_modSpace ..)
  · exact SpacesOnly.refl s

/-- The record of the end of a slice (R292). -/
def endRecord (s : State) (r : SliceRun) : Record :=
  { rkind := 2, sliceid := r.lr.sliceid, hosttag := r.lr.hosttag, phc := s.phc.toNat, vcyc := s.vcycOf (r.cores.headD 0), info := s.missed r
    vec := r.lr.msivec }

/-- One sector of the copy-out. -/
def copyOut (s : State) (q : Nat × Nat × Nat) : State :=
  (s.copied (.loc q.1) (rangeFrom (8 * q.2.1) 8)).putDevice q.2.2 (s.localSector q.1 q.2.1).1 (s.localSector q.1 q.2.1).2

theorem spacesOnly_copyOut (s : State) (q : Nat × Nat × Nat) : SpacesOnly s (copyOut s q) :=
  (spacesOnly_copied ..).trans (spacesOnly_putDevice ..)

theorem slice_completes (hs : s.slice = some r) (hending : r.ending = true) (hsettled : s.farSettled r = true) (hfrozen : s.dbg.frozen = false)
    (hcopy : s.copyFault r = none) : ∃ t x, exec .sliceCompletion s = .next t ∧ t.slice = none ∧ t.disp.waitRecs = s.disp.waitRecs ++ [x]
      ∧ x.rkind = 2 ∧ x.sliceid = r.lr.sliceid ∧ x.hosttag = r.lr.hosttag := by
  have hgo : (!(r.ending && s.farSettled r && !s.dbg.frozen)) = false := by rw [hending, hsettled, hfrozen]; rfl
  have hexec : exec .sliceCompletion s = .next (((r.copies.foldl copyOut s).sendRecord (endRecord s r)).endSlice true) := by
    change execSliceCompletion s = _
    unfold execSliceCompletion
    rw [hs]
    dsimp only
    rw [hgo, hcopy]
    rfl
  have hdisp : (r.copies.foldl copyOut s).disp = s.disp := by
    obtain ⟨⟨_, _, _, _, _, _, hfields⟩, -⟩ := SpacesOnly.foldl spacesOnly_copyOut r.copies s
    rw [hfields]
  refine ⟨_, endRecord s r, hexec, (endSlice_ends _ _).1, (endSlice_ends _ _).2.trans ?_, rfl, rfl, rfl⟩
  exact congrArg (fun d : Disp => d.waitRecs ++ [endRecord s r]) hdisp
end ends

/-- Settles O36. -/
theorem sliceEnds : Obligations.SliceEnds := fun _ _ hs =>
  ⟨lastChange hs, slice_completes hs⟩

end Sys2Proof.Proofs
end

section
/-! A pre-emption saves the facing of a core as its sectors stand in that cycle (R304): a sector that is listed OUT because of a write still
on its way is saved as IN. -/

namespace Sys2Proof.Proofs

open Sys2Proof Sys2Proof.Machine Sys2Proof.Safety Sys2Proof.Claims Sys2Proof.Laws

section saves
variable {s t u : State}

/-! ## Without system tables the ready queue is written nowhere (R295, R306) -/

theorem bytes_nil (n : Nat) : ∀ a, Memory.bytes [] a n = 0 := by
  induction n with
  | zero => exact fun _ => rfl
  | succ n ih =>
    intro a
    rw [Memory.bytes, ih]
    rfl

theorem translate_nil (root va : Nat) (w : Bool) : Machine.translate [] root va w = none := by
  have hentry (table idx : Nat) : tableEntry [] table idx = 0 := by
    rw [tableEntry, Memory.bits, bytes_nil]
    simp
  unfold Machine.translate
  rw [hentry]
  rfl

theorem putSystemBy_unmapped (h : s.sysTables = []) (write : Space → Nat → Nat → Nat → Space) (va n x : Nat) : s.putSystemBy write va n x = s := by
  refine congrArg (fun m => { s with phys := m }) (foldl_keeps (g := Prod.fst) (fun acc p => ?_) _ (s.phys, 0))
  dsimp only
  rw [h, translate_nil]

/-- Module memory, the system tables and the linked segments are as they were. -/
structure QueueUnwritten (s t : State) : Prop where
  phys : t.phys = s.phys
  tables : t.sysTables = s.sysTables
  segs : t.disp.segs = s.disp.segs

theorem QueueUnwritten.trans (h : QueueUnwritten s t) (g : QueueUnwritten t u) : QueueUnwritten s u :=
  ⟨g.phys.trans h.phys, g.tables.trans h.tables, g.segs.trans h.segs⟩

theorem putReady_unmapped (h : s.sysTables = []) (b : Ready) (valid : Bool) : s.putReady b valid = s := putSystemBy_unmapped h _ _ _ _

theorem unwritten_pushReady (h : s.sysTables = []) (b : Ready) : QueueUnwritten s (s.pushReady b) := by
  rw [State.pushReady]
  dsimp only
  rw [putReady_unmapped]
  · exact ⟨rfl, rfl, rfl⟩
  · exact h

theorem putReadys_unmapped (l : List Ready) : ∀ s : State, s.sysTables = [] → l.foldl (fun s b => s.putReady b false) s = s := by
  induction l with
  | nil => exact fun _ _ => rfl
  | cons b r ih =>
    intro s h
    rw [List.foldl_cons, putReady_unmapped h, ih s h]

theorem unwritten_pick (h : s.sysTables = []) : QueueUnwritten s s.pick := by
  unfold State.pick
  split
  · exact ⟨rfl, rfl, rfl⟩
  split
  · exact ⟨rfl, rfl, rfl⟩
  · dsimp only [State.popReady]
    rw [putReadys_unmapped]
    · exact ⟨rfl, rfl, rfl⟩
    · exact h

theorem roomReady_linked (h : 16 ≤ s.disp.segs) : s.roomReady = s :=
  if_neg (by rw [decide_eq_false (Nat.not_lt.mpr h), Bool.and_false]; exact Bool.false_ne_true)

/-- A slice that is queued again. -/
theorem unwritten_requeue (h : s.sysTables = []) (hsegs : 16 ≤ s.disp.segs) (b : Ready) : QueueUnwritten s (s.requeue b) := by
  unfold State.requeue
  split
  · rw [roomReady_linked hsegs]
    have hpush := unwritten_pushReady h b
    exact hpush.trans (unwritten_pick (hpush.tables.trans h))
  split
  · split
    · have hpick := unwritten_pick h
      exact hpick.trans (unwritten_pushReady (hpick.tables.trans h) b)
    · exact ⟨rfl, rfl, rfl⟩
  · exact unwritten_pushReady h b

/-- The tables and segments before a slice is queued again, from those after it. -/
theorem requeue_tables (s : State) (b : Ready) : (s.requeue b).sysTables = s.sysTables ∧ ((s.requeue b).disp.segs = s.disp.segs ∨ (s.requeue b).disp.segs ≤ 16) := by
  have hpick (s : State) : s.pick.sysTables = s.sysTables ∧ s.pick.disp.segs = s.disp.segs := by
    obtain ⟨m, n, q, p, a, h⟩ := pick_eq s
    rw [h]
    exact ⟨rfl, rfl⟩
  unfold State.requeue
  split
  · obtain ⟨m, hpush⟩ := pushRoom_eq s b
    refine ⟨(hpick _).1.trans (by rw [hpush]), ?_⟩
    rw [(hpick _).2, hpush]
    change roomSegs s = s.disp.segs ∨ roomSegs s ≤ 16
    unfold roomSegs
    split <;> omega
  split
  · split
    · exact ⟨(hpick s).1, Or.inl (hpick s).2⟩
    · exact ⟨rfl, Or.inl rfl⟩
  · exact ⟨rfl, Or.inl rfl⟩

/-! ## Sectors of a save (R304) -/

theorem bytes_congr {m m' : Memory} (n : Nat) : ∀ a, (∀ b, a ≤ b → b < a + n → m.byte b = m'.byte b) → m.bytes a n = m'.bytes a n := by
  induction n with
  | zero => exact fun _ _ => rfl
  | succ n ih =>
    intro a h
    rw [Memory.bytes, Memory.bytes, h a (Nat.le_refl a) (by omega), ih (a + 1) fun b hb hn => h b (by omega) (by omega)]

/-- A sector that is written leaves another as it is. -/
theorem sector_setBits_out {m : Memory} {a b : Nat} (ha : a % 512 = 0) (hb : b % 512 = 0) (h : a ≠ b) (x : Nat) :
    (m.setBits a 512 x).bits b 512 = m.bits b 512 := by
  rw [Memory.bits, Memory.bits, bytes_congr]
  intro c hc hn
  refine byte_setBits_out _ _ _ _ _ ?_
  rw [firstByte] at hc hn
  rw [byteSpan] at hn
  omega

/-- The first bit of a sector. -/
theorem bit_of_sector {m : Memory} {a : Nat} (ha : a % 512 = 0) : m.bits a 1 = m.bits a 512 % 2 := by
  have hbyte : a % 8 = 0 := by omega
  have hspan : byteSpan a 512 = 63 + 1 := by rw [byteSpan, hbyte]
  have hspan1 : byteSpan a 1 = 0 + 1 := by rw [byteSpan, hbyte]
  rw [Memory.bits, Memory.bits, hspan, hspan1, hbyte, Memory.bytes, Memory.bytes, Memory.bytes]
  simp only [Nat.shiftRight_zero]
  omega

/-- A sector put through the slice's translation into memory without errors. -/
theorem putDevice_clean {va pa : Nat} (hsyn : s.phys.syn = []) (hx : s.xlate va false = some pa) (x : Nat) :
    ∃ m, s.putDevice va x [] = { s with phys := m } ∧ m.syn = [] ∧ m.bytes = s.phys.bytes.setBits pa 512 x := by
  have hput : s.putDevice va x [] = s.putSector .phys pa x [] := by
    unfold State.putDevice
    rw [hx]
  have hout (l : List Nat) : (l.foldl Space.goOut s.phys).syn = [] := (syn_goOuts l s.phys).trans hsyn
  rw [hput]
  refine ⟨_, rfl, ?_, ?_⟩
  · exact congrArg Space.syn (writeRaw_clean (hout _) pa 512 x) |>.trans (hout _)
  · exact (congrArg Space.bytes (writeRaw_clean (hout _) pa 512 x)).trans (congrArg (Memory.setBits · pa 512 x) (goOuts_bytes _ s.phys))

/-- The slice's translation of a save area that lies in consecutive frames, memory without errors, and a sector of the area. -/
structure AreaHolds (va pa count : Nat) (k x : Nat) (s : State) : Prop where
  clean : s.phys.syn = []
  xlate : ∀ i, i < count → s.xlate (va + 512 * i) false = some (pa + 512 * i)
  sector : s.phys.bytes.bits (pa + 512 * k) 512 = x

section area
variable {va pa count k x : Nat}

theorem AreaHolds.putDevice (hpa : pa % 512 = 0) (h : AreaHolds va pa count k x s) {i : Nat} (hi : i < count) (hk : i ≠ k) (y : Nat) :
    AreaHolds va pa count k x (s.putDevice (va + 512 * i) y []) := by
  obtain ⟨m, hm, hsyn, hbytes⟩ := putDevice_clean h.clean (h.xlate i hi) y
  rw [hm]
  refine ⟨hsyn, h.xlate, ?_⟩
  change m.bytes.bits _ 512 = x
  rw [hbytes, sector_setBits_out (by omega) (by omega) (by omega), h.sector]

theorem areaHolds_putDevice (hsyn : s.phys.syn = []) (hx : ∀ i, i < count → s.xlate (va + 512 * i) false = some (pa + 512 * i)) (hk : k < count) (y : Nat) :
    AreaHolds va pa count k (y % 2 ^ 512) (s.putDevice (va + 512 * k) y []) := by
  obtain ⟨m, hm, hsyn', hbytes⟩ := putDevice_clean hsyn (hx k hk) y
  rw [hm]
  exact ⟨hsyn', hx, (congrArg (Memory.bits · _ 512) hbytes).trans (bits_setBits ..)⟩

theorem AreaHolds.foldl (hpa : pa % 512 = 0) {skip : Nat → Bool} {f : Nat → Nat} (l : List Nat) : ∀ {s : State}, AreaHolds va pa count k x s →
    (∀ i ∈ l, 1 + i < count ∧ 1 + i ≠ k) →
    AreaHolds va pa count k x (l.foldl (fun s i => if skip i then s else s.putDevice (va + 512 + 512 * i) (f i) []) s) := by
  induction l with
  | nil => exact fun h _ => h
  | cons a r ih =>
    intro s h hl
    refine ih ?_ fun i hi => hl i (List.mem_cons_of_mem _ hi)
    dsimp only
    split
    · exact h
    · obtain ⟨hcount, hne⟩ := hl a List.mem_cons_self
      have := h.putDevice hpa hcount hne (f a)
      rwa [show va + 512 * (1 + a) = va + 512 + 512 * a by omega] at this
end area

/-! ## A sector listed OUT while its write is on its way (R163) -/

/-- A slice of core 0 with a save area at 2^62 + 2^20 and a table that maps the first 2^33 bits. -/
def savedSlice : SliceRun :=
  { cores := [0], preempt := true, lr := { raw := BitVec.ofNat 2048 (2 ^ 832 * (2 ^ 62 + 2 ^ 20)) }
    tables := Memory.setBits (Memory.setBits [] 0 64 (2 ^ 63 + 2 ^ 15)) (2 ^ 15) 64 (2 ^ 63 + 2 ^ 62 + 2 ^ 61) }

/-- Core 0 in cycle 9: the write that makes its sector 0 OUT reaches the bank in cycle 20. -/
def savedState : State :=
  { now := 9, slice := some savedSlice, disp := { segs := 20 }
    cores := [(0, { loc := { out := [0], hist := [(0, { old := 0, outAt := 20 })] } })] }

theorem savedSlice_state : savedSlice.lr.state = 2 ^ 62 + 2 ^ 20 := by decide +kernel

theorem savedState_xlate (k : Nat) (h : k < 8192) : savedState.xlate (2 ^ 62 + 2 ^ 20 + 512 * k) false = some (2 ^ 20 + 512 * k) := by
  have hva : (2 ^ 62 + 2 ^ 20 + 512 * k) % 2 ^ 57 = 2 ^ 20 + 512 * k := by omega
  have hindex1 : field (2 ^ 20 + 512 * k) 56 42 = 0 := by simp only [field, Nat.shiftRight_eq_div_pow]; omega
  have hindex2 : field (2 ^ 20 + 512 * k) 41 33 = 0 := by simp only [field, Nat.shiftRight_eq_div_pow]; omega
  have htable : readEntry (tableEntry savedSlice.tables savedSlice.lr.ttroot 0) none true false = .table (2 ^ 15) := by decide +kernel
  have hpage : readEntry (tableEntry savedSlice.tables (2 ^ 15) 0) (some (2 ^ 33)) true false = .page 0 := by decide +kernel
  change Machine.translate savedSlice.tables savedSlice.lr.ttroot _ false = _
  rw [hva]
  unfold Machine.translate
  rw [hindex1, htable]
  dsimp only
  rw [hindex2, hpage]
  simp only [Nat.zero_add]
  rw [Nat.mod_eq_of_lt (by omega)]

/-- Sectors of the block of a core that belong to absent contexts are not saved. -/
def saveSkip (s : State) (core i : Nat) : Bool := i < 2560 && (s.ctx core (i / 640)).st == .absent

/-- Sector i of the block of a core. -/
def saveBlock (s : State) (core i : Nat) : Nat := sectorOf fun j => s.savedWord core (8 * i + j)

/-- A core of a slice without saved scratchpad sectors saves its block alone. -/
theorem saveCore_block (s : State) {r : LaunchRec} (h : r.savedSectors = []) (core : Nat) : s.saveCore r core = (rangeFrom 0 4160).foldl (fun u i =>
    if saveSkip s core i then u
    else u.putDevice (r.state + 512 * (1 + (s.core core).index * r.blockSectors) + 512 * i) (saveBlock s core i) []) s := by
  rw [State.saveCore, h]
  exact List.foldl_nil

/-- Sector k of the save area holds x. -/
abbrev SavedSector (k x : Nat) (s : State) : Prop := AreaHolds (2 ^ 62 + 2 ^ 20) (2 ^ 20) 8192 k x s

theorem rangeFrom_split (m n : Nat) : ∀ a, rangeFrom a (m + n) = rangeFrom a m ++ rangeFrom (a + m) n := by
  induction m with
  | zero => intro a; simp [rangeFrom]
  | succ m ih =>
    intro a
    rw [Nat.succ_add, rangeFrom, rangeFrom, List.cons_append, ih, show a + 1 + m = a + (m + 1) by omega]

theorem rangeFrom_around (m n : Nat) : rangeFrom 0 (m + (n + 1)) = rangeFrom 0 m ++ m :: rangeFrom (m + 1) n := by
  rw [rangeFrom_split, Nat.zero_add, rangeFrom]

/-- The first facing sector of the block of core 0, as it is saved. -/
def savedFacing : Nat := saveBlock savedState 0 4097

theorem savedFacing_in : savedFacing % 2 ^ 512 % 2 = 1 := by decide +kernel

/-- The step that saves the first facing sector. -/
theorem facing_step {s : State} {x : Nat} (h : SavedSector 4098 x s) : SavedSector 4098 (savedFacing % 2 ^ 512)
    (if saveSkip savedState 0 4097 then s else s.putDevice (2 ^ 62 + 2 ^ 20 + 512 + 512 * 4097) (saveBlock savedState 0 4097) []) := by
  have hskip : ¬saveSkip savedState 0 4097 = true := by decide +kernel
  have hplace : 2 ^ 62 + 2 ^ 20 + 512 + 512 * 4097 = 2 ^ 62 + 2 ^ 20 + 512 * 4098 := by norm_num
  rw [if_neg hskip, hplace, savedFacing]
  exact areaHolds_putDevice h.clean h.xlate (by decide) (saveBlock savedState 0 4097)

/-- Sectors of the save area around the first facing sector of the block of core 0. -/
theorem sectors_around (a n : Nat) (h : a + n ≤ 4160) (hne : a + n ≤ 4097 ∨ 4097 < a) : ∀ i ∈ rangeFrom a n, 1 + i < 8192 ∧ 1 + i ≠ 4098 := by
  intro i hi
  have := (mem_rangeFrom _ _ _).mp hi
  omega

theorem savedState_base : savedSlice.lr.state + 512 * (1 + (savedState.core 0).index * savedSlice.lr.blockSectors) = 2 ^ 62 + 2 ^ 20 + 512 := by
  have hindex : (savedState.core 0).index = 0 := rfl
  rw [savedSlice_state, hindex, Nat.zero_mul]

theorem savedSectors_nil : savedSlice.lr.savedSectors = [] := by decide +kernel

theorem saveCore_facing : SavedSector 4098 (savedFacing % 2 ^ 512) (savedState.saveCore savedSlice.lr 0) := by
  have hrange : rangeFrom 0 4160 = rangeFrom 0 4097 ++ 4097 :: rangeFrom (4097 + 1) 62 :=
    (congrArg (rangeFrom 0) (show 4160 = 4097 + (62 + 1) by norm_num)).trans (rangeFrom_around 4097 62)
  have hstart : SavedSector 4098 (savedState.phys.bytes.bits (2 ^ 20 + 512 * 4098) 512) savedState := ⟨rfl, savedState_xlate, rfl⟩
  have hbefore := hstart.foldl (by decide) (skip := saveSkip savedState 0) (f := saveBlock savedState 0) (rangeFrom 0 4097)
    (sectors_around 0 4097 (by decide) (by decide))
  rw [saveCore_block _ savedSectors_nil, savedState_base, hrange, List.foldl_append, List.foldl_cons]
  exact AreaHolds.foldl (by decide) (rangeFrom (4097 + 1) 62) (facing_step hbefore) (sectors_around (4097 + 1) 62 (by decide) (by decide))

theorem saveSlice_facing (budget deadline : Nat) : SavedSector 4098 (savedFacing % 2 ^ 512) (savedState.saveSlice savedSlice budget deadline) := by
  have hsave : savedState.saveSlice savedSlice budget deadline = (savedState.saveCore savedSlice.lr 0).putDevice (2 ^ 62 + 2 ^ 20)
      (saveHeader savedSlice.lr.sliceid (savedState.saveCore savedSlice.lr 0).phc.toNat budget deadline) [] := by
    rw [State.saveSlice, savedSlice_state, if_neg (by decide), show savedSlice.cores = [0] from rfl, List.foldl_cons, List.foldl_nil]
  rw [hsave]
  exact saveCore_facing.putDevice (by decide) (i := 0) (by decide) (by decide) _

/-- The state before a pre-empted slice is queued again. -/
def preempted (s : State) (r : SliceRun) (budget deadline : Nat) : State :=
  let s := s.saveSlice r budget deadline
  { s with
    cores := s.cores.mapVals fun c k => if r.cores.contains c then { k with ctxs := [], queues := [], vcyc := {} } else k
    slice := none
    disp := { s.disp with drains := s.disp.drains.put r.lr.sliceid (s.drainCounts r)
                          rels := s.disp.rels.put r.lr.sliceid (s.relMarks r) } }

theorem spacesOnly_saveCore (s : State) (r : LaunchRec) (core : Nat) : SpacesOnly s (s.saveCore r core) := by
  rw [State.saveCore]
  refine SpacesOnly.trans (SpacesOnly.foldl (fun u i => ?_) (rangeFrom 0 4160) s) (SpacesOnly.foldl (fun u p => ?_) _ _)
  · split
    · exact SpacesOnly.refl u
    · exact spacesOnly_putDevice ..
  · exact (spacesOnly_copied ..).trans (spacesOnly_putDevice ..)

theorem spacesOnly_saveSlice (s : State) (r : SliceRun) (budget deadline : Nat) : SpacesOnly s (s.saveSlice r budget deadline) := by
  rw [State.saveSlice]
  split
  · exact SpacesOnly.refl s
  · exact (SpacesOnly.foldl (fun u c => spacesOnly_saveCore u r.lr c) r.cores s).trans (spacesOnly_putDevice ..)

theorem preempted_keeps (s : State) (r : SliceRun) (budget deadline : Nat) : (preempted s r budget deadline).sysTables = s.sysTables
    ∧ (preempted s r budget deadline).disp.segs = s.disp.segs := by
  obtain ⟨⟨_, _, _, _, _, _, hfields⟩, -⟩ := spacesOnly_saveSlice s r budget deadline
  rw [preempted, hfields]
  exact ⟨rfl, rfl⟩

theorem phys_preempted (s : State) (r : SliceRun) (budget deadline : Nat) : (preempted s r budget deadline).phys = (s.saveSlice r budget deadline).phys := rfl

theorem exec_preemption {r : SliceRun} (hs : s.slice = some r) (hpre : r.preempt = true) (hquiet : s.quiet r = true) (hfrozen : s.dbg.frozen = false)
    (hpend : r.budgetPend = false) : exec .preemption s
      = .next ((preempted s r (r.budgetLeft s.now) r.deadline).requeue { deadline := r.deadline, saved := true, lr := r.lr, walk := r.walk }) := by
  change execPreemption s = _
  unfold execPreemption
  rw [hs]
  dsimp only
  rw [hpre, hquiet, hfrozen, hpend]
  rfl

theorem preempted_facing (budget deadline : Nat) : (preempted savedState savedSlice budget deadline).phys.bytes.bits (2 ^ 20 + 512 * 4098) 1 = 1 := by
  rw [bit_of_sector (by decide), phys_preempted, (saveSlice_facing budget deadline).sector]
  exact savedFacing_in
end saves

/-- Refutes O38: the pre-emption of `savedState` in cycle 9 saves sector 0 as IN, since the write that makes it OUT is still on its way. -/
theorem not_preemption : ¬ Obligations.Preemption := by
  intro h
  obtain ⟨t, u, b, hexec, hrequeue, -, -, -, -, -, -, -, -, -, -, hblocks⟩ :=
    h savedState savedSlice rfl rfl (by decide +kernel) rfl
  have hstart := exec_preemption (s := savedState) (r := savedSlice) rfl rfl (by decide +kernel) rfl rfl
  have ht := Host.Outcome.next.inj (hexec.symm.trans hstart)
  obtain ⟨htables, hsegs⟩ := preempted_keeps savedState savedSlice (savedSlice.budgetLeft savedState.now) savedSlice.deadline
  have hkept := unwritten_requeue htables (by rw [hsegs]; decide) 
    { deadline := savedSlice.deadline, saved := true, lr := savedSlice.lr, walk := savedSlice.walk }
  have htsegs : t.disp.segs = 20 := by
    rw [ht]
    exact hkept.segs.trans hsegs
  have httables : t.sysTables = [] := by
    rw [ht]
    exact hkept.tables.trans htables
  obtain ⟨hutables, husegs⟩ := requeue_tables u b
  rw [← hrequeue] at hutables husegs
  have hu : QueueUnwritten u (u.requeue b) := unwritten_requeue (hutables.symm.trans httables) (by omega) b
  have hphys : u.phys = (preempted savedState savedSlice (savedSlice.budgetLeft savedState.now) savedSlice.deadline).phys := by
    rw [← hu.phys, ← hrequeue, ht]
    exact hkept.phys
  have hstate : savedSlice.lr.state ≠ 0 := by rw [savedSlice_state]; decide
  have harea : 1 + savedSlice.cores.length * savedSlice.lr.blockSectors = 4161 := by decide +kernel
  obtain ⟨-, -, hfacing, -⟩ := hblocks (2 ^ 20) hstate (by decide)
    (fun k hk => by
      rw [savedSlice_state]
      exact savedState_xlate k (by omega))
    (fun c hc => by
      obtain rfl := List.mem_singleton.mp hc
      exact ⟨by decide, fun d hd _ => List.mem_singleton.mp hd⟩)
    0 (List.mem_singleton.mpr rfl)
  have hindex : (savedState.core 0).index = 0 := rfl
  have hplace : 2 ^ 20 + 512 * (1 + 0) + 512 * 4097 + 0 = 2 ^ 20 + 512 * 4098 := by norm_num
  have hout : (savedState.core 0).loc.isOut 0 = true := by decide
  have hbit := hfacing 0 (by decide)
  rw [hindex, Nat.zero_mul, hplace, hphys, preempted_facing, if_pos hout] at hbit
  exact absurd hbit (by decide)

end Sys2Proof.Proofs
end

section
/-! A word of a system core in user mode (R302) does not raise ILLEGAL-OP while a span waits for its closure (R118). -/

namespace Sys2Proof.Proofs

open Sys2Proof Sys2Proof.Machine Sys2Proof.Safety Sys2Proof.Claims Sys2Proof.Laws

/-- System core 0 in user mode at word 0, with an open span of the word behind it: the closure comes before the next word. -/
def userInSpan : State :=
  { focusCore := 1024
    cores := [(1024, { sysRun := true, ctxs := [(0, { st := .run, span := some { word := 64, first := 32, last := 32, start := 0 } })] })] }

/-- The word waits for the closure, and nothing panics. -/
theorem userInSpan_waits : ∃ t, exec .rft userInSpan = .next t ∧ t.dbg.panic = none := ⟨_, rfl, rfl⟩

/-- Refutes O49: RFT in user mode waits, in `userInSpan`, where the statement has a panic. -/
theorem not_systemWords : ¬ Obligations.SystemWords := by
  intro h
  obtain ⟨-, -, -, -, -, -, -, -, -, -, -, -, hall⟩ := h 0 0 0 userInSpan userInSpan { head := 0, n := 1, idx := 0 }
  obtain ⟨t, hexec, hpanic, -⟩ := (hall .rft List.mem_cons_self).2 rfl rfl rfl rfl rfl rfl
  obtain ⟨u, hwaits, hnone⟩ := userInSpan_waits
  obtain rfl := Host.Outcome.next.inj (hexec.symm.trans hwaits)
  rw [hnone] at hpanic
  exact absurd hpanic (by decide)

end Sys2Proof.Proofs
end

section
/-! A sector that is listed OUT because of a write still on its way is IN until then (R163), and a flip leaves it listed OUT. -/

namespace Sys2Proof.Proofs

open Sys2Proof Sys2Proof.Machine Sys2Proof.Safety Sys2Proof.Claims Sys2Proof.Laws

/-- A turnaround of sector 0 that started in cycle 0 and is due to flip it in cycle 2. -/
def startedTurn : TurnRec := { level := 0, paths := 1, lo := 0, count := 1, issued := 0, exch := false, start := some 0 }

/-- System core 0 in that cycle: sector 0 is listed OUT, and stays IN until cycle 5. -/
def flipBeforeOut : State :=
  { now := 2
    cores := [(1024, { sysRun := true, ctxs := [(0, { st := .run, turns := [startedTurn] })]
                       loc := { out := [0], hist := [(0, { old := 0, outAt := 5 })] } })] }

/-- Every field of an empty launch record is 0. -/
theorem fld_empty (hi lo : Nat) : LaunchRec.fld {} hi lo = 0 := by simp [LaunchRec.fld, field]

theorem flipBeforeOut_outside : flipBeforeOut.exempt (.loc 1024) 0 = false := by
  have hbase : flipBeforeOut.lr.poolbase = 0 := fld_empty _ _
  have hsegs : flipBeforeOut.lr.poolsegs = 0 := fld_empty _ _
  have hpool : flipBeforeOut.inPool (512 * 0) = false := by rw [State.inPool, hbase, hsegs, Nat.zero_mul]; rfl
  exact congrArg (flipBeforeOut.syncAt (.loc 1024) 0 || ·) hpool

/-- The flip only adds what the turnaround names. -/
theorem flipBeforeOut_flip : flipBeforeOut.flipSector 1024 startedTurn 0 = flipBeforeOut.modSpace (.loc 1024) fun m => m.joinTurn 0 1 0 := by
  have hloc : flipBeforeOut.locate 1024 (startedTurn.lo + 512 * 0) = some (.loc 1024, 0) := rfl
  rw [State.flipSector, hloc]
  dsimp only
  rw [Nat.zero_div, flipBeforeOut_outside]
  rfl

/-- The group due is sector 0 alone. -/
theorem flipBeforeOut_next : ∃ f, exec (.turnGroupFlip 1024 0) flipBeforeOut
    = .next (((flipBeforeOut.flipSector 1024 startedTurn 0).modCtx 1024 0 f).wake 1024) := by
  have hturns : (flipBeforeOut.ctx 1024 0).turns = [startedTurn] := rfl
  have hdue : startedTurn.nextFlip = some 2 := rfl
  have hlive : flipBeforeOut.turnLive 1024 0 = true := rfl
  have hgroup : rangeFrom (32 * startedTurn.groups) (Nat.min 32 (startedTurn.count - 32 * startedTurn.groups)) = [0] := rfl
  change ∃ f, execTurnGroupFlip 1024 0 flipBeforeOut = _
  unfold execTurnGroupFlip
  rw [hturns]
  dsimp only
  rw [hdue, hlive, hgroup, List.foldl_cons, List.foldl_nil]
  exact ⟨_, if_pos rfl⟩

/-- The flip leaves the sector listed OUT. -/
theorem flipBeforeOut_stays : ∃ t, exec (.turnGroupFlip 1024 0) flipBeforeOut = .next t ∧ (t.spaceAt (.loc 1024)).isOut 0 = true := by
  obtain ⟨f, hexec⟩ := flipBeforeOut_next
  refine ⟨_, hexec, ?_⟩
  rw [spaceAt_wake, spaceAt_modCtx, flipBeforeOut_flip]
  rfl

/-- Refutes O28: in `flipBeforeOut` no store of a context is on its way to the sector, which the statement has off the list of OUT
sectors after the flip. -/
theorem not_turnSteps : ¬ Obligations.TurnSteps := by
  intro h
  obtain ⟨-, -, hflip, -⟩ := h flipBeforeOut 1024 0 startedTurn [] rfl rfl
  obtain ⟨t, hexec, -, -, -, hall⟩ := hflip 2 rfl (Nat.le_refl 2)
  have hin : (t.spaceAt (.loc 1024)).isOut 0 = false :=
    (hall 0 (.loc 1024) 0 (Nat.le_refl 0) (by decide) (by decide) rfl flipBeforeOut_outside fun k hk => by cases hk; rfl).1 rfl
  obtain ⟨u, hruns, hout⟩ := flipBeforeOut_stays
  obtain rfl := Host.Outcome.next.inj (hexec.symm.trans hruns)
  exact absurd (hin.symm.trans hout) (by decide)

end Sys2Proof.Proofs
end

section
/-! The far engine (R145, R148, R254): what a handoff, a source read, a fill and a drain change. -/

namespace Sys2Proof.Proofs

open Sys2Proof Sys2Proof.Machine Sys2Proof.Safety Sys2Proof.Claims Sys2Proof.Laws

section far
variable {s t s2 : State} {core slot : Nat}

/-! ## The stored bits -/

theorem sameBytes_modCore (s : State) {core : Nat} {f : Core → Core} (h : (f (s.core core)).loc = (s.core core).loc) : SameBytes s (s.modCore core f) :=
  fun p => by rw [spaceAt_modCore h]

theorem sameBytes_wake (s : State) (core : Nat) : SameBytes s (s.wake core) := fun p => by rw [spaceAt_wake]

theorem sameBytes_later (s : State) : SameBytes s s.later.2 := fun p => by cases p <;> rfl

theorem spaceAt_drawWord (s : State) (p : Place) : s.drawWord.2.spaceAt p = s.spaceAt p := by cases p <;> rfl

theorem sameBytes_draws (l : List Nat) (acc : Nat × State) : SameBytes acc.2 (l.foldl (fun (acc : Nat × State) i =>
    let (x, s) := acc.2.drawWord; (acc.1 + 2 ^ (64 * i) * x.toNat, s)) acc).2 := fun p => by
  induction l generalizing acc with
  | nil => rfl
  | cons i r ih => rw [List.foldl_cons, ih, spaceAt_drawWord]

theorem sameBytes_drawSector (s : State) : SameBytes s s.drawSector.2 := sameBytes_draws _ _

theorem sameBytes_askPeer (s : State) (core seq a n : Nat) : SameBytes s (s.askPeer core seq a n) :=
  (sameBytes_drawSector s).trans fun p => by cases p <;> rfl

theorem sameBytes_drawNat (s : State) : SameBytes s s.drawNat.2 := fun p => by cases p <;> rfl

theorem sameBytes_hostFails (s : State) (d : Desc) : SameBytes s (s.hostFails d).2 := by
  unfold State.hostFails
  split
  · exact SameBytes.refl s
  · exact (sameBytes_drawNat s).trans (sameBytes_countPoison s.drawNat.2 _)

theorem sameBytes_decodeFlit (s : State) (body : Nat) : SameBytes s (s.decodeFlit body).2.2 := by
  rw [State.decodeFlit]
  dsimp only
  refine SameBytes.trans ?_ (sameBytes_countPoison _ _)
  exact fun p => by cases p <;> rfl

theorem sameBytes_hear (s : State) (f : FlitName) (x : Nat) (bad : List Bool) : SameBytes s (s.hear f x bad).2.2 := by
  unfold State.hear
  split
  · exact SameBytes.refl s
  next q _ =>
    have hbits := sameBytes_decodeFlit s ((flitBody x bad).toNat.xor q.flips.toNat)
    dsimp only
    generalize s.decodeFlit _ = r at hbits ⊢
    exact hbits.trans fun p => by cases p <;> rfl

theorem sameBytes_hearFill (s : State) (d : Desc) (x : Nat) : SameBytes s (s.hearFill d x).2.2 := fun p =>
  foldl_keeps (g := fun acc : Nat × List (Nat × Nat) × State => (acc.2.2.spaceAt p).bytes)
    (fun acc k => by
      dsimp only
      split
      · rfl
      · exact sameBytes_hear _ _ _ _ p)
    (rangeFrom 0 (ceilDiv d.LEN 512)) (x, [], s)

/-! ## Handoff (R254) -/

/-- The machine with a descriptor that the far engine takes over, its request to PEER space sent. -/
def handedOver (s : State) (core slot : Nat) (d : Desc) : State :=
  let s1 := s.setSlot core slot { d with landed := some s.now }
  if spaceOf d.SRC = 4 then s1.askPeer core d.seq d.SRC d.LEN else s1

theorem sameBytes_handedOver (s : State) (core slot : Nat) (d : Desc) : SameBytes s (handedOver s core slot d) := by
  refine SameBytes.trans (t := s.setSlot core slot { d with landed := some s.now }) (sameBytes_modCore _ rfl) ?_
  unfold handedOver
  dsimp only
  split
  · exact sameBytes_askPeer _ _ _ _ _
  · exact SameBytes.refl _

theorem exec_xfarHandoff {d : Desc} (h : s.handoff? core slot = some d) (hlen : d.LEN ≠ 0) (hpeer : s.peerOk d.SRC = true) :
    exec (.xfarHandoff core slot) s = .next (((handedOver s core slot d).later.2.modCore core fun k =>
      { k with fills := k.fills ++ [{ desc := d, due := (handedOver s core slot d).later.1 }] }).wake core) := by
  change execXfarHandoff core slot s = _
  unfold execXfarHandoff
  rw [h]
  dsimp only
  rw [if_neg hlen, hpeer]
  rfl

theorem handoff_fills {d : Desc} (h : s.handoff? core slot = some d) (hlen : d.LEN ≠ 0) (hpeer : s.peerOk d.SRC = true) :
    ∃ t f, exec (.xfarHandoff core slot) s = .next t ∧ f ∈ (t.core core).fills ∧ f.desc = d ∧ SameMemory s t := by
  refine ⟨_, { desc := d, due := (handedOver s core slot d).later.1 }, exec_xfarHandoff h hlen hpeer, ?_, rfl, ?_⟩
  · rw [core_wake, core_modCore_self]
    exact List.mem_append_right _ List.mem_cons_self
  · exact ((((sameBytes_handedOver s core slot d).trans (sameBytes_later _)).trans (sameBytes_modCore _ rfl)).trans (sameBytes_wake _ _)).memory

/-! ## The source read (R254) -/

/-- A fill whose data have come. -/
def heardFill (s : State) (f : Fill) (x : Nat) : State × Fill :=
  let h := s.hostFails f.desc
  let q := h.2.hearFill f.desc x
  (q.2.2.later.2, { f with data := some q.1, bad := h.1 ++ q.2.1, due := q.2.2.later.1 })

theorem sameBytes_heardFill (s : State) (f : Fill) (x : Nat) : SameBytes s (heardFill s f x).1 :=
  ((sameBytes_hostFails s f.desc).trans (sameBytes_hearFill _ _ _)).trans (sameBytes_later _)

theorem exec_farSourceRead {f : Fill} {x : Nat} (hf : (s.core core).fill? slot = some f) (hlive : s.farLive core = true) (hdata : f.data = none)
    (hdue : f.due ≤ s.now) (hasks : s.awaited core f.desc.seq = false) (hbanks : s.beatsEnd (sliceBanks f.desc.src) s.now = s.now)
    (hread : s.readSrc f.desc 0 f.desc.LEN = .ok (x, s2)) :
    exec (.farSourceRead core slot) s = .next ((heardFill s2 f x).1.modCore core fun k => k.setFill (heardFill s2 f x).2) := by
  change execFarSourceRead core slot s = _
  unfold execFarSourceRead
  rw [hf]
  dsimp only
  rw [if_pos (by simp [hlive, hdata, hdue, hasks, hbanks]), hread]
  rfl

theorem farSourceRead_bytes {f : Fill} {x : Nat} (hf : (s.core core).fill? slot = some f) (hlive : s.farLive core = true) (hdata : f.data = none)
    (hdue : f.due ≤ s.now) (hasks : s.awaited core f.desc.seq = false) (hbanks : s.beatsEnd (sliceBanks f.desc.src) s.now = s.now)
    (hread : s.readSrc f.desc 0 f.desc.LEN = .ok (x, s2)) : ∃ t, exec (.farSourceRead core slot) s = .next t ∧ SameMemory s2 t :=
  ⟨_, exec_farSourceRead hf hlive hdata hdue hasks hbanks hread, ((sameBytes_heardFill s2 f x).trans (sameBytes_modCore _ rfl)).memory⟩

theorem viewSector_fresh {m : Space} (h : m.hist = []) (p : Path) (need t sec : Nat) (flip : Option TurnRec) : m.viewSector p need t sec flip = {} := by
  rw [Space.viewSector, h]
  rfl

theorem countRead_clean {m : Space} (h : m.syn = []) (ws : List Nat) : m.countRead ws = m := by
  rw [Space.countRead, h]
  rfl

/-- A memory without histories and without errors shows what it stores (R164). -/
theorem readVia_fresh {m : Space} (hhist : m.hist = []) (hsyn : m.syn = []) (p : Path) (need t : Nat) (flip : Nat → Option TurnRec) (a n free : Nat) :
    m.readVia p need t flip a n free = (m.bytes.bits a n, m, free) := by
  rw [Space.readVia, if_pos, readBits_clean hsyn, countRead_clean hsyn]
  exact List.all_eq_true.mpr fun sec _ => by rw [viewSector_fresh hhist]; rfl

theorem anyBad_clean {m : Space} (h : m.syn = []) (a n : Nat) : m.anyBad a n = none :=
  List.find?_eq_none.mpr fun w _ => by simp [bad_clean h]

theorem raceAt_off (h : s.lr.racem = 0) (p : Place) (sec name head : Nat) (a : Shadow) (w : Bool) : s.raceAt p sec name head a w = .ok s :=
  if_pos (by simp [h])

/-- Nothing is done in a state that every step of a fold leaves. -/
theorem foldlM_stays {α β : Type} {f : β → α → Except Stop β} {b : β} (l : List α) (h : ∀ a, a ∈ l → f b a = .ok b) : l.foldlM f b = .ok b := by
  induction l with
  | nil => rfl
  | cons a r ih =>
    rw [List.foldlM_cons, h a List.mem_cons_self]
    exact ih fun c hc => h c (List.mem_cons_of_mem _ hc)

theorem cutPieces_whole (p : Place) (a n : Nat) : cutPieces 0 [(p, a, n)] 0 n = if 0 < n then [(0, p, a, n)] else [] := by
  simp [cutPieces]

theorem readSrc_whole {d : Desc} {p : Place} {a : Nat} (hsrc : d.src = [(p, a, d.LEN)]) (hrace : s.lr.racem = 0) (hsyn : (s.spaceAt p).syn = [])
    (hhist : (s.spaceAt p).hist = []) (hface : ∀ sec, sec ∈ sectorsOf a d.LEN → (s.spaceAt p).isOut sec = false ∧ (s.spaceAt p).isPend sec = false) :
    ∃ u, s.readSrc d 0 d.LEN = .ok ((s.spaceAt p).bytes.bits a d.LEN, u) ∧ SpacesOnly s u ∧ SameBytes s u := by
  rw [State.readSrc, hsrc, cutPieces_whole]
  by_cases hlen : 0 < d.LEN
  · have hturned : (sectorsOf a d.LEN).find? (fun sec => !s.syncAt p sec && (((s.spaceAt p).isOut sec && !(s.spaceAt p).stillIn sec s.now)
        || (s.spaceAt p).isPend sec)) = none :=
      List.find?_eq_none.mpr fun sec hsec => by simp [hface sec hsec]
    rw [if_pos hlen, List.foldlM_cons]
    dsimp only
    rw [hturned]
    dsimp only
    rw [anyBad_clean hsyn]
    dsimp only
    rw [foldlM_stays _ fun sec _ => raceAt_off hrace ..]
    refine ⟨{ s.setSpace p (s.spaceAt p) with free := s.free }, ?_, (spacesOnly_setSpace s p _).trans ⟨⟨_, _, _, _, _, _, rfl⟩, fun _ => ⟨_, rfl⟩⟩,
      SameBytes.trans (sameBytes_modSpace s p (f := id) rfl) fun q => by cases q <;> rfl⟩
    change Except.ok (0 + ((s.spaceAt p).readVia .x (readLevel d p a) s.now (fun _ => none) a d.LEN s.free).1 * 2 ^ 0,
      { s.setSpace p ((s.spaceAt p).readVia .x (readLevel d p a) s.now (fun _ => none) a d.LEN s.free).2.1 with
        free := ((s.spaceAt p).readVia .x (readLevel d p a) s.now (fun _ => none) a d.LEN s.free).2.2 }) = _
    rw [readVia_fresh hhist hsyn, Nat.zero_add, pow_zero, Nat.mul_one]
  · rw [if_neg hlen, Nat.eq_zero_of_not_pos hlen]
    exact ⟨s, by simp [Memory.bits, Nat.mod_one]; rfl, SpacesOnly.refl s, SameBytes.refl s⟩

theorem hearFill_quiet (h : s.noise = []) (d : Desc) (x : Nat) : s.hearFill d x = (x, [], s) := by
  unfold State.hearFill
  refine List.foldl_fixed' (fun k => ?_) _
  dsimp only
  rw [h]
  rfl

theorem fill?_setFill {k : Core} {f g : Fill} {n : Nat} (hf : k.fill? n = some f) (hg : g.desc = f.desc) : (k.setFill g).fill? n = some g := by
  have hseq : f.desc.seq = n := by simpa using List.find?_some hf
  have hsame : (fun e : Fill => e.desc.seq == n) ∘ (fun e => if e.desc.seq = g.desc.seq then g else e) = fun e => e.desc.seq == n := by
    funext e
    by_cases he : e.desc.seq = g.desc.seq
    · simp [he]
    · simp [he]
  rw [Core.fill?, Core.setFill, List.find?_map, hsame]
  change Option.map _ (k.fill? n) = _
  rw [hf, Option.map_some, if_pos (by rw [hg])]

theorem spacesOnly_hostFails (s : State) (d : Desc) : SpacesOnly s (s.hostFails d).2 := by
  unfold State.hostFails
  split
  · exact SpacesOnly.refl s
  · exact SpacesOnly.trans (t := s.drawNat.2) ⟨⟨_, _, _, _, _, _, rfl⟩, fun _ => ⟨_, rfl⟩⟩ (spacesOnly_countPoison _ _)

theorem SpacesOnly.fill? (h : SpacesOnly s t) (core n : Nat) : (t.core core).fill? n = (s.core core).fill? n := by
  obtain ⟨m, hm⟩ := h.core core
  rw [hm]
  rfl

theorem SpacesOnly.noise (h : SpacesOnly s t) : t.noise = s.noise := by
  obtain ⟨⟨_, _, _, _, _, _, rfl⟩, -⟩ := h
  rfl

theorem farSourceRead_data {f : Fill} {p : Place} {a : Nat} (hf : (s.core core).fill? slot = some f) (hlive : s.farLive core = true)
    (hdata : f.data = none) (hdue : f.due ≤ s.now) (hasks : s.awaited core f.desc.seq = false) (htaken : s.taken = []) (hnoise : s.noise = [])
    (hsrc : f.desc.src = [(p, a, f.desc.LEN)]) (hrace : s.lr.racem = 0) (hsyn : (s.spaceAt p).syn = []) (hhist : (s.spaceAt p).hist = [])
    (hface : ∀ sec, sec ∈ sectorsOf a f.desc.LEN → (s.spaceAt p).isOut sec = false ∧ (s.spaceAt p).isPend sec = false) :
    ∃ t x, exec (.farSourceRead core slot) s = .next t ∧ (t.core core).fill? slot = some x ∧ x.desc = f.desc
      ∧ x.data = some ((s.spaceAt p).bytes.bits a f.desc.LEN) ∧ SameMemory s t := by
  obtain ⟨u, hread, honly, hbytes⟩ := readSrc_whole hsrc hrace hsyn hhist hface
  have hbanks : s.beatsEnd (sliceBanks f.desc.src) s.now = s.now := by rw [State.beatsEnd, htaken]; rfl
  have hfails := honly.trans (spacesOnly_hostFails u f.desc)
  have hheard : (u.hostFails f.desc).2.hearFill f.desc ((s.spaceAt p).bytes.bits a f.desc.LEN)
      = ((s.spaceAt p).bytes.bits a f.desc.LEN, [], (u.hostFails f.desc).2) := hearFill_quiet (hfails.noise.trans hnoise) _ _
  refine ⟨_, (heardFill u f ((s.spaceAt p).bytes.bits a f.desc.LEN)).2, exec_farSourceRead hf hlive hdata hdue hasks hbanks hread, ?_, rfl, congrArg (fun q : Nat × List (Nat × Nat) × State => some q.1) hheard,
    ((hbytes.trans (sameBytes_heardFill u f _)).trans (sameBytes_modCore _ rfl)).memory⟩
  rw [core_modCore_self]
  refine fill?_setFill (f := f) ?_ rfl
  rw [heardFill]
  dsimp only
  rw [hheard]
  exact (hfails.fill? core slot).trans hf

/-! ## Fills of DEVICE space (R254) -/

theorem spaceAt_drainedAt (s : State) (core : Nat) (p : Place) (a n : Nat) (q : Place) : (s.drainedAt core p a n).spaceAt q = s.spaceAt q :=
  spaceAt_modCore rfl q

theorem goIns_bytes (l : List Nat) (level : Nat) : ∀ m : Space, (l.foldl (fun m sec => m.goIn sec 15 level) m).bytes = m.bytes :=
  foldl_keeps (g := Space.bytes) (f := fun m sec => m.goIn sec 15 level) (fun _ _ => rfl) l

theorem isOut_goIn (m : Space) (x sec : Nat) (paths : BitVec 4) (level : Nat) (h : m.isOut sec = false) : (m.goIn x paths level).isOut sec = false := by
  rw [Space.isOut, List.contains_eq_mem, decide_eq_false_iff_not] at h ⊢
  exact fun hin => h (List.mem_of_mem_filter hin)

theorem isOut_goIns {l : List Nat} {sec : Nat} (h : sec ∈ l) (level : Nat) (m : Space) :
    (l.foldl (fun m sec => m.goIn sec 15 level) m).isOut sec = false := by
  have hstays (l : List Nat) : ∀ m : Space, m.isOut sec = false → (l.foldl (fun m sec => m.goIn sec 15 level) m).isOut sec = false := by
    induction l with
    | nil => exact fun _ h => h
    | cons x r ih => exact fun m hm => ih _ (isOut_goIn m x sec 15 level hm)
  induction l generalizing m with
  | nil => cases h
  | cons x r ih =>
    rcases List.mem_cons.mp h with rfl | hr
    · exact hstays r _ (isOut_goIn_self m sec 15 level)
    · exact ih hr _

theorem sameBytes_turnIn (s : State) (p : Place) (a n level : Nat) : SameBytes s (s.turnIn p a n level) := by
  unfold State.turnIn
  exact sameBytes_modSpace s p (goIns_bytes _ level _)

theorem poisonBits_none (m : Space) (a off n : Nat) : m.poisonBits a off n [] = m := by
  unfold Space.poisonBits
  exact List.foldl_fixed' (fun _ => rfl) _

theorem spaceAt_modSpace_same (s : State) {p : Place} {f : Space → Space} (h : f (s.spaceAt p) = s.spaceAt p) (q : Place) :
    (s.modSpace p f).spaceAt q = s.spaceAt q := by
  by_cases hq : q = p
  · rw [hq, spaceAt_modSpace_self, h]
  · exact spaceAt_modSpace_ne _ _ hq

theorem spaceAt_poisonPieces_none (s : State) (dst : List (Place × Nat × Nat)) (q : Place) : (s.poisonPieces dst []).spaceAt q = s.spaceAt q := by
  unfold State.poisonPieces
  exact foldl_keeps (g := fun acc : State × Nat => acc.1.spaceAt q)
    (fun acc p => spaceAt_modSpace_same acc.1 (poisonBits_none _ _ _ _) q) dst (s, 0)

/-- The machine after the pieces of a fill have been written. -/
def fillTurned (s : State) (core : Nat) (d : Desc) : State :=
  let s := s.poisonPieces d.dst []
  if d.TOLV then d.dst.foldl (fun s p => s.turnIn p.1 p.2.1 p.2.2 d.TOLL) s else d.dst.foldl (fun s p => s.drainedAt core p.1 p.2.1 p.2.2) s

theorem sameBytes_fillTurned (s : State) (core : Nat) (d : Desc) : SameBytes s (fillTurned s core d) := by
  refine SameBytes.trans (t := s.poisonPieces d.dst []) (fun q => by rw [spaceAt_poisonPieces_none]) ?_
  unfold fillTurned
  dsimp only
  split
  · exact SameBytes.foldl (fun _ _ => sameBytes_turnIn _ _ _ _ _) _ _
  · exact SameBytes.foldl (fun _ _ q => by rw [spaceAt_drainedAt]) _ _

theorem exec_fillLand {f : Fill} (hf : (s.core core).fill? slot = some f) (hdue : s.fillDue core f = true) (hdst : f.desc.toQueue = none)
    (hwrite : s.writePieces f.desc (cutPieces 0 f.desc.dst 0 f.desc.dstLen) 0 (f.data.getD 0) = .ok s2) (hexp : f.desc.EXP24 = false)
    (hbad : f.bad = []) : exec (.fillLand core slot) s = .next (((fillTurned s2 core f.desc).modCore core fun k => k.dropFill f.desc.seq).wake core) := by
  have hbits : s.fillBits f.desc (f.data.getD 0) = (f.data.getD 0, s) := if_neg (by simp [hexp])
  have hbad' : f.desc.badBits f.bad = [] := by rw [hbad, Desc.badBits, hexp]; rfl
  change execFillLand core slot s = _
  unfold execFillLand
  rw [hf]
  dsimp only
  rw [hdue, hdst]
  dsimp only
  rw [hbits]
  dsimp only
  rw [hwrite, hbad']
  rfl

theorem fillLand_bytes {f : Fill} (hf : (s.core core).fill? slot = some f) (hdue : s.fillDue core f = true) (hdst : f.desc.toQueue = none)
    (hwrite : s.writePieces f.desc (cutPieces 0 f.desc.dst 0 f.desc.dstLen) 0 (f.data.getD 0) = .ok s2) (hexp : f.desc.EXP24 = false)
    (hbad : f.bad = []) : ∃ t, exec (.fillLand core slot) s = .next t ∧ SameMemory s2 t :=
  ⟨_, exec_fillLand hf hdue hdst hwrite hexp hbad,
    (((sameBytes_fillTurned s2 core f.desc).trans (sameBytes_modCore _ rfl)).trans (sameBytes_wake _ _)).memory⟩

theorem storeAt_phys (hsyn : s.phys.syn = []) (a n x : Nat) : (s.storeAt .phys a n x).spaceAt .phys
    = { (((sectorsOf a n).filter fun sec => !s.exempt .phys sec).foldl Space.goOut s.phys) with bytes := s.phys.bytes.setBits a n x } := by
  change (s.modSpace .phys _).spaceAt .phys = _
  rw [spaceAt_modSpace_self]
  change Space.writeRaw (List.foldl Space.goOut s.phys _) a n x = _
  rw [writeRaw_clean ((syn_goOuts _ _).trans hsyn), goOuts_bytes]

theorem isOut_storeAt_phys (hsyn : s.phys.syn = []) {a n sec : Nat} (x : Nat) (hsec : sec ∈ sectorsOf a n) (hface : s.exempt .phys sec = false) :
    ((s.storeAt .phys a n x).spaceAt .phys).isOut sec = true := by
  rw [storeAt_phys hsyn]
  change (((sectorsOf a n).filter fun sec => !s.exempt .phys sec).foldl Space.goOut s.phys).isOut sec = true
  rw [isOut_goOuts]
  have hin : sec ∈ (sectorsOf a n).filter fun sec => !s.exempt .phys sec := List.mem_filter.mpr ⟨hsec, by simp [hface]⟩
  simp [hin]

theorem writePieces_whole {p : Place} (hrace : s.lr.racem = 0) (hsyn : (s.spaceAt p).syn = []) (d : Desc) (a n x : Nat) :
    s.writePieces d (cutPieces 0 [(p, a, n)] 0 n) 0 x = .ok (if 0 < n then s.storeAt p a n (x % 2 ^ n) else s) := by
  rw [State.writePieces, cutPieces_whole]
  by_cases hn : 0 < n
  · have hbad : (partialWords a n).find? ((s.spaceAt p).bad ·) = none := List.find?_eq_none.mpr fun w _ => by simp [bad_clean hsyn]
    rw [if_pos hn, if_pos hn, List.foldlM_cons]
    dsimp only
    rw [hbad]
    dsimp only
    rw [foldlM_stays _ fun sec _ => raceAt_off hrace ..]
    rfl
  · rw [if_neg hn, if_neg hn]
    rfl

theorem fillLand_device {f : Fill} {a : Nat} (hf : (s.core core).fill? slot = some f) (hdue : s.fillDue core f = true) (hto : f.desc.toQueue = none)
    (hdst : f.desc.dst = [(.phys, a, f.desc.dstLen)]) (hexp : f.desc.EXP24 = false) (hbad : f.bad = []) (hrace : s.lr.racem = 0)
    (hsyn : s.phys.syn = []) :
    ∃ t, exec (.fillLand core slot) s = .next t ∧ (t.core core).fill? slot = none
      ∧ t.phys.bytes.bits a f.desc.dstLen = f.data.getD 0 % 2 ^ f.desc.dstLen
      ∧ (∀ q, q < a ∨ a + f.desc.dstLen ≤ q → bitAt t.phys.bytes q = bitAt s.phys.bytes q)
      ∧ ∀ sec, sec ∈ sectorsOf a f.desc.dstLen → s.exempt .phys sec = false → t.phys.isOut sec = !f.desc.TOLV := by
  have hwrite := writePieces_whole (p := .phys) hrace hsyn f.desc a f.desc.dstLen (f.data.getD 0)
  rw [← hdst] at hwrite
  refine ⟨_, exec_fillLand hf hdue hto hwrite hexp hbad, ?_, ?_⟩
  · rw [core_wake, core_modCore_self]
    have hseq : f.desc.seq = slot := by simpa using List.find?_some hf
    refine List.find?_eq_none.mpr fun g hg => ?_
    have hne := (List.mem_filter.mp hg).2
    simpa [hseq] using hne
  · generalize hn : f.desc.dstLen = n at hdst ⊢
    generalize hw : (if 0 < n then s.storeAt .phys a n (f.data.getD 0 % 2 ^ n) else s) = u
    have hspace (t : State) : (((t.modCore core fun k => k.dropFill f.desc.seq).wake core).spaceAt .phys) = t.spaceAt .phys := by
      rw [spaceAt_wake, spaceAt_modCore rfl]
    have hbytes := (congrArg Space.bytes (hspace (fillTurned u core f.desc))).trans (sameBytes_fillTurned u core f.desc .phys)
    by_cases hpos : 0 < n
    · rw [if_pos hpos] at hw
      have hset : (u.spaceAt .phys).bytes = s.phys.bytes.setBits a n (f.data.getD 0 % 2 ^ n) := by rw [← hw, storeAt_phys hsyn]
      refine ⟨?_, fun q hq => ?_, fun sec hsec hface => ?_⟩
      · exact (congrArg (Memory.bits · a n) (hbytes.trans hset)).trans ((bits_setBits _ _ _ _).trans (Nat.mod_mod _ _))
      · exact (congrArg (bitAt · q) (hbytes.trans hset)).trans (bit_setBits_out _ _ _ _ _ hq)
      · refine (congrArg (Space.isOut · sec) (hspace (fillTurned u core f.desc))).trans ?_
        rw [fillTurned, hdst]
        cases f.desc.TOLV with
        | true =>
          change ((State.turnIn _ .phys a n _).spaceAt .phys).isOut sec = false
          rw [State.turnIn, spaceAt_modSpace_self]
          exact isOut_goIns hsec _ _
        | false =>
          change ((State.drainedAt _ core .phys a n).spaceAt .phys).isOut sec = true
          rw [spaceAt_drainedAt, spaceAt_poisonPieces_none, ← hw]
          exact isOut_storeAt_phys hsyn _ hsec hface
    · rw [if_neg hpos] at hw
      obtain rfl := Nat.eq_zero_of_not_pos hpos
      subst hw
      refine ⟨by rw [pow_zero, Nat.mod_one, Memory.bits, pow_zero, Nat.mod_one], fun q _ => congrArg (bitAt · q) hbytes, fun sec hsec => ?_⟩
      cases hsec

/-! ## Fills of queues (R145) -/

theorem exec_fillLand_entry {f : Fill} {q : Nat} (hf : (s.core core).fill? slot = some f) (hdue : s.fillDue core f = true)
    (hto : f.desc.toQueue = some q) (hentry : s.fillEntry core f q = .ok s2) : exec (.fillLand core slot) s = .next s2 := by
  change execFillLand core slot s = _
  unfold execFillLand
  rw [hf]
  dsimp only
  rw [hdue, hto]
  dsimp only
  rw [hentry]
  rfl

/-- A first write of a sector passes the race detector, which changes no queue and no scratchpad. -/
theorem raceLocal_first {sec : Nat} (h : s.lr.racem = 0 ∨ SMap.get? (s.core core).shadow sec = none) (head : Nat) (a : Shadow) :
    ∃ u, s.raceLocal core sec head a true = .ok u ∧ (u.core core).queues = (s.core core).queues ∧ (u.core core).loc = (s.core core).loc := by
  by_cases hrace : s.lr.racem = 0
  · exact ⟨s, if_pos (by simp [hrace]), rfl, rfl⟩
  · have hshadow := h.resolve_left hrace
    refine ⟨s.modCore core fun k => { k with shadow := k.shadow.put sec a }, ?_, ?_, ?_⟩
    · rw [State.raceLocal, if_neg (by simp [hrace]), hshadow]
      rfl
    · rw [core_modCore_self]
    · rw [core_modCore_self]

/-- The core after the next entry of a fill has been written. -/
def entryFilled (k : Core) (f : Fill) (q due : Nat) : Core :=
  let qu := k.queue q
  let k := (k.putEntries qu qu.avail 1 (f.data.getD 0 / 2 ^ (512 * f.pos) % 2 ^ 512)).setQueue q { qu with avail := qu.avail + 1 }
  if ceilDiv f.desc.LEN 512 ≤ f.pos + 1 then k.dropFill f.desc.seq else k.setFill { f with pos := f.pos + 1, due := due }

theorem entryFilled_queue (k : Core) (f : Fill) (q due : Nat) : (entryFilled k f q due).queue q = { k.queue q with avail := (k.queue q).avail + 1 } := by
  unfold entryFilled
  dsimp only
  split
  · exact get_put_self _ _ _ _
  · exact get_put_self _ _ _ _

theorem putEntries_one (k : Core) (q : Queue) (at0 x : Nat) (hsyn : k.loc.syn = []) :
    (k.putEntries q at0 1 (x % 2 ^ 512)).loc.bytes = k.loc.bytes.setBits (q.entry at0) 512 (x % 2 ^ 512) := by
  change (k.loc.writeRaw (q.entry (at0 + 0)) 512 (field (x % 2 ^ 512) (512 * 0 + 511) (512 * 0))).bytes = _
  rw [writeRaw_clean hsyn]
  have hfield : field (x % 2 ^ 512) (512 * 0 + 511) (512 * 0) = x % 2 ^ 512 := by simp [field]
  rw [hfield, Nat.add_zero]

theorem entryFilled_bits (k : Core) (f : Fill) (q due : Nat) (hsyn : k.loc.syn = []) :
    (entryFilled k f q due).loc.bytes.bits ((k.queue q).entry (k.queue q).avail) 512 = f.data.getD 0 / 2 ^ (512 * f.pos) % 2 ^ 512 := by
  have hbytes : (entryFilled k f q due).loc.bytes
      = k.loc.bytes.setBits ((k.queue q).entry (k.queue q).avail) 512 (f.data.getD 0 / 2 ^ (512 * f.pos) % 2 ^ 512) := by
    unfold entryFilled
    dsimp only
    split
    · exact putEntries_one k _ _ _ hsyn
    · exact putEntries_one k _ _ _ hsyn
  rw [hbytes, bits_setBits, Nat.mod_mod]

theorem fillEntry_room {f : Fill} {q : Nat} (hbad : f.bad = [])
    (hrace : s.lr.racem = 0 ∨ SMap.get? (s.core core).shadow ((s.core core).fillSector q) = none)
    (hroom : ((s.core core).queue q).avail < ((s.core core).queue q).capacity) :
    ∃ (t : State) (k : Core) (due : Nat), s.fillEntry core f q = .ok ((t.setCore core (entryFilled k f q due)).wake core)
      ∧ k.queue q = (s.core core).queue q ∧ k.loc = (s.core core).loc := by
  obtain ⟨u, hu, hqueues, hloc⟩ := raceLocal_first hrace f.desc.origin.head (s.descAgent f.desc)
  have hcore : (u.takeBank core ((s.core core).fillSector q) true).core core
      = { u.core core with banks := ((u.takeBank core ((s.core core).fillSector q) true).core core).banks } := by
    rw [State.takeBank, core_modCore_self]
  generalize hv : u.takeBank core ((s.core core).fillSector q) true = v at hcore
  have hqueue : (v.core core).queue q = (s.core core).queue q := by
    rw [hcore]
    exact congrArg (SMap.get {} · q) hqueues
  refine ⟨v.later.2, v.core core, v.later.1, ?_, hqueue, by rw [hcore, hloc]⟩
  rw [State.fillEntry]
  dsimp only
  rw [if_neg (Nat.not_le.mpr hroom), hu]
  refine congrArg Except.ok ?_
  have hclean (m : Space) (a off n : Nat) : m.poisonBits a off n f.bad = m := by rw [hbad, poisonBits_none]
  rw [hv, hclean, Nat.shiftRight_eq_div_pow, ← hqueue]
  rfl

theorem fillLand_entry {f : Fill} {q : Nat} (hf : (s.core core).fill? slot = some f) (hdue : s.fillDue core f = true)
    (hto : f.desc.toQueue = some q) (hbad : f.bad = []) (hsyn : (s.core core).loc.syn = [])
    (hrace : s.lr.racem = 0 ∨ SMap.get? (s.core core).shadow ((s.core core).fillSector q) = none)
    (hroom : ((s.core core).queue q).avail < ((s.core core).queue q).capacity) :
    ∃ t, exec (.fillLand core slot) s = .next t ∧ (t.core core).queue q = { (s.core core).queue q with avail := ((s.core core).queue q).avail + 1 }
      ∧ (t.core core).loc.bytes.bits (((s.core core).queue q).entry ((s.core core).queue q).avail) 512 = f.data.getD 0 / 2 ^ (512 * f.pos) % 2 ^ 512 := by
  obtain ⟨u, k, due, hentry, hqueue, hloc⟩ := fillEntry_room hbad hrace hroom
  refine ⟨_, exec_fillLand_entry hf hdue hto hentry, ?_, ?_⟩
  · rw [core_wake, core_setCore_self, ← hqueue]
    exact entryFilled_queue k f q due
  · rw [core_wake, core_setCore_self, ← hqueue]
    exact entryFilled_bits k f q due (by rw [hloc, hsyn])

/-! ## Outbound drains (R148) -/

theorem exec_queueDrainEntry {q : Nat} (hdue : s.drainDue core q = true) (hentry : s.drainEntry core q = .ok s2) :
    exec (.queueDrainEntry core q) s = .next s2 := by
  change execQueueDrainEntry core q s = _
  unfold execQueueDrainEntry
  rw [if_pos hdue, hentry]
  rfl

/-- The machine with an entry of a queue written in module memory, and with its sector IN. -/
def entryWritten (s : State) (core : Nat) (w : Queue) (pa : Nat) : State :=
  ((s.takeBank core (w.entry 0 / 512) false).storeAt .phys pa 512 ((s.core core).loc.bytes.bits (w.entry 0) 512)).modSpace .phys fun m => m
def entryDrained (s : State) (core : Nat) (w : Queue) (pa : Nat) : State :=
  (((entryWritten s core w pa).copied (.loc core) (rangeFrom (w.entry 0 / 64) 8)).turnIn .phys pa 512 w.toll).drainedAt core .phys pa 512

theorem drainEntry_phys {q pa : Nat} {w : Queue} (hw : (s.core core).queue q = w) (hspace : spaceOf (w.dest + 512 * w.drained) = 2)
    (hfield : inField (w.dest + 512 * w.drained) 512 = true) (hplace : s.xlate (w.dest + 512 * w.drained) true = some pa)
    (hloc : (s.core core).loc.syn = []) (hnoise : s.noise = []) : s.drainEntry core q
      = .ok (((entryDrained s core w pa).later.2.setCore core (((entryDrained s core w pa).later.2.core core).setQueue q
          { w.advance 1 with avail := w.avail - 1, drained := w.drained + 1, due := w.due - 1, drainAt := (entryDrained s core w pa).later.1 })).wake core) := by
  have hgoal : s.drainPlace (w.dest + 512 * w.drained) = .ok (.phys, pa) := by
    rw [State.drainPlace, hfield, hspace, hplace]
    rfl
  have hbad : ((rangeFrom 0 8).map fun i => (s.core core).loc.bad (w.entry 0 / 64 + i)) = (rangeFrom 0 8).map fun _ => false :=
    List.map_congr_left fun i _ => bad_clean hloc _
  have hheard (x : Nat) (bad : List Bool) : s.hear (.entry core q w.drained) x bad = (x, [], s) := by
    rw [State.hear, hnoise]
    rfl
  rw [State.drainEntry]
  dsimp only
  rw [hw, hgoal, hbad, readBits_clean hloc, hheard]
  rfl

theorem spaceAt_entryWritten (hsyn : s.phys.syn = []) (core : Nat) (w : Queue) (pa : Nat) : (entryWritten s core w pa).spaceAt .phys
    = { (((sectorsOf pa 512).filter fun sec => !(s.takeBank core (w.entry 0 / 512) false).exempt .phys sec).foldl Space.goOut s.phys) with
        bytes := s.phys.bytes.setBits pa 512 ((s.core core).loc.bytes.bits (w.entry 0) 512) } := by
  rw [entryWritten, spaceAt_modSpace_self]
  exact storeAt_phys (s := s.takeBank core (w.entry 0 / 512) false) hsyn _ _ _

theorem loc_entryWritten (s : State) (core : Nat) (w : Queue) (pa : Nat) : (entryWritten s core w pa).spaceAt (.loc core) = s.spaceAt (.loc core) := by
  have hne : Place.loc core ≠ .phys := fun h => by cases h
  rw [entryWritten, spaceAt_modSpace_ne _ _ hne]
  exact (spaceAt_modSpace_ne _ _ hne).trans (spaceAt_modCore rfl _)

theorem spaceAt_entryDrained (hloc : (s.core core).loc.syn = []) (w : Queue) (pa : Nat) : (entryDrained s core w pa).spaceAt .phys
    = (sectorsOf pa 512).foldl (fun m sec => m.goIn sec 15 w.toll) ((entryWritten s core w pa).spaceAt .phys) := by
  rw [entryDrained, spaceAt_drainedAt, copied_clean (s := entryWritten s core w pa) (p := .loc core) (by rw [loc_entryWritten]; exact hloc), State.turnIn,
    spaceAt_modSpace_self]

theorem drained_sends {q pa : Nat} {w : Queue} (hw : (s.core core).queue q = w) (hdue : s.drainDue core q = true)
    (hspace : spaceOf (w.dest + 512 * w.drained) = 2) (hfield : inField (w.dest + 512 * w.drained) 512 = true)
    (hplace : s.xlate (w.dest + 512 * w.drained) true = some pa) (hloc : (s.core core).loc.syn = []) (hsyn : s.phys.syn = []) (hnoise : s.noise = []) :
    ∃ t, exec (.queueDrainEntry core q) s = .next t ∧ t.phys.bytes.bits pa 512 = (s.core core).loc.bytes.bits (w.entry 0) 512
      ∧ (∀ b, b < pa ∨ pa + 512 ≤ b → bitAt t.phys.bytes b = bitAt s.phys.bytes b)
      ∧ (∀ sec, sec ∈ sectorsOf pa 512 → t.phys.isOut sec = false)
      ∧ ((t.core core).queue q).avail = w.avail - 1 ∧ ((t.core core).queue q).drained = w.drained + 1 := by
  have hentry := drainEntry_phys hw hspace hfield hplace hloc hnoise
  refine ⟨_, exec_queueDrainEntry hdue hentry, ?_⟩
  generalize he : entryDrained s core w pa = e at hentry ⊢
  have hphys (k : Core) : ((e.later.2.setCore core k).wake core).phys
      = (sectorsOf pa 512).foldl (fun m sec => m.goIn sec 15 w.toll) ((entryWritten s core w pa).spaceAt .phys) := by
    rw [← spaceAt_entryDrained hloc, he]
    rfl
  have hbytes (k : Core) : ((e.later.2.setCore core k).wake core).phys.bytes
      = s.phys.bytes.setBits pa 512 ((s.core core).loc.bytes.bits (w.entry 0) 512) := by
    rw [hphys, goIns_bytes, spaceAt_entryWritten hsyn]
  have hqueue (q' : Queue) : ((((e.later.2.setCore core ((e.later.2.core core).setQueue q q')).wake core).core core).queue q) = q' := by
    rw [core_wake, core_setCore_self]
    exact get_put_self _ _ _ _
  refine ⟨?_, fun b hb => ?_, fun sec hsec => ?_, by rw [hqueue], by rw [hqueue]⟩
  · rw [hbytes, bits_setBits]
    exact Nat.mod_mod _ _
  · rw [hbytes]
    exact bit_setBits_out _ _ _ _ _ hb
  · rw [hphys]
    exact isOut_goIns hsec _ _

end far

/-- Settles O41, clause by clause. -/
theorem farSteps : Obligations.FarSteps := by
  intro s s2 core slot
  refine ⟨fun d h hlen hpeer => handoff_fills h hlen hpeer,
    fun f x hf hlive hdata hdue hasks hbanks hread => farSourceRead_bytes hf hlive hdata hdue hasks hbanks hread,
    fun f p a hf hlive hdata hdue hasks htaken hnoise hsrc hrace hsyn hhist hface =>
      farSourceRead_data hf hlive hdata hdue hasks htaken hnoise hsrc hrace hsyn hhist hface,
    fun f hf hdue hto hwrite hexp hbad => fillLand_bytes hf hdue hto hwrite hexp hbad,
    fun f a hf hdue hto hdst hexp hbad hrace hsyn => fillLand_device hf hdue hto hdst hexp hbad hrace hsyn,
    fun f q hf hdue hto hentry => exec_fillLand_entry hf hdue hto hentry,
    fun f q hf hdue hto hbad hsyn hrace hroom => fillLand_entry hf hdue hto hbad hsyn hrace hroom,
    fun q hdue hentry => exec_queueDrainEntry hdue hentry, ?_⟩
  intro q pa w goal hdue hspace hfield hplace hloc hsyn hnoise
  exact drained_sends rfl hdue hspace hfield hplace hloc hsyn hnoise

end Sys2Proof.Proofs
end

section
/-! TURN and TURNT put a turnaround at the end of the queue of their context (R158 to R160); TWAIT waits for an empty queue (R168). -/

namespace Sys2Proof.Proofs

open Sys2Proof Sys2Proof.Machine Sys2Proof.Safety Sys2Proof.Claims Sys2Proof.Laws

section turns
variable {s s1 u : State} {v : Cv} {i : Instr}

/-- Every memory holds the same bytes, with the same sectors OUT and the same flips pending. -/
def SameFacing (s t : State) : Prop :=
  ∀ p, (t.spaceAt p).bytes = (s.spaceAt p).bytes ∧ (t.spaceAt p).out = (s.spaceAt p).out ∧ (t.spaceAt p).pend = (s.spaceAt p).pend

/-- The turnaround that TURN and TURNT queue. -/
def newTurn (s : State) (level : Nat) (paths : BitVec 4) (a n ready : Nat) : TurnRec :=
  { level := level, paths := paths, lo := a / 512 * 512, count := ((if n = 0 then a / 512 * 512 else ceilDiv (a + n) 512 * 512) - a / 512 * 512) / 512
    issued := s.now, ready := ready, exch := s.exchange }

theorem queueTurn_room {level a n : Nat} (paths : BitVec 4) (hroom : s.cur.turns.length < 4) (hregion : s.checkRegion a n level = .ok ()) :
    ∃ ready, s.queueTurn level paths a n = .ok (s.setCur { s.cur with turns := s.cur.turns ++ [newTurn s level paths a n ready] }) := by
  rw [State.queueTurn, hregion]
  exact ⟨_, if_neg (Nat.not_le.mpr hroom)⟩

theorem newTurn_count (s : State) (level : Nat) (paths : BitVec 4) (a n ready : Nat) :
    (newTurn s level paths a n ready).count = if n = 0 then 0 else (a + n + 511) / 512 - a / 512 := by
  change ((if n = 0 then a / 512 * 512 else ceilDiv (a + n) 512 * 512) - a / 512 * 512) / 512 = _
  split
  · simp
  · rw [ceilDiv]
    omega

/-- A turnaround queued from a state that taking up the word and the layout entry have left, as the word retires. -/
theorem turnAdded_closed (f : Fronted s v s1) (hcur : u.cur = s1.cur) (hexch : u.exchange = s.exchange) (hfacing : SameFacing s u) (level : Nat)
    (paths : BitVec 4) (a n ready : Nat) (cv : Option Cv) (l : List LoopEnt) (p : Nat) :
    TurnAdded s (closed (u.setCur { u.cur with turns := u.cur.turns ++ [newTurn u level paths a n ready] }) cv l p) level paths a n := by
  have hspace (q : Place) : (closed (u.setCur { u.cur with turns := u.cur.turns ++ [newTurn u level paths a n ready] }) cv l p).spaceAt q = u.spaceAt q := by
    rw [closed_spaceAt, onlyFocus_spaceAt (onlyFocus_setCur _ _)]
  refine ⟨newTurn u level paths a n ready, ?_, rfl, rfl, rfl, newTurn_count .., rfl, rfl, hexch, ?_, fun q b => ?_, fun q => ?_⟩
  · simp [hcur, f.turns]
  · exact keepsRegs_closed f (by simp [hcur]) (by simp [hcur]) (by simp [hcur]) (by simp [hcur]) _ _ _
  · rw [hspace, (hfacing q).1]
  · rw [hspace]
    exact (hfacing q).2

theorem turn_added (h : Issues i s v s1) (hcur : u.cur = s1.cur) (hexch : u.exchange = s.exchange) (hfacing : SameFacing s u) {level a n : Nat}
    (paths : BitVec 4) (hroom : s.cur.turns.length < 4) (hregion : u.checkRegion a n level = .ok ()) {body : Nat → Body}
    (hbody : body s.cur.pc s1 = u.queueTurn level paths a n) : ∃ t, issue i s body = .next t ∧ TurnAdded s t level paths a n := by
  obtain ⟨htaken, hgoes⟩ := h
  have f := taken_fronted htaken
  obtain ⟨ready, hqueue⟩ := queueTurn_room paths (by rw [hcur, f.turns]; exact hroom) hregion
  obtain ⟨cv, hissue⟩ := completes_on htaken hgoes (hbody.trans hqueue) (by simp [hcur]) (by simp [hcur])
  exact ⟨_, hissue, turnAdded_closed f hcur hexch hfacing level paths a n ready _ _ _⟩

theorem sameFacing_fronted (f : Fronted s v s1) : SameFacing s s1 := fun p => by simp [f.spaceAt]

theorem SameFacing.trans {t : State} (h : SameFacing s t) (g : SameFacing t u) : SameFacing s u := fun p =>
  ⟨(g p).1.trans (h p).1, (g p).2.1.trans (h p).2.1, (g p).2.2.trans (h p).2.2⟩

/-- Using a layout entry counts what it corrects, and changes nothing else of a memory (R142). -/
theorem useEntry_sameFacing (s : State) (core n : Nat) : SameFacing s (s.useEntry core n).2 := by
  have hcount (m : Space) (ws : List Nat) : (m.countRead ws).bytes = m.bytes ∧ (m.countRead ws).out = m.out ∧ (m.countRead ws).pend = m.pend := by
    unfold Space.countRead
    split
    · exact ⟨rfl, rfl, rfl⟩
    · exact ⟨rfl, rfl, rfl⟩
  have hcached : SameFacing s (s.modCore core fun k =>
      { k with lcache := k.lcache.put (n % 64) n, loc := k.loc.countRead (wordsOf (s.lr.ltbase + 256 * n) 256) }) := fun p => by
    cases p with
    | loc c =>
      by_cases hc : c = core
      · subst hc
        rw [show ((s.modCore c _).spaceAt (.loc c)) = _ from congrArg Core.loc (core_modCore_self s c _)]
        exact hcount _ _
      · rw [show ((s.modCore core _).spaceAt (.loc c)) = _ from congrArg Core.loc (core_modCore_ne s _ hc)]
        exact ⟨rfl, rfl, rfl⟩
    | _ => exact ⟨rfl, rfl, rfl⟩
  unfold State.useEntry
  dsimp only
  split
  · exact hcached
  · exact hcached.trans fun p => by cases p <;> exact ⟨rfl, rfl, rfl⟩

theorem useEntry_exchange (s : State) (core n : Nat) : (s.useEntry core n).2.exchange = s.exchange := by
  unfold State.useEntry
  dsimp only
  split
  · rfl
  · rfl

end turns

/-- Settles O27: TURN and TURNT in the same way, TURNT from the state that its layout entry leaves. -/
theorem turnarounds : Obligations.Turnarounds := by
  intro lvl paths a b s s1 v
  refine ⟨fun h hroom hregion => ?_, fun l s2 wm h hroom hentry huse hbad hwidth hregion => ?_, fun h hnone => ?_⟩
  · have f := taken_fronted h.1
    rw [← f.reg a, ← f.reg b] at hregion ⊢
    exact turn_added h rfl f.exchange (sameFacing_fronted f) paths hroom hregion (body := fun _ s => s.queueTurn lvl.toNat paths (s.reg a).toNat (s.reg b).toNat) rfl
  · have f := taken_fronted h.1
    have hs2 : (s1.useEntry s.focusCore (s.reg a).toNat).2 = s2 := congrArg Prod.snd huse
    have hcur : s2.cur = s1.cur := by
      rw [← hs2, ← f.focusCore]
      exact (useEntry_sameEngine s1 _).1
    have hfacing : SameFacing s s2 := (sameFacing_fronted f).trans (hs2 ▸ useEntry_sameFacing s1 _ _)
    have hexch : s2.exchange = s.exchange := (hs2 ▸ useEntry_exchange s1 _ _ : s2.exchange = s1.exchange).trans f.exchange
    refine turn_added h hcur hexch hfacing paths hroom hregion (body := fun _ s => s.turnt lvl paths a) ?_
    rw [State.turnt]
    dsimp only
    rw [f.reg, f.focusCore, hentry, huse]
    change (match lteWidth (lteFmt l) with | none => _ | some wm => _) = _
    rw [hwidth]
    dsimp only
    rw [hbad]
    rfl
  · have f := taken_fronted h.1
    have hbody : (if s1.cur.turns.isEmpty then (.ok s1 : Except Stop State) else .error .event) = .ok s1 := if_pos (by rw [f.turns, hnone]; rfl)
    obtain ⟨cv, hissue⟩ := completes_on h.1 h.2 (body := fun _ s => if s.cur.turns.isEmpty then .ok s else .error .event) hbody rfl rfl
    refine ⟨_, hissue, by rw [closed_rest, f.rest], keepsRegs_closed f rfl rfl rfl rfl _ _ _, by simp [nextPc], onlyFocus_closed f.only _ _ _⟩

end Sys2Proof.Proofs
end

section
/-! Reads of the own scratchpad (R127, R164, R167) that pass their checks, and the loads LD, LDN and LDO (R131, R132). -/

namespace Sys2Proof.Proofs

open Sys2Proof Sys2Proof.Machine Sys2Proof.Safety Sys2Proof.Claims Sys2Proof.Laws

section reads
variable {s s1 : State} {v : Cv} {a n : Nat}

theorem failIf_false {b : Bool} (h : b = false) (e : Exc) : failIf b e = .ok () := if_neg (by simp [h])

theorem failIf_true {b : Bool} (h : b = true) (e : Exc) : failIf b e = .error (.fault e) := if_pos h

/-! ## The checks before an access (R127) -/

theorem checkPlace_ok (hn : 0 < n) (h : InPlace s a n) (core : Nat) : s.checkPlace core a n = .ok () := by
  obtain ⟨hend, hsync, hpool, -⟩ := h
  have hlocal : (decide (2 ^ 23 < a % 2 ^ 64 + n) || decide (a ≠ a % 2 ^ 23)) = false := by
    simp only [Bool.or_eq_false_iff, decide_eq_false_iff_not]
    omega
  rw [State.checkPlace, failIf_false hlocal, hsync, hpool]
  rfl

theorem drainBefore_idle {k : Core} (hqueue : k.me.queue = []) (hrun : k.me.running = []) (u : TurnRec) (sec : Nat) : k.drainBefore u sec = false := by
  rw [Core.drainBefore, hqueue, hrun]
  rfl

/-- No turnaround of the context in focus will flip a sector that is IN, when no drain comes before it. -/
theorem willFlip_in {sec : Nat} (hturns : s.cur.turns = [] ∨ engineIdle s) (hin : s.curCore.loc.isOut sec = false) :
    s.willFlip s.focusCore s.focusCtx sec = false := by
  refine List.any_eq_false.mpr fun u hu => ?_
  have hidle : engineIdle s := hturns.resolve_left fun h => by
    change u ∈ s.cur.turns at hu
    rw [h] at hu
    cases hu
  have hdrain : (s.focusCtx == s.lr.meown && s.curCore.drainBefore u sec) = false := by
    rcases hidle with hctx | ⟨hqueue, hrun⟩
    · simp [hctx]
    · simp [drainBefore_idle hqueue hrun]
  have howes : s.owesFlip s.focusCore s.focusCtx sec u
    = (u.pendingOn sec && !u.exch && (s.curCore.loc.isOut sec || (s.focusCtx == s.lr.meown && s.curCore.drainBefore u sec))) := rfl
  simp [howes, hin, hdrain]

theorem checkTurned_ok (hturns : s.cur.turns = [] ∨ engineIdle s) (hin : ∀ sec, sec ∈ sectorsOf a n → s.curCore.loc.isOut sec = false) :
    s.checkTurned s.focusCore s.focusCtx a n = .ok () := by
  refine if_neg fun h => ?_
  have hany := (Bool.and_eq_true_iff.mp h).2
  obtain ⟨sec, hsec, hflip⟩ := List.any_eq_true.mp hany
  rw [willFlip_in hturns (hin sec hsec)] at hflip
  simp at hflip

theorem facingFails_none (hin : ∀ sec, sec ∈ sectorsOf a n → s.curCore.loc.isOut sec = false) (t : Nat) : s.facingFails s.focusCore a n t = none := by
  refine List.find?_eq_none.mpr fun sec hsec => ?_
  have hisin : s.isInAt s.focusCore sec t = true := by
    have : s.curCore.loc.isIn sec t = true := by rw [Space.isIn, hin sec hsec]; rfl
    exact Bool.or_eq_true_iff.mpr (Or.inl this)
  simp [hisin]

theorem raceLocal_off (h : s.lr.racem = 0) (core sec head : Nat) (g : Shadow) (w : Bool) : s.raceLocal core sec head g w = .ok s :=
  if_pos (by simp [h])

theorem raceSectors_off (h : s.lr.racem = 0) (core head : Nat) (g : Shadow) (w : Bool) (l : List Nat) : s.raceSectors core head g w l = .ok s :=
  foldlM_stays l fun _ _ => raceLocal_off h ..

/-- A machine with the core in focus put back as it is. -/
def putBack (s : State) : State := s.setCore s.focusCore s.curCore

theorem cur_putBack (s : State) : (putBack s).cur = s.cur := cur_modCurCore (f := id) rfl

theorem spaceAt_putBack (s : State) (p : Place) : (putBack s).spaceAt p = s.spaceAt p := spaceAt_modCurCore (f := id) rfl p

theorem readLocal_fresh {core : Nat} (hhist : (s.core core).loc.hist = []) (hsyn : (s.core core).loc.syn = []) (p : Path) (t : Nat) :
    s.readLocal core p a n t = ((s.core core).loc.bytes.bits a n, s.setCore core (s.core core)) :=
  congrArg (fun r : Nat × Space × Nat => (r.1, { s.modCore core (fun k => { k with loc := r.2.1 }) with free := r.2.2 }))
    (readVia_fresh hhist hsyn p 0 t (s.flipOf core t) a n s.free)

theorem scalarRead_ok (hmis : misaligned a n = false) (hn : 0 < n) (h : Readable s a n) :
    s.scalarRead a n = .ok (s.curCore.loc.bytes.bits a n, putBack s) := by
  obtain ⟨hplace, hsyn, hhist, hturns, -, hin⟩ := h
  rw [State.scalarRead, failIf_false hmis, checkPlace_ok hn hplace, checkTurned_ok hturns hin, facingFails_none hin, anyBad_clean hsyn,
    raceSectors_off hplace.2.2.2]
  exact congrArg Except.ok (readLocal_fresh hhist hsyn .s (s.now + 1))

/-! ## What taking up a word leaves of those conditions -/

theorem inPlace_fronted (f : Fronted s v s1) (h : InPlace s a n) : InPlace s1 a n := by
  obtain ⟨hend, hsync, hpool, hrace⟩ := h
  rw [InPlace, State.touchesSync, State.touchesPool]
  have hinPool (b : Nat) : s1.inPool b = s.inPool b := by rw [State.inPool, f.lr]; rfl
  have hisSync (sec : Nat) : s1.isSync sec = s.isSync sec := by rw [State.isSync, State.localSync, f.lr]; rfl
  rw [hinPool, hinPool, f.lr]
  refine ⟨hend, ?_, hpool, hrace⟩
  rw [show s1.isSync = s.isSync from funext hisSync]
  exact hsync

theorem engineIdle_fronted (f : Fronted s v s1) (h : engineIdle s) : engineIdle s1 := by
  rw [engineIdle, f.focusCtx, f.lr, f.me]
  exact h

theorem banksFree_fronted (f : Fronted s v s1) (h : BanksFree s) : BanksFree s1 := by
  rw [BanksFree, Core.quiet, f.core (·.banks) fun _ _ _ => rfl, f.now]
  exact h

theorem readable_fronted (f : Fronted s v s1) (h : Readable s a n) : Readable s1 a n := by
  obtain ⟨hplace, hsyn, hhist, hturns, hbanks, hin⟩ := h
  rw [Readable, f.loc, f.turns]
  exact ⟨inPlace_fronted f hplace, hsyn, hhist, hturns.imp_right (engineIdle_fronted f), banksFree_fronted f hbanks, hin⟩

/-! ## Loads (R131, R132) -/

/-- A reservation of bank cycles changes no context and no memory. -/
theorem claim_ok (s : State) (us : List BankUse) : ∃ t, s.claim s.focusCore us = .ok t ∧ t.cur = s.cur ∧ (∀ p, t.spaceAt p = s.spaceAt p)
    ∧ t.focusCore = s.focusCore := by
  unfold State.claim
  split
  · exact ⟨s, rfl, rfl, fun _ => rfl, rfl⟩
  · exact ⟨s.modCurCore fun k => { k with banks := k.held s.now ++ us }, rfl, cur_modCurCore rfl, spaceAt_modCurCore rfl, rfl⟩

/-- The body of a load of n bits at an address that registers give. -/
def loadBody (sign : Bool) (d : Reg) (addr : State → Nat) (n : Nat) (s : State) : Except Stop State := do
  let (x, s) ← s.scalarRead (addr s) n
  s.loadInto d sign x (addr s) n

theorem loadBody_ok (d : Reg) (sign : Bool) {addr : State → Nat} (haddr : addr s = a) (hmis : misaligned a n = false) (hn : 0 < n) (h : Readable s a n) :
    ∃ t, loadBody sign d addr n s = .ok t ∧ t.cur = ((putBack s).result d (extendWord sign n (s.curCore.loc.bytes.bits a n)) 4 0 true).cur
      ∧ ∀ p, t.spaceAt p = s.spaceAt p := by
  have hbody : loadBody sign d addr n s = (putBack s).loadInto d sign (s.curCore.loc.bytes.bits a n) (addr (putBack s)) n := by
    rw [loadBody, haddr, scalarRead_ok hmis hn h]
    rfl
  obtain ⟨t, ht, hcur, hspace, -⟩ := claim_ok ((putBack s).result d (extendWord sign n (s.curCore.loc.bytes.bits a n)) 4 0 true)
    ((sectorsOf (addr (putBack s)) n).map fun sec => (putBack s).use sec ((putBack s).now + 1) 1 false [(addr (putBack s), n)]
      (.lands (physReg (putBack s).cur.wb d.toNat) ((putBack s).now + 4) (some sign)))
  refine ⟨t, hbody.trans ht, hcur, fun p => ?_⟩
  rw [hspace, State.result, onlyFocus_spaceAt (onlyFocus_setCur _ _), spaceAt_putBack]

theorem load_lands {i : Instr} (h : Issues i s v s1) (hmis : misaligned a n = false) (hn : 0 < n) (hread : Readable s a n) (d : Reg) (sign : Bool)
    {addr : State → Nat} (haddr : addr s1 = a) : ∃ t, (issue i s fun _ s => loadBody sign d addr n s) = .next t
      ∧ t.cur.land = s.cur.land ++ (if d = 0 then [] else
          [{ cycle := s.now + 4, reg := physReg s.cur.wb d.toNat, val := extendWord sign n (s.curCore.loc.bytes.bits a n), load := true
             inSpan := s.cur.span.isSome }])
      ∧ t.cur.regs = s.cur.regs ∧ t.cur.flg = s.cur.flg ∧ t.cur.pc = nextPc s v ∧ SameMemory s t := by
  obtain ⟨htaken, hgoes⟩ := h
  have f := taken_fronted htaken
  obtain ⟨u, hload, hcur, hspace⟩ := loadBody_ok d sign haddr hmis hn (readable_fronted f hread)
  rw [result_late _ _ _ (by omega), cur_setCur, cur_putBack] at hcur
  obtain ⟨cv, hissue⟩ := completes_on htaken hgoes (body := fun _ s => loadBody sign d addr n s) hload (by rw [hcur]) (by rw [hcur])
  refine ⟨_, hissue, ?_, ?_, ?_, by rw [cur_closed]; rfl, fun p q => by rw [closed_spaceAt, hspace, f.spaceAt]⟩
  · rw [cur_closed]
    change u.cur.land = _
    rw [hcur, show (putBack s1).now = s.now from f.now, f.land, f.wb, f.span, f.loc]
  · rw [cur_closed]
    change u.cur.regs = _
    rw [hcur]
    exact f.regs
  · rw [cur_closed]
    change u.cur.flg = _
    rw [hcur]
    exact f.flg

/-- A word whose body faults ends the slice of a compute core with a record of the cause and the address. -/
theorem body_fault_tells {i : Instr} {body : Nat → Body} {r : SliceRun} {e : Exc} (h : Taken i s v s1) (hb : body s.cur.pc s1 = .error (.fault e))
    (hc : s.focusCore < 1024) (hs : s.slice = some r) (ho : e.origin = none) :
    ∃ t x, issue i s body = .next t ∧ t.slice = none ∧ t.disp.waitRecs = s.disp.waitRecs ++ [x] ∧ x.cause = e.cause ∧ x.rkind = 1 ∧ x.addr = e.addr := by
  obtain ⟨hfetch, hfront, hfail⟩ := h
  have hi : issue i s body = .next (s.raiseFault (s.stopOrigin v.n v.idx) e) := by simp [issue, hfetch, hfront, hfail, hb, State.stopWith]
  have hcore : (e.origin.getD (s.stopOrigin v.n v.idx)).core < 1024 := by
    rw [ho]
    exact hc
  obtain ⟨x, hnone, hrecs, hcause, hkind, -, -, -, haddr, -⟩ := raiseFault_tells hcore hs
  exact ⟨_, x, hi, hnone, hrecs, hcause, hkind, haddr⟩

theorem exec_ld (d a b : Reg) (w : BitVec 4) (s : State) :
    exec (.ld d a b w) s = issue (.ld d a b w) s fun _ s => loadBody true d (·.indexed a b) (widthOf w) s := rfl

theorem exec_ldn (d a b : Reg) (w : BitVec 4) (s : State) :
    exec (.ldn d a b w) s = issue (.ldn d a b w) s fun _ s => loadBody false d (·.indexed a b) (widthOf w) s := rfl

theorem exec_ldo (d a : Reg) (k : BitVec 11) (s : State) :
    exec (.ldo d a k) s = issue (.ldo d a k) s fun _ s => loadBody false d (·.offsetAddr a k) 64 s := rfl

theorem offsetAddr_eq (s : State) (a : Reg) (k : BitVec 11) : s.offsetAddr a k = (s.reg a + BitVec.ofInt 64 (k.toInt * 64)).toNat := by
  rw [State.offsetAddr, show k.signExtend 64 * 64 = BitVec.ofInt 64 (k.toInt * 64) by
    rw [BitVec.ofInt_mul, BitVec.signExtend]
    rfl]

theorem widthOf_pos (w : BitVec 4) : 0 < widthOf w := by
  revert w
  decide

theorem misaligned_iff : misaligned a n = true ↔ 64 < a % 64 + n ∨ (8 ≤ n ∧ a % n ≠ 0) := by simp [misaligned]

end reads

/-- Settles O19: every load reads its bits and sends them off in one way. -/
theorem scalarLoads : Obligations.ScalarLoads := by
  intro s s1 v d a b w k
  have hindexed (f : Fronted s v s1) : s1.indexed a b = (s.reg a + s.reg b).toNat := by rw [State.indexed, f.reg, f.reg]
  have hoffset (f : Fronted s v s1) : s1.offsetAddr a k = (s.reg a + BitVec.ofInt 64 (k.toInt * 64)).toNat := by rw [offsetAddr_eq, f.reg]
  refine ⟨fun h hmis hread => ?_, fun h hmis hread => ?_, fun h hmis hread => ?_, fun r h hcore hslice hmis => ?_⟩
  · rw [exec_ld]
    exact load_lands h hmis (widthOf_pos w) hread d true (hindexed (taken_fronted h.1))
  · rw [exec_ldn]
    exact load_lands h hmis (widthOf_pos w) hread d false (hindexed (taken_fronted h.1))
  · rw [exec_ldo]
    exact load_lands h hmis (by decide) hread d false (hoffset (taken_fronted h.1))
  · have hbody : loadBody true d (·.indexed a b) (widthOf w) s1 = .error (.fault (Exc.alignment (s.reg a + s.reg b).toNat (widthOf w))) := by
      rw [loadBody, hindexed (taken_fronted h), State.scalarRead, failIf_true (misaligned_iff.mpr hmis)]
      rfl
    rw [exec_ld]
    exact body_fault_tells h (body := fun _ s => loadBody true d (·.indexed a b) (widthOf w) s) hbody hcore hslice rfl

end Sys2Proof.Proofs
end

section
/-! Writes of the own scratchpad (R127, R128, R163) that pass their checks and wait for nothing: ST, STO and LTSET (R131, R132, R141). -/

namespace Sys2Proof.Proofs

open Sys2Proof Sys2Proof.Machine Sys2Proof.Safety Sys2Proof.Claims Sys2Proof.Laws

section writes
variable {s s1 : State} {v : Cv} {a n : Nat}

/-! ## Where no bank is held, a write is the last of its sectors (R130) -/

theorem settleAll_quiet {k : Core} {now : Nat} (h : k.quiet now = true) (secs : List Nat) : k.settleAll now secs = k := by
  have hnone : secs.filter (k.writesDue now) = [] := by
    refine List.filter_eq_nil_iff.mpr fun sec _ hdue => ?_
    obtain ⟨u, hu, hlate⟩ := List.any_eq_true.mp hdue
    have hstop : u.cycle + u.hold ≤ now := of_decide_eq_true (List.all_eq_true.mp h u hu)
    simp at hlate
    omega
  rw [Core.settleAll, hnone]
  rfl

theorem syn_goOutAts (now : Nat) (p : Nat → Patch) (l : List Nat) : ∀ m : Space, (l.foldl (fun m sec => m.goOutAt now (p sec) sec) m).syn = m.syn :=
  foldl_keeps (g := Space.syn) (f := fun m sec => m.goOutAt now (p sec) sec) (fun _ _ => rfl) l

theorem bytes_goOutAts (now : Nat) (p : Nat → Patch) (l : List Nat) : ∀ m : Space, (l.foldl (fun m sec => m.goOutAt now (p sec) sec) m).bytes = m.bytes :=
  foldl_keeps (g := Space.bytes) (f := fun m sec => m.goOutAt now (p sec) sec) (fun _ _ => rfl) l

theorem isOut_goOutAts (now : Nat) (p : Nat → Patch) (sec : Nat) (l : List Nat) : ∀ m : Space,
    (l.foldl (fun m sec => m.goOutAt now (p sec) sec) m).isOut sec = (l.contains sec || m.isOut sec) := by
  induction l with
  | nil => exact fun _ => rfl
  | cons x r ih =>
    intro m
    have hadd : (m.goOutAt now (p x) x).isOut sec = (sec == x || m.isOut sec) := contains_add _ _ _
    rw [List.foldl_cons, ih, hadd, List.contains_cons]
    cases r.contains sec <;> cases sec == x <;> rfl

/-- The scratchpad after a write that is the last of its sectors. -/
def wroteLast (s : State) (t a n x : Nat) : Space :=
  { (((sectorsOf a n).filter fun sec => !s.isSync sec && !s.inPool (512 * sec)).foldl
      (fun m sec => m.goOutAt s.now (patchOf s.focusCtx s.now t a n x sec) sec) s.curCore.loc) with bytes := s.curCore.loc.bytes.setBits a n x }

theorem isOut_wroteLast {sec : Nat} (hsec : sec ∈ sectorsOf a n) (hsync : s.isSync sec = false) (hpool : s.inPool (512 * sec) = false) (t x : Nat) :
    (wroteLast s t a n x).isOut sec = true := by
  have hin : sec ∈ (sectorsOf a n).filter fun sec => !s.isSync sec && !s.inPool (512 * sec) := List.mem_filter.mpr ⟨hsec, by simp [hsync, hpool]⟩
  refine (isOut_goOutAts s.now (patchOf s.focusCtx s.now t a n x) sec _ s.curCore.loc).trans ?_
  rw [List.contains_iff_mem.mpr hin]
  rfl

theorem storeFrom_quiet (hsyn : s.curCore.loc.syn = []) (hquiet : BanksFree s) (t a n x : Nat) :
    (s.storeFrom t s.focusCore a n x).cur = s.cur ∧ (s.storeFrom t s.focusCore a n x).curCore.loc = wroteLast s t a n x
      ∧ (∀ p, p ≠ .loc s.focusCore → (s.storeFrom t s.focusCore a n x).spaceAt p = s.spaceAt p) := by
  have hstore : s.storeFrom t s.focusCore a n x = s.modCurCore fun k => { k with
      loc := wroteLast s t a n x, stale := (s.staleEntries s.focusCore a n).foldl keepStale k.stale } := by
    unfold State.storeFrom State.storeWith
    dsimp only
    have hloc : (((sectorsOf a n).filter fun sec => !s.isSync sec && !s.inPool (512 * sec)).foldl
        (fun m sec => m.goOutAt s.now (patchOf s.focusCtx s.now t a n x sec) sec) s.curCore.loc).writeRaw a n x = wroteLast s t a n x := by
      rw [writeRaw_clean ((syn_goOutAts _ _ _ _).trans hsyn), bytes_goOutAts]
      rfl
    refine congrArg (s.setCore s.focusCore) ((settleAll_quiet ?_ _).trans ?_)
    · exact hquiet
    · exact congrArg (fun m : Space => { s.curCore with loc := m, stale := (s.staleEntries s.focusCore a n).foldl keepStale s.curCore.stale }) hloc
  rw [hstore]
  refine ⟨cur_modCurCore rfl, congrArg Core.loc (curCore_modCurCore _ _), fun p hp => ?_⟩
  cases p with
  | loc c => exact congrArg Core.loc (core_setCore_ne s _ fun h => hp (congrArg Place.loc h))
  | _ => rfl

/-! ## The checks before a write (R127, R128, R163, R224) -/

theorem forM_ok {α : Type} {f : α → Except Stop Unit} {l : List α} (h : ∀ x, x ∈ l → f x = .ok ()) : l.forM f = .ok () := by
  induction l with
  | nil => rfl
  | cons x r ih =>
    change (f x >>= fun _ => r.forM f) = _
    rw [h x List.mem_cons_self]
    exact ih fun y hy => h y (List.mem_cons_of_mem _ hy)

theorem checkHold_ok (hturns : s.cur.turns = []) (hidle : engineIdle s) (sec t : Nat) : s.checkHold s.focusCore s.focusCtx sec t = .ok () := by
  have hearly : s.comesEarly s.focusCore s.focusCtx sec t = false := by
    unfold State.comesEarly
    change ((s.cur.turns.any _) || _) = false
    rw [hturns]
    rcases hidle with hctx | ⟨hqueue, hrun⟩
    · simp [hctx]
    · change (false || (_ && (s.curCore.me.queue.any _ || s.curCore.me.running.any _ || s.curCore.commandReads sec t))) = false
      rw [Core.commandReads, hqueue, hrun]
      simp
  have hwaits : (s.cur.turns.any (·.holds sec) || (s.focusCtx == s.lr.meown && (s.curCore.drainPending sec || s.curCore.commandReads sec 0))) = false := by
    rw [hturns]
    rcases hidle with hctx | ⟨hqueue, hrun⟩
    · simp [hctx]
    · rw [Core.commandReads, Core.drainPending, hqueue, hrun]
      simp
  unfold State.checkHold
  dsimp only
  split
  · exact failIf_false hearly _
  · exact if_neg (Bool.eq_false_iff.mp hwaits)

theorem checkWrite_ok (hn : 0 < n) (h : Writable s a n) (t : Nat) (whole : Nat → Bool) : s.checkWrite s.focusCore s.focusCtx a n t whole = .ok () := by
  obtain ⟨hplace, hsyn, hturns, hidle, -⟩ := h
  have hwords : (partialWords a n).find? (fun w => s.curCore.loc.bad w && !whole w) = none :=
    List.find?_eq_none.mpr fun w _ => by simp [bad_clean hsyn]
  rw [State.checkWrite, checkPlace_ok hn hplace, forM_ok fun sec _ => checkHold_ok hturns hidle sec t]
  change (match (partialWords a n).find? (fun w => s.curCore.loc.bad w && !whole w) with
    | some w => fail (Exc.poison (64 * w)) | none => .ok ()) = (.ok () : Except Stop Unit)
  rw [hwords]

theorem writable_fronted (f : Fronted s v s1) (h : Writable s a n) : Writable s1 a n := by
  obtain ⟨hplace, hsyn, hturns, hidle, hbanks⟩ := h
  rw [Writable, f.loc, f.turns]
  exact ⟨inPlace_fronted f hplace, hsyn, hturns, engineIdle_fronted f hidle, banksFree_fronted f hbanks⟩

/-! ## Stores -/

/-- A write that the context in focus notes and for which it reserves its bank cycles. -/
def noted (s : State) (wr : List (Nat × Nat)) : State := s.modCur fun c => c.noteWrites s.now wr

theorem noted_writes (hsyn : s.curCore.loc.syn = []) (hquiet : BanksFree s) (wr : List (Nat × Nat)) (t a n x : Nat) (us : List BankUse) :
    ∃ u, ((noted s wr).storeFrom t s.focusCore a n x).claim s.focusCore us = .ok u ∧ u.cur = s.cur.noteWrites s.now wr
      ∧ u.curCore.loc = wroteLast s t a n x ∧ ∀ p, p ≠ .loc s.focusCore → u.spaceAt p = s.spaceAt p := by
  have hloc : (noted s wr).curCore.loc = s.curCore.loc := by
    rw [noted, State.modCur, curCore_setCur]
    rfl
  have hbanks : BanksFree (noted s wr) := by
    rw [BanksFree, noted, State.modCur, curCore_setCur]
    exact hquiet
  obtain ⟨hcur, hwrote, hother⟩ := storeFrom_quiet (s := noted s wr) (by rw [hloc, hsyn]) hbanks t a n x
  obtain ⟨u, hu, hucur, hspace, hfocus⟩ := claim_ok ((noted s wr).storeFrom t (noted s wr).focusCore a n x) us
  have hlast : wroteLast (noted s wr) t a n x = wroteLast s t a n x := by
    unfold wroteLast
    rw [hloc]
    rfl
  refine ⟨u, hu, hucur.trans (hcur.trans (cur_setCur _ _)), ?_, fun p hp => ?_⟩
  · rw [← hlast, ← hwrote]
    exact (congrArg (fun c => u.spaceAt (.loc c)) hfocus).trans (hspace _)
  · rw [hspace]
    exact (hother p hp).trans (onlyFocus_spaceAt (onlyFocus_setCur _ _) p)

theorem word_stores {i : Instr} {x : Nat} (h : Issues i s v s1) (hwrite : Writable s a n) {body : Nat → Body}
    (hbody : ∃ wr t us, body s.cur.pc s1 = ((noted s1 wr).storeFrom t s1.focusCore a n (x % 2 ^ n)).claim s1.focusCore us) :
    ∃ t, issue i s body = .next t ∧ Stored s t a n x ∧ KeepsRegs s t ∧ t.cur.pc = nextPc s v := by
  obtain ⟨htaken, hgoes⟩ := h
  have f := taken_fronted htaken
  obtain ⟨hplace, hsyn, -, -, hbanks⟩ := writable_fronted f hwrite
  obtain ⟨wr, t, us, hbody⟩ := hbody
  obtain ⟨u, hu, hcur, hloc, hother⟩ := noted_writes hsyn hbanks wr t a n (x % 2 ^ n) us
  obtain ⟨cv, hissue⟩ := completes_on htaken hgoes (hbody.trans hu) (by rw [hcur]; rfl) (by rw [hcur]; rfl)
  have hown : (closed u cv (following s v s.cur.loops (s.cur.pc + 32)).1 (following s v s.cur.loops (s.cur.pc + 32)).2).curCore.loc
      = wroteLast s1 t a n (x % 2 ^ n) := (congrArg Core.loc (closed_curCore _ _ _ _)).trans hloc
  have hbytes := congrArg Space.bytes hown
  refine ⟨_, hissue, ⟨?_, fun q hq => ?_, fun c hc => ?_, fun p hp => ?_, fun sec hsec hsync hpool => ?_⟩, ?_, by rw [cur_closed]; rfl⟩
  · rw [hbytes, wroteLast, bits_setBits]
    exact Nat.mod_mod _ _
  · rw [hbytes, ← f.loc]
    exact bit_setBits_out _ _ _ _ _ hq
  · rw [hbytes, ← f.loc]
    exact byte_setBits_out _ _ _ _ _ hc
  · rw [closed_spaceAt, hother p (f.focusCore ▸ hp), f.spaceAt]
  · rw [hown]
    refine isOut_wroteLast hsec ?_ ?_ _ _
    · rw [State.isSync, State.localSync, f.lr]
      exact hsync
    · rw [State.inPool, f.lr]
      exact hpool
  · exact keepsRegs_closed f (by rw [hcur]; rfl) (by rw [hcur]; rfl) (by rw [hcur]; rfl) (by rw [hcur]; rfl) _ _ _

/-- A word writes its n bits in its own way once it has passed the checks. -/
theorem scalarWrite_body (hmis : misaligned a n = false) (hn : 0 < n) (h : Writable s a n) (x : Nat) :
    ∃ wr t us, s.scalarWrite a n x = ((noted s wr).storeFrom t s.focusCore a n (x % 2 ^ n)).claim s.focusCore us := by
  have hrace : s.lr.racem = 0 := h.1.2.2.2
  rw [State.scalarWrite, failIf_false hmis, checkWrite_ok hn h, raceSectors_off hrace]
  exact ⟨_, _, _, rfl⟩

/-- A word writes an entry of the layout table in its own way once it has passed the checks (R141). -/
theorem ltset_body {d r : Reg} (h : Writable s (s.lr.ltbase + 256 * (s.reg d).toNat) 256) : ∃ wr t us,
    s.ltset d r = ((noted s wr).storeFrom t s.focusCore (s.lr.ltbase + 256 * (s.reg d).toNat) 256 ((s.regs4 r).toNat % 2 ^ 256)).claim s.focusCore us := by
  have hrace : s.lr.racem = 0 := h.1.2.2.2
  have hwhole : (s.regs4 r).toNat % 2 ^ 256 = (s.regs4 r).toNat := Nat.mod_eq_of_lt (s.regs4 r).isLt
  rw [State.ltset]
  dsimp only
  rw [checkWrite_ok (by omega) h, raceSectors_off hrace, hwhole]
  exact ⟨_, _, _, rfl⟩

end writes

/-- Settles O20: both words store in one way. -/
theorem scalarStores : Obligations.ScalarStores := by
  intro s s1 v d a b w k
  refine ⟨fun h hmis hwrite => ?_, fun h hmis hwrite => ?_⟩
  · have f := taken_fronted h.1
    have haddr : s1.indexed a b = (s.reg a + s.reg b).toNat := by rw [State.indexed, f.reg, f.reg]
    refine word_stores h hwrite (body := fun _ s => s.scalarWrite (s.indexed a b) (widthOf w) (s.reg d).toNat) ?_
    rw [haddr, f.reg]
    exact scalarWrite_body hmis (widthOf_pos w) (writable_fronted f hwrite) _
  · have f := taken_fronted h.1
    have haddr : s1.offsetAddr a k = (s.reg a + BitVec.ofInt 64 (k.toInt * 64)).toNat := by rw [offsetAddr_eq, f.reg]
    refine word_stores h hwrite (body := fun _ s => s.scalarWrite (s.offsetAddr a k) 64 (s.reg d).toNat) ?_
    rw [haddr, f.reg]
    exact scalarWrite_body hmis (by decide) (writable_fronted f hwrite) _

end Sys2Proof.Proofs
end

section
/-! The words of the layout table: LTSET, LTGET and LFENCE (R141, R142). -/

namespace Sys2Proof.Proofs

open Sys2Proof Sys2Proof.Machine Sys2Proof.Safety Sys2Proof.Claims Sys2Proof.Laws

section table
variable {s s1 : State} {v : Cv} {d a : Reg}

/-! ## LTGET -/

theorem checkEntry_ok {core : Nat} (hsyn : (s.core core).loc.syn = []) (n : Nat) : s.checkEntry core n = .ok () := by
  rw [State.checkEntry, anyBad_clean hsyn]

/-- A core with an index in its layout cache. -/
def cached (k : Core) (n : Nat) : Core := { k with lcache := k.lcache.put (n % 64) n }

/-- An entry that no write has left in doubt reads as the table holds it (R142). -/
theorem useEntry_settled {core : Nat} (hsyn : (s.core core).loc.syn = []) (n : Nat) (hstale : SMap.get [] (s.core core).stale n = []) :
    s.useEntry core n = (BitVec.ofNat 256 ((s.core core).loc.bytes.bits (s.lr.ltbase + 256 * n) 256), s.setCore core (cached (s.core core) n)) := by
  have hcount (ws : List Nat) : ({ s.core core with lcache := (s.core core).lcache.put (n % 64) n, loc := (s.core core).loc.countRead ws } : Core)
      = cached (s.core core) n := by
    rw [countRead_clean hsyn]
    rfl
  rw [State.useEntry]
  dsimp only
  rw [hstale, readBits_clean hsyn]
  exact congrArg (fun k => (BitVec.ofNat 256 ((s.core core).loc.bytes.bits (s.lr.ltbase + 256 * n) 256), s.setCore core k)) (hcount _)

/-- The four quarters of an entry on their way to four registers. -/
def sendQuarters (s : State) (d : Reg) (l : BitVec 256) (lat : Nat) : State :=
  (rangeFrom 0 4).foldl (fun s k => s.result (regPlus d k) (l.extractLsb' (64 * k) 64) lat 0 true) s

/-- Results that land later join those on their way, and change no register, flag or window. -/
structure JoinsLand (s t : State) : Prop where
  land : ∃ l, t.cur.land = s.cur.land ++ l
  regs : t.cur.regs = s.cur.regs
  flg : t.cur.flg = s.cur.flg
  wb : t.cur.wb = s.cur.wb
  span : t.cur.span = s.cur.span
  loops : t.cur.loops = s.cur.loops
  pc : t.cur.pc = s.cur.pc
  now : t.now = s.now
  spaceAt : ∀ p, t.spaceAt p = s.spaceAt p

theorem JoinsLand.refl (s : State) : JoinsLand s s := ⟨⟨[], by simp⟩, rfl, rfl, rfl, rfl, rfl, rfl, rfl, fun _ => rfl⟩

theorem JoinsLand.trans {s t u : State} (h : JoinsLand s t) (g : JoinsLand t u) : JoinsLand s u where
  land := by
    obtain ⟨l, hl⟩ := h.land
    obtain ⟨m, hm⟩ := g.land
    exact ⟨l ++ m, by rw [hm, hl, List.append_assoc]⟩
  regs := g.regs.trans h.regs
  flg := g.flg.trans h.flg
  wb := g.wb.trans h.wb
  span := g.span.trans h.span
  loops := g.loops.trans h.loops
  pc := g.pc.trans h.pc
  now := g.now.trans h.now
  spaceAt p := (g.spaceAt p).trans (h.spaceAt p)

theorem joinsLand_result (s : State) (d : Reg) (x : Word) {n : Nat} (hn : 1 < n) : JoinsLand s (s.result d x n 0 true) := by
  rw [result_late _ _ _ hn]
  refine ⟨⟨_, by rw [cur_setCur]⟩, ?_, ?_, ?_, ?_, ?_, ?_, rfl, fun p => onlyFocus_spaceAt (onlyFocus_setCur _ _) p⟩ <;> rw [cur_setCur]

theorem joinsLand_results {lat : Nat} (hlat : 1 < lat) (d : Reg) (l : BitVec 256) (ks : List Nat) : ∀ s : State,
    JoinsLand s (ks.foldl (fun s k => s.result (regPlus d k) (l.extractLsb' (64 * k) 64) lat 0 true) s) := by
  induction ks with
  | nil => exact JoinsLand.refl
  | cons k r ih => exact fun s => (joinsLand_result s (regPlus d k) _ hlat).trans (ih _)

/-- A quarter of an entry as it goes to a register of its own. -/
def quarter (s : State) (d : Reg) (l : BitVec 256) (lat k : Nat) : Landing :=
  { cycle := s.now + lat, reg := physReg s.cur.wb (regPlus d k).toNat, load := true, inSpan := s.cur.span.isSome, val := l.extractLsb' (64 * k) 64 }

theorem quarter_lands {lat : Nat} (hlat : 1 < lat) (d : Reg) (l : BitVec 256) {k : Nat} (hd : regPlus d k ≠ 0) (ks : List Nat) : ∀ s : State, k ∈ ks →
    quarter s d l lat k ∈ (ks.foldl (fun s k => s.result (regPlus d k) (l.extractLsb' (64 * k) 64) lat 0 true) s).cur.land := by
  induction ks with
  | nil => exact fun _ h => nomatch h
  | cons j r ih =>
    intro s hk
    rcases List.mem_cons.mp hk with rfl | hr
    · obtain ⟨m, hm⟩ := (joinsLand_results hlat d l r (s.result (regPlus d k) (l.extractLsb' (64 * k) 64) lat 0 true)).land
      rw [List.foldl_cons, hm, result_late _ _ _ hlat, cur_setCur, if_neg hd]
      refine List.mem_append_left _ (List.mem_append_right _ ?_)
      exact List.mem_cons_self
    · have hjoin := joinsLand_result s (regPlus d j) (l.extractLsb' (64 * j) 64) hlat
      have hin := ih (s.result (regPlus d j) (l.extractLsb' (64 * j) 64) lat 0 true) hr
      rw [quarter, hjoin.now, hjoin.wb, hjoin.span] at hin
      exact hin

theorem bits_lt (m : Memory) (a n : Nat) : m.bits a n < 2 ^ n := Nat.mod_lt _ (Nat.two_pow_pos n)

theorem extract_quarter (x k : Nat) (h : x < 2 ^ 256) : (BitVec.ofNat 256 x).extractLsb' (64 * k) 64 = BitVec.ofNat 64 (x / 2 ^ (64 * k)) := by
  rw [BitVec.extractLsb', BitVec.toNat_ofNat, Nat.mod_eq_of_lt h, Nat.shiftRight_eq_div_pow]

theorem ltget_sends (h : Issues (.ltget d a) s v s1) (hsyn : s.curCore.loc.syn = []) (hstale : s.curCore.stale = []) :
    ∃ t, exec (.ltget d a) s = .next t ∧ t.cur.regs = s.cur.regs ∧ t.cur.flg = s.cur.flg ∧ SameMemory s t
      ∧ ∀ k, k < 4 → regPlus d k ≠ 0 →
        { cycle := s.now + (if SMap.get? s.curCore.lcache ((s.reg a).toNat % 64) = some (s.reg a).toNat then 3 else 9)
          reg := physReg s.cur.wb (regPlus d k).toNat, load := true, inSpan := s.cur.span.isSome
          val := BitVec.ofNat 64 (s.curCore.loc.bytes.bits (s.lr.ltbase + 256 * (s.reg a).toNat) 256 / 2 ^ (64 * k)) } ∈ t.cur.land := by
  obtain ⟨htaken, hgoes⟩ := h
  have f := taken_fronted htaken
  have hloc : (s1.core s1.focusCore).loc = s.curCore.loc := f.loc
  generalize hlat : (if SMap.get? s.curCore.lcache ((s.reg a).toNat % 64) = some (s.reg a).toNat then 3 else 9) = lat
  have hlate : 1 < lat := by
    rw [← hlat]
    split
    · omega
    · omega
  have hcached := f.core (·.lcache) fun _ _ _ => rfl
  have hbody : s1.ltget d a = .ok (sendQuarters (s1.setCore s1.focusCore (cached s1.curCore (s.reg a).toNat)) d
      (BitVec.ofNat 256 (s.curCore.loc.bytes.bits (s.lr.ltbase + 256 * (s.reg a).toNat) 256)) lat) := by
    have hhit : (if s1.curCore.lcHit (s.reg a).toNat then 3 else 9) = lat := by
      rw [← hlat, Core.lcHit, hcached]
      simp
    rw [State.ltget]
    dsimp only
    rw [f.reg, hhit, checkEntry_ok (by rw [hloc, hsyn]),
      useEntry_settled (by rw [hloc, hsyn]) _ (by rw [show (s1.core s1.focusCore).stale = [] from (f.core (·.stale) fun _ _ _ => rfl).trans hstale]; rfl),
      hloc, f.lr]
    rfl
  have hcur : (s1.setCore s1.focusCore (cached s1.curCore (s.reg a).toNat)).cur = s1.cur := cur_modCurCore (f := fun k => cached k _) rfl
  have hjoin : JoinsLand _ _ := joinsLand_results hlate d (BitVec.ofNat 256 (s.curCore.loc.bytes.bits (s.lr.ltbase + 256 * (s.reg a).toNat) 256))
    (rangeFrom 0 4) (s1.setCore s1.focusCore (cached s1.curCore (s.reg a).toNat))
  obtain ⟨cv, hissue⟩ := completes_on htaken hgoes (body := fun _ s => s.ltget d a) hbody (hjoin.loops.trans (congrArg Ctx.loops hcur))
    (hjoin.pc.trans (congrArg Ctx.pc hcur))
  refine ⟨_, hissue, ?_, ?_, fun p q => ?_, fun k hk hd => ?_⟩
  · rw [cur_closed]
    exact (hjoin.regs.trans (congrArg Ctx.regs hcur)).trans f.regs
  · rw [cur_closed]
    exact (hjoin.flg.trans (congrArg Ctx.flg hcur)).trans f.flg
  · rw [closed_spaceAt]
    exact congrArg (fun m : Space => m.bytes.byte q) ((hjoin.spaceAt p).trans
      ((spaceAt_modCurCore (f := fun k => cached k _) rfl p).trans (f.spaceAt p)))
  · rw [cur_closed]
    have hin := quarter_lands hlate d (BitVec.ofNat 256 (s.curCore.loc.bytes.bits (s.lr.ltbase + 256 * (s.reg a).toNat) 256)) hd (rangeFrom 0 4)
      (s1.setCore s1.focusCore (cached s1.curCore (s.reg a).toNat)) ((mem_rangeFrom 4 0 k).mpr ⟨Nat.zero_le k, by omega⟩)
    rw [quarter, hcur, f.wb, f.span, extract_quarter _ _ (bits_lt _ _ 256),
      show (s1.setCore s1.focusCore (cached s1.curCore (s.reg a).toNat)).now = s.now from f.now] at hin
    exact hin

/-! ## LFENCE -/

theorem tableDrains_idle (h : engineIdle s) : s.tableDrains = false := by
  rw [State.tableDrains]
  rcases h with hctx | ⟨hqueue, hrun⟩
  · simp [hctx]
  · simp [hqueue, hrun]

/-- A machine whose layout cache is empty and whose next word issues 4 cycles later. -/
def fenced (s : State) : State := (s.modCurCore Core.lcFlush).modCur fun c => { c with issueAt := s.now + 4 }

theorem lfence_idle (hwrites : s.cur.writes = []) (hspan : s.cur.span = none) (hidle : engineIdle s) : s.lfence = .ok (fenced s) := by
  have hlast (lo hi : Nat) : s.cur.lastWrite lo hi = none := by rw [Ctx.lastWrite, hwrites]; rfl
  rw [State.lfence, hspan, tableDrains_idle hidle, hlast]
  rfl

theorem cur_fenced (s : State) : (fenced s).cur = { s.cur with issueAt := s.now + 4 } := by
  have hcur : (s.modCurCore Core.lcFlush).cur = s.cur := cur_modCurCore rfl
  rw [fenced, State.modCur, cur_setCur, hcur]

theorem spaceAt_fenced (s : State) (p : Place) : (fenced s).spaceAt p = s.spaceAt p :=
  (onlyFocus_spaceAt (onlyFocus_setCur _ _) p).trans (spaceAt_modCurCore rfl p)

theorem fenced_empty (s : State) : (fenced s).curCore.lcache = [] ∧ (fenced s).curCore.stale = [] := by
  rw [fenced, State.modCur, curCore_setCur, curCore_modCurCore]
  exact ⟨rfl, rfl⟩

theorem lfence_empties (h : Issues .lfence s v s1) (hwrites : s.cur.writes = []) (hspan : s.cur.span = none) (hidle : engineIdle s) :
    ∃ t, exec .lfence s = .next t ∧ t.curCore.lcache = [] ∧ t.curCore.stale = [] ∧ t.cur.issueAt = s.now + 4 ∧ KeepsRegs s t ∧ SameMemory s t := by
  obtain ⟨htaken, hgoes⟩ := h
  have f := taken_fronted htaken
  obtain ⟨hcache, hstale⟩ := fenced_empty s1
  obtain ⟨cv, hissue⟩ := completes_on htaken hgoes (body := fun _ s => s.lfence)
    (lfence_idle (f.writes.trans hwrites) (f.span.trans hspan) (engineIdle_fronted f hidle)) (by rw [cur_fenced]) (by rw [cur_fenced])
  refine ⟨_, hissue, ?_, ?_, ?_, keepsRegs_closed f ?_ ?_ ?_ ?_ _ _ _, fun p q => by rw [closed_spaceAt, spaceAt_fenced, f.spaceAt]⟩
  · rw [closed_curCore]
    exact hcache
  · rw [closed_curCore]
    exact hstale
  · rw [cur_closed, cur_fenced, f.now]
  all_goals rw [cur_fenced]

end table

/-- Settles O21, word by word; LTSET writes as a store does. -/
theorem layoutTable : Obligations.LayoutTable := by
  intro d a s s1 v
  refine ⟨fun h hwrite => ?_, fun h hsyn hstale => ltget_sends h hsyn hstale, fun h hwrites hspan hidle => lfence_empties h hwrites hspan hidle⟩
  have f := taken_fronted h.1
  have haddr : s.lr.ltbase + 256 * (s.reg d).toNat = s1.lr.ltbase + 256 * (s1.reg d).toNat := by rw [f.lr, f.reg]
  have hregs : (s.reg (regPlus a 3) ++ s.reg (regPlus a 2) ++ s.reg (regPlus a 1) ++ s.reg a : BitVec 256) = s1.regs4 a := by
    rw [State.regs4, f.reg, f.reg, f.reg, f.reg]
  obtain ⟨t, hexec, hstored, hkeeps, hpc⟩ := word_stores (x := (s1.regs4 a).toNat) h hwrite (body := fun _ s => s.ltset d a) (by
    rw [haddr] at hwrite ⊢
    exact ltset_body (writable_fronted f hwrite))
  rw [hregs]
  exact ⟨t, hexec, hkeeps, hpc, hstored⟩

end Sys2Proof.Proofs
end

section
/-! Atomics (R272 to R280): the word is read, combined and written, and the old value goes on its way. -/

namespace Sys2Proof.Proofs

open Sys2Proof Sys2Proof.Machine Sys2Proof.Safety Sys2Proof.Claims Sys2Proof.Laws

section atomics
variable {s s1 u : State} {v : Cv} {op : AtomOp} {k : Bool} {fl : BitVec 2} {dr : BitVec 5} {p : Place} {at0 : Nat}

/-! ## The thirteen words (R275) -/

/-- Each of the thirteen words runs one operation, with the latency, the use of its word and the values that the table gives. -/
theorem atomOf_op {i : Instr} {a : Reg} {lat : Nat} {reads store : Bool} {f : Nat → Nat × BitVec 7}
    (h : atomOf i s = some (k, fl, dr, a, lat, reads, store, f)) : ∃ (op : AtomOp) (b : Reg), (∀ s, exec i s = issue i s fun _ s => s.atomBody op k fl dr a b)
      ∧ lat = op.latency ∧ reads = op.reads ∧ store = op.stores ∧ ∀ old, f old = op.apply (atomWidth k) old
        ((s.reg b).toNat % 2 ^ atomWidth k) ((s.reg (dr.setWidth 7)).toNat % 2 ^ atomWidth k) := by
  unfold atomOf at h
  split at h <;> cases h
  · exact ⟨.add, _, fun _ => rfl, rfl, rfl, rfl, fun _ => rfl⟩
  · exact ⟨.and, _, fun _ => rfl, rfl, rfl, rfl, fun _ => rfl⟩
  · exact ⟨.or, _, fun _ => rfl, rfl, rfl, rfl, fun _ => rfl⟩
  · exact ⟨.xor, _, fun _ => rfl, rfl, rfl, rfl, fun _ => rfl⟩
  · exact ⟨.min, _, fun _ => rfl, rfl, rfl, rfl, fun _ => rfl⟩
  · exact ⟨.max, _, fun _ => rfl, rfl, rfl, rfl, fun _ => rfl⟩
  · exact ⟨.minn, _, fun _ => rfl, rfl, rfl, rfl, fun _ => rfl⟩
  · exact ⟨.maxn, _, fun _ => rfl, rfl, rfl, rfl, fun _ => rfl⟩
  · exact ⟨.xchg, _, fun _ => rfl, rfl, rfl, rfl, fun _ => rfl⟩
  · exact ⟨.cas, _, fun _ => rfl, rfl, rfl, rfl, fun _ => rfl⟩
  · refine ⟨.fadd, _, fun _ => rfl, rfl, rfl, rfl, fun _ => ?_⟩
    cases k
    · rfl
    · rfl
  · exact ⟨.ld, 0, fun _ => rfl, rfl, rfl, rfl, fun _ => rfl⟩
  · exact ⟨.st, _, fun _ => rfl, rfl, rfl, rfl, fun _ => rfl⟩

/-! ## The checks (R272, R277, R278) -/

theorem releaseReady_idle (hturns : s.cur.turns = []) (hwrites : s.cur.writes = []) (hidle : engineIdle s) (a : Nat) : s.releaseReady a = .ok () := by
  have hdrains : (s.focusCtx == s.lr.meown && (s.curCore.me.queue ++ s.curCore.me.running).any fun m => m.kind == .drain) = false := by
    rcases hidle with hctx | ⟨hqueue, hrun⟩
    · simp [hctx]
    · simp [hqueue, hrun]
  have hdrained : (s.focusCtx != s.lr.meown || ((s.curCore.me.queue.all fun m => m.kind != .drain)
      && s.curCore.me.running.all fun m => m.kind != .drain || decide (m.lastWrite < s.now + 2))) = true := by
    rcases hidle with hctx | ⟨hqueue, hrun⟩
    · simp [hctx]
    · simp [hqueue, hrun]
  rw [State.releaseReady]
  dsimp only
  rw [hdrains, hdrained, hturns, hwrites]
  split
  · rfl
  · rfl

/-- A word of a declared sync sector that passes its checks is combined. -/
theorem atomBody_run {a b : Reg} (hinterval : s.cur.atomAt = none) (hrelease : fl = 2 → s.cur.turns = [] ∧ s.cur.writes = [] ∧ engineIdle s)
    (hmail : s.mailWord (s.reg a).toNat = none) (hplace : s.atomPlace (s.reg a).toNat (atomWidth k) = .ok (p, at0))
    (halign : (s.reg a).toNat % atomWidth k = 0) (hsync : s.atomSync p (at0 / 512) = true) : s.atomBody op k fl dr a b
      = s.atomRun op k fl dr (s.reg a).toNat p at0 ((s.reg b).toNat % 2 ^ atomWidth k) ((s.reg (dr.setWidth 7)).toNat % 2 ^ atomWidth k) := by
  have hfree : s.atomInterval (s.reg a).toNat = .ok () := by rw [State.atomInterval, hinterval]
  rw [State.atomBody]
  dsimp only
  rw [hmail]
  dsimp only
  rw [hplace, hfree]
  by_cases hfl : fl = 2
  · obtain ⟨hturns, hwrites, hidle⟩ := hrelease hfl
    rw [releaseReady_idle hturns hwrites hidle]
    simp [hfl, halign, hsync, failIf, bind, Except.bind]
  · simp [halign, hsync, failIf, bind, Except.bind]
    exact fun h => absurd h hfl

/-! ## The result (R275, R277) -/

theorem joinsLand_modCur {f : Ctx → Ctx} (hland : ∃ l, (f s.cur).land = s.cur.land ++ l) (hregs : (f s.cur).regs = s.cur.regs)
    (hflg : (f s.cur).flg = s.cur.flg) (hwb : (f s.cur).wb = s.cur.wb) (hspan : (f s.cur).span = s.cur.span)
    (hloops : (f s.cur).loops = s.cur.loops) (hpc : (f s.cur).pc = s.cur.pc) : JoinsLand s (s.modCur f) where
  land := by rwa [State.modCur, cur_setCur]
  regs := by rwa [State.modCur, cur_setCur]
  flg := by rwa [State.modCur, cur_setCur]
  wb := by rwa [State.modCur, cur_setCur]
  span := by rwa [State.modCur, cur_setCur]
  loops := by rwa [State.modCur, cur_setCur]
  pc := by rwa [State.modCur, cur_setCur]
  now := rfl
  spaceAt p := onlyFocus_spaceAt (onlyFocus_setCur _ _) p

/-- The note of an atomic in its context (R277, R278). -/
def atomNoted (s : State) (fl : BitVec 2) (a lat : Nat) : State :=
  s.modCur fun c => { c with atomWord := a / 64, atomAt := some s.now, acqAt := if fl == 1 then s.now + lat else c.acqAt }

theorem joinsLand_atomNoted (s : State) (fl : BitVec 2) (a lat : Nat) : JoinsLand s (atomNoted s fl a lat) :=
  joinsLand_modCur ⟨[], (List.append_nil _).symm⟩ rfl rfl rfl rfl rfl rfl

theorem joinsLand_flagged (s : State) (d : Reg) (x : Word) {n : Nat} (hn : 1 < n) (flags : BitVec 7) : JoinsLand s (s.result d x n flags true) := by
  rw [result_late _ _ _ hn]
  exact joinsLand_modCur (f := fun c => { c with land := _, doneAt := _ }) ⟨_, rfl⟩ rfl rfl rfl rfl rfl rfl

theorem joinsLand_atomLand (s : State) (op : AtomOp) (fl : BitVec 2) (dr : BitVec 5) (a : Nat) {lat : Nat} (hlat : 1 < lat) (flags : BitVec 7) (old : Nat) :
    JoinsLand s (s.atomLand op fl dr a lat flags old) := by
  refine (joinsLand_atomNoted s fl a lat).trans ?_
  unfold State.atomLand
  dsimp only
  split
  · exact joinsLand_modCur ⟨[], (List.append_nil _).symm⟩ rfl rfl rfl rfl rfl rfl
  · split
    · split
      · exact joinsLand_modCur ⟨[], (List.append_nil _).symm⟩ rfl rfl rfl rfl rfl rfl
      · exact joinsLand_modCur ⟨_, rfl⟩ rfl rfl rfl rfl rfl rfl
    · exact joinsLand_flagged _ _ _ hlat _

theorem onlyFocus_atomLand (s : State) (op : AtomOp) (fl : BitVec 2) (dr : BitVec 5) (a lat : Nat) (flags : BitVec 7) (old : Nat) :
    OnlyFocus s (s.atomLand op fl dr a lat flags old) := by
  have hnoted : OnlyFocus s (atomNoted s fl a lat) := onlyFocus_setCur _ _
  unfold State.atomLand
  dsimp only
  split
  · exact onlyFocus_mod hnoted _
  · split
    · split
      · exact onlyFocus_mod hnoted _
      · exact onlyFocus_mod hnoted _
    · exact onlyFocus_result hnoted _ _ _ _ _

theorem onlyFocus_banks {t : State} (h : OnlyFocus s t) : t.curCore.banks = s.curCore.banks := by
  obtain ⟨c, vc, rfl⟩ := h
  change ((s.setCore s.focusCore _).core s.focusCore).banks = _
  rw [core_setCore_self]

/-- The old value of a word on its way to its register. -/
def oldValue (s : State) (dr : BitVec 5) (lat : Nat) (flags : BitVec 7) (old : Nat) : Landing :=
  { cycle := s.now + lat, reg := physReg s.cur.wb dr.toNat, val := BitVec.ofNat 64 old, flags := flags, load := true, inSpan := s.cur.span.isSome }

theorem atomLand_lands (s : State) (fl : BitVec 2) (a : Nat) {lat : Nat} (hlat : 1 < lat) (flags : BitVec 7) (old : Nat) (hreads : op.reads = true)
    (hdr : dr ≠ 0) : oldValue s dr lat flags old ∈ (s.atomLand op fl dr a lat flags old).cur.land := by
  have hnoted := joinsLand_atomNoted s fl a lat
  have hreg : (dr.setWidth 7 : Reg) ≠ 0 := fun h => hdr (by
    have := congrArg (BitVec.setWidth 5) h
    simpa using this)
  have hnat : (dr.setWidth 7 : Reg).toNat = dr.toNat := by
    rw [BitVec.toNat_setWidth]
    omega
  have hland : s.atomLand op fl dr a lat flags old = (atomNoted s fl a lat).result (dr.setWidth 7) (BitVec.ofNat 64 old) lat flags true := by
    unfold State.atomLand
    rw [hreads]
    dsimp only
    rw [if_neg hdr]
    rfl
  rw [hland, result_late _ _ _ hlat, cur_setCur, if_neg hreg, hnat, hnoted.wb, hnoted.span, hnoted.now]
  exact List.mem_append_right _ List.mem_cons_self

/-! ## The word (R275, R280) -/

/-- Memory after an atomic has written its word, where it writes, and the context in focus as it was. -/
structure WordWritten (s u : State) (p : Place) (at0 w new : Nat) (wrote : Bool) : Prop where
  cur : u.cur = s.cur
  now : u.now = s.now
  bytes : (u.spaceAt p).bytes = if wrote then (s.spaceAt p).bytes.setBits at0 w (new % 2 ^ w) else (s.spaceAt p).bytes
  other : ∀ q, q ≠ p → u.spaceAt q = s.spaceAt q

theorem repair_clean {m : Space} (h : m.syn = []) (w : Nat) : m.repair w = m := by
  rw [Space.repair, check_clean h]

theorem repairIf_clean {m : Space} (h : m.syn = []) (b : Bool) (w : Nat) : (if b then m.repair w else m) = m := by
  cases b
  · rfl
  · exact repair_clean h w

/-- A system core's write of a word, which links a segment where it is that of the last header (R303). -/
def sysWritten (s : State) (p : Place) (at0 w new : Nat) (wrote : Bool) : State :=
  let s := s.drawNat.2.setSpace p (if wrote then (s.spaceAt p).writeRaw at0 w (new % 2 ^ w) else s.spaceAt p)
  if p == .phys && wrote && at0 / 64 == Config.readyHeader (s.disp.segs - 1) && s.disp.segs < 16 then { s with disp := { s.disp with segs := s.disp.segs + 1 } }
  else s

theorem sysWritten_written (hsyn : (s.spaceAt p).syn = []) (w new : Nat) (wrote : Bool) : WordWritten s (sysWritten s p at0 w new wrote) p at0 w new wrote := by
  generalize hm : (if wrote then (s.spaceAt p).writeRaw at0 w (new % 2 ^ w) else s.spaceAt p) = m
  have hspace (q : Place) : (sysWritten s p at0 w new wrote).spaceAt q = (s.drawNat.2.setSpace p m).spaceAt q := by
    unfold sysWritten
    rw [hm]
    dsimp only
    split
    · cases q <;> rfl
    · rfl
  have hcur : (sysWritten s p at0 w new wrote).cur = (s.drawNat.2.setSpace p m).cur := by
    unfold sysWritten
    rw [hm]
    dsimp only
    split
    · rfl
    · rfl
  have hnow : (sysWritten s p at0 w new wrote).now = s.now := by
    unfold sysWritten
    rw [hm]
    dsimp only
    split
    · cases p <;> rfl
    · cases p <;> rfl
  refine ⟨hcur.trans (spacesOnly_setSpace _ _ _).cur, hnow, ?_, fun q hq => ?_⟩
  · rw [hspace, spaceAt_setSpace_self, ← hm]
    cases wrote
    · rfl
    · exact congrArg Space.bytes (writeRaw_clean hsyn _ _ _)
  · rw [hspace, spaceAt_setSpace_ne _ _ hq]
    cases q <;> rfl

theorem modCurCore_modCurCore (s : State) (f g : Core → Core) : (s.modCurCore f).modCurCore g = s.modCurCore fun k => g (f k) := by
  rw [State.modCurCore, curCore_modCurCore]
  exact setCore_setCore s s.focusCore _ _

/-- A core after an atomic on a word of its scratchpad, which held m: it takes its place among the writes on their way, and orders (R277,
R279). -/
def wordCombined (k : Core) (m : Space) (now : Nat) (fl : BitVec 2) (late : Patch) (at0 w new : Nat) (wrote : Bool) : Core :=
  let k := ({ k with loc := m } : Core).atomLate now at0 late
  Core.ordered { k with loc := if wrote then k.loc.writeRaw at0 w (new % 2 ^ w) else k.loc } (at0 / 64) (fl == 1) (fl == 2) wrote

theorem bytes_wordCombined {m : Space} (hsyn : m.syn = []) (k : Core) (now : Nat) (fl : BitVec 2) (late : Patch) (at0 w new : Nat) (wrote : Bool) :
    (wordCombined k m now fl late at0 w new wrote).loc.bytes = if wrote then m.bytes.setBits at0 w (new % 2 ^ w) else m.bytes := by
  cases wrote
  · rfl
  · exact congrArg Space.bytes (writeRaw_clean (m := (({ k with loc := m } : Core).atomLate now at0 late).loc) hsyn _ _ _)

theorem wordCombined_written (hsyn : (s.spaceAt (.loc s.focusCore)).syn = []) (fl : BitVec 2) (late : Patch) (at0 w new : Nat) (wrote : Bool) :
    WordWritten s (s.modCurCore fun k => wordCombined k (s.spaceAt (.loc s.focusCore)) s.now fl late at0 w new wrote) (.loc s.focusCore) at0 w new wrote where
  cur := cur_modCurCore rfl
  now := rfl
  bytes := (congrArg (fun k : Core => k.loc.bytes) (curCore_modCurCore s _)).trans (bytes_wordCombined hsyn ..)
  other q hq := by
    cases q with
    | loc c => exact congrArg Core.loc (core_setCore_ne s _ fun h => hq (congrArg Place.loc h))
    | _ => rfl

/-- How much longer than on a compute core the result of a system core takes (R277). -/
def extraWait (s : State) : Nat := if s.onSys then Config.freeNat s.free else 0

theorem settle_quiet {t : State} {now c : Nat} (h : t.curCore.quiet now = true) (hc : t.focusCore = c) (secs : List Nat) (us : List BankUse) :
    ∃ w, (t.modCurCore fun k => k.settleAll now secs).claim c us = .ok w ∧ w.cur = t.cur ∧ ∀ p, w.spaceAt p = t.spaceAt p := by
  have hsame : (t.modCurCore fun k => k.settleAll now secs) = putBack t := congrArg t.setCurCore (settleAll_quiet h secs)
  obtain ⟨w, hw, hcur, hspace, -⟩ := claim_ok (putBack t) us
  refine ⟨w, by rw [hsame, ← hc]; exact hw, hcur.trans (cur_putBack t), fun p => (hspace p).trans (spaceAt_putBack t p)⟩

/-- The place that an atomic of the context in focus takes among the writes on their way to its sector (R277). -/
def atomPatch (s : State) (op : AtomOp) (k : Bool) (fl : BitVec 2) (dr : BitVec 5) (at0 x c : Nat) : Patch :=
  { cycle := s.now + 3, off := at0 % 512, bits := atomWidth k, val := 0, ctx := s.focusCtx, issued := s.now
    atom := some { op := op, x := x, cmp := c, acq := fl == 1, rel := fl == 2, reg := physReg s.cur.wb dr.toNat, land := s.now + (op.latency + 0)
                   saw := fl == 1 && s.curCore.relWords.contains (at0 / 64) } }

/-- An atomic that runs on a word without errors: of the scratchpad of a compute core, or from a system core. -/
theorem atomRun_wrote (hsyn : (s.spaceAt p).syn = []) (hplace : s.onSys = false → p = .loc s.focusCore) (hquiet : BanksFree s) (a x c : Nat)
    {old : Nat} (hold : old = (s.spaceAt p).bytes.bits at0 (atomWidth k)) {r : Nat × BitVec 7} (hr : r = op.apply (atomWidth k) old x c) :
    ∃ u t, WordWritten s u p at0 (atomWidth k) r.1 (op.writes r.1 old) ∧ s.atomRun op k fl dr a p at0 x c = .ok t
      ∧ t.cur = (u.atomLand op fl dr a (op.latency + extraWait s) r.2 old).cur
      ∧ ∀ q, t.spaceAt q = (u.atomLand op fl dr a (op.latency + extraWait s) r.2 old).spaceAt q := by
  have hbad : ((op.reads || k) && (s.spaceAt p).bad (at0 / 64)) = false := by simp [bad_clean hsyn]
  by_cases hsys : s.onSys = true
  · have hsys' : s.drawNat.2.onSys = true := hsys
    refine ⟨_, _, sysWritten_written hsyn (atomWidth k) r.1 (op.writes r.1 old), ?_, rfl, fun _ => rfl⟩
    rw [State.atomRun]
    dsimp only
    rw [failIf_false hbad, repairIf_clean hsyn, readBits_clean hsyn, ← hold, ← hr, if_pos hsys, if_pos hsys', extraWait, if_pos hsys]
    rfl
  · obtain rfl := hplace (Bool.eq_false_iff.mpr hsys)
    rw [State.atomRun]
    dsimp only
    rw [failIf_false hbad, repairIf_clean hsyn, readBits_clean hsyn, ← hold, ← hr, if_neg hsys, if_neg hsys, extraWait, if_neg hsys, modCurCore_modCurCore,
      modCurCore_modCurCore]
    have hwritten := wordCombined_written hsyn fl (atomPatch s op k fl dr at0 x c) at0 (atomWidth k) r.1 (op.writes r.1 old)
    generalize hu : (s.modCurCore fun j => wordCombined j (s.spaceAt (.loc s.focusCore)) s.now fl (atomPatch s op k fl dr at0 x c) at0 (atomWidth k) r.1 (op.writes r.1 old)) = u at hwritten
    have hbanks : (u.atomLand op fl dr a (op.latency + 0) r.2 old).curCore.quiet s.now = true := by
      rw [Core.quiet, onlyFocus_banks (onlyFocus_atomLand ..), ← hu, curCore_modCurCore]
      exact hquiet
    have hfocus : (u.atomLand op fl dr a (op.latency + 0) r.2 old).focusCore = s.focusCore := by
      rw [onlyFocus_focusCore (onlyFocus_atomLand ..), ← hu]
      rfl
    obtain ⟨t, ht, hcur, hspace⟩ := settle_quiet hbanks hfocus [at0 / 512] [u.use (at0 / 512) (s.now + 2) 2 true [(at0, atomWidth k)]
      (.lands (physReg s.cur.wb dr.toNat) (s.now + if op.reads then op.latency + 0 else 4) none)]
    refine ⟨u, t, hwritten, Eq.trans ?_ ht, hcur, hspace⟩
    subst hu
    rfl

theorem WordWritten.bits {w new : Nat} (h : WordWritten s u p at0 w new (op.writes new ((s.spaceAt p).bytes.bits at0 w))) :
    (u.spaceAt p).bytes.bits at0 w = if op.stores then new % 2 ^ w else (s.spaceAt p).bytes.bits at0 w := by
  rw [h.bytes]
  by_cases hw : op.writes new ((s.spaceAt p).bytes.bits at0 w) = true
  · have hstores : op.stores = true := (Bool.and_eq_true_iff.mp hw).1
    rw [if_pos hw, if_pos hstores, bits_setBits, Nat.mod_mod]
  · rw [if_neg hw]
    split
    next hstores =>
      have hsame : new = (s.spaceAt p).bytes.bits at0 w := by
        simp only [AtomOp.writes, hstores, Bool.true_and, Bool.or_eq_true, Bool.not_eq_true', bne_iff_ne, ne_eq, not_or, not_not] at hw
        exact hw.2
      rw [hsame, Nat.mod_eq_of_lt (bits_lt _ _ _)]
    next => rfl

theorem WordWritten.byte {w new c : Nat} {wrote : Bool} (h : WordWritten s u p at0 w new wrote) (hc : 8 * c + 8 ≤ at0 ∨ at0 + w ≤ 8 * c) :
    (u.spaceAt p).bytes.byte c = (s.spaceAt p).bytes.byte c := by
  rw [h.bytes]
  cases wrote
  · rfl
  · exact byte_setBits_out _ _ _ _ _ hc

theorem atomPlace_own {a w : Nat} (h : s.atomPlace a w = .ok (p, at0)) (hsys : s.onSys = false) : p = .loc s.focusCore := by
  rw [State.atomPlace, hsys, if_neg Bool.false_ne_true] at h
  split at h
  · cases h
  · cases h
    rfl

theorem atomPlace_fronted (f : Fronted s v s1) (a w : Nat) : s1.atomPlace a w = s.atomPlace a w := by
  rw [State.atomPlace, State.atomPlace, f.onSys, f.focusCore, f.dev (·.sysTables) fun _ _ => rfl, f.dev (·.bar) fun _ _ => rfl]

theorem atomSync_fronted (f : Fronted s v s1) (q : Place) (sec : Nat) : s1.atomSync q sec = s.atomSync q sec := by
  have hsync : s1.syncAt q sec = s.syncAt q sec := by
    cases q with
    | loc c => exact congrArg (fun lr : LaunchRec => ((lr.sync.filter fun a => spaceOf a == 0).map fun a => a / 512).contains sec) f.lr
    | phys =>
      have hx (a : Nat) (w : Bool) : s1.xlate a w = s.xlate a w := by rw [State.xlate, f.slice]; rfl
      change s1.physSync.contains sec = s.physSync.contains sec
      rw [State.physSync, f.lr, funext fun a => congrArg (Option.map (· / 512)) (hx a false)]
      rfl
    | _ => rfl
  rw [State.atomSync, hsync, f.onSys]
  rfl

theorem latency_late (op : AtomOp) (n : Nat) : 1 < op.latency + n := by
  have h : 5 ≤ op.latency := by
    unfold AtomOp.latency
    split
    · omega
    · omega
  omega

end atomics

/-- Settles O29, from the one run that the thirteen words share. -/
theorem atomics : Obligations.Atomics := by
  intro i k fl dr a lat reads store f s s1 v p at0 hop h hat hquiet hrelease w hmail hplace halign hsync hsyn old
  obtain ⟨op, b, hexec, rfl, rfl, rfl, hval⟩ := atomOf_op hop
  obtain ⟨htaken, hgoes⟩ := h
  have fr := taken_fronted htaken
  have hrun := atomBody_run (op := op) (dr := dr) (b := b) (fr.atomAt.trans hat)
    (fun hfl => by
      obtain ⟨hturns, hwrites, hidle⟩ := hrelease hfl
      exact ⟨fr.turns.trans hturns, fr.writes.trans hwrites, engineIdle_fronted fr hidle⟩)
    (p := p) (at0 := at0) (a := a) (k := k) (fl := fl) (by rw [fr.reg, State.mailWord, fr.onSys]; exact hmail) (by rw [fr.reg, atomPlace_fronted fr]; exact hplace)
    (by rw [fr.reg]; exact halign) (by rw [atomSync_fronted fr]; exact hsync)
  have hold : old = (s1.spaceAt p).bytes.bits at0 (atomWidth k) := by rw [fr.spaceAt]; rfl
  obtain ⟨u, t, hwritten, hatom, hcur, hspace⟩ := atomRun_wrote (dr := dr) (fl := fl) (k := k) (op := op) (at0 := at0) (by rw [fr.spaceAt]; exact hsyn)
    (fun hsys => by rw [fr.focusCore]; exact atomPlace_own hplace (fr.onSys ▸ hsys)) (banksFree_fronted fr hquiet) (s1.reg a).toNat
    ((s1.reg b).toNat % 2 ^ atomWidth k) ((s1.reg (dr.setWidth 7)).toNat % 2 ^ atomWidth k) hold rfl
  have hlate := latency_late op (extraWait s1)
  have hjoin := joinsLand_atomLand u op fl dr (s1.reg a).toNat hlate (op.apply (atomWidth k) old ((s1.reg b).toNat % 2 ^ atomWidth k)
    ((s1.reg (dr.setWidth 7)).toNat % 2 ^ atomWidth k)).2 old
  obtain ⟨cv, hissue⟩ := completes_on htaken hgoes (body := fun _ s => s.atomBody op k fl dr a b) (hrun.trans hatom)
    (by rw [hcur, hjoin.loops, hwritten.cur]) (by rw [hcur, hjoin.pc, hwritten.cur])
  have hf : f old = op.apply (atomWidth k) old ((s1.reg b).toNat % 2 ^ atomWidth k) ((s1.reg (dr.setWidth 7)).toNat % 2 ^ atomWidth k) := by
    rw [hval, fr.reg, fr.reg]
  rw [← hf] at hwritten hcur hspace hjoin
  have hat (q : Place) : (closed t cv (following s v s.cur.loops (s.cur.pc + 32)).1 (following s v s.cur.loops (s.cur.pc + 32)).2).spaceAt q = u.spaceAt q := by
    rw [closed_spaceAt, hspace, hjoin.spaceAt]
  rw [hold] at hwritten
  refine ⟨_, (hexec s).trans hissue, ?_, fun c hc => ?_, fun q hq => ?_, fun hreads hdr => ?_, ?_, ?_, by rw [cur_closed]; rfl⟩
  · rw [hat, hold]
    exact hwritten.bits
  · rw [hat, hwritten.byte hc, fr.spaceAt]
  · rw [hat, hwritten.other q hq, fr.spaceAt]
  · have hin := atomLand_lands u fl (s1.reg a).toNat hlate (f old).2 old hreads hdr
    rw [oldValue, hwritten.cur, hwritten.now, fr.now, fr.wb, fr.span, ← hcur] at hin
    have hwait : extraWait s1 = if s.onSys then Config.freeNat s.free else 0 := by rw [extraWait, fr.onSys, fr.free]
    rw [cur_closed, Nat.add_assoc, ← hwait]
    exact hin
  · rw [cur_closed]
    exact (congrArg Ctx.regs hcur).trans (hjoin.regs.trans ((congrArg Ctx.regs hwritten.cur).trans fr.regs))
  · rw [cur_closed]
    exact (congrArg Ctx.flg hcur).trans (hjoin.flg.trans ((congrArg Ctx.flg hwritten.cur).trans fr.flg))

end Sys2Proof.Proofs
end

section
/-! A QPUSH into a segment that starts inside a word merges that word, and the merge corrects a single-bit error of it outside the entry
(R128, R147). -/

namespace Sys2Proof.Proofs

open Sys2Proof Sys2Proof.Machine Sys2Proof.Safety Sys2Proof.Claims Sys2Proof.Laws

/-- An outbound queue whose one segment starts with bit 1 of the scratchpad. -/
def offsetQueue : Queue := { dir := 2, segs := [1] }

/-- A scratchpad whose bit 0 is wrong, as the syndrome of word 0 says. -/
def wrongBitSpace : Space := { syn := [(0, 0x83)] }

/-- A context with one element of 8 bits, at a QPUSH word of core 0. -/
def wrongBit : State :=
  { slice := some { lr := oneContext, cores := [0] }
    cores := [(0, { ctxs := [(0, { st := .run, vl := 1, grant := 8, regs := [(1, 2)], cv := some heldConvoy })], loc := wrongBitSpace
                    queues := [(0, offsetQueue)] })] }

def wrongBitTaken : State := wrongBit.setCur (wrongBit.cur.advance 0 0 heldConvoy)

theorem wrongBit_issues : Issues (.qpush 0 1 0) wrongBit heldConvoy wrongBitTaken := ⟨⟨rfl, rfl, rfl⟩, Or.inl (by decide)⟩

theorem wrongBit_unraced : wrongBit.lr.racem = 0 := by decide +kernel

/-- The correction sets bit 0. -/
theorem wrongBitSpace_corrected : ((partialWords 1 512).foldl Space.repair wrongBitSpace).bytes.byte 0 = 1 := by decide +kernel

/-- The entry that is written behind it leaves bit 0 set. -/
theorem wrongBit_pushed (x : Nat) : bitAt (wrongBit.curCore.putEntries offsetQueue 0 1 x).loc.bytes 0 = true := by
  change bitAt (((partialWords 1 512).foldl Space.repair wrongBitSpace).bytes.setBits 1 512 (field x (512 * 0 + 511) (512 * 0))) 0 = true
  refine (bit_setBits_out _ 1 512 _ 0 (Or.inl Nat.one_pos)).trans ?_
  rw [wrongBitSpace_corrected]
  rfl

/-- Refutes O26: the statement has bit 0, which lies before the entry, as it was. -/
theorem not_queues : ¬ Obligations.Queues := by
  intro h
  obtain ⟨-, -, -, hpush, -⟩ := h 0 1 0 wrongBit wrongBitTaken heldConvoy
  obtain ⟨t, -, -, hbytes, -, hother, -⟩ := hpush 0 wrongBit_issues rfl rfl rfl rfl rfl (Or.inr rfl) (by decide) wrongBit_unraced
  have hkept := hother 0 fun k hk => Or.inl (by
    obtain rfl : k = 0 := Nat.lt_one_iff.mp hk
    decide)
  rw [hbytes] at hkept
  exact absurd ((wrongBit_pushed _).symm.trans hkept) (by decide)

end Sys2Proof.Proofs
end

section
/-! A beat that a descriptor writes to a sector while a store issued before is still on its way to the bank (R130, R163, R255).
The beat is there first, and the store lands on it. -/

namespace Sys2Proof.Proofs

open Sys2Proof Sys2Proof.Machine Sys2Proof.Safety Sys2Proof.Claims Sys2Proof.Laws

/-- A HALO descriptor of core 0 that has read its one beat, the value 1, and writes it to the half sector at 0. -/
def beatDesc : Desc :=
  { kind := .halo, bits := 256 * 2 ^ 128, e := 0, origin := {}, dst := [(.loc 0, 0, 256)]
    started := true, acts := [{ cycle := 0, write := true, beat := 0 }], buf := [(0, 1)] }

/-- An exchange superstep in which that beat is due, while a store of zeros to the sector reaches its bank in cycle 100. -/
def lateStore : State :=
  { phc := 1
    slice := some { lr := oneContext, cores := [0] }
    cores := [(0, { slots := [(0, beatDesc)]
                    banks := [{ sec := 0, cycle := 100, write := true }]
                    loc := { hist := [(0, { old := 0, late := [{ cycle := 100, off := 0, bits := 512, val := 0 }] })] } })] }

/-- The half sector at 0 of core 0 after a step that leads on. -/
def halfSector (o : Host.Outcome State Fault Refusal) : Option Nat :=
  match o with | .next t => some ((t.spaceAt (.loc 0)).bytes.bits 0 256) | _ => none

/-- The step leaves the zeros of the store where the beat has been written. -/
theorem lateStore_wins : halfSector (exec (.descriptorBeat 0 0) lateStore) = some 0 := by decide +kernel

/-- Refutes O40: a beat that a descriptor writes to a sector is not what the sector holds then, where a store issued before
reaches the bank later. -/
theorem not_descriptorSteps : ¬ Obligations.DescriptorSteps := by
  intro h
  have hslot : (lateStore.core 0).slot? 0 = some beatDesc := rfl
  have hlive : lateStore.exchLive 0 = true := rfl
  obtain ⟨-, -, -, -, -, hwrite, -⟩ := h lateStore lateStore 0 0 beatDesc hslot hlive (by decide)
  have hdue : lateStore.dueAct 0 beatDesc = some { cycle := 0, write := true, beat := 0 } := by decide +kernel
  have hcut : cutPieces 0 beatDesc.dst (beatDesc.beatRange 0).1 (beatDesc.beatRange 0).2 = [(0, .loc 0, 0, 256)] := by
    decide +kernel
  have hends : beatDesc.ends lateStore.sliceCores { cycle := 0, write := true, beat := 0 } = [beatDesc.dst] := by
    decide +kernel
  have hrace : lateStore.lr.racem = 0 := by decide +kernel
  obtain ⟨t, -, ht, -, -, hbits, -⟩ := hwrite _ _ _ _ _ rfl rfl hdue rfl (Or.inr rfl) hcut hends hrace rfl rfl
  have hzero := lateStore_wins
  rw [ht] at hzero
  rw [Option.some.inj hzero] at hbits
  exact absurd hbits (by decide +kernel)

end Sys2Proof.Proofs
end

section
/-! A stream command over an odd part of a sparse weight plane (R209, R213, R214). -/

namespace Sys2Proof.Proofs

open Sys2Proof Sys2Proof.Machine Sys2Proof.Safety Sys2Proof.Claims Sys2Proof.Laws

/-- An MFWD of one row of two FP32 elements and one column, with its one request due. -/
def oddRow : MCmd :=
  { kind := .fwd, origin := {}, issued := 0, gm := 1, gn := 1, gk := 2, fmt := 0x0C
    plan := [{ i := 0, sec := 0, due := 0, seq := 0 }] }

/-- A sparse active plane whose first quad routes 1.0 to position 1. -/
def oddPlane : Mat := { wact := [(1, 2 ^ 32 + 0x3F80)], tact := 0x0B, spact := true, running := [oddRow] }

/-- The row that the command reads holds 1.0 twice. -/
def oddState : State :=
  { slice := some { lr := oneContext, cores := [0] }
    cores := [(0, { me := oddPlane, loc := { bytes := Memory.setBits [] 0 64 0x3F8000003F800000 } })] }

/-- The command with the sector that its request gives. -/
def oddRowRead : MCmd :=
  { oddRow with got := oddRow.got.put (readKey 0 0) (BitVec.ofNat 512 ((oddState.core 0).loc.bytes.bits (512 * 0) 512)) }

/-- Cell 0 of the running commands of core 0 after a step that leads on. -/
def firstCells (o : Host.Outcome State Fault Refusal) : Option (List (BitVec 64)) :=
  match o with | .next t => some ((t.core 0).me.running.map fun x => SMap.get 0 x.res 0) | _ => none

/-- The step adds no product to the cell: half of gk columns of the plane are looked at, and the kept value of position 1
stands in the second one. -/
theorem oddState_cells : firstCells (exec (.matrixCommandStart 0) oddState) = some [0] := by decide +kernel

/-- What the command has read is what the scratchpad holds. -/
theorem oddRow_rowsRead : RowsRead oddRowRead (oddState.core 0).loc.bytes := by
  intro q p row hq hrow hp
  have hreads : oddRowRead.reads = [(oddRow.a, 1, 2, false)] := rfl
  rw [hreads, List.mem_singleton] at hq
  subst hq
  obtain rfl : row = 0 := by simpa using hrow
  have hsecs : enumFrom 0 (oddRowRead.rowSectors (oddRow.a, 1, 2, false) 0) = [(0, 0)] := by decide +kernel
  rw [hsecs, List.mem_singleton] at hp
  subst hp
  decide +kernel

/-- The shape and the format of the command are admitted. -/
theorem oddRow_rowsOk : RowsOk oddRow (oddState.core 0).loc.bytes := by
  refine ⟨by decide, by decide, by decide, by decide, fun _ => by decide, by decide, by decide, by decide, by decide, by decide, ?_⟩
  intro h
  exact absurd h (by decide)

/-- By R213 the cell is the sum over both positions, 1.0. -/
theorem oddRow_gives {x : SMap (BitVec 64)} (h : RowsGive oddPlane oddRow (oddState.core 0).loc.bytes x) :
    SMap.get 0 x 0 = 0x3F800000 := by
  have hcell := h 0 0 (by decide) (by decide)
  exact hcell.trans (by decide +kernel)

/-- Refutes O32: an MFWD whose granted K is 2, on a sparse plane, leaves out the kept value that routes to its second
position. -/
theorem not_matrixSteps : ¬ Obligations.MatrixSteps := by
  intro h
  obtain ⟨-, -, -, -, -, -, -, hread, -⟩ := h oddState oddState 0 oddRow 0 0 0 rfl
  have hdue : oddState.readDue 0 = some oddRow := by decide +kernel
  have hplace : ∀ p n, (p, n) ∈ oddRow.unitsAt 0 → InPlace oddState p n := by
    have hunits : oddRow.unitsAt 0 = [(0, 32), (32, 32)] := by decide +kernel
    intro p n hp
    rw [hunits] at hp
    simp only [List.mem_cons, Prod.mk.injEq, List.not_mem_nil, or_false] at hp
    obtain ⟨rfl, rfl⟩ | ⟨rfl, rfl⟩ := hp
    · exact ⟨by decide, by decide +kernel, by decide +kernel, by decide +kernel⟩
    · exact ⟨by decide, by decide +kernel, by decide +kernel, by decide +kernel⟩
  have hres : ∀ r, r ∈ oddPlane.running → r.kind ∈ [MKind.fwd, .bwd, .grd] → r.res = [] := by
    intro r hr _
    obtain rfl : r = oddRow := List.mem_singleton.mp hr
    rfl
  obtain ⟨u, x, hu, hx, -, -, -, hgive⟩ := hread _ (oddState.core 0).loc.bytes hdue rfl (by decide +kernel) hplace rfl rfl rfl rfl
    oddRow_rowsRead oddRow_rowsOk hres
  have hcells := oddState_cells
  rw [hu] at hcells
  have hzero : SMap.get 0 x.res 0 = 0 := by
    have hmem := List.mem_map_of_mem (f := fun y : MCmd => SMap.get 0 y.res 0) hx
    rw [Option.some.inj hcells] at hmem
    exact List.mem_singleton.mp hmem
  rw [oddRow_gives hgive] at hzero
  exact absurd hzero (by decide)

end Sys2Proof.Proofs
end

section
/-! Matrix words (R200, R202, R205 to R212, R216, R220 to R222): a command joins the queue of its engine with the operands that
its registers name; MWAIT and MAMAX. -/

namespace Sys2Proof.Proofs

open Sys2Proof Sys2Proof.Machine Sys2Proof.Safety Sys2Proof.Claims Sys2Proof.Laws

/-! ## A command joins the queue -/

/-- A command has joined the queue of the engine in focus; its planes, its running commands, the context in focus and every
memory are as before. -/
structure Joined (s t : State) (m : MCmd) : Prop where
  cur : t.cur = s.cur
  queue : t.curCore.me.queue = s.curCore.me.queue ++ [m]
  running : t.curCore.me.running = s.curCore.me.running
  acc : t.curCore.me.acc = s.curCore.me.acc
  dw : t.curCore.me.dw = s.curCore.me.dw
  wact : t.curCore.me.wact = s.curCore.me.wact
  wsh : t.curCore.me.wsh = s.curCore.me.wsh
  memory : SameMemory s t

/-- The context in focus, its engine, the clock and every memory are as before. -/
structure Untouched (s t : State) : Prop where
  engine : SameEngine s t
  now : t.now = s.now
  memory : SameMemory s t

theorem Untouched.refl (s : State) : Untouched s s := ⟨SameEngine.refl s, rfl, fun _ _ => rfl⟩

theorem Untouched.trans {s t u : State} (h : Untouched s t) (g : Untouched t u) : Untouched s u :=
  ⟨h.engine.trans g.engine, g.now.trans h.now, sameMemory_trans h.memory g.memory⟩

section joins
variable {s s2 t : State} {m : MCmd}

theorem Joined.setTagsOf {f : Mat → Mat} (h : Joined s t m) (hf : ∀ e : Mat, ∃ a b c d, f e = { e with ptact := a, ptsh := b, pspact := c, pspsh := d }) :
    Joined s (t.setTagsOf f) m := by
  obtain ⟨a, b, c, d, he⟩ := hf t.curCore.me
  have hme : (t.setTagsOf f).curCore.me = { t.curCore.me with ptact := a, ptsh := b, pspact := c, pspsh := d } := (me_setTagsOf t f).trans he
  exact ⟨(cur_setTagsOf t f).trans h.cur, by rw [hme]; exact h.queue, by rw [hme]; exact h.running, by rw [hme]; exact h.acc,
    by rw [hme]; exact h.dw, by rw [hme]; exact h.wact, by rw [hme]; exact h.wsh, sameMemory_trans h.memory (sameMemory_setTagsOf t f)⟩

/-- The engine in focus with one more command in its queue. -/
def sent (s : State) (m : MCmd) : State := s.modCurCore fun k => { k with me := { k.me with queue := k.me.queue ++ [m] } }

theorem sendCommand_outside (hm : m.inSpan = false) : s.sendCommand m = .ok (sent s m) := by rw [State.sendCommand, hm]; rfl

theorem joined_sent (h : Untouched s s2) : Joined s (sent s2 m) m := by
  obtain ⟨⟨hcur, hme⟩, -, hmem⟩ := h
  have hk : (sent s2 m).curCore.me = { s2.curCore.me with queue := s2.curCore.me.queue ++ [m] } := congrArg Core.me (curCore_modCurCore s2 _)
  exact ⟨(cur_modCurCore rfl).trans hcur, by rw [hk, hme], by rw [hk, hme], by rw [hk, hme], by rw [hk, hme], by rw [hk, hme], by rw [hk, hme],
    sameMemory_trans hmem fun p a => by rw [sent, spaceAt_modCurCore rfl]⟩

/-- What is sent outside a span has joined the queue. -/
theorem sendCommand_joined (h : Untouched s s2) (hsend : s2.sendCommand m = .ok t) (hm : m.inSpan = false) : Joined s t m := by
  rw [sendCommand_outside hm] at hsend
  cases hsend
  exact joined_sent h

/-- An update of a core that keeps the bytes of its scratchpad keeps those of every memory. -/
theorem modCore_keepsBytes (s : State) {core : Nat} {f : Core → Core} (h : (f (s.core core)).loc.bytes = (s.core core).loc.bytes) :
    SameBytes s (s.modCore core f) := fun p => by
  cases p with
  | loc c =>
    by_cases hc : c = core
    · subst hc
      exact (congrArg (fun k : Core => k.loc.bytes) (core_modCore_self s c f)).trans h
    · exact congrArg (fun k : Core => k.loc.bytes) (core_modCore_ne s f hc)
  | phys => rfl
  | host => rfl
  | peer => rfl

theorem useEntry_sameMemory (s : State) (core n : Nat) : SameMemory s (s.useEntry core n).2 := by
  have h : SameBytes s (s.modCore core fun k =>
      { k with lcache := k.lcache.put (n % 64) n, loc := k.loc.countRead (wordsOf (s.lr.ltbase + 256 * n) 256) }) :=
    modCore_keepsBytes s (countRead_bytes _ _)
  unfold State.useEntry
  dsimp only
  split
  · exact h.memory
  · exact h.memory

theorem useEntry_now (s : State) (core n : Nat) : (s.useEntry core n).2.now = s.now := by
  unfold State.useEntry
  dsimp only
  split
  · rfl
  · rfl

theorem tensor_untouched {n : Reg} {o : MOperand} (h : s.tensor n = .ok (o, t)) : Untouched s t := by
  obtain ⟨-, -, h⟩ := ok_of_bind h
  cases h
  exact ⟨useEntry_sameEngine s _, useEntry_now s _ _, useEntry_sameMemory s _ _⟩

/-! ## Every matrix word queues a command of its kind -/

/-- A command of a kind has joined, issued now and not started. -/
def QueuesNow (k : MKind) (s t : State) : Prop := ∃ m, Joined s t m ∧ m.kind = k ∧ m.issued = s.now ∧ m.start = none

variable (hspan : s.cur.span = none)
include hspan

theorem newCommand_outside (k : MKind) : (s.newCommand k).inSpan = false := by rw [State.newCommand, hspan]; rfl

theorem loadWeights_queues {a : Reg} {bundles : Bool} (h : s.loadWeights a bundles = .ok t) :
    QueuesNow (if bundles then .ldws else .ldw) s t := by
  obtain ⟨-, -, h⟩ := ok_of_bind h
  obtain ⟨⟨o, s2⟩, htensor, h⟩ := ok_of_bind h
  dsimp only at h
  have hin := newCommand_outside hspan (if bundles then .ldws else .ldw)
  cases bundles <;>
  · obtain ⟨f, -, h⟩ := ok_of_bind h
    obtain ⟨-, -, h⟩ := ok_of_bind h
    obtain ⟨s3, hsend, h⟩ := ok_of_bind h
    cases h
    exact ⟨_, (sendCommand_joined (tensor_untouched htensor) hsend hin).setTagsOf fun e => ⟨_, _, _, _, rfl⟩, rfl, rfl, rfl⟩

theorem streamRows_queues {a : Reg} {kind : MKind} (h : s.streamRows a kind = .ok t) : QueuesNow kind s t := by
  obtain ⟨-, -, h⟩ := ok_of_bind h
  obtain ⟨⟨o, s2⟩, htensor, h⟩ := ok_of_bind h
  obtain ⟨f, -, h⟩ := ok_of_bind h
  obtain ⟨-, -, h⟩ := ok_of_bind h
  obtain ⟨-, -, h⟩ := ok_of_bind h
  obtain ⟨-, -, hsend⟩ := ok_of_bind h
  have hin := newCommand_outside hspan kind
  exact ⟨_, sendCommand_joined (tensor_untouched htensor) hsend hin, rfl, rfl, rfl⟩

theorem mgrd_queues {a b : Reg} (h : s.mgrd a b = .ok t) : QueuesNow .grd s t := by
  obtain ⟨-, -, h⟩ := ok_of_bind h
  obtain ⟨⟨x, s2⟩, hx, h⟩ := ok_of_bind h
  obtain ⟨⟨g, s3⟩, hg, h⟩ := ok_of_bind h
  obtain ⟨fx, -, h⟩ := ok_of_bind h
  obtain ⟨fg, -, h⟩ := ok_of_bind h
  obtain ⟨-, -, h⟩ := ok_of_bind h
  obtain ⟨-, -, h⟩ := ok_of_bind h
  obtain ⟨-, -, hsend⟩ := ok_of_bind h
  have hin := newCommand_outside hspan .grd
  exact ⟨_, sendCommand_joined ((tensor_untouched hx).trans (tensor_untouched hg)) hsend hin, rfl, rfl, rfl⟩

theorem mdrain_queues {a b : Reg} (h : s.mdrain a b = .ok t) : QueuesNow .drain s t := by
  obtain ⟨-, -, h⟩ := ok_of_bind h
  obtain ⟨⟨o, s2⟩, htensor, h⟩ := ok_of_bind h
  obtain ⟨f, -, h⟩ := ok_of_bind h
  obtain ⟨-, -, h⟩ := ok_of_bind h
  obtain ⟨-, -, hsend⟩ := ok_of_bind h
  have hu := tensor_untouched htensor
  have hin := newCommand_outside (hu.engine.1 ▸ hspan) .drain
  exact ⟨_, sendCommand_joined hu hsend hin, rfl, hu.now, rfl⟩

theorem mswap_queues (h : s.mswap = .ok t) : QueuesNow .swap s t := by
  obtain ⟨-, -, h⟩ := ok_of_bind h
  obtain ⟨s2, hsend, h⟩ := ok_of_bind h
  cases h
  have hin := newCommand_outside hspan .swap
  exact ⟨_, (sendCommand_joined (.refl s) hsend hin).setTagsOf fun e => ⟨_, _, _, _, rfl⟩, rfl, rfl, rfl⟩

theorem mzero_queues {b : Reg} (h : s.mzero b = .ok t) : QueuesNow .zero s t := by
  obtain ⟨-, -, hsend⟩ := ok_of_bind h
  have hin := newCommand_outside hspan .zero
  exact ⟨_, sendCommand_joined (.refl s) hsend hin, rfl, rfl, rfl⟩

theorem matrixWord_queues {i : Instr} {k : MKind} {f : State → Except Stop State} (hw : matrixWord i = some (k, f)) (h : f s = .ok t) :
    QueuesNow k s t := by
  unfold matrixWord at hw
  split at hw <;> cases hw
  · exact loadWeights_queues hspan h
  · exact loadWeights_queues hspan h
  · exact mswap_queues hspan h
  · exact streamRows_queues hspan h
  · exact streamRows_queues hspan h
  · exact mgrd_queues hspan h
  · exact mdrain_queues hspan h
  · exact mzero_queues hspan h
end joins

end Sys2Proof.Proofs
end

section
/-! The command that a matrix word queues, and its operands (R202, R205 to R212, R216, R220). -/

namespace Sys2Proof.Proofs

open Sys2Proof Sys2Proof.Machine Sys2Proof.Safety Sys2Proof.Claims Sys2Proof.Laws

/-- A step that has an answer hands it on. -/
theorem bind_ok {α β : Type} {x : Except Stop α} {f : α → Except Stop β} {a : α} {r : Except Stop β} (h : x = .ok a) (g : f a = r) :
    (x >>= f) = r := by
  rw [h]
  exact g

/-! ## Operands -/

/-- The machine once the entry that a register names has been read through the layout cache. -/
def fetched (s : State) (r : Reg) : State := s.setCore s.focusCore (cached s.curCore (s.reg r).toNat)

theorem curCore_fetched (s : State) (r : Reg) : (fetched s r).curCore = cached s.curCore (s.reg r).toNat :=
  curCore_modCurCore s fun k => cached k (s.reg r).toNat

theorem cur_fetched (s : State) (r : Reg) : (fetched s r).cur = s.cur := cur_modCurCore (f := fun k => cached k (s.reg r).toNat) rfl

theorem reg_fetched (s : State) (r q : Reg) : (fetched s r).reg q = s.reg q := congrArg (fun c : Ctx => c.reg q) (cur_fetched s r)

theorem tensorOf_fetched (s : State) (r q : Reg) : tensorOf (fetched s r) q = tensorOf s q := by
  rw [tensorOf, tensorOf, entryOf, entryOf, reg_fetched, reg_fetched, curCore_fetched]
  rfl

/-- A tensor whose entry no write has left in doubt is the one that the table holds (R142, R202). -/
theorem tensor_settled (s : State) (r : Reg) (hsyn : s.curCore.loc.syn = []) (hstale : s.curCore.stale = []) :
    s.tensor r = .ok (tensorOf s r, fetched s r) := by
  have hdoubt : SMap.get [] (s.core s.focusCore).stale (s.reg r).toNat = [] := by rw [show (s.core s.focusCore).stale = [] from hstale]; rfl
  rw [State.tensor]
  dsimp only
  rw [checkEntry_ok hsyn, useEntry_settled hsyn _ hdoubt]
  rfl

theorem format_ok {o : MOperand} {ok : Nat → Bool} {cols : Nat} (hok : ok (lteFmt o.lte) = true)
    (hpip : isPip (lteFmt o.lte) = true → cols % 16 = 0) : o.format ok cols = .ok (lteFmt o.lte) := by
  have hbad : tensorBad ok cols o.lte = false := by
    rw [tensorBad, hok]
    cases hp : isPip (lteFmt o.lte)
    · rfl
    · rw [hpip hp]
      rfl
  rw [MOperand.format, hbad]
  rfl

theorem check_ok {s : State} {r : Reg} {fmts : List Nat} {bundles : Bool} {rows cols : Nat} (h : TensorOk s r fmts bundles rows cols) (idx : Nat) :
    (tensorOf s r).check idx (tensorFmt s r) bundles rows cols = .ok () := by
  obtain ⟨-, hpip, hbad, hspace, hcols, hrows⟩ := h
  have hblocks : (isPip (tensorFmt s r) && !bundles && coordOf (s.reg (regPlus r 1)) 0 % 16 != 0) = false := by
    cases hp : isPip (tensorFmt s r)
    · rfl
    · cases bundles
      · rw [(hpip hp).2 rfl]
        rfl
      · rfl
  have hin : (decide (lteSize (tensorOf s r).lte 0 < coordOf (tensorOf s r).coord 0 + (if bundles then cols / 16 else cols) - 1)
      || decide (lteSize (tensorOf s r).lte 1 < coordOf (tensorOf s r).coord 1 + rows - 1)) = false := by
    rw [tensorOf, Bool.or_eq_false_iff, decide_eq_false_iff_not, decide_eq_false_iff_not]
    dsimp only
    exact ⟨by omega, by omega⟩
  have hlocal : (spaceOf (lteBase (tensorOf s r).lte) != 0) = false := by
    rw [show spaceOf (lteBase (tensorOf s r).lte) = 0 from hspace]
    rfl
  unfold MOperand.check
  exact bind_ok (failIf_false hbad _) (bind_ok (failIf_false hblocks _) (bind_ok (failIf_false hin _) (failIf_false hlocal _)))

theorem engineFmt_of_mem {f : Nat} (h : f ∈ [0x0A, 0x0B, 0x0C, 0x10, 0x11, 0x12]) : engineFmt f = true := by
  simp only [List.mem_cons, List.not_mem_nil, or_false] at h
  obtain rfl | rfl | rfl | rfl | rfl | rfl := h <;> rfl

/-! ## The command of each word -/

section words
variable {s : State} (hspan : s.cur.span = none) (hroom : s.curCore.me.queue.length < 4) (hsyn : s.curCore.loc.syn = []) (hstale : s.curCore.stale = [])

include hroom in
theorem commandRoom_ok : s.commandRoom = .ok () := by
  have hfull : decide (4 ≤ s.curCore.me.queue.length) = false := decide_eq_false (by omega)
  rw [State.commandRoom, hfull, Bool.and_false]
  rfl

/-- A command on the tensor that a register names. -/
def onTensor (s : State) (k : MKind) (a : Reg) : MCmd :=
  { s.newCommand k with a := tensorOf s a, fmt := BitVec.ofNat 7 (tensorFmt s a) }

include hsyn hstale in
theorem fetched_untouched (r : Reg) : Untouched s (fetched s r) := tensor_untouched (tensor_settled s r hsyn hstale)

include hspan hroom hsyn hstale in
theorem loadWeights_joins {a : Reg} {bundles : Bool} {fmts : List Nat} (h : TensorOk s a fmts bundles s.curCore.me.gn s.curCore.me.gk)
    (hfmt : (if bundles then (fun f => engineFmt f && f != 0x0C) else engineFmt) (tensorFmt s a) = true) :
    ∃ t, s.loadWeights a bundles = .ok t ∧ Joined s t (onTensor s (if bundles then .ldws else .ldw) a) := by
  have hin : (onTensor s (if bundles then .ldws else .ldw) a).inSpan = false := newCommand_outside hspan (if bundles then .ldws else .ldw)
  have hjoin := joined_sent (m := onTensor s (if bundles then .ldws else .ldw) a) (fetched_untouched hsyn hstale a)
  have hcheck := check_ok h (s.reg a).toNat
  obtain ⟨-, hpip, -⟩ := h
  refine ⟨_, ?_, hjoin.setTagsOf (f := fun e => { e with ptsh := BitVec.ofNat 7 (tensorFmt s a), pspsh := bundles }) fun e => ⟨_, _, _, _, rfl⟩⟩
  unfold State.loadWeights
  refine bind_ok (commandRoom_ok hroom) (bind_ok (tensor_settled s a hsyn hstale) ?_)
  cases bundles
  · exact bind_ok (format_ok hfmt fun hp => (hpip hp).1) (bind_ok hcheck (bind_ok (sendCommand_outside hin) rfl))
  · exact bind_ok (format_ok hfmt fun _ => rfl) (bind_ok hcheck (bind_ok (sendCommand_outside hin) rfl))

include hspan hroom hsyn hstale in
theorem streamRows_joins {a : Reg} {kind : MKind} (h : TensorOk s a [0x0A, 0x0B, 0x0C, 0x10, 0x11, 0x12] false s.curCore.me.gm
    (if kind == .fwd then s.curCore.me.gk else s.curCore.me.gn)) (htag : s.curCore.me.ptact.toNat = tensorFmt s a) :
    ∃ t, s.streamRows a kind = .ok t ∧ Joined s t (onTensor s kind a) := by
  have hin : (onTensor s kind a).inSpan = false := newCommand_outside hspan kind
  have hcheck := check_ok h (s.reg a).toNat
  obtain ⟨hfmt, hpip, -⟩ := h
  have hf : (tensorOf s a).format engineFmt (if kind == .fwd then (s.newCommand kind).gk else (s.newCommand kind).gn) = .ok (tensorFmt s a) :=
    format_ok (engineFmt_of_mem hfmt) fun hp => (hpip hp).1
  have hme : (fetched s a).curCore.me = s.curCore.me := (fetched_untouched hsyn hstale a).engine.2
  have htagged : (tensorFmt s a == 0) = false := by
    rw [show tensorFmt s a = lteFmt (entryOf s (s.reg a).toNat) from rfl]
    simp only [List.mem_cons, List.not_mem_nil, or_false] at hfmt
    obtain h | h | h | h | h | h := hfmt <;> rw [h] <;> rfl
  refine ⟨_, ?_, joined_sent (fetched_untouched hsyn hstale a)⟩
  have hsame : (tensorFmt s a != (fetched s a).curCore.me.ptact.toNat) = false := by rw [hme, htag, bne_self_eq_false]
  have hnone : ((fetched s a).curCore.me.ptact.toNat == 0) = false := by rw [hme, htag, htagged]
  unfold State.streamRows
  exact bind_ok (commandRoom_ok hroom) (bind_ok (tensor_settled s a hsyn hstale) (bind_ok hf (bind_ok (failIf_false hnone _)
    (bind_ok (failIf_false hsame _) (bind_ok hcheck (sendCommand_outside hin))))))

include hspan hroom hsyn hstale in
theorem mgrd_joins {a b : Reg} (ha : TensorOk s a [0x0A, 0x0B, 0x0C] false s.curCore.me.gm s.curCore.me.gk)
    (hb : TensorOk s b [0x0A, 0x0B, 0x0C] false s.curCore.me.gm s.curCore.me.gn) (hsame : tensorFmt s a = tensorFmt s b) :
    ∃ t, s.mgrd a b = .ok t ∧ Joined s t { onTensor s .grd a with b := tensorOf s b } := by
  have hin : ({ onTensor s .grd a with b := tensorOf s b } : MCmd).inSpan = false := newCommand_outside hspan .grd
  have hplain {r : Reg} (h : tensorFmt s r ∈ [0x0A, 0x0B, 0x0C]) : (engineFmt (tensorFmt s r) && !isPip (tensorFmt s r)) = true := by
    simp only [List.mem_cons, List.not_mem_nil, or_false] at h
    obtain h | h | h := h <;> rw [h] <;> rfl
  have hchecka := check_ok ha (s.reg a).toNat
  have hcheckb := check_ok hb (s.reg b).toNat
  obtain ⟨hfa, hpa, -⟩ := ha
  obtain ⟨hfb, hpb, -⟩ := hb
  have hsyn2 : (fetched s a).curCore.loc.syn = [] := by rw [curCore_fetched]; exact hsyn
  have hstale2 : (fetched s a).curCore.stale = [] := by rw [curCore_fetched]; exact hstale
  have hx : (tensorOf s a).format (fun f => engineFmt f && !isPip f) (s.newCommand .grd).gk = .ok (tensorFmt s a) :=
    format_ok (hplain hfa) fun hp => (hpa hp).1
  have hg : (tensorOf s b).format (fun f => engineFmt f && !isPip f) (s.newCommand .grd).gn = .ok (tensorFmt s b) :=
    format_ok (hplain hfb) fun hp => (hpb hp).1
  have hu := (fetched_untouched hsyn hstale a).trans (fetched_untouched hsyn2 hstale2 b)
  refine ⟨_, ?_, joined_sent hu⟩
  have hsecond : (fetched s a).tensor b = .ok (tensorOf s b, fetched (fetched s a) b) := by
    rw [tensor_settled _ b hsyn2 hstale2, tensorOf_fetched]
  have hfmts : (tensorFmt s a != tensorFmt s b) = false := by rw [hsame, bne_self_eq_false]
  unfold State.mgrd
  refine bind_ok (commandRoom_ok hroom) (bind_ok (tensor_settled s a hsyn hstale) (bind_ok hsecond (bind_ok hx (bind_ok hg
    (bind_ok (failIf_false hfmts _) (bind_ok hchecka (bind_ok hcheckb ?_)))))))
  exact sendCommand_outside hin

include hspan hroom in
theorem mswap_joins : ∃ t, s.mswap = .ok t ∧ Joined s t (s.newCommand .swap) := by
  refine ⟨_, ?_, (joined_sent (m := s.newCommand .swap) (.refl s)).setTagsOf
    (f := fun e => { e with ptact := e.ptsh, ptsh := e.ptact, pspact := e.pspsh, pspsh := e.pspact }) fun e => ⟨_, _, _, _, rfl⟩⟩
  unfold State.mswap
  exact bind_ok (commandRoom_ok hroom) (bind_ok (sendCommand_outside (newCommand_outside hspan .swap)) rfl)

include hspan hroom in
theorem mzero_joins {b : Reg} : ∃ t, s.mzero b = .ok t ∧ Joined s t { s.newCommand .zero with pl := b.toNat } := by
  refine ⟨_, ?_, joined_sent (.refl s)⟩
  rw [State.mzero, commandRoom_ok hroom]
  exact sendCommand_outside (newCommand_outside hspan .zero)
end words

end Sys2Proof.Proofs
end

section
/-! MDRAIN checks every sector of its destination (R216); the command of a word in the terms of the state before it; MWAIT and MAMAX
(R221, R222). -/

namespace Sys2Proof.Proofs

open Sys2Proof Sys2Proof.Machine Sys2Proof.Safety Sys2Proof.Claims Sys2Proof.Laws

/-! ## MDRAIN -/

section drain
variable {s : State} {core a n : Nat}

theorem checkPlace_within (hn : 0 < n) (hend : a + n ≤ 2 ^ 23) (hsync : s.touchesSync a n = false) (hpool : s.touchesPool a n = false) :
    s.checkPlace core a n = .ok () := by
  have hlocal : (decide (2 ^ 23 < a % 2 ^ 64 + n) || decide (a ≠ a % 2 ^ 23)) = false := by
    simp only [Bool.or_eq_false_iff, decide_eq_false_iff_not]
    omega
  unfold State.checkPlace
  exact bind_ok (failIf_false hlocal _) (bind_ok (failIf_false hsync _) (failIf_false hpool _))

/-- A unit of a row takes bits, whatever the format. -/
theorem unit_pos {o : MOperand} {fmt cols row : Nat} (hf : fmt ∈ [0x0A, 0x0B, 0x0C, 0x10, 0x11, 0x12]) {u : Nat × Nat}
    (h : u ∈ o.rowUnits fmt false cols row) : 0 < u.2 := by
  have hwidth : 0 < (unitShape fmt false).1 := by
    simp only [List.mem_cons, List.not_mem_nil, or_false] at hf
    obtain rfl | rfl | rfl | rfl | rfl | rfl := hf <;> decide
  rw [MOperand.rowUnits, List.mem_map] at h
  obtain ⟨t, -, rfl⟩ := h
  exact hwidth

theorem fmt_fits {f : Nat} (hf : f ∈ [0x0A, 0x0B, 0x0C, 0x10, 0x11, 0x12]) : (BitVec.ofNat 7 f).toNat = f := by
  simp only [List.mem_cons, List.not_mem_nil, or_false] at hf
  obtain rfl | rfl | rfl | rfl | rfl | rfl := hf <;> rfl

/-- The command of MDRAIN: rows and columns stand in its control word. -/
def drainCommand (s : State) (a b : Reg) : MCmd :=
  { onTensor s .drain a with pl := (s.reg b).toNat % 2, rows := (s.reg b).toNat / 2 ^ 8 % 2 ^ 7 + 1, cols := (s.reg b).toNat / 2 ^ 16 % 2 ^ 7 + 1 }

theorem checkDrain_ok {m : MCmd} (hf : m.fmt.toNat ∈ [0x0A, 0x0B, 0x0C, 0x10, 0x11, 0x12])
    (h : ∀ row u, row < m.rows → u ∈ m.a.rowUnits m.fmt.toNat false m.cols row →
      u.1 + u.2 ≤ 2 ^ 23 ∧ s.touchesSync u.1 u.2 = false ∧ s.touchesPool u.1 u.2 = false) : s.checkDrain m = .ok () :=
  forM_ok fun row hrow => forM_ok fun u hu => by
    obtain ⟨-, hlt⟩ := (mem_rangeFrom m.rows 0 row).mp hrow
    obtain ⟨hend, hsync, hpool⟩ := h row u (by omega) hu
    exact checkPlace_within (unit_pos hf hu) hend hsync hpool

theorem mdrain_joins {a b : Reg} (hspan : s.cur.span = none) (hroom : s.curCore.me.queue.length < 4) (hsyn : s.curCore.loc.syn = [])
    (hstale : s.curCore.stale = [])
    (h : TensorOk s a [0x0A, 0x0B, 0x0C, 0x10, 0x11, 0x12] false ((s.reg b).toNat / 2 ^ 8 % 2 ^ 7 + 1) ((s.reg b).toNat / 2 ^ 16 % 2 ^ 7 + 1))
    (hrows : ∀ row u, row < (s.reg b).toNat / 2 ^ 8 % 2 ^ 7 + 1 →
      u ∈ (tensorOf s a).rowUnits (tensorFmt s a) false ((s.reg b).toNat / 2 ^ 16 % 2 ^ 7 + 1) row →
      u.1 + u.2 ≤ 2 ^ 23 ∧ s.touchesSync u.1 u.2 = false ∧ s.touchesPool u.1 u.2 = false) :
    ∃ t, s.mdrain a b = .ok t ∧ Joined s t (drainCommand s a b) := by
  have hu := fetched_untouched hsyn hstale a
  have hcheck := check_ok h (s.reg a).toNat
  obtain ⟨hfmt, hpip, -⟩ := h
  have hfit : (drainCommand s a b).fmt.toNat = tensorFmt s a := fmt_fits hfmt
  have hnew : (fetched s a).newCommand .drain = s.newCommand .drain := by
    rw [State.newCommand, State.newCommand, State.origin, State.origin, State.spanCycle, State.spanCycle, hu.engine.1, hu.engine.2]
    rfl
  have hin : (drainCommand s a b).inSpan = false := newCommand_outside hspan .drain
  have hdrain : (fetched s a).checkDrain (drainCommand s a b) = .ok () := by
    refine checkDrain_ok (by rw [hfit]; exact hfmt) fun row u hrow hunit => ?_
    rw [hfit] at hunit
    exact hrows row u hrow hunit
  have hr : field (s.reg b).toNat 14 8 = (s.reg b).toNat / 2 ^ 8 % 2 ^ 7 := field_eq ..
  have hc : field (s.reg b).toNat 22 16 = (s.reg b).toNat / 2 ^ 16 % 2 ^ 7 := field_eq ..
  have hp : field (s.reg b).toNat 0 0 = (s.reg b).toNat % 2 := by
    rw [field_eq, Nat.pow_zero, Nat.div_one]
    rfl
  refine ⟨_, ?_, joined_sent hu⟩
  unfold State.mdrain
  refine bind_ok (commandRoom_ok hroom) (bind_ok (tensor_settled s a hsyn hstale) ?_)
  dsimp only
  rw [hnew, hr, hc, hp]
  exact bind_ok (format_ok (engineFmt_of_mem hfmt) fun hp => (hpip hp).1) (bind_ok hcheck (bind_ok hdrain (sendCommand_outside hin)))
end drain

/-! ## The words as they are issued -/

section issued
variable {i : Instr} {s s1 s2 : State} {v : Cv} {m : MCmd}

/-- What O30 says of a command that a word queues. -/
def Queues (i : Instr) (s : State) (v : Cv) (m : MCmd) : Prop :=
  ∃ t, exec i s = .next t ∧ t.curCore.me.queue = s.curCore.me.queue ++ [m] ∧ t.curCore.me.running = s.curCore.me.running
    ∧ t.curCore.me.acc = s.curCore.me.acc ∧ t.curCore.me.dw = s.curCore.me.dw ∧ t.curCore.me.wact = s.curCore.me.wact
    ∧ t.curCore.me.wsh = s.curCore.me.wsh ∧ rest t.cur = rest s.cur ∧ KeepsRegs s t ∧ t.cur.pc = nextPc s v ∧ SameMemory s t

theorem queues_of_joined {k : MKind} {f : State → Except Stop State} (h : Issues i s v s1) (hw : matrixWord i = some (k, f))
    (hf : f s1 = .ok s2) (hj : Joined s1 s2 m) : Queues i s v m := by
  obtain ⟨htaken, hgoes⟩ := h
  have hfront := taken_fronted htaken
  have hme : s1.curCore.me = s.curCore.me := hfront.me
  obtain ⟨cv, hissue⟩ := completes_on htaken hgoes (body := fun _ s => f s) hf (congrArg Ctx.loops hj.cur) (congrArg Ctx.pc hj.cur)
  have hclosed : (closed s2 cv (following s v s.cur.loops (s.cur.pc + 32)).1 (following s v s.cur.loops (s.cur.pc + 32)).2).curCore.me
      = s2.curCore.me := by
    rw [closed_curCore]
    rfl
  refine ⟨_, (exec_matrixWord hw s).trans hissue, ?_, ?_, ?_, ?_, ?_, ?_, ?_,
    keepsRegs_closed hfront (by rw [hj.cur]) (by rw [hj.cur]) (by rw [hj.cur]) (by rw [hj.cur]) _ _ _, by rw [cur_closed]; rfl, fun p a => ?_⟩
  · rw [hclosed, hj.queue, hme]
  · rw [hclosed, hj.running, hme]
  · rw [hclosed, hj.acc, hme]
  · rw [hclosed, hj.dw, hme]
  · rw [hclosed, hj.wact, hme]
  · rw [hclosed, hj.wsh, hme]
  · rw [closed_rest, hj.cur, hfront.rest]
  · rw [closed_spaceAt, hj.memory, hfront.spaceAt]

/-- A command without operands, as the state before the word gives it. -/
def bareCommand (s : State) (v : Cv) (k : MKind) : MCmd :=
  { kind := k, issued := s.now, gm := s.curCore.me.gm, gn := s.curCore.me.gn, gk := s.curCore.me.gk, sp := s.curCore.me.sp
    origin := { core := s.focusCore, ctx := s.focusCtx, head := v.head, members := v.n, midx := v.idx, phc := s.phc.toNat } }

theorem newCommand_fronted (f : Fronted s v s1) (hspan : s.cur.span = none) (k : MKind) : s1.newCommand k = bareCommand s v k := by
  have hspan1 : s1.cur.span = none := f.span.trans hspan
  rw [State.newCommand, State.origin, State.spanCycle, hspan1, f.cv, f.me, f.now, f.focusCore, f.focusCtx, f.phc]
  rfl

theorem entryOf_fronted (f : Fronted s v s1) (n : Nat) : entryOf s1 n = entryOf s n := by rw [entryOf, entryOf, f.loc, f.lr]

theorem tensorOf_fronted (f : Fronted s v s1) (r : Reg) : tensorOf s1 r = tensorOf s r := by
  rw [tensorOf, tensorOf, f.reg, f.reg, entryOf_fronted f]

theorem tensorFmt_fronted (f : Fronted s v s1) (r : Reg) : tensorFmt s1 r = tensorFmt s r := by
  rw [tensorFmt, tensorFmt, f.reg, entryOf_fronted f]

theorem tensorOk_fronted (f : Fronted s v s1) (r : Reg) (fmts : List Nat) (b : Bool) (rows cols : Nat) :
    TensorOk s1 r fmts b rows cols = TensorOk s r fmts b rows cols := by
  rw [TensorOk, TensorOk, f.reg, f.reg, entryOf_fronted f]

theorem onTensor_fronted (f : Fronted s v s1) (hspan : s.cur.span = none) (k : MKind) (a : Reg) :
    onTensor s1 k a = { bareCommand s v k with a := tensorOf s a, fmt := BitVec.ofNat 7 (tensorFmt s a) } := by
  rw [onTensor, newCommand_fronted f hspan, tensorOf_fronted f, tensorFmt_fronted f]

theorem touchesSync_fronted (f : Fronted s v s1) (a n : Nat) : s1.touchesSync a n = s.touchesSync a n := by
  have hlist : s1.localSync = s.localSync := by rw [State.localSync, State.localSync, f.lr]
  have hsync : s1.isSync = s.isSync := funext fun sec => by rw [State.isSync, State.isSync, hlist]
  rw [State.touchesSync, State.touchesSync, hsync]

theorem touchesPool_fronted (f : Fronted s v s1) (a n : Nat) : s1.touchesPool a n = s.touchesPool a n := by
  simp only [State.touchesPool, State.inPool, f.lr]

/-- The word whose operands pass their checks queues the command that they name. -/
theorem command_queues (h : Issues i s v s1) (hm : commandOf i s v = some m) (hspan : s.cur.span = none)
    (hroom : s.curCore.me.queue.length < 4) (hstale : s.curCore.stale = []) (hsyn : s.curCore.loc.syn = []) (hok : CommandOk i s) :
    Queues i s v m := by
  have f := taken_fronted h.1
  have hspan1 : s1.cur.span = none := f.span.trans hspan
  have hroom1 : s1.curCore.me.queue.length < 4 := by rw [f.me]; exact hroom
  have hsyn1 : s1.curCore.loc.syn = [] := by rw [f.loc]; exact hsyn
  have hstale1 : s1.curCore.stale = [] := (f.core (·.stale) fun _ _ _ => rfl).trans hstale
  have hme := f.me
  unfold commandOf at hm
  unfold CommandOk at hok
  split at hm <;> dsimp only at hok <;> cases hm
  case h_1 a =>
    rw [← tensorOk_fronted f, ← hme] at hok
    have hfmt := engineFmt_of_mem hok.1
    obtain ⟨t, ht, hj⟩ := loadWeights_joins (bundles := false) hspan1 hroom1 hsyn1 hstale1 hok hfmt
    rw [show (if false = true then MKind.ldws else MKind.ldw) = .ldw from rfl, onTensor_fronted f hspan] at hj
    exact queues_of_joined h rfl ht hj
  case h_2 a =>
    rw [← tensorOk_fronted f, ← hme] at hok
    have hfmt : (engineFmt (tensorFmt s1 a) && tensorFmt s1 a != 0x0C) = true := by
      have hmem : tensorFmt s1 a ∈ [0x0A, 0x0B, 0x10, 0x11, 0x12] := hok.1
      simp only [List.mem_cons, List.not_mem_nil, or_false] at hmem
      obtain h | h | h | h | h := hmem <;> rw [h] <;> rfl
    obtain ⟨t, ht, hj⟩ := loadWeights_joins (bundles := true) hspan1 hroom1 hsyn1 hstale1 hok hfmt
    rw [show (if true = true then MKind.ldws else MKind.ldw) = .ldws from rfl, onTensor_fronted f hspan] at hj
    exact queues_of_joined h rfl ht hj
  case h_3 =>
    obtain ⟨t, ht, hj⟩ := mswap_joins hspan1 hroom1
    rw [newCommand_fronted f hspan] at hj
    exact queues_of_joined h rfl ht hj
  case h_4 a =>
    rw [← tensorOk_fronted f, ← hme, ← tensorFmt_fronted f] at hok
    obtain ⟨t, ht, hj⟩ := streamRows_joins (kind := .fwd) hspan1 hroom1 hsyn1 hstale1 hok.1 hok.2
    rw [onTensor_fronted f hspan] at hj
    exact queues_of_joined h rfl ht hj
  case h_5 a =>
    rw [← tensorOk_fronted f, ← hme, ← tensorFmt_fronted f] at hok
    obtain ⟨t, ht, hj⟩ := streamRows_joins (kind := .bwd) hspan1 hroom1 hsyn1 hstale1 hok.1 hok.2
    rw [onTensor_fronted f hspan] at hj
    exact queues_of_joined h rfl ht hj
  case h_6 a b =>
    obtain ⟨ha, hb, hsame⟩ := hok
    rw [← tensorOk_fronted f, ← hme] at ha hb
    rw [← tensorFmt_fronted f, ← tensorFmt_fronted f] at hsame
    obtain ⟨t, ht, hj⟩ := mgrd_joins hspan1 hroom1 hsyn1 hstale1 ha hb hsame
    rw [onTensor_fronted f hspan, tensorOf_fronted f] at hj
    exact queues_of_joined h rfl ht hj
  case h_7 a b =>
    obtain ⟨htensor, hrows⟩ := hok
    rw [← tensorOk_fronted f, ← f.reg] at htensor
    have hrows1 : ∀ row u, row < (s1.reg b).toNat / 2 ^ 8 % 2 ^ 7 + 1 →
        u ∈ (tensorOf s1 a).rowUnits (tensorFmt s1 a) false ((s1.reg b).toNat / 2 ^ 16 % 2 ^ 7 + 1) row →
        u.1 + u.2 ≤ 2 ^ 23 ∧ s1.touchesSync u.1 u.2 = false ∧ s1.touchesPool u.1 u.2 = false := by
      intro row u hrow hu
      rw [f.reg] at hrow hu
      rw [tensorOf_fronted f, tensorFmt_fronted f] at hu
      rw [touchesSync_fronted f, touchesPool_fronted f]
      exact hrows row u hrow hu
    obtain ⟨t, ht, hj⟩ := mdrain_joins hspan1 hroom1 hsyn1 hstale1 htensor hrows1
    rw [drainCommand, onTensor_fronted f hspan, f.reg] at hj
    exact queues_of_joined h rfl ht hj
  case h_8 b =>
    obtain ⟨t, ht, hj⟩ := mzero_joins (b := b) hspan1 hroom1
    rw [newCommand_fronted f hspan] at hj
    exact queues_of_joined h rfl ht hj

end issued

end Sys2Proof.Proofs
end

section
/-! MWAIT and MAMAX once the engine has nothing left that they wait for (R221, R222). -/

namespace Sys2Proof.Proofs

open Sys2Proof Sys2Proof.Machine Sys2Proof.Safety Sys2Proof.Claims Sys2Proof.Laws

section waits
variable {s s1 : State} {v : Cv}

theorem mwait_goesOn (h : Issues .mwait s v s1) (hqueue : s.curCore.me.queue = []) (hrun : s.curCore.me.running = []) :
    ∃ t, exec .mwait s = .next t ∧ rest t.cur = rest s.cur ∧ KeepsRegs s t ∧ t.cur.pc = nextPc s v ∧ OnlyFocus s t := by
  obtain ⟨htaken, hgoes⟩ := h
  have f := taken_fronted htaken
  have hbody : (if s1.curCore.me.queue.isEmpty && s1.curCore.me.running.isEmpty then .ok s1 else .error .event : Except Stop State) = .ok s1 := by
    rw [f.me, hqueue, hrun]
    rfl
  obtain ⟨cv, hissue⟩ := completes_on htaken hgoes
    (body := fun _ s => if s.curCore.me.queue.isEmpty && s.curCore.me.running.isEmpty then .ok s else .error .event) hbody rfl rfl
  refine ⟨_, hissue, ?_, keepsRegs_closed f rfl rfl rfl rfl _ _ _, by rw [cur_closed]; rfl, onlyFocus_closed f.only _ _ _⟩
  rw [closed_rest, f.rest]

/-- The engine in focus with AMAX cleared. -/
def amaxTaken (s : State) : State := s.setTagsOf fun e => { e with amax := 0 }

theorem mamax_returns {d : Reg} (h : Issues (.mamax d) s v s1)
    (hdrains : ∀ m, m ∈ s.curCore.me.queue ++ s.curCore.me.running → m.kind ≠ .drain) :
    ∃ t, exec (.mamax d) s = .next t ∧ t.curCore.me.amax = 0 ∧ t.curCore.me.queue = s.curCore.me.queue
      ∧ t.curCore.me.running = s.curCore.me.running ∧ t.cur.regs = s.cur.regs ∧ rest t.cur = rest s.cur ∧ t.cur.pc = nextPc s v
      ∧ SameMemory s t
      ∧ (d ≠ 0 → { cycle := s.now + 2, reg := physReg s.cur.wb d.toNat, val := s.curCore.me.amax.setWidth 64
                   inSpan := s.cur.span.isSome } ∈ t.cur.land) := by
  obtain ⟨htaken, hgoes⟩ := h
  have f := taken_fronted htaken
  have hnone (l : List MCmd) (hl : ∀ m, m ∈ l → m ∈ s.curCore.me.queue ++ s.curCore.me.running) : l.any (fun m => m.kind == .drain) = false := by
    rw [List.any_eq_false]
    exact fun m hm hk => hdrains m (hl m hm) (eq_of_beq hk)
  have hcur : (amaxTaken s1).cur = s1.cur := cur_setTagsOf _ _
  have hme : ((amaxTaken s1).result d (s1.curCore.me.amax.setWidth 64) 2).curCore.me = { s1.curCore.me with amax := 0 } := by
    rw [State.result, me_setCur, amaxTaken, me_setTagsOf]
  have hlate : (1 : Nat) < 2 := by decide
  have hbody : exec (.mamax d) s = issue (.mamax d) s fun _ s =>
      if s.cur.span.isSome && s.curCore.me.running.any (fun m => m.kind == .drain) then fail (Exc.timing 0)
      else if s.cur.span.isNone && (s.curCore.me.queue ++ s.curCore.me.running).any (fun m => m.kind == .drain) then .error .event
      else .ok ((amaxTaken s).result d (s.curCore.me.amax.setWidth 64) 2) := rfl
  have hok : (if s1.cur.span.isSome && s1.curCore.me.running.any (fun m => m.kind == .drain) then fail (Exc.timing 0)
      else if s1.cur.span.isNone && (s1.curCore.me.queue ++ s1.curCore.me.running).any (fun m => m.kind == .drain) then .error .event
      else .ok ((amaxTaken s1).result d (s1.curCore.me.amax.setWidth 64) 2)) = .ok ((amaxTaken s1).result d (s1.curCore.me.amax.setWidth 64) 2) := by
    rw [f.me, hnone _ fun m hm => List.mem_append_right _ hm, hnone _ fun m hm => hm, Bool.and_false, Bool.and_false]
    rfl
  obtain ⟨cv, hissue⟩ := completes_on htaken hgoes (body := fun _ s =>
      if s.cur.span.isSome && s.curCore.me.running.any (fun m => m.kind == .drain) then fail (Exc.timing 0)
      else if s.cur.span.isNone && (s.curCore.me.queue ++ s.curCore.me.running).any (fun m => m.kind == .drain) then .error .event
      else .ok ((amaxTaken s).result d (s.curCore.me.amax.setWidth 64) 2)) hok
    (by rw [result_late _ _ _ hlate, cur_setCur, hcur]) (by rw [result_late _ _ _ hlate, cur_setCur, hcur])
  have hclosed : (closed ((amaxTaken s1).result d (s1.curCore.me.amax.setWidth 64) 2) cv (following s v s.cur.loops (s.cur.pc + 32)).1
      (following s v s.cur.loops (s.cur.pc + 32)).2).curCore.me = { s.curCore.me with amax := 0 } := by
    rw [closed_curCore, ← f.me]
    exact hme
  refine ⟨_, hbody.trans hissue, by rw [hclosed], by rw [hclosed], by rw [hclosed], ?_, ?_, by rw [cur_closed]; rfl, fun p a => ?_, fun hd => ?_⟩
  · rw [cur_closed, result_late _ _ _ hlate, cur_setCur, hcur]
    exact f.regs
  · rw [closed_rest, result_late _ _ _ hlate, cur_setCur, hcur]
    exact f.rest
  · rw [closed_spaceAt, State.result, onlyFocus_spaceAt (onlyFocus_setCur _ _), amaxTaken, sameMemory_setTagsOf, f.spaceAt]
  · rw [cur_closed, result_late _ _ _ hlate, cur_setCur, hcur, if_neg hd, f.me, f.wb, f.span, show (amaxTaken s1).now = s.now from f.now]
    exact List.mem_append_right _ List.mem_cons_self
end waits

/-- Settles O30, word by word. -/
theorem matrixWords : Obligations.MatrixWords := by
  intro i s s1 v
  refine ⟨fun k f s2 hw h hspan hf => ?_, fun m hm h hspan hroom hstale hsyn hok => command_queues h hm hspan hroom hstale hsyn hok,
    fun h hqueue hrun => mwait_goesOn h hqueue hrun, fun d h hdrains => mamax_returns h hdrains⟩
  have hfront := taken_fronted h.1
  obtain ⟨m, hj, hk, hissued, hstart⟩ := matrixWord_queues (hfront.span.trans hspan) hw hf
  exact ⟨m, queues_of_joined h hw hf hj, hk, hissued.trans hfront.now, hstart⟩

end Sys2Proof.Proofs
end

section
/-! The checks of descriptors (R250): they give each descriptor its pieces, and touch nothing but the layout cache, the counts of
the scratchpads and the free choices. -/

namespace Sys2Proof.Proofs

open Sys2Proof Sys2Proof.Machine Sys2Proof.Safety Sys2Proof.Claims Sys2Proof.Laws

/-- Two states that differ in layout caches, counts of the scratchpads and free choices alone. -/
structure CacheOnly (s t : State) : Prop where
  fields : ∃ cores free, t = { s with cores := cores, free := free }
  core : ∀ c, ∃ lc loc, t.core c = { s.core c with lcache := lc, loc := loc } ∧ loc.bytes = (s.core c).loc.bytes

section caches
variable {s t u : State}

theorem CacheOnly.refl (s : State) : CacheOnly s s := ⟨⟨_, _, rfl⟩, fun _ => ⟨_, _, rfl, rfl⟩⟩

theorem CacheOnly.trans (h : CacheOnly s t) (g : CacheOnly t u) : CacheOnly s u := by
  obtain ⟨⟨c1, f1, h1⟩, hcore⟩ := h
  obtain ⟨⟨c2, f2, h2⟩, gcore⟩ := g
  refine ⟨⟨c2, f2, by rw [h2, h1]⟩, fun c => ?_⟩
  obtain ⟨lc1, loc1, e1, b1⟩ := hcore c
  obtain ⟨lc2, loc2, e2, b2⟩ := gcore c
  exact ⟨lc2, loc2, by rw [e2, e1], by rw [b2, e1]; exact b1⟩

theorem CacheOnly.focusCore (h : CacheOnly s t) : t.focusCore = s.focusCore := by
  obtain ⟨⟨_, _, rfl⟩, -⟩ := h
  rfl

theorem CacheOnly.now (h : CacheOnly s t) : t.now = s.now := by
  obtain ⟨⟨_, _, rfl⟩, -⟩ := h
  rfl

theorem CacheOnly.sliceCores (h : CacheOnly s t) : t.sliceCores = s.sliceCores := by
  obtain ⟨⟨_, _, rfl⟩, -⟩ := h
  rfl

theorem CacheOnly.slots (h : CacheOnly s t) (c : Nat) : (t.core c).slots = (s.core c).slots := by
  obtain ⟨_, _, e, -⟩ := h.core c
  rw [e]

theorem CacheOnly.cur (h : CacheOnly s t) : t.cur = s.cur := by
  have hfocus : t.focusCtx = s.focusCtx := by
    obtain ⟨⟨_, _, rfl⟩, -⟩ := h
    rfl
  obtain ⟨_, _, e, -⟩ := h.core s.focusCore
  rw [State.cur, State.ctx, h.focusCore, hfocus, e]
  rfl

theorem CacheOnly.memory (h : CacheOnly s t) : SameMemory s t := fun p a => by
  cases p with
  | loc c =>
    obtain ⟨_, _, e, b⟩ := h.core c
    rw [State.spaceAt, State.spaceAt, e]
    exact congrArg (fun m : Memory => m.byte a) b
  | phys =>
    obtain ⟨⟨_, _, rfl⟩, -⟩ := h
    rfl
  | host =>
    obtain ⟨⟨_, _, rfl⟩, -⟩ := h
    rfl
  | peer =>
    obtain ⟨⟨_, _, rfl⟩, -⟩ := h
    rfl

theorem cacheOnly_drawBool (s : State) : CacheOnly s s.drawBool.2 := ⟨⟨_, _, rfl⟩, fun _ => ⟨_, _, rfl, rfl⟩⟩

theorem cacheOnly_drawNat (s : State) : CacheOnly s s.drawNat.2 := ⟨⟨_, _, rfl⟩, fun _ => ⟨_, _, rfl, rfl⟩⟩

theorem cacheOnly_useEntry (s : State) (core n : Nat) : CacheOnly s (s.useEntry core n).2 := by
  have h : CacheOnly s (s.modCore core fun k =>
      { k with lcache := k.lcache.put (n % 64) n, loc := k.loc.countRead (wordsOf (s.lr.ltbase + 256 * n) 256) }) := by
    refine ⟨⟨_, _, rfl⟩, fun c => ?_⟩
    by_cases hc : c = core
    · subst hc
      exact ⟨_, _, core_modCore_self .., countRead_bytes ..⟩
    · exact ⟨_, _, core_modCore_ne _ _ hc, rfl⟩
  unfold State.useEntry
  dsimp only
  split
  · exact h
  · exact h.trans (cacheOnly_drawNat _)

theorem cacheOnly_translator (h : s.translator = .ok t) : CacheOnly s t := by
  unfold State.translator at h
  split at h
  · cases h
    exact CacheOnly.refl s
  · dsimp only at h
    split at h
    · cases h
    · cases h
      exact cacheOnly_drawBool s
end caches

/-- A descriptor with the pieces of its ends. -/
def Pieced (d x : Desc) : Prop := ∃ src dst elems, x = { d with src := src, dst := dst, elems := elems }

section checks
variable {s t : State} {d x : Desc}

/-- The last step of the checks of the ends: the translator is asked where an end lies in DEVICE space. -/
theorem translated {c : Prop} [Decidable c] {y : Desc}
    (h : (if c then s.translator >>= fun u => .ok (y, u) else Except.ok s >>= fun u => .ok (y, u)) = .ok (x, t)) : y = x ∧ CacheOnly s t := by
  split at h
  · obtain ⟨u, hu, h⟩ := ok_of_bind h
    cases h
    exact ⟨rfl, cacheOnly_translator hu⟩
  · obtain ⟨u, hu, h⟩ := ok_of_bind h
    cases hu
    cases h
    exact ⟨rfl, CacheOnly.refl s⟩

theorem endsOf_pieces (h : s.endsOf d = .ok (x, t)) : Pieced d x ∧ CacheOnly s t := by
  unfold State.endsOf at h
  dsimp only at h
  obtain ⟨-, -, h⟩ := ok_of_bind h
  obtain ⟨-, -, h⟩ := ok_of_bind h
  obtain ⟨-, -, h⟩ := ok_of_bind h
  obtain ⟨-, -, h⟩ := ok_of_bind h
  obtain ⟨-, -, h⟩ := ok_of_bind h
  obtain ⟨-, -, h⟩ := ok_of_bind h
  obtain ⟨-, -, h⟩ := ok_of_bind h
  split at h
  · obtain ⟨-, -, h⟩ := ok_of_bind h
    obtain ⟨-, -, h⟩ := ok_of_bind h
    split at h
    · cases h
    · obtain ⟨-, -, h⟩ := ok_of_bind h
      obtain ⟨-, -, h⟩ := ok_of_bind h
      obtain ⟨-, -, h⟩ := ok_of_bind h
      split at h
      · cases h
      · split at h <;>
        · obtain ⟨src, -, h⟩ := ok_of_bind h
          obtain ⟨dst, -, h⟩ := ok_of_bind h
          obtain ⟨u, hu, h⟩ := ok_of_bind h
          cases h
          exact ⟨⟨_, _, _, rfl⟩, (cacheOnly_useEntry s _ _).trans (cacheOnly_translator hu)⟩
  · split at h <;>
    · obtain ⟨src, -, h⟩ := ok_of_bind h
      split at h <;>
      · obtain ⟨dst, -, h⟩ := ok_of_bind h
        obtain ⟨rfl, hc⟩ := translated h
        exact ⟨⟨_, _, _, rfl⟩, hc⟩

theorem ok_of_atDesc {α : Type} {r : Except Stop α} {a : α} (h : atDesc d r = .ok a) : r = .ok a := by
  unfold atDesc at h
  split at h
  · cases h
  · exact h

theorem checkDesc_pieces (h : s.checkDesc d = .ok (x, t)) : Pieced d x ∧ CacheOnly s t := by
  have h := ok_of_atDesc h
  obtain ⟨-, -, h⟩ := ok_of_bind h
  obtain ⟨-, -, h⟩ := ok_of_bind h
  obtain ⟨⟨y, u⟩, hends, h⟩ := ok_of_bind h
  obtain ⟨-, -, h⟩ := ok_of_bind h
  cases h
  exact endsOf_pieces hends

/-- The descriptors that pass their checks are those given, each with its pieces. -/
theorem checkDescs_pieces : ∀ {ds xs : List Desc} {s t : State}, s.checkDescs ds = .ok (xs, t) → List.Forall₂ Pieced ds xs ∧ CacheOnly s t
  | [], xs, s, t, h => by
    cases h
    exact ⟨.nil, CacheOnly.refl s⟩
  | d :: r, xs, s, t, h => by
    unfold State.checkDescs at h
    obtain ⟨⟨y, u⟩, hd, h⟩ := ok_of_bind h
    obtain ⟨⟨l, w⟩, hr, h⟩ := ok_of_bind h
    cases h
    obtain ⟨hp, hc⟩ := checkDesc_pieces hd
    obtain ⟨hps, hcs⟩ := checkDescs_pieces hr
    exact ⟨.cons hp hps, hc.trans hcs⟩
end checks

end Sys2Proof.Proofs
end

section
/-! Acceptance of descriptors (R247, R260): as many as slots are free, in order; a claim that is lost marks the loser's clash and
nothing else. -/

namespace Sys2Proof.Proofs

open Sys2Proof Sys2Proof.Machine Sys2Proof.Safety Sys2Proof.Claims Sys2Proof.Laws

/-- A descriptor but for its clash. -/
def Reclashed (x y : Desc) : Prop := ∃ c, y = { x with clash := c }

theorem Reclashed.refl (x : Desc) : Reclashed x x := ⟨x.clash, rfl⟩

theorem Reclashed.trans {x y z : Desc} (h : Reclashed x y) (g : Reclashed y z) : Reclashed x z := by
  obtain ⟨c, rfl⟩ := h
  obtain ⟨d, rfl⟩ := g
  exact ⟨d, rfl⟩

/-! ## Slots whose descriptors change in their clash alone -/

/-- The same slots, their descriptors as before but for their clashes. -/
def Reslotted (l k : SMap Desc) : Prop := List.Forall₂ (fun p q => q.1 = p.1 ∧ Reclashed p.2 q.2) l k

section slots
variable {l k m : SMap Desc}

theorem Reslotted.refl (l : SMap Desc) : Reslotted l l := by
  induction l with
  | nil => exact .nil
  | cons p r ih => exact .cons ⟨rfl, .refl _⟩ ih

theorem Reslotted.trans (h : Reslotted l k) (g : Reslotted k m) : Reslotted l m := by
  induction h generalizing m with
  | nil => exact g
  | cons hp _ ih =>
    cases g with
    | cons gp gr => exact .cons ⟨gp.1.trans hp.1, hp.2.trans gp.2⟩ (ih gr)

theorem reslotted_mapVals {f : Nat → Desc → Desc} (hf : ∀ n x, Reclashed x (f n x)) (l : SMap Desc) : Reslotted l (l.mapVals f) := by
  induction l with
  | nil => exact .nil
  | cons p r ih => exact .cons ⟨rfl, hf _ _⟩ ih

theorem Reslotted.get?_some (h : Reslotted l k) {n : Nat} {x : Desc} (hx : SMap.get? l n = some x) :
    ∃ y, SMap.get? k n = some y ∧ Reclashed x y := by
  induction h with
  | nil => cases hx
  | @cons p q _ _ hp _ ih =>
    obtain ⟨i, a⟩ := p
    obtain ⟨j, b⟩ := q
    obtain ⟨hkey, hval⟩ := hp
    simp only at hkey hval
    subst hkey
    rw [SMap.get?] at hx ⊢
    split at hx
    · next he =>
      cases hx
      exact ⟨b, if_pos he, hval⟩
    · next he =>
      rw [if_neg he]
      exact ih hx

theorem Reslotted.holding (h : Reslotted l k) :
    (k.filter fun p => p.2.landed.isNone).length = (l.filter fun p => p.2.landed.isNone).length := by
  induction h with
  | nil => rfl
  | @cons p q _ _ hp _ ih =>
    obtain ⟨-, c, hval⟩ := hp
    have hlanded : q.2.landed = p.2.landed := by rw [hval]
    rw [List.filter_cons, List.filter_cons, hlanded]
    split
    · rw [List.length_cons, List.length_cons, ih]
    · exact ih

theorem Reslotted.keys (h : Reslotted l k) : k.map (·.1) = l.map (·.1) := by
  induction h with
  | nil => rfl
  | cons hp _ ih => rw [List.map_cons, List.map_cons, hp.1, ih]

/-- A descriptor put under a number that no slot has adds itself. -/
theorem put_perm {n : Nat} (x : Desc) (h : n ∉ l.map (·.1)) : (SMap.put l n x).Perm ((n, x) :: l) := by
  induction l with
  | nil => exact List.Perm.refl _
  | cons p r ih =>
    obtain ⟨i, y⟩ := p
    rw [List.map_cons, List.mem_cons, not_or] at h
    rw [SMap.put]
    split
    · exact List.Perm.refl _
    · rw [if_neg fun he => h.1 he.symm]
      exact ((ih h.2).cons _).trans (List.Perm.swap _ _ _)

theorem get?_absent {n : Nat} (h : n ∉ l.map (·.1)) : SMap.get? l n = none := by
  induction l with
  | nil => rfl
  | cons p r ih =>
    obtain ⟨i, y⟩ := p
    rw [List.map_cons, List.mem_cons, not_or] at h
    rw [SMap.get?, if_neg fun he => h.1 he.symm]
    exact ih h.2

/-- The number above those of all slots is that of none. -/
theorem fresh_above (l : SMap Desc) : ∀ n, (l.foldl (fun n p => Nat.max n (p.1 + 1)) n) ∉ l.map (·.1)
    ∧ n ≤ l.foldl (fun n p => Nat.max n (p.1 + 1)) n := by
  induction l with
  | nil => exact fun n => ⟨by simp, Nat.le_refl n⟩
  | cons p r ih =>
    intro n
    obtain ⟨hnew, hle⟩ := ih (Nat.max n (p.1 + 1))
    rw [List.foldl_cons, List.map_cons, List.mem_cons, not_or]
    have hfirst : n ≤ Nat.max n (p.1 + 1) := Nat.le_max_left ..
    have hsecond : p.1 + 1 ≤ Nat.max n (p.1 + 1) := Nat.le_max_right ..
    exact ⟨⟨by omega, hnew⟩, by omega⟩
end slots

/-! ## Acceptance -/

/-- Two states that differ in the slots of cores and the number of the next descriptor alone. -/
structure SlotsOnly (s t : State) : Prop where
  fields : ∃ cores n, t = { s with cores := cores, descSeq := n }
  core : ∀ c, ∃ l, t.core c = { s.core c with slots := l }

section accept
variable {s t u : State}

theorem SlotsOnly.refl (s : State) : SlotsOnly s s := ⟨⟨_, _, rfl⟩, fun _ => ⟨_, rfl⟩⟩

theorem SlotsOnly.trans (h : SlotsOnly s t) (g : SlotsOnly t u) : SlotsOnly s u := by
  obtain ⟨⟨c1, n1, h1⟩, hcore⟩ := h
  obtain ⟨⟨c2, n2, h2⟩, gcore⟩ := g
  refine ⟨⟨c2, n2, by rw [h2, h1]⟩, fun c => ?_⟩
  obtain ⟨l1, e1⟩ := hcore c
  obtain ⟨l2, e2⟩ := gcore c
  exact ⟨l2, by rw [e2, e1]⟩

theorem slotsOnly_modCore (s : State) (core : Nat) (f : SMap Desc → SMap Desc) :
    SlotsOnly s (s.modCore core fun k => { k with slots := f k.slots }) := by
  refine ⟨⟨_, _, rfl⟩, fun c => ?_⟩
  by_cases hc : c = core
  · subst hc
    exact ⟨_, core_modCore_self ..⟩
  · exact ⟨_, core_modCore_ne _ _ hc⟩

theorem SlotsOnly.focusCore (h : SlotsOnly s t) : t.focusCore = s.focusCore := by
  obtain ⟨⟨_, _, rfl⟩, -⟩ := h
  rfl

theorem SlotsOnly.now (h : SlotsOnly s t) : t.now = s.now := by
  obtain ⟨⟨_, _, rfl⟩, -⟩ := h
  rfl

theorem SlotsOnly.sliceCores (h : SlotsOnly s t) : t.sliceCores = s.sliceCores := by
  obtain ⟨⟨_, _, rfl⟩, -⟩ := h
  rfl

theorem SlotsOnly.cur (h : SlotsOnly s t) : t.cur = s.cur := by
  have hfocus : t.focusCtx = s.focusCtx := by
    obtain ⟨⟨_, _, rfl⟩, -⟩ := h
    rfl
  obtain ⟨_, e⟩ := h.core s.focusCore
  rw [State.cur, State.ctx, h.focusCore, hfocus, e]
  rfl

theorem SlotsOnly.spaceAt (h : SlotsOnly s t) (p : Place) : t.spaceAt p = s.spaceAt p := by
  cases p with
  | loc c =>
    obtain ⟨_, e⟩ := h.core c
    rw [State.spaceAt, State.spaceAt, e]
  | phys =>
    obtain ⟨⟨_, _, rfl⟩, -⟩ := h
    rfl
  | host =>
    obtain ⟨⟨_, _, rfl⟩, -⟩ := h
    rfl
  | peer =>
    obtain ⟨⟨_, _, rfl⟩, -⟩ := h
    rfl

/-- A descriptor that is compared with those accepted before it. -/
structure Clashed (s : State) (d : Desc) (r : State × Desc) : Prop where
  only : SlotsOnly s r.1
  slots : ∀ c, Reslotted (s.core c).slots (r.1.core c).slots
  desc : Reclashed d r.2

/-- A loser among the accepted is marked. -/
def markLoser (o : Desc) (t : Nat) (s : State) : State :=
  s.modCore o.origin.core fun k => { k with slots := k.slots.mapVals fun _ x =>
    if x.seq = o.seq then { x with clash := minCycle x.clash (some t) } else x }

theorem reclashed_if (o : Desc) (t : Nat) (x : Desc) :
    Reclashed x (if x.seq = o.seq then { x with clash := minCycle x.clash (some t) } else x) := by
  split
  · exact ⟨_, rfl⟩
  · exact .refl x

theorem markLoser_slots (s : State) (o : Desc) (t c : Nat) : Reslotted (s.core c).slots ((markLoser o t s).core c).slots := by
  by_cases hc : c = o.origin.core
  · subst hc
    rw [markLoser, core_modCore_self]
    exact reslotted_mapVals (fun _ x => reclashed_if o t x) _
  · rw [markLoser, core_modCore_ne _ _ hc]
    exact .refl _

theorem clashed_fold (cores : List Nat) (mine : List (Resource × Nat)) (d : Desc) (os : List Desc) : ∀ r : State × Desc, Clashed s d r →
    Clashed s d (os.foldl (fun (acc : State × Desc) o =>
      match firstClash mine (o.claims cores) with
      | none => acc
      | some t =>
        if acc.2.losesTo o then (acc.1, { acc.2 with clash := minCycle acc.2.clash (some t) })
        else (markLoser o t acc.1, acc.2)) r) := by
  induction os with
  | nil => exact fun _ h => h
  | cons o os ih =>
    intro r h
    refine ih _ ?_
    dsimp only
    split
    · exact h
    · split
      · exact ⟨h.only, h.slots, h.desc.trans ⟨_, rfl⟩⟩
      · exact ⟨h.only.trans (slotsOnly_modCore _ _ _), fun c => (h.slots c).trans (markLoser_slots _ _ _ c), h.desc⟩

theorem clashes_clashed (s : State) (d : Desc) : Clashed s d (s.clashes d) := by
  unfold State.clashes
  exact clashed_fold s.sliceCores _ d s.timedDescs _ ⟨SlotsOnly.refl s, fun _ => .refl _, ⟨_, rfl⟩⟩

/-- A descriptor as it is accepted (R247). -/
def Accepted (s : State) (d x : Desc) : Prop :=
  ∃ n c, x = { d with seq := n, accepted := s.now + 1, acts := d.allActs s.sliceCores, landAt := d.landing s.sliceCores, clash := c }

/-- What the acceptance of some descriptors of a core has done: those for which slots were free hold one each, in order, and every
slot that was held holds what it held. -/
structure Accepts (s : State) (core : Nat) (ds : List Desc) (t : State) : Prop where
  only : SlotsOnly s t
  holding : (t.core core).holding = (s.core core).holding + ds.length
  kept : ∀ n x, SMap.get? (s.core core).slots n = some x → ∃ y, SMap.get? (t.core core).slots n = some y ∧ Reclashed x y
  taken : ∀ d, d ∈ ds → ∃ n x, SMap.get? (t.core core).slots n = some x ∧ SMap.get? (s.core core).slots n = none ∧ Accepted s d x

theorem Accepts.none (s : State) (core : Nat) : Accepts s core [] s :=
  ⟨SlotsOnly.refl s, rfl, fun _ x h => ⟨x, h, .refl x⟩, fun _ h => nomatch h⟩

theorem Accepted.reclashed {d x y : Desc} (h : Accepted s d x) (g : Reclashed x y) : Accepted s d y := by
  obtain ⟨n, c, rfl⟩ := h
  obtain ⟨e, rfl⟩ := g
  exact ⟨n, e, rfl⟩

theorem Accepts.cons {core : Nat} {d : Desc} {ds : List Desc} (h : Accepts s core [d] t) (g : Accepts t core ds u) :
    Accepts s core (d :: ds) u := by
  refine ⟨h.only.trans g.only, by simp only [g.holding, h.holding, List.length_cons, List.length_nil]; omega, fun n x hx => ?_, fun e he => ?_⟩
  · obtain ⟨y, hy, hxy⟩ := h.kept n x hx
    obtain ⟨z, hz, hyz⟩ := g.kept n y hy
    exact ⟨z, hz, hxy.trans hyz⟩
  · rcases List.mem_cons.mp he with rfl | he
    · obtain ⟨n, x, hx, hnew, hacc⟩ := h.taken e (by simp)
      obtain ⟨y, hy, hxy⟩ := g.kept n x hx
      exact ⟨n, y, hy, hnew, hacc.reclashed hxy⟩
    · obtain ⟨n, x, hx, hnew, hacc⟩ := g.taken e he
      refine ⟨n, x, hx, ?_, ?_⟩
      · cases hold : SMap.get? (s.core core).slots n with
        | none => rfl
        | some y =>
          obtain ⟨z, hz, -⟩ := h.kept n y hold
          rw [hnew] at hz
          cases hz
      · rw [Accepted, h.only.now, h.only.sliceCores] at hacc
        exact hacc

/-- A descriptor with its number and its cycles. -/
def numbered (s : State) (core : Nat) (d : Desc) : Desc :=
  { d with seq := s.nextSlot core, accepted := s.now + 1, acts := d.allActs s.sliceCores, landAt := d.landing s.sliceCores }

/-- A timed descriptor is compared with those accepted before it; an XFAR is not. -/
def compared (s : State) (d : Desc) : State × Desc := if d.kind == .xfar then (s, d) else s.clashes d

theorem compared_clashed (s : State) (d : Desc) : Clashed s d (compared s d) := by
  unfold compared
  split
  · exact ⟨SlotsOnly.refl s, fun _ => .refl _, .refl d⟩
  · exact clashes_clashed s d

/-- One descriptor takes a slot. -/
def takeSlot (s : State) (core n : Nat) (d : Desc) : State :=
  { s.modCore core (fun k => { k with slots := k.slots.put n d }) with descSeq := n + 1 }

theorem takeSlot_accepts {core : Nat} {d : Desc} {r : State × Desc} (hd : d.landed = none)
    (h : Clashed s (numbered s core d) r) :
    Accepts s core [d] (takeSlot r.1 core (s.nextSlot core) r.2) := by
  obtain ⟨u, x⟩ := r
  obtain ⟨honly, hslots, c, hx⟩ := h
  dsimp only at honly hslots hx ⊢
  have hfresh : s.nextSlot core ∉ (u.core core).slots.map (·.1) := by
    rw [(hslots core).keys]
    exact (fresh_above _ _).1
  have hold : s.nextSlot core ∉ (s.core core).slots.map (·.1) := (fresh_above _ _).1
  have hcore : ((takeSlot u core (s.nextSlot core) x).core core).slots = (u.core core).slots.put (s.nextSlot core) x :=
    congrArg Core.slots (core_modCore_self u core fun k => { k with slots := k.slots.put (s.nextSlot core) x })
  have hput : SlotsOnly u (takeSlot u core (s.nextSlot core) x) := by
    obtain ⟨⟨cores, n, e⟩, hc⟩ := slotsOnly_modCore u core fun l => l.put (s.nextSlot core) x
    exact ⟨⟨cores, s.nextSlot core + 1, by rw [takeSlot, e]⟩, hc⟩
  have hlanded : x.landed.isNone = true := by rw [hx]; exact congrArg Option.isNone hd
  refine ⟨honly.trans hput, ?_, fun n y hy => ?_, fun e he => ?_⟩
  · rw [Core.holding, hcore, ((put_perm x hfresh).filter _).length_eq, List.filter_cons, hlanded, if_pos rfl, List.length_cons,
      (hslots core).holding, List.length_singleton, Core.holding]
  · obtain ⟨z, hz, hyz⟩ := (hslots core).get?_some hy
    have hne : n ≠ s.nextSlot core := by
      rintro rfl
      rw [get?_absent hold] at hy
      cases hy
    exact ⟨z, by rw [hcore, get?_put_ne _ _ hne, hz], hyz⟩
  · rw [List.mem_singleton] at he
    subst he
    exact ⟨s.nextSlot core, x, by rw [hcore, get?_put_self], get?_absent hold, s.nextSlot core, c, hx⟩

theorem accept_cons (s : State) (d : Desc) (r : List Desc) : s.accept (d :: r) =
    if 48 ≤ (s.core d.origin.core).holding then s.accept r
    else
      let q := compared s (numbered s d.origin.core d)
      let w := (takeSlot q.1 q.2.origin.core (s.nextSlot d.origin.core) q.2).accept r
      (w.1, q.2.e :: w.2) := rfl

/-- Acceptance takes the first descriptors for which slots are free (R247). -/
theorem accept_accepts {core : Nat} : ∀ (ds : List Desc) (s : State), (∀ d, d ∈ ds → d.origin.core = core ∧ d.landed = none) →
    Accepts s core (ds.take (48 - (s.core core).holding)) (s.accept ds).1
    ∧ (s.accept ds).2 = (ds.take (48 - (s.core core).holding)).map (·.e)
  | [], s, _ => by
    rw [List.take_nil]
    exact ⟨Accepts.none s core, rfl⟩
  | d :: r, s, h => by
    obtain ⟨⟨hcore, hlanded⟩, hr⟩ := List.forall_mem_cons.mp h
    rw [accept_cons, hcore]
    by_cases hfull : 48 ≤ (s.core core).holding
    · have hzero : 48 - (s.core core).holding = 0 := by omega
      have ih := accept_accepts r s hr
      rw [hzero, List.take_zero] at ih
      rw [if_pos hfull, hzero, List.take_zero]
      exact ih
    · obtain ⟨left, hleft⟩ : ∃ left, 48 - (s.core core).holding = left + 1 := ⟨47 - (s.core core).holding, by omega⟩
      have hclashed := compared_clashed s (numbered s core d)
      have hone := takeSlot_accepts hlanded hclashed
      obtain ⟨c, hdesc⟩ := hclashed.desc
      have horigin : (compared s (numbered s core d)).2.origin.core = core := by rw [hdesc]; exact hcore
      have he : (compared s (numbered s core d)).2.e = d.e := by rw [hdesc]; rfl
      have ih := accept_accepts r (takeSlot (compared s (numbered s core d)).1 core (s.nextSlot core) (compared s (numbered s core d)).2) hr
      have hrest : 48 - ((takeSlot (compared s (numbered s core d)).1 core (s.nextSlot core) (compared s (numbered s core d)).2).core core).holding
          = left := by
        rw [hone.holding, List.length_singleton]
        omega
      rw [hrest] at ih
      rw [if_neg hfull, hleft, List.take_succ_cons, List.map_cons]
      dsimp only
      rw [horigin, he]
      exact ⟨hone.cons ih.1, congrArg (d.e :: ·) ih.2⟩
end accept

end Sys2Proof.Proofs
end

section
/-! EXCH words that issue descriptors (R246 to R248, R250). -/

namespace Sys2Proof.Proofs

open Sys2Proof Sys2Proof.Machine Sys2Proof.Safety Sys2Proof.Claims Sys2Proof.Laws

/-! ## The descriptors that are accepted -/

section descs
variable {ds xs : List Desc}

theorem pieced_elems (h : List.Forall₂ Pieced ds xs) : xs.map (·.e) = ds.map (·.e) := by
  induction h with
  | nil => rfl
  | cons hp _ ih =>
    obtain ⟨_, _, _, rfl⟩ := hp
    rw [List.map_cons, List.map_cons, ih]

theorem pieced_mem (h : List.Forall₂ Pieced ds xs) {x : Desc} (hx : x ∈ xs) : ∃ d, d ∈ ds ∧ Pieced d x := by
  induction h with
  | nil => cases hx
  | @cons d y _ _ hp _ ih =>
    rcases List.mem_cons.mp hx with rfl | hr
    · exact ⟨d, List.mem_cons_self, hp⟩
    · obtain ⟨e, he, hpe⟩ := ih hr
      exact ⟨e, List.mem_cons_of_mem _ he, hpe⟩

theorem descsOf_elems (s : State) (k : DKind) (a : Reg) : (descsOf s k a).map (·.e) = s.cur.activeElems := by
  rw [descsOf, List.map_map]
  exact List.map_id _
end descs

/-- The context after an EXCH word has taken some elements: their bits in the mask register, and their number in XACC (R246, R247). -/
def reported (c : Ctx) (d : Reg) (now : Nat) (ok : List Nat) : Ctx :=
  let m := (rangeFrom 0 c.vl).foldl (fun (m : Nat) e => setField m e 1 (ok.contains e).toNat) (c.mask d.toNat).toNat
  let c := c.setMask d.toNat (BitVec.ofNat 2048 m)
  { c with mrdy := c.mrdy.put d.toNat (now + 2), xacc := c.xacc + ok.length
           xaccLate := c.xaccLate.filter (fun q => decide (now < q.1)) ++ [(now + 2, ok.length)] }

theorem maskBit_reported (c : Ctx) (d : Reg) (now : Nat) (ok : List Nat) (hvl : c.vl ≤ 2048) (e : Nat) :
    (reported c d now ok).maskBit d.toNat e = if e < c.vl then ok.contains e else c.maskBit d.toNat e := by
  have hbits : BitVec.ofNat 2048 ((rangeFrom 0 c.vl).foldl (fun (m : Nat) e => setField m e 1 (ok.contains e).toNat) (c.mask d.toNat).toNat)
      = setBits (c.mask d.toNat) ((rangeFrom 0 c.vl).map fun i => (i, ok.contains i)) := by
    rw [setBits, List.foldl_map]
  have hset : (reported c d now ok).maskBit d.toNat e
      = (c.setMask d.toNat (setBits (c.mask d.toNat) ((rangeFrom 0 c.vl).map fun i => (i, ok.contains i)))).maskBit d.toNat e := by
    rw [← hbits]
    rfl
  rw [hset]
  by_cases he : e < 2048
  · rw [maskBit_setBits c d.toNat _ _ e he]
    simp only [mem_rangeFrom, Nat.zero_le, Nat.zero_add, true_and]
  · rw [if_neg (by omega), Ctx.maskBit, Ctx.maskBit, BitVec.getLsbD_of_ge _ _ (by omega), BitVec.getLsbD_of_ge _ _ (by omega)]

/-- What a reader of the context sees that looks at nothing which taking up a word moves. -/
theorem keeps_fronted {s s1 : State} {v : Cv} {α : Type} (h : Fronted s v s1) (g : Ctx → α) (hg : ∀ c, g (rest c) = g c) :
    g s1.cur = g s.cur := by rw [← hg, h.rest, hg]

section word
variable {s s1 s2 : State} {v : Cv} {k : DKind} {d a : Reg} {ds : List Desc}

theorem exec_exchWord {i : Instr} (h : exchWordOf i = some (k, d, a)) (s : State) : exec i s = issue i s fun _ s => s.exchDescs k d a := by
  unfold exchWordOf at h
  split at h <;> cases h <;> rfl

/-- The body of an EXCH word whose tags and checks are in order. -/
theorem exchDescs_ok (htags : ∀ r, a.toNat ≤ r → r < a.toNat + s.cur.vspan → s.cur.tag r = 0x1C) (hready : s.cur.descsReady a.toNat ≤ s.now)
    (hcheck : s.checkDescs (descsOf s k a) = .ok (ds, s2)) :
    s.exchDescs k d a = .ok ((s2.accept ds).1.modCur fun c => reported c d (s2.accept ds).1.now (s2.accept ds).2) := by
  have hfind : ((rangeFrom a.toNat s.cur.vspan).find? fun r => s.cur.tag r != 0x1C) = none := by
    rw [List.find?_eq_none]
    intro r hr
    obtain ⟨hlo, hhi⟩ := (mem_rangeFrom s.cur.vspan a.toNat r).mp hr
    simp [htags r hlo hhi]
  unfold State.exchDescs
  dsimp only
  rw [hfind]
  dsimp only
  rw [if_neg (Nat.not_lt.mpr hready)]
  exact bind_ok hcheck rfl

/-- Settles O39: the descriptors that pass their checks are accepted as far as slots are free, and reported. -/
theorem exchangeWords : Obligations.ExchangeWords := by
  intro i k d a s s1 s2 v ds hw h htags hready hvl hcheck
  obtain ⟨htaken, hgoes⟩ := h
  have f := taken_fronted htaken
  have hacting : s1.cur.activeElems = s.cur.activeElems := keeps_fronted f Ctx.activeElems fun _ => rfl
  have htag1 : ∀ r, a.toNat ≤ r → r < a.toNat + s1.cur.vspan → s1.cur.tag r = 0x1C := by
    have htag (r : Nat) : s1.cur.tag r = s.cur.tag r := keeps_fronted f (fun c => c.tag r) fun _ => rfl
    have hspan : s1.cur.vspan = s.cur.vspan := keeps_fronted f Ctx.vspan fun _ => rfl
    intro r hlo hhi
    rw [htag, htags r hlo (by omega)]
  have hready1 : s1.cur.descsReady a.toNat ≤ s1.now := by
    have e : s1.cur.descsReady a.toNat = s.cur.descsReady a.toNat := keeps_fronted f (fun c => c.descsReady a.toNat) fun _ => rfl
    rw [e, f.now]
    exact hready
  obtain ⟨hpieced, hcache⟩ := checkDescs_pieces hcheck
  have hslots : (s2.core s2.focusCore).slots = s.curCore.slots := by
    rw [hcache.slots, hcache.focusCore]
    exact f.core (·.slots) fun _ _ _ => rfl
  have hholding : (s2.core s2.focusCore).holding = s.curCore.holding := by rw [Core.holding, hslots, Core.holding]
  have hdescs : ∀ x, x ∈ ds → x.origin.core = s2.focusCore ∧ x.landed = none ∧ x.kind = k ∧ x.started = false
      ∧ x.bits = s.cur.elem a.toNat 256 x.e := by
    intro x hx
    obtain ⟨y, hy, _, _, _, rfl⟩ := pieced_mem hpieced hx
    rw [descsOf, List.mem_map] at hy
    obtain ⟨e, -, rfl⟩ := hy
    exact ⟨hcache.focusCore.symm, rfl, rfl, rfl, keeps_fronted f (fun c => c.elem a.toNat 256 e) fun _ => rfl⟩
  obtain ⟨hacc, hok⟩ := accept_accepts ds s2 fun x hx => ⟨(hdescs x hx).1, (hdescs x hx).2.1⟩
  rw [hholding] at hacc hok
  have htook : (s2.accept ds).2 = s.cur.activeElems.take (48 - s.curCore.holding) := by
    rw [hok, List.map_take, pieced_elems hpieced, descsOf_elems, hacting]
  have hlength : (ds.take (48 - s.curCore.holding)).length = (s.cur.activeElems.take (48 - s.curCore.holding)).length := by
    rw [← List.length_map (as := ds.take (48 - s.curCore.holding)) (f := fun x : Desc => x.e), ← hok, htook]
  generalize hu : (s2.accept ds).1 = u at hacc
  generalize s.cur.activeElems.take (48 - s.curCore.holding) = took at htook hlength
  have hcur : u.cur = s1.cur := hacc.only.cur.trans hcache.cur
  have hcore : u.curCore = u.core s2.focusCore := congrArg u.core hacc.only.focusCore
  have hnow : u.now = s.now := hacc.only.now.trans (hcache.now.trans f.now)
  have hcores : s2.sliceCores = s.sliceCores := hcache.sliceCores.trans (f.dev (·.sliceCores) fun _ _ => rfl)
  have hbody : s1.exchDescs k d a = .ok (u.setCur (reported s1.cur d s.now took)) := by
    have e := exchDescs_ok (d := d) htag1 hready1 hcheck
    rw [hu, htook, hnow, State.modCur, hcur] at e
    exact e
  have hfinal (p : Nat) (l : List LoopEnt) (cv : Option Cv) : (closed (u.setCur (reported s1.cur d s.now took)) cv l p).curCore.slots
      = (u.core s2.focusCore).slots := by
    rw [closed_curCore, curCore_setCur, ← hcore]
    rfl
  obtain ⟨cv, hissue⟩ := completes_on htaken hgoes (body := fun _ s => s.exchDescs k d a) hbody (by rw [cur_setCur]; rfl) (by rw [cur_setCur]; rfl)
  have hmask (e : Nat) : (closed (u.setCur (reported s1.cur d s.now took)) cv (following s v s.cur.loops (s.cur.pc + 32)).1
      (following s v s.cur.loops (s.cur.pc + 32)).2).cur.maskBit d.toNat e
        = if e < s.cur.vl then took.contains e else s.cur.maskBit d.toNat e := by
    have hvl1 : s1.cur.vl = s.cur.vl := keeps_fronted f Ctx.vl fun _ => rfl
    have hm1 : s1.cur.maskBit d.toNat e = s.cur.maskBit d.toNat e := keeps_fronted f (fun c => c.maskBit d.toNat e) fun _ => rfl
    rw [cur_closed, cur_setCur, ← hvl1, ← hm1]
    exact maskBit_reported s1.cur d s.now took (hvl1 ▸ hvl) e
  refine ⟨_, (exec_exchWord hw s).trans hissue, ?_, ?_, fun e he => ?_, fun n x hx => ?_, fun e he => ?_, fun e he => ?_,
    keepsRegs_closed f (by rw [cur_setCur]; rfl) (by rw [cur_setCur]; rfl) (by rw [cur_setCur]; rfl) (by rw [cur_setCur]; rfl) _ _ _,
    fun p q => ?_, by rw [cur_closed]; rfl⟩
  · rw [Core.holding, hfinal, ← hlength]
    exact hacc.holding.trans (congrArg (· + _) hholding)
  · rw [cur_closed, cur_setCur]
    exact congrArg (· + took.length) (keeps_fronted f Ctx.xacc fun _ => rfl)
  · rw [← htook, hok, List.mem_map] at he
    obtain ⟨x, hx, rfl⟩ := he
    obtain ⟨-, hlanded, hkind, hstarted, hbits⟩ := hdescs x (List.mem_of_mem_take hx)
    obtain ⟨n, y, hy, hnew, m, c, hyx⟩ := hacc.taken x hx
    rw [hslots] at hnew
    rw [hcores, hcache.now, f.now] at hyx
    subst hyx
    exact ⟨n, _, (congrArg (SMap.get? · n) (hfinal _ _ _)).trans hy, hnew, hkind, rfl, hbits, rfl, hlanded, hstarted, rfl, rfl⟩
  · rw [← hslots] at hx
    obtain ⟨y, hy, c, rfl⟩ := hacc.kept n x hx
    exact ⟨_, (congrArg (SMap.get? · n) (hfinal _ _ _)).trans hy, rfl, rfl, rfl, rfl⟩
  · rw [hmask, if_pos he]
  · rw [hmask, if_neg (Nat.not_lt.mpr he)]
  · rw [closed_spaceAt, onlyFocus_spaceAt (onlyFocus_setCur _ _), hacc.only.spaceAt, hcache.memory, f.spaceAt]
end word

end Sys2Proof.Proofs
end

section
/-! VQNT of FP16 with FTZ (R80, R85, R191): the quantiser does not flush an FP16 subnormal. -/

namespace Sys2Proof.Proofs

open Sys2Proof Sys2Proof.Machine Sys2Proof.Safety Sys2Proof.Claims Sys2Proof.Laws

/-- A context of one block of sixteen FP16 elements in v0, of which the first is the smallest subnormal, with FTZ set. -/
def subnormalBlock : Ctx := { grant := 8, vl := 16, vspan := 1, v := [(0, 1)], tags := [(0, 0x0A)], rmode := 4 }

/-- VQNT of v0 into v1 with the first pip format. -/
def quantWord : VWord := { fc := 6, d := 1, a := 0, b := 0x10, e := true }

/-- The block has the exponent of the subnormal. -/
theorem subnormalBlock_exponent : (vecEffect 0x66 subnormalBlock quantWord).c.kByte 1 0 = 102 := by decide +kernel

/-- With the inputs flushed it would be a block of zeros. -/
theorem subnormalBlock_flushed : (quantise .p3 ((rangeFrom (0 / 16 * 16) 16).map fun j =>
    let x := subnormalBlock.elem quantWord.a.toNat ((slotWidth (subnormalBlock.tag quantWord.a.toNat)).getD 8) j
    (x / 2 ^ (Fmt.fp16.width - 1) % 2 == 1, Fmt.fp16.input (RC.of subnormalBlock.rmode).ftz x))).1.e = 0 := by decide +kernel

/-- The exponent byte that O25 gives a block with an active element. -/
theorem quantised_exponent (h : Obligations.VectorElements) {c : Ctx} {w : VWord} {e : Nat} {p : Pip} {f : Fmt} (hgrant : c.grant ≤ 64)
    (hlanes : c.grant % 8 = 0) (hvl : c.vl ≤ 2048) (he : e < c.vl) (hp : Pip.ofCode w.imm.toNat = some p)
    (hf : fmtOf (c.tag w.a.toNat) = some f) (hblocks : c.vl % 16 = 0) (hcap : c.vl ≤ c.vspan * c.slots 16) (hin : e / 16 ∈ activeBlocks c) :
    (vecEffect 0x66 c w).c.kByte w.d.toNat e = (quantise p ((rangeFrom (e / 16 * 16) 16).map fun j =>
      let x := c.elem w.a.toNat ((slotWidth (c.tag w.a.toNat)).getD 8) j
      (x / 2 ^ (f.width - 1) % 2 == 1, f.input (RC.of c.rmode).ftz x))).1.e % 256 := by
  obtain ⟨-, h⟩ := h
  obtain ⟨-, -, -, hquant, -⟩ := h c w 0x66 e hgrant hlanes hvl he
  have hblock := hquant p f rfl hp hf hblocks hcap
  dsimp only at hblock
  rw [if_pos hin] at hblock
  exact hblock.2

/-- Refutes O25: VQNT of an FP16 subnormal under FTZ quantises its value, and not zero. -/
theorem not_vectorElements : ¬ Obligations.VectorElements := by
  intro h
  have hexp := quantised_exponent (c := subnormalBlock) (w := quantWord) (e := 0) (p := .p3) (f := .fp16) h (by decide) (by decide) (by decide)
    (by decide) (by decide) (by decide) (by decide) (by decide +kernel) (by decide +kernel)
  rw [subnormalBlock_flushed] at hexp
  exact absurd (subnormalBlock_exponent.symm.trans hexp) (by decide)

end Sys2Proof.Proofs
end

section
/-! What vector words change of their context (R181 to R196): vector registers, tags, masks and scale registers alone; and what the
schedule of a convoy changes (R172, R173). -/

namespace Sys2Proof.Proofs

open Sys2Proof Sys2Proof.Machine Sys2Proof.Safety Sys2Proof.Claims Sys2Proof.Laws

/-! ## Vector registers, tags, masks and scale registers -/

/-- Two contexts that differ in vector registers, tags, masks and scale registers alone. -/
def VecOnly (c d : Ctx) : Prop := ∃ v tags m k, d = { c with v := v, tags := tags, m := m, k := k }

section vec
variable {c d e : Ctx}

theorem VecOnly.refl (c : Ctx) : VecOnly c c := ⟨_, _, _, _, rfl⟩

theorem VecOnly.trans (h : VecOnly c d) (g : VecOnly d e) : VecOnly c e := by
  obtain ⟨_, _, _, _, rfl⟩ := h
  obtain ⟨_, _, _, _, rfl⟩ := g
  exact ⟨_, _, _, _, rfl⟩

theorem VecOnly.foldl {α : Type} {f : Ctx → α → Ctx} (hf : ∀ c a, VecOnly c (f c a)) (l : List α) : ∀ c, VecOnly c (l.foldl f c) := by
  induction l with
  | nil => exact VecOnly.refl
  | cons a r ih => exact fun c => (hf c a).trans (ih _)

/-- What looks at none of these is as before. -/
theorem VecOnly.keeps {α : Type} (h : VecOnly c d) (g : Ctx → α) (hg : ∀ (c : Ctx) v tags m k, g { c with v := v, tags := tags, m := m, k := k } = g c) :
    g d = g c := by
  obtain ⟨_, _, _, _, rfl⟩ := h
  exact hg _ _ _ _ _

theorem vecOnly_setElems (c : Ctx) (base s : Nat) (l : List (Nat × Nat)) : VecOnly c (c.setElems base s l) :=
  VecOnly.foldl (fun _ _ => ⟨_, _, _, _, rfl⟩) l c

theorem vecOnly_setTags (c : Ctx) (base t n : Nat) : VecOnly c (c.setTags base t n) := VecOnly.foldl (fun _ _ => ⟨_, _, _, _, rfl⟩) _ c

theorem vecOnly_setMask (c : Ctx) (n : Nat) (x : BitVec 2048) : VecOnly c (c.setMask n x) := ⟨_, _, _, _, rfl⟩

theorem vecOnly_setKByte (c : Ctx) (base e x : Nat) : VecOnly c (c.setKByte base e x) := ⟨_, _, _, _, rfl⟩

theorem vecOnly_copyGroup (c : Ctx) (d a : Nat) : VecOnly c (c.copyGroup d a) := VecOnly.foldl (fun _ _ => ⟨_, _, _, _, rfl⟩) _ c

theorem vecOnly_mapElems (c : Ctx) (es : List Nat) (base s t : Nat) (f : Nat → FRes) : VecOnly c (c.mapElems es base s t f).c :=
  (vecOnly_setElems ..).trans (vecOnly_setTags ..)

theorem vecOnly_permute (c : Ctx) (w : VWord) (f : Nat → Option Nat) : VecOnly c (c.permute w f).c :=
  (vecOnly_setElems ..).trans (vecOnly_setTags ..)

theorem vecOnly_setSlot0 (c : Ctx) (w : VWord) (t x : Nat) : VecOnly c (c.setSlot0 w t x) :=
  VecOnly.trans ⟨_, _, _, _, rfl⟩ (vecOnly_setTags ..)

theorem vecOnly_vmov (c : Ctx) (w : VWord) : VecOnly c (vmovOf c w).c := by
  unfold vmovOf
  dsimp only
  split
  · exact (vecOnly_copyGroup ..).trans (vecOnly_setTags ..)
  · exact vecOnly_mapElems ..

theorem vecOnly_vbcst (c : Ctx) (w : VWord) : VecOnly c (vbcstOf c w).c := by
  unfold vbcstOf
  split
  · exact vecOnly_mapElems ..
  · exact vecOnly_mapElems ..

theorem vecOnly_vqntBlock (c k : Ctx) (w : VWord) (p : Pip) (b : Nat) : VecOnly k (vqntBlock c k w p b).1 := by
  unfold vqntBlock
  dsimp only
  exact (vecOnly_setElems k _ _ _).trans (vecOnly_setKByte _ _ _ _)

theorem vecOnly_vqntBlocks (c : Ctx) (w : VWord) (p : Pip) (l : List Nat) : ∀ q : Ctx × BitVec 7,
    VecOnly q.1 (l.foldl (fun (k : Ctx × BitVec 7) b => let x := vqntBlock c k.1 w p b; (x.1, k.2 ||| x.2)) q).1 := by
  induction l with
  | nil => exact fun q => VecOnly.refl q.1
  | cons b r ih =>
    intro q
    rw [List.foldl_cons]
    generalize hx : vqntBlock c q.1 w p b = x
    have hblock : VecOnly q.1 x.1 := hx ▸ vecOnly_vqntBlock c q.1 w p b
    exact hblock.trans (ih (x.1, q.2 ||| x.2))

theorem vecOnly_vqnt (c : Ctx) (w : VWord) : VecOnly c (vqntOf c w).c := by
  unfold vqntOf
  split
  · exact VecOnly.refl c
  · exact (vecOnly_vqntBlocks ..).trans (vecOnly_setTags ..)

theorem vecOnly_vdqnt (c : Ctx) (w : VWord) : VecOnly c (vdqntOf c w).c := by
  unfold vdqntOf
  split
  · exact vecOnly_mapElems ..
  · exact VecOnly.refl c

theorem vecOnly_vrsum (c : Ctx) (w : VWord) : VecOnly c (vrsumOf c w).c := by
  unfold vrsumOf
  dsimp only
  split
  · exact vecOnly_setSlot0 ..
  · exact vecOnly_setSlot0 ..
  · exact vecOnly_setSlot0 ..

theorem vecOnly_vrmm (isMax : Bool) (c : Ctx) (w : VWord) : VecOnly c (vrmmOf isMax c w).c := by
  unfold vrmmOf
  dsimp only
  split
  · exact vecOnly_setSlot0 ..
  · exact vecOnly_setSlot0 ..

/-- A vector opcode changes vector registers, tags, masks and scale registers alone. -/
theorem vecOnly_vecWork (op : Nat) (c : Ctx) (w : VWord) : VecOnly c (vecWork op c w).c := by
  unfold vecWork
  split
  case h_1 | h_2 | h_3 | h_4 | h_5 | h_6 | h_7 | h_8 | h_9 | h_10 | h_11 | h_12 | h_13 | h_14 | h_15 | h_16 | h_17 | h_18 | h_19 | h_20 | h_21
    | h_22 | h_23 | h_24 | h_25 | h_26 => exact vecOnly_mapElems ..
  case h_27 | h_28 | h_29 | h_30 | h_31 => exact vecOnly_setMask ..
  case h_32 => exact vecOnly_mapElems ..
  case h_33 => exact vecOnly_vmov c w
  case h_34 => exact vecOnly_vbcst c w
  case h_35 => exact vecOnly_mapElems ..
  case h_36 => exact (vecOnly_copyGroup ..).trans (vecOnly_setTags ..)
  case h_37 | h_38 => exact vecOnly_mapElems ..
  case h_39 => exact vecOnly_vqnt c w
  case h_40 => exact vecOnly_vdqnt c w
  case h_41 => exact vecOnly_vrsum c w
  case h_42 => exact vecOnly_vrmm true c w
  case h_43 => exact vecOnly_vrmm false c w
  case h_44 => exact vecOnly_mapElems ..
  case h_45 | h_46 | h_47 => exact vecOnly_permute ..
  case h_48 | h_49 => exact vecOnly_mapElems ..
  case h_50 | h_51 => exact VecOnly.refl c
  case h_52 | h_53 => exact vecOnly_permute ..
  case h_54 | h_55 | h_56 | h_57 => exact vecOnly_setMask ..
  case h_58 => exact VecOnly.refl c

theorem vecOnly_vecEffect (op : Nat) (c : Ctx) (w : VWord) : VecOnly c (vecEffect op c w).c := by
  unfold vecEffect
  split
  · exact VecOnly.refl c
  · exact vecOnly_vecWork op c w

theorem vecOnly_vwalk (run : List (Nat × VWord)) : ∀ (j : Nat) (c : Ctx), VecOnly c (c.vwalk j run).c := by
  induction run with
  | nil => exact fun _ c => VecOnly.refl c
  | cons p r ih => exact fun j c => (vecOnly_vecEffect p.1 c p.2).trans (ih (j + 1) _)
end vec

/-! ## The schedule of a convoy -/

/-- Two contexts that differ in the schedule of their convoys, and in results on their way that the second has more. -/
def SchedOnly (c d : Ctx) : Prop := ∃ vvalid vread mrdy mland laneFree l,
  d = { c with vvalid := vvalid, vread := vread, mrdy := mrdy, mland := mland, laneFree := laneFree, land := c.land ++ l }

section sched
variable {c d e : Ctx}

theorem SchedOnly.refl (c : Ctx) : SchedOnly c c := ⟨_, _, _, _, _, [], by rw [List.append_nil]⟩

theorem SchedOnly.trans (h : SchedOnly c d) (g : SchedOnly d e) : SchedOnly c e := by
  obtain ⟨_, _, _, _, _, l, rfl⟩ := h
  obtain ⟨_, _, _, _, _, k, rfl⟩ := g
  exact ⟨_, _, _, _, _, l ++ k, by rw [List.append_assoc]⟩

/-- What looks at neither is as before. -/
theorem SchedOnly.keeps {α : Type} (h : SchedOnly c d) (g : Ctx → α) (hg : ∀ (c : Ctx) vvalid vread mrdy mland laneFree land,
    g { c with vvalid := vvalid, vread := vread, mrdy := mrdy, mland := mland, laneFree := laneFree, land := land } = g c) : g d = g c := by
  obtain ⟨_, _, _, _, _, _, rfl⟩ := h
  exact hg _ _ _ _ _ _ _

theorem setValidAts_sched (r : Nat) (vs : List (Nat × Nat)) : ∀ c : Ctx, ∃ vvalid, vs.foldl (fun k q => k.setValidAt r q.1 q.2) c = { c with vvalid := vvalid } := by
  induction vs with
  | nil => exact fun c => ⟨_, rfl⟩
  | cons q l ih =>
    intro c
    obtain ⟨vv, h⟩ := ih (c.setValidAt r q.1 q.2)
    exact ⟨vv, h⟩

/-- The result that a member sends to a scalar register (R195). -/
def memberLand (c : Ctx) (m : VMember) (start : Nat) : List Landing :=
  match m.dstReg with
  | some (r, x) => [{ cycle := start + c.steps m * m.f + m.lat, reg := r, val := x, inSpan := c.span.isSome }]
  | none => []

/-- The schedule with how long a member reads its sources (R176). -/
def readsNoted (c : Ctx) (o : Origin) (m : VMember) (start : Nat) : Ctx :=
  if m.reads = 0 then c
  else { c with vread := (m.srcs.flatMap fun r => rangeFrom r.1 c.vspan).foldl (fun (t : SMap (Nat × Origin)) x =>
           if (SMap.get (0, o) t x).1 ≤ start + m.reads then t.put x (start + m.reads, o) else t) c.vread }

/-- The schedule with the valid bits of the destination (R173). -/
def validNoted (c : Ctx) (m : VMember) (vs : List (Nat × Nat)) : Ctx :=
  match m.dst with
  | some (r : Nat × Nat) => vs.foldl (fun (k : Ctx) (q : Nat × Nat) => k.setValidAt r.1 q.1 q.2) c
  | none => c

/-- The schedule with the bits of the destination mask (R175). -/
def maskNoted (c : Ctx) (m : VMember) (ls : List (Nat × Nat × Nat)) (start last : Nat) : Ctx :=
  match m.dstMask with
  | some k => { c with
      mrdy := c.mrdy.put k (Nat.max last (SMap.get 0 c.mrdy k))
      mland := c.mland.put k (((SMap.get [] c.mland k).filter fun x => decide (start < x.2.2)) ++ ls.map fun x => (x.1, x.2.1, start + x.2.2)) }
  | none => c

/-- The context with the scalar result of a member. -/
def resultNoted (c : Ctx) (m : VMember) (red : Nat) : Ctx :=
  match m.dstReg with
  | some (r, x) => { c with land := c.land ++ [{ cycle := red, reg := r, val := x, inSpan := c.span.isSome }] }
  | none => c

theorem schedule_eq (c : Ctx) (o : Origin) (m : VMember) (start : Nat) : c.schedule o m start =
    let c0 := readsNoted c o m start
    let v := c.validCycles m start
    ({ resultNoted (maskNoted (validNoted c0 m v.1) m (c0.maskLandings m) start v.2) m (start + c.steps m * m.f + m.lat) with
        laneFree := start + c0.steps m * m.f },
      v.2) := rfl

/-- A member of a convoy on the schedule. -/
theorem schedule_sched (c : Ctx) (o : Origin) (m : VMember) (start : Nat) : ∃ vvalid vread mrdy mland laneFree,
    (c.schedule o m start).1 = { c with vvalid := vvalid, vread := vread, mrdy := mrdy, mland := mland, laneFree := laneFree
                                        land := c.land ++ memberLand c m start } := by
  have h0 : ∃ vr, readsNoted c o m start = { c with vread := vr } := by
    unfold readsNoted
    split
    · exact ⟨_, rfl⟩
    · exact ⟨_, rfl⟩
  have h1 (k : Ctx) (vs : List (Nat × Nat)) : ∃ vv, validNoted k m vs = { k with vvalid := vv } := by
    unfold validNoted
    split
    · exact setValidAts_sched _ vs k
    · exact ⟨_, rfl⟩
  have h2 (k : Ctx) (ls : List (Nat × Nat × Nat)) (last : Nat) : ∃ mr ml, maskNoted k m ls start last = { k with mrdy := mr, mland := ml } := by
    unfold maskNoted
    split
    · exact ⟨_, _, rfl⟩
    · exact ⟨_, _, rfl⟩
  have h3 (k : Ctx) (hland : k.land = c.land) (hspan : k.span = c.span) :
      resultNoted k m (start + c.steps m * m.f + m.lat) = { k with land := c.land ++ memberLand c m start } := by
    unfold resultNoted memberLand
    split
    · rw [hland, hspan]
    · rw [List.append_nil, ← hland]
  obtain ⟨vr, h0⟩ := h0
  obtain ⟨vv, h1⟩ := h1 (readsNoted c o m start) (c.validCycles m start).1
  obtain ⟨mr, ml, h2⟩ := h2 (validNoted (readsNoted c o m start) m (c.validCycles m start).1) ((readsNoted c o m start).maskLandings m)
    (c.validCycles m start).2
  have hvalid := h1.trans (congrArg (fun k : Ctx => { k with vvalid := vv }) h0)
  have h2 := h2.trans (congrArg (fun k : Ctx => { k with mrdy := mr, mland := ml }) hvalid)
  have hresult := h3 _ ((congrArg Ctx.land h2).trans rfl) ((congrArg Ctx.span h2).trans rfl)
  have hall := congrArg (fun k : Ctx => { k with land := c.land ++ memberLand c m start, laneFree := start + (readsNoted c o m start).steps m * m.f }) h2
  refine ⟨vv, vr, mr, ml, start + (readsNoted c o m start).steps m * m.f, Eq.trans ?_ hall⟩
  exact congrArg (fun k : Ctx => { k with laneFree := start + (readsNoted c o m start).steps m * m.f }) hresult
end sched

end Sys2Proof.Proofs
end

section
/-! Vector runs (R43, R172 to R176, R195): a word joins its run; the last one takes the run into effect and pushes the convoy. -/

namespace Sys2Proof.Proofs

open Sys2Proof Sys2Proof.Machine Sys2Proof.Safety Sys2Proof.Claims Sys2Proof.Laws

/-! ## A convoy outside a span is pushed -/

section push
variable {c : Ctx}

theorem scheduleAll_nil (o : Origin) (t0 j : Nat) (st la : List Nat) : c.scheduleAll o t0 j [] st la = (c, st, la, none) := rfl

/-- Outside a span a member starts when its operands allow it (R176). -/
theorem scheduleAll_cons (hspan : c.span = none) (o : Origin) (t0 j : Nat) (m : VMember) (r : List VMember) (st la : List Nat) :
    c.scheduleAll o t0 j (m :: r) st la =
      let start := Nat.max (Nat.max (t0 + j) c.laneFree) (c.allowed m)
      (c.schedule o m start).1.scheduleAll o t0 (j + 1) r (st ++ [start]) (la ++ [(c.schedule o m start).2]) := by
  have hout : c.span.isSome = false := by rw [hspan]; rfl
  rw [Ctx.scheduleAll]
  simp only [hout, Bool.false_eq_true, if_false]

theorem schedule_only (c : Ctx) (o : Origin) (m : VMember) (start : Nat) : SchedOnly c (c.schedule o m start).1 := by
  obtain ⟨vv, vr, mr, ml, lf, h⟩ := schedule_sched c o m start
  exact ⟨vv, vr, mr, ml, lf, _, h⟩

/-- Outside a span nothing raises TIMING (R176). -/
theorem scheduleAll_outside (o : Origin) (t0 : Nat) : ∀ (ms : List VMember) (c : Ctx) (j : Nat) (st la : List Nat), c.span = none →
    SchedOnly c (c.scheduleAll o t0 j ms st la).1 ∧ (c.scheduleAll o t0 j ms st la).2.2.2 = none
  | [], c, j, st, la, _ => ⟨SchedOnly.refl c, rfl⟩
  | m :: r, c, j, st, la, h => by
    rw [scheduleAll_cons h]
    dsimp only
    have hone := schedule_only c o m (Nat.max (Nat.max (t0 + j) c.laneFree) (c.allowed m))
    obtain ⟨hrest, hnone⟩ := scheduleAll_outside o t0 r (c.schedule o m (Nat.max (Nat.max (t0 + j) c.laneFree) (c.allowed m))).1 (j + 1)
      (st ++ [Nat.max (Nat.max (t0 + j) c.laneFree) (c.allowed m)])
      (la ++ [(c.schedule o m (Nat.max (Nat.max (t0 + j) c.laneFree) (c.allowed m))).2]) ((hone.keeps Ctx.span fun _ _ _ _ _ _ _ => rfl).trans h)
    exact ⟨hone.trans hrest, hnone⟩

/-- A convoy of one member sends the result of that member. -/
theorem scheduleAll_land (o : Origin) (t0 : Nat) (m : VMember) (hspan : c.span = none) : ∃ start,
    (c.scheduleAll o t0 0 [m] [] []).1.land = c.land ++ memberLand c m start := by
  rw [scheduleAll_cons hspan]
  obtain ⟨vv, vr, mr, ml, lf, h⟩ := schedule_sched c o m (Nat.max (Nat.max (t0 + 0) c.laneFree) (c.allowed m))
  refine ⟨Nat.max (Nat.max (t0 + 0) c.laneFree) (c.allowed m), ?_⟩
  dsimp only
  rw [scheduleAll_nil, h]
end push

/-- t is s once a convoy has been pushed: the context in focus has it in its dispatch queue, its schedule has moved, and results
may be on their way; no memory changes, and where no member makes requests nothing else does. -/
structure Pushed (s : State) (ms : List VMember) (t : State) (q : VConvoy) : Prop where
  cur : ∃ c smpl writes, SchedOnly s.cur c ∧ t.cur = { c with vq := s.cur.vq ++ [q], smpl := smpl, writes := writes }
  spaceAt : ∀ p, t.spaceAt p = s.spaceAt p
  focusCore : t.focusCore = s.focusCore
  only : (∀ m, m ∈ ms → m.reqs = []) → t = s.setCur t.cur
  land : ∀ m, ms = [m] → ∃ start, t.cur.land = s.cur.land ++ memberLand s.cur m start

/-- A state whose context in focus is c, once its bank uses are claimed. -/
theorem setCur_claim (s : State) (c : Ctx) (us : List BankUse) : ∃ t, (s.setCur c).claim s.focusCore us = .ok t ∧ t.cur = c
    ∧ (∀ p, t.spaceAt p = s.spaceAt p) ∧ t.focusCore = s.focusCore ∧ (us = [] → t = s.setCur c) := by
  obtain ⟨t, hclaim, hcur, hspace, hfocus⟩ := claim_ok (s.setCur c) us
  refine ⟨t, hclaim, hcur.trans (cur_setCur ..), fun p => (hspace p).trans (onlyFocus_spaceAt (onlyFocus_setCur ..) p), hfocus, ?_⟩
  rintro rfl
  exact (Except.ok.inj hclaim).symm

/-- Members that make no request take no bank. -/
theorem uses_none (s : State) (t : Nat) {ms : List VMember} (h : ∀ m, m ∈ ms → m.reqs = []) : ms.flatMap (s.usesFrom t) = [] := by
  rw [List.flatMap_eq_nil_iff]
  intro m hm
  rw [State.usesFrom, h m hm]
  rfl

section push
variable {s : State} {v : Cv}

theorem pushConvoy_pushed (hcv : s.cur.cv = some v) (hspan : s.cur.span = none) (old : Ctx) (ms : List VMember) (fl : BitVec 7)
    (stats : Option (List Nat)) (work : VWork) (pops : List (Nat × Nat)) :
    ∃ t q, s.pushConvoy old ms fl stats work pops = .ok t ∧ Pushed s ms t q ∧ q.head = v.head ∧ q.members = v.n ∧ q.push = s.now ∧ q.flags = fl := by
  obtain ⟨hsched, hlate⟩ := scheduleAll_outside s.origin (s.cur.convoyStart s.now (ms.headD {})) ms s.cur 0 [] [] hspan
  have hland := fun m => scheduleAll_land s.origin (s.cur.convoyStart s.now (ms.headD {})) m hspan
  have hvq := hsched.keeps Ctx.vq fun _ _ _ _ _ _ _ => rfl
  rw [State.pushConvoy, hcv]
  dsimp only [Ctx.push]
  generalize hr : s.cur.scheduleAll s.origin (s.cur.convoyStart s.now (ms.headD {})) 0 ms [] [] = r at hsched hlate hvq ⊢
  obtain ⟨c, starts, lands, late⟩ := r
  dsimp only at hsched hlate hvq ⊢
  rw [hlate]
  dsimp only [Option.map]
  rw [hvq]
  obtain ⟨t, hclaim, hcur, hspace, hfocus, hno⟩ := setCur_claim s _ _
  refine ⟨t, _, hclaim, ⟨⟨c, _, _, hsched, hcur⟩, hspace, hfocus, fun h => hcur ▸ hno (uses_none s _ h), ?_⟩, ?_⟩
  · intro m hm
    obtain ⟨start, hl⟩ := hland m
    refine ⟨start, ?_⟩
    rw [hcur]
    rw [← hm, hr] at hl
    exact hl
  · exact ⟨rfl, rfl, rfl, rfl⟩
/-- What neither the schedule of convoys, nor the results on their way, nor the dispatch queue are is as before. -/
theorem Pushed.keeps {ms : List VMember} {t : State} {q : VConvoy} (h : Pushed s ms t q) {α : Type} (g : Ctx → α)
    (hg : ∀ (c : Ctx) vvalid vread mrdy mland laneFree land vq smpl writes,
      g { c with vvalid := vvalid, vread := vread, mrdy := mrdy, mland := mland, laneFree := laneFree, land := land
                 vq := vq, smpl := smpl, writes := writes } = g c) : g t.cur = g s.cur := by
  obtain ⟨_, _, _, ⟨_, _, _, _, _, _, rfl⟩, hcur⟩ := h.cur
  rw [hcur]
  exact hg s.cur _ _ _ _ _ _ _ _ _

theorem Pushed.vq {ms : List VMember} {t : State} {q : VConvoy} (h : Pushed s ms t q) : t.cur.vq = s.cur.vq ++ [q] := by
  obtain ⟨_, _, _, _, hcur⟩ := h.cur
  rw [hcur]
end push

/-! ## A run of vector words (R43, R174) -/

theorem vwalk_state (run : List (Nat × VWord)) : ∀ (k : Nat) (c : Ctx), (c.vwalk k run).c = run.foldl (fun c p => (vecEffect p.1 c p.2).c) c := by
  induction run with
  | nil => exact fun _ _ => rfl
  | cons p r ih => exact fun k c => ih (k + 1) _

/-- A member of a run makes no request. -/
theorem vwalk_requests (run : List (Nat × VWord)) : ∀ (k : Nat) (c : Ctx) (m : VMember), m ∈ (c.vwalk k run).ms → m.reqs = [] := by
  induction run with
  | nil => exact fun _ _ _ hm => absurd hm List.not_mem_nil
  | cons p r ih =>
    intro k c m hm
    rcases List.mem_cons.1 hm with rfl | hm
    · rfl
    · exact ih (k + 1) _ m hm

theorem pendingOn_none {c : Ctx} (h : c.land = []) (rs : List Reg) (now : Nat) : c.pendingOn rs now = none := by
  rw [Ctx.pendingOn, h]
  rfl

section run
variable {i : Instr} {op : Nat} {w : VWord} {s s1 : State} {v : Cv}

/-- Outside a span with no result on its way the last word of a run takes it into effect. -/
theorem pushRun_pushed (hcv : s1.cur.cv = some v) (hspan : s1.cur.span = none) (hland : s1.cur.land = []) (hroom : s1.queueRoom = .ok ())
    {n : Nat} {run : List (Nat × VWord)} (hop : (s1.cur.vwalk (n - run.length) run).opBad = none) (htag : (s1.cur.vwalk (n - run.length) run).tagBad = none) :
    ∃ t q, s1.pushRun n run = .ok t ∧ Pushed (s1.setCur (s1.cur.vwalk (n - run.length) run).c) (s1.cur.vwalk (n - run.length) run).ms t q
      ∧ q.head = v.head ∧ q.members = v.n ∧ q.push = s1.now ∧ q.flags = (s1.cur.vwalk (n - run.length) run).fl := by
  have hvec := vecOnly_vwalk run (n - run.length) s1.cur
  have hcv2 := hvec.keeps Ctx.cv fun _ _ _ _ _ => rfl
  have hspan2 := hvec.keeps Ctx.span fun _ _ _ _ _ => rfl
  obtain ⟨t, q, hpush, hpushed, hq⟩ := pushConvoy_pushed (s := s1.setCur (s1.cur.vwalk (n - run.length) run).c) (by rw [cur_setCur, hcv2, hcv])
    (by rw [cur_setCur, hspan2, hspan]) s1.cur (s1.cur.vwalk (n - run.length) run).ms (s1.cur.vwalk (n - run.length) run).fl none (.run run) []
  refine ⟨t, q, ?_, hpushed, hq⟩
  have hout : s1.cur.span.isSome = false := by rw [hspan]; rfl
  rw [State.pushRun]
  simp only [hout, Bool.false_eq_true, if_false, pendingOn_none hland]
  refine bind_ok hroom ?_
  simp only [hop, htag]
  exact hpush

/-- What a vector word does. -/
def vecBody (op : Nat) (w : VWord) (s : State) : Except Stop State :=
  match s.cur.cv with
  | none => .ok s
  | some v =>
    if v.idx + 1 < v.n then .ok (s.modCur fun c => { c with cv := some { v with pend := v.pend ++ [(op, w)] } })
    else s.pushRun v.n (v.pend ++ [(op, w)])

theorem exec_vecBody (h : i.vec = some (op, w)) (s : State) : exec i s = issue i s fun _ s => vecBody op w s := by
  unfold Instr.vec at h
  split at h <;> cases h <;> rfl

theorem vecBody_joins (hcv : s1.cur.cv = some v) (hn : v.idx + 1 < v.n) :
    vecBody op w s1 = .ok (s1.modCur fun c => { c with cv := some { v with pend := v.pend ++ [(op, w)] } }) := by
  rw [vecBody, hcv]
  exact if_pos hn

theorem vecBody_takes (hcv : s1.cur.cv = some v) (hlast : v.n ≤ v.idx + 1) : vecBody op w s1 = s1.pushRun v.n (v.pend ++ [(op, w)]) := by
  rw [vecBody, hcv]
  exact if_neg (by omega)

/-- A word that is not the last of its run joins it. -/
theorem exec_joins (hvec : i.vec = some (op, w)) (htaken : Taken i s v s1) (hn : v.idx + 1 < v.n) :
    exec i s = .next (s1.setCur { s1.cur with cv := some { v with pend := v.pend ++ [(op, w)], idx := v.idx + 1 } }) := by
  have hissue := completes_member htaken (body := fun _ s => vecBody op w s) (vecBody_joins (taken_fronted htaken).cv hn) hn
  refine (exec_vecBody hvec s).trans (hissue.trans ?_)
  rw [State.modCur, cur_setCur, setCur_setCur]
  rfl
end run

end Sys2Proof.Proofs
end

section
/-! Vector words (R43, R172 to R176, R195): each joins its run, or ends it. -/

namespace Sys2Proof.Proofs

open Sys2Proof Sys2Proof.Machine Sys2Proof.Safety Sys2Proof.Claims Sys2Proof.Laws

section last
variable {i : Instr} {op : Nat} {w : VWord} {s s1 : State} {v : Cv}

/-- The last word of a run takes it into effect and pushes its convoy. -/
theorem exec_takes (hvec : i.vec = some (op, w)) (htaken : Taken i s v s1) (hgoes : Goes s v s.cur.loops (s.cur.pc + 32))
    (hlast : v.n ≤ v.idx + 1) (hspan : s.cur.span = none) (hland : s.cur.land = []) (hroom : s1.queueRoom = .ok ()) {r : VWalk}
    (hr : s1.cur.vwalk (v.n - (v.pend ++ [(op, w)]).length) (v.pend ++ [(op, w)]) = r) (hop : r.opBad = none) (htag : r.tagBad = none) :
    ∃ cv t q, exec i s = .next (closed t cv (following s v s.cur.loops (s.cur.pc + 32)).1 (nextPc s v)) ∧ Pushed (s1.setCur r.c) r.ms t q
      ∧ q.head = v.head ∧ q.members = v.n ∧ q.push = s.now ∧ q.flags = r.fl := by
  have f := taken_fronted htaken
  subst hr
  obtain ⟨t, q, hrun, hpushed, hhead, hmembers, hpush, hflags⟩ :=
    pushRun_pushed f.cv (f.span.trans hspan) (f.land.trans hland) hroom hop htag
  have hwalk := vecOnly_vwalk (v.pend ++ [(op, w)]) (v.n - (v.pend ++ [(op, w)]).length) s1.cur
  have hloops := (hpushed.keeps Ctx.loops fun _ _ _ _ _ _ _ _ _ _ => rfl).trans
    ((congrArg Ctx.loops (cur_setCur ..)).trans (hwalk.keeps Ctx.loops fun _ _ _ _ _ => rfl))
  have hpc := (hpushed.keeps Ctx.pc fun _ _ _ _ _ _ _ _ _ _ => rfl).trans
    ((congrArg Ctx.pc (cur_setCur ..)).trans (hwalk.keeps Ctx.pc fun _ _ _ _ _ => rfl))
  obtain ⟨cv, hissue⟩ := completes_on htaken hgoes (body := fun _ s => vecBody op w s) ((vecBody_takes f.cv hlast).trans hrun) hloops hpc
  exact ⟨cv, t, q, (exec_vecBody hvec s).trans hissue, hpushed, hhead, hmembers, hpush.trans f.now, hflags⟩

/-- What the context reads once its convoy has been pushed and the next word stands at the pc. -/
theorem closed_pushed {c : Ctx} {ms : List VMember} {t : State} {q : VConvoy} (h : Pushed (s1.setCur c) ms t q) (cv : Option Cv) (l : List LoopEnt)
    (p : Nat) {α : Type} (g : Ctx → α) (hg : ∀ (c : Ctx) vvalid vread mrdy mland laneFree land vq smpl writes,
      g { c with vvalid := vvalid, vread := vread, mrdy := mrdy, mland := mland, laneFree := laneFree, land := land
                 vq := vq, smpl := smpl, writes := writes } = g c) (hclosed : ∀ c : Ctx, g { c with cv := cv, loops := l, pc := p } = g c) :
    g (closed t cv l p).cur = g c := by
  rw [cur_closed, hclosed, h.keeps g hg, cur_setCur]

theorem member_dstReg (c : Ctx) (op : Nat) (w : VWord) (u : VUse) {g : Option Word} {x : Word} {r : Reg} (hg : g = some x) (hr : u.dstReg = some r)
    (h : r ≠ 0) : (c.member op w u g).dstReg = some (physReg c.wb r.toNat, x) := by
  simp only [Ctx.member, hg, hr, if_neg h]

/-- The count or index of VMPOP or VMFIRST is on its way to g[D] (R195). -/
theorem pop_lands {c : Ctx} {k : Nat} {x : Word} (hop : op = 0x71 ∨ op = 0x72) (hg : (vecEffect op c w).g = some x) (hd : w.d ≠ 0) :
    ∃ m, (c.vwalk k [(op, w)]).ms = [m] ∧ m.dstReg = some (physReg c.wb w.d.toNat, x) := by
  have huse : (c.vuse op w).dstReg = some w.d := by rcases hop with rfl | rfl <;> rfl
  exact ⟨_, rfl, member_dstReg c op w _ hg huse hd⟩

theorem mem_memberLand (c : Ctx) {m : VMember} {r : Nat} {x : Word} (h : m.dstReg = some (r, x)) (start : Nat) :
    ∃ l, l ∈ memberLand c m start ∧ l.reg = r ∧ l.val = x := by
  rw [memberLand, h]
  exact ⟨_, List.mem_singleton_self _, rfl, rfl⟩
end last

/-- Settles O24: a vector word that is not the last of its run joins it; the last one takes the run into effect. -/
theorem vectorRun : Obligations.VectorRun := by
  unfold Obligations.VectorRun
  refine ⟨fun k c run => ⟨vwalk_state run k c, fun op w => rfl⟩, ?_⟩
  rintro i op w s s1 v hvec ⟨htaken, hgoes⟩
  have f := taken_fronted htaken
  refine ⟨fun hn => ?_, fun hlast hspan hland hroom => ?_⟩
  · refine ⟨_, exec_joins hvec htaken hn, onlyFocus_set f.only _, ?_, ?_, ?_, ?_⟩
    · rw [cur_setCur]
      exact f.rest
    · rw [KeepsRegs, cur_setCur]
      exact ⟨f.regs, f.land, f.flg, f.wb⟩
    · rw [cur_setCur]
      exact f.pc
    · rw [cur_setCur]
  · intro r hop htag
    obtain ⟨cv, t, q, hexec, hpushed, hhead, hmembers, hpush, hflags⟩ := exec_takes hvec htaken hgoes hlast hspan hland hroom rfl hop htag
    have hwalk : VecOnly s1.cur r.c := vecOnly_vwalk ..
    have honly : OnlyFocus s t := by
      rw [hpushed.only (vwalk_requests _ _ _)]
      exact onlyFocus_set (onlyFocus_set f.only _) _
    have hclosed := onlyFocus_closed honly cv (following s v s.cur.loops (s.cur.pc + 32)).1 (nextPc s v)
    have hreads {α : Type} := closed_pushed (α := α) hpushed cv (following s v s.cur.loops (s.cur.pc + 32)).1 (nextPc s v)
    refine ⟨_, q, hexec, hreads Ctx.v (fun _ _ _ _ _ _ _ _ _ _ => rfl) fun _ => rfl, hreads Ctx.tags (fun _ _ _ _ _ _ _ _ _ _ => rfl) fun _ => rfl,
      hreads Ctx.m (fun _ _ _ _ _ _ _ _ _ _ => rfl) fun _ => rfl, hreads Ctx.k (fun _ _ _ _ _ _ _ _ _ _ => rfl) fun _ => rfl, ?_, hhead, hmembers, hpush,
      hflags, ?_, ?_, ?_, onlyFocus_sameMemory hclosed, hclosed, ?_⟩
    · rw [cur_closed]
      refine hpushed.vq.trans ?_
      rw [cur_setCur, hwalk.keeps Ctx.vq fun _ _ _ _ _ => rfl, f.vq]
    · exact (hreads Ctx.regs (fun _ _ _ _ _ _ _ _ _ _ => rfl) fun _ => rfl).trans ((hwalk.keeps Ctx.regs fun _ _ _ _ _ => rfl).trans f.regs)
    · exact (hreads Ctx.flg (fun _ _ _ _ _ _ _ _ _ _ => rfl) fun _ => rfl).trans ((hwalk.keeps Ctx.flg fun _ _ _ _ _ => rfl).trans f.flg)
    · rw [cur_closed]
    · intro x hpend hpop hg hd
      obtain ⟨m, hms, hdst⟩ := pop_lands (k := v.n - (v.pend ++ [(op, w)]).length) hpop hg hd
      obtain ⟨start, hlands⟩ := hpushed.land m (by rw [← hms, hpend]; rfl)
      obtain ⟨l, hl, hreg, hval⟩ := mem_memberLand (s1.setCur r.c).cur hdst start
      refine ⟨l, ?_, hreg.trans (by rw [f.wb]), hval⟩
      rw [cur_closed]
      rw [hlands]
      exact List.mem_append_right _ hl

end Sys2Proof.Proofs
end

section
/-! What vector loads and stores leave of the state (R128, R133 to R136): a look at the own scratchpad changes no byte of it, a store
changes the bytes of its elements alone, and both leave every other memory as it is. -/

namespace Sys2Proof.Proofs

open Sys2Proof Sys2Proof.Machine Sys2Proof.Safety Sys2Proof.Claims Sys2Proof.Laws

/-- t is s but for the scratchpad of the core in focus, its layout cache, the race log and the draws used. -/
structure LocOnly (s t : State) : Prop where
  cur : t.cur = s.cur
  focusCore : t.focusCore = s.focusCore
  focusCtx : t.focusCtx = s.focusCtx
  now : t.now = s.now
  slice : t.slice = s.slice
  banks : t.curCore.banks = s.curCore.banks
  me : t.curCore.me = s.curCore.me
  other : ∀ p, p ≠ .loc s.focusCore → t.spaceAt p = s.spaceAt p

section loc
variable {s t u : State}

theorem LocOnly.refl (s : State) : LocOnly s s := ⟨rfl, rfl, rfl, rfl, rfl, rfl, rfl, fun _ _ => rfl⟩

theorem LocOnly.trans (h : LocOnly s t) (g : LocOnly t u) : LocOnly s u where
  cur := g.cur.trans h.cur
  focusCore := g.focusCore.trans h.focusCore
  focusCtx := g.focusCtx.trans h.focusCtx
  now := g.now.trans h.now
  slice := g.slice.trans h.slice
  banks := g.banks.trans h.banks
  me := g.me.trans h.me
  other := fun p hp => (g.other p (h.focusCore ▸ hp)).trans (h.other p hp)

theorem LocOnly.lr (h : LocOnly s t) : t.lr = s.lr := by rw [State.lr, h.slice]; rfl

theorem LocOnly.foldl {α : Type} {f : State → α → State} (hf : ∀ s a, LocOnly s (f s a)) (l : List α) : ∀ s, LocOnly s (l.foldl f s) := by
  induction l with
  | nil => exact LocOnly.refl
  | cons a r ih => exact fun s => (hf s a).trans (ih _)

/-- An update of the core in focus that leaves its contexts, its banks and its engine alone. -/
theorem locOnly_modCurCore (s : State) {f : Core → Core} (hctxs : (f s.curCore).ctxs = s.curCore.ctxs) (hbanks : (f s.curCore).banks = s.curCore.banks)
    (hme : (f s.curCore).me = s.curCore.me) : LocOnly s (s.modCurCore f) where
  cur := cur_modCurCore hctxs
  focusCore := rfl
  focusCtx := rfl
  now := rfl
  slice := rfl
  banks := by rw [curCore_modCurCore, hbanks]
  me := by rw [curCore_modCurCore, hme]
  other := fun p hp => by
    cases p with
    | loc c => exact congrArg Core.loc (core_setCore_ne s _ fun h => hp (congrArg Place.loc h))
    | _ => rfl

theorem LocOnly.setFree (h : LocOnly s t) (n : Nat) : LocOnly s { t with free := n } :=
  ⟨h.cur, h.focusCore, h.focusCtx, h.now, h.slice, h.banks, h.me, fun p hp => by rw [← h.other p hp]; cases p <;> rfl⟩

/-- t is s after a look at the scratchpad of the core in focus. -/
structure Looked (s t : State) : Prop extends LocOnly s t where
  bytes : t.curCore.loc.bytes = s.curCore.loc.bytes
  syn : s.curCore.loc.syn = [] → t.curCore.loc.syn = []

theorem Looked.refl (s : State) : Looked s s := ⟨LocOnly.refl s, rfl, id⟩

theorem Looked.trans (h : Looked s t) (g : Looked t u) : Looked s u := ⟨h.toLocOnly.trans g.toLocOnly, g.bytes.trans h.bytes, g.syn ∘ h.syn⟩

theorem looked_modCurCore (s : State) (f : Core → Core) (hctxs : (f s.curCore).ctxs = s.curCore.ctxs) (hbanks : (f s.curCore).banks = s.curCore.banks)
    (hme : (f s.curCore).me = s.curCore.me) (hbytes : (f s.curCore).loc.bytes = s.curCore.loc.bytes)
    (hsyn : s.curCore.loc.syn = [] → (f s.curCore).loc.syn = []) : Looked s (s.modCurCore f) := by
  refine ⟨locOnly_modCurCore s hctxs hbanks hme, ?_, fun h => ?_⟩
  · rw [curCore_modCurCore, hbytes]
  · rw [curCore_modCurCore, hsyn h]

theorem Looked.setFree (h : Looked s t) (n : Nat) : Looked s { t with free := n } := ⟨h.toLocOnly.setFree n, h.bytes, h.syn⟩

theorem Looked.memory (h : Looked s t) : SameMemory s t := fun p a => by
  by_cases hp : p = .loc s.focusCore
  · subst hp
    have hown : (t.spaceAt (.loc t.focusCore)).bytes = s.curCore.loc.bytes := h.bytes
    rw [h.focusCore] at hown
    exact congrArg (fun m : Memory => m.byte a) hown
  · rw [h.other p hp]

theorem syn_countRead {m : Space} (h : m.syn = []) (ws : List Nat) : (m.countRead ws).syn = [] := by rw [countRead_clean h, h]

theorem looked_useEntry (s : State) (n : Nat) : Looked s (s.useEntry s.focusCore n).2 := by
  have h := looked_modCurCore s
    (fun k => { k with lcache := k.lcache.put (n % 64) n, loc := k.loc.countRead (wordsOf (s.lr.ltbase + 256 * n) 256) })
    rfl rfl rfl (countRead_bytes ..) fun hsyn => syn_countRead hsyn _
  unfold State.useEntry
  dsimp only
  split
  · exact h
  · exact h.setFree _

/-! ## The race detector (R268 to R270) -/

theorem looked_logRace (s : State) (e : RaceEnt) : Looked s (s.logRace e) := by
  unfold State.logRace
  split
  · exact ⟨⟨rfl, rfl, rfl, rfl, rfl, rfl, rfl, fun p _ => by cases p <;> rfl⟩, rfl, id⟩
  · exact ⟨⟨rfl, rfl, rfl, rfl, rfl, rfl, rfl, fun p _ => by cases p <;> rfl⟩, rfl, id⟩

theorem looked_race {sec head : Nat} {w g : Shadow} {write : Bool} (h : s.race sec head w g write = .ok t) : Looked s t := by
  unfold State.race at h
  dsimp only at h
  split at h
  · cases h
    exact Looked.refl _
  · cases h
    exact looked_logRace ..
  · cases h

/-- The shadow of a sector names its last write. -/
theorem looked_shadow (h : Looked s t) (sec : Nat) (g : Shadow) (write : Bool) :
    Looked s (if write then t.modCore s.focusCore fun k => { k with shadow := k.shadow.put sec g } else t) := by
  split
  · refine h.trans ?_
    rw [← h.focusCore]
    exact looked_modCurCore t (fun k => { k with shadow := k.shadow.put sec g }) rfl rfl rfl rfl id
  · exact h

theorem looked_raceLocal {sec head : Nat} {g : Shadow} {write : Bool} (h : s.raceLocal s.focusCore sec head g write = .ok t) : Looked s t := by
  unfold State.raceLocal at h
  split at h
  · cases h
    exact Looked.refl _
  · dsimp only at h
    split at h
    · split at h
      · obtain ⟨u, hu, h⟩ := ok_of_bind h
        cases h
        exact looked_shadow (looked_race hu) ..
      · cases h
        exact looked_shadow (Looked.refl s) ..
    · cases h
      exact looked_shadow (Looked.refl s) ..

theorem looked_raceSectors {head : Nat} {g : Shadow} {write : Bool} (secs : List Nat) : ∀ {s t : State},
    s.raceSectors s.focusCore head g write secs = .ok t → Looked s t := by
  induction secs with
  | nil =>
    intro s t h
    cases h
    exact Looked.refl _
  | cons sec r ih =>
    intro s t h
    obtain ⟨u, hu, h⟩ := ok_of_bind h
    have hone := looked_raceLocal hu
    refine hone.trans (ih ?_)
    rw [hone.focusCore]
    exact h
end loc

/-! ## What a load reads (R130, R164) -/

/-- Two memories with the same bytes, the second clean where the first is. -/
def SameContent (m k : Space) : Prop := k.bytes = m.bytes ∧ (m.syn = [] → k.syn = [])

theorem SameContent.refl (m : Space) : SameContent m m := ⟨rfl, id⟩

theorem SameContent.trans {m k l : Space} (h : SameContent m k) (g : SameContent k l) : SameContent m l := ⟨g.1.trans h.1, g.2 ∘ h.2⟩

theorem sameContent_sawNew (m : Space) (p : Path) (sec : Nat) (flip : Bool) : SameContent m (m.sawNew p sec flip) := by
  unfold Space.sawNew
  split
  · exact SameContent.refl m
  · exact ⟨rfl, id⟩

theorem sameContent_ask (m : Space) (p : Path) (need t : Nat) (flip : Option TurnRec) (sec free : Nat) :
    SameContent m (m.ask p need t flip sec free).2.1 := by
  unfold Space.ask
  dsimp only
  split
  · exact SameContent.refl m
  · split
    · exact SameContent.refl m
    · exact sameContent_sawNew ..

section reading
variable {s t : State}

theorem sameContent_askFor (s : State) (r : ReadState) (sec : Nat) : SameContent r.mem (s.askFor r sec).1.mem := by
  unfold State.askFor
  split
  · exact SameContent.refl _
  · exact sameContent_ask ..

/-- The requests for the sectors of an element. -/
def askSectors (s : State) (r : ReadState) (m : Space) (secs : List Nat) : Space × ReadState :=
  secs.foldl (fun (acc : Space × ReadState) sec =>
    let x := s.askFor acc.2 sec
    ((match x.2 with | some y => acc.1.patch sec y | none => acc.1), x.1)) (m, r)

theorem readElems_cons (s : State) (wm : Nat) (r : ReadState) (q : Nat × Nat) (l : List (Nat × Nat)) :
    s.readElems wm r (q :: l) =
      let p := askSectors s r s.curCore.loc (sectorsOf q.2 wm)
      let t := s.readElems wm { p.2 with mem := p.2.mem.countRead (wordsOf q.2 wm) } l
      ((q.1, p.1.readBits q.2 wm) :: t.1, t.2) := rfl

theorem sameContent_askSectors (s : State) (secs : List Nat) : ∀ (r : ReadState) (m : Space), SameContent r.mem (askSectors s r m secs).2.mem := by
  induction secs with
  | nil => exact fun r _ => SameContent.refl r.mem
  | cons sec l ih => exact fun r m => (sameContent_askFor s r sec).trans (ih _ _)

theorem sameContent_readElems (s : State) (wm : Nat) (l : List (Nat × Nat)) : ∀ r : ReadState, SameContent r.mem (s.readElems wm r l).2.1 := by
  induction l with
  | nil => exact fun r => SameContent.refl r.mem
  | cons q l ih =>
    intro r
    rw [readElems_cons]
    have hasked := sameContent_askSectors s (sectorsOf q.2 wm) r s.curCore.loc
    have hcounted (m : Space) : SameContent m (m.countRead (wordsOf q.2 wm)) := ⟨countRead_bytes .., fun h => syn_countRead h _⟩
    exact (hasked.trans (hcounted _)).trans (ih _)

theorem looked_loadElems (s : State) (t0 : Nat) (x : VMAcc) : Looked s (s.loadElems t0 x).2 := by
  unfold State.loadElems
  dsimp only
  generalize hr : s.readElems x.wm _ x.els = r
  have hsame : SameContent s.curCore.loc r.2.1 := hr ▸ sameContent_readElems s x.wm x.els _
  exact (looked_modCurCore s (fun k => { k with loc := r.2.1 }) rfl rfl rfl hsame.1 hsame.2).setFree _
end reading

/-! ## What a store writes where no bank is held (R128, R130) -/

section writes
variable {s : State}

/-- The scratchpad after a write of n bits, with its sectors OUT. -/
def stored (s : State) (t a n x : Nat) : Space :=
  (((sectorsOf a n).filter fun sec => !s.isSync sec && !s.inPool (512 * sec)).foldl
    (fun m sec => m.goOutAt s.now (patchOf s.focusCtx s.now t a n x sec) sec) s.curCore.loc).writeRaw a n x

theorem storeFrom_free (hquiet : BanksFree s) (t a n x : Nat) : s.storeFrom t s.focusCore a n x = s.modCurCore fun k => { k with
    loc := stored s t a n x, stale := (s.staleEntries s.focusCore a n).foldl keepStale k.stale } :=
  congrArg (s.setCore s.focusCore) (settleAll_quiet (k := { s.curCore with
    loc := stored s t a n x, stale := (s.staleEntries s.focusCore a n).foldl keepStale s.curCore.stale }) hquiet _)

theorem locOnly_storeFrom (hquiet : BanksFree s) (t a n x : Nat) : LocOnly s (s.storeFrom t s.focusCore a n x) := by
  rw [storeFrom_free hquiet]
  exact locOnly_modCurCore s rfl rfl rfl

theorem LocOnly.banksFree {t : State} (h : LocOnly s t) (hquiet : BanksFree s) : BanksFree t := by
  rw [BanksFree, Core.quiet, h.banks, h.now]
  exact hquiet

/-- The stores of a list of elements, each with its cycle, its address and its value. -/
def storeEach {α : Type} (cycle addr val : α → Nat) (core n : Nat) (l : List α) (s : State) : State :=
  l.foldl (fun s q => s.storeFrom (cycle q) core (addr q) n (val q)) s

variable {α : Type} {cycle addr val : α → Nat} {n : Nat}

theorem locOnly_storeEach (l : List α) : ∀ {s : State}, BanksFree s → LocOnly s (storeEach cycle addr val s.focusCore n l s) := by
  induction l with
  | nil => exact fun _ => LocOnly.refl _
  | cons q r ih =>
    intro s hquiet
    have hone := locOnly_storeFrom hquiet (cycle q) (addr q) n (val q)
    have hrest := ih (hone.banksFree hquiet)
    rw [hone.focusCore] at hrest
    exact hone.trans hrest
end writes

end Sys2Proof.Proofs
end

section
/-! Vector loads and stores as they stand on the schedule (R133 to R136): what an access that has passed its checks leaves. -/

namespace Sys2Proof.Proofs

open Sys2Proof Sys2Proof.Machine Sys2Proof.Safety Sys2Proof.Claims Sys2Proof.Laws

/-- The access of a tensor whose entry is l (R139, R140); `need` is what its register group must carry. -/
def tensorAccess (c : Ctx) (l : BitVec 256) (idx : Nat) (hit : Bool) (start : Word) (need : Except Stop Nat) (s : State) :
    Except Stop (VMAcc × State) :=
  match memWidth (lteFmt l) with
  | none => fail Exc.operand
  | some wm => do
    failIf (!c.capOk ((slotWidth (loadTag (lteFmt l))).getD 8)) Exc.operand
    let _ ← need
    failIf (lteBad l) (Exc.layout idx)
    failIf (startBeyond l start) (Exc.layout idx)
    failIf (spaceOf (lteBase l) != 0) (Exc.space (lteBase l))
    let els ← lteAddrs l idx wm start c.activeElems
    .ok ({ els := els, wm := wm, tag := loadTag (lteFmt l), slot := (slotWidth (loadTag (lteFmt l))).getD 8, lookup := if hit then 2 else 8, stride := 3 }, s)

section access
variable {s t : State} {op : VMOp} {d a b : Reg} {x : VMAcc}

theorem vmemAccess_ldt (s : State) (d a b : Reg) : s.vmemAccess .ldt d a b =
    let u := s.useEntry s.focusCore (s.reg a).toNat
    s.checkEntry s.focusCore (s.reg a).toNat >>= fun _ =>
      tensorAccess s.cur u.1 (s.reg a).toNat (s.curCore.lcHit (s.reg a).toNat) (s.reg b) (.ok 0) u.2 := rfl

theorem vmemAccess_stt (s : State) (d a b : Reg) : s.vmemAccess .stt d a b =
    let u := s.useEntry s.focusCore (s.reg a).toNat
    s.checkEntry s.focusCore (s.reg a).toNat >>= fun _ =>
      tensorAccess s.cur u.1 (s.reg a).toNat (s.curCore.lcHit (s.reg a).toNat) (s.reg b)
        (needTag (s.cur.groupTag d.toNat) fun x => x == loadTag (lteFmt u.1) || x == 0) u.2 := rfl

theorem tensorAccess_state {c : Ctx} {l : BitVec 256} {idx : Nat} {hit : Bool} {start : Word} {need : Except Stop Nat}
    (h : tensorAccess c l idx hit start need s = .ok (x, t)) : t = s := by
  unfold tensorAccess at h
  split at h
  · cases h
  · obtain ⟨_, -, h⟩ := ok_of_bind h
    obtain ⟨_, -, h⟩ := ok_of_bind h
    obtain ⟨_, -, h⟩ := ok_of_bind h
    obtain ⟨_, -, h⟩ := ok_of_bind h
    obtain ⟨_, -, h⟩ := ok_of_bind h
    obtain ⟨_, -, h⟩ := ok_of_bind h
    cases h
    rfl

/-- The access itself uses the layout table at most (R140). -/
theorem vmemAccess_state (h : s.vmemAccess op d a b = .ok (x, t)) : t = s ∨ t = (s.useEntry s.focusCore (s.reg a).toNat).2 := by
  cases op with
  | ld =>
    cases h
    exact .inl rfl
  | st =>
    obtain ⟨_, -, h⟩ := ok_of_bind h
    cases h
    exact .inl rfl
  | ldx | stx =>
    obtain ⟨_, -, h⟩ := ok_of_bind h
    obtain ⟨_, -, h⟩ := ok_of_bind h
    cases h
    exact .inl rfl
  | ldt =>
    rw [vmemAccess_ldt] at h
    obtain ⟨_, -, h⟩ := ok_of_bind h
    exact .inr (tensorAccess_state h)
  | stt =>
    rw [vmemAccess_stt] at h
    obtain ⟨_, -, h⟩ := ok_of_bind h
    exact .inr (tensorAccess_state h)
  | ldb =>
    cases h
    exact .inl rfl
  | stb =>
    obtain ⟨_, -, h⟩ := ok_of_bind h
    cases h
    exact .inl rfl

theorem looked_vmemAccess (h : s.vmemAccess op d a b = .ok (x, t)) : Looked s t := by
  rcases vmemAccess_state h with rfl | rfl
  · exact Looked.refl _
  · exact looked_useEntry ..

/-! ## What a load and a store do once their access is known (R127, R135) -/

/-- The element that a fault of an element names (log 70). -/
def faultElem (op : VMOp) (c : Ctx) (e : Nat) : Nat := if op = .ldb || op = .stb then ((rangeFrom e 16).find? c.active).getD e else e

/-- The elements of an access with the cycle of their last request, from its start. -/
def timed (op : VMOp) (x : VMAcc) : List ((Nat × Nat) × Nat) := x.els.zip ((x.requests (!op.isLoad)).1.map Prod.snd)

/-- The cycle in which an access starts. -/
def startOf (s : State) (op : VMOp) (x : VMAcc) (d b : Reg) : Nat := s.cur.convoyStart s.now (s.vmemMember op x d b).1

/-- The state after a load whose checks leave u. -/
def loadDone (op : VMOp) (x : VMAcc) (d b : Reg) (s : State) (checks : List FaceCheck) (doubt : Bool) (u : State) : State :=
  let r := u.loadElems (startOf s op x d b) x
  (r.2.setCur (s.cur.loaded op d.toNat (if op = .ldx then x.tag else b.toNat) x.tag x.slot x.wm r.1)).addChecks (checks.map fun k => { k with race := doubt })

/-- A load, its access known. -/
def loadRun (op : VMOp) (x : VMAcc) (d b : Reg) (s : State) : Except Stop (State × VMember × List Nat × VWork) := do
  let (checks, doubt) ← s.vmemChecks (faultElem op s.cur) x.wm none [] ((timed op x).map fun q => (q.1, startOf s op x d b + q.2))
  let t ← if doubt then .ok s else s.raceSectors s.focusCore s.origin.head (s.agent s.focusCore s.focusCtx 0 false) false ((x.els.flatMap fun p => sectorsOf p.2 x.wm).eraseDups)
  .ok (loadDone op x d b s checks doubt t, (s.vmemMember op x d b).1, (s.vmemMember op x d b).2,
    .load op d.toNat (if op = .ldx then x.tag else b.toNat) x.tag x.slot x.wm x.els (t.loadElems (startOf s op x d b) x).1)

/-- A store, its access known. -/
def storeRun (op : VMOp) (x : VMAcc) (d b : Reg) (s : State) : Except Stop (State × VMember × List Nat × VWork) := do
  (timed op x).forM fun q => atElem (faultElem op s.cur q.1.1) (s.checkWrite s.focusCore s.focusCtx q.1.2 x.wm (startOf s op x d b + q.2) x.whole)
  let t ← s.raceSectors s.focusCore s.origin.head (s.agent s.focusCore s.focusCtx 0 false) true ((x.els.flatMap fun p => sectorsOf p.2 x.wm).eraseDups)
  .ok (storeEach (fun q => startOf s op x d b + q.2 + (x.holdOf q.1.2 - 1)) (fun q => q.1.2)
      (fun q => s.cur.stored op d.toNat b.toNat x.slot q.1.1) s.focusCore x.wm (timed op x) t,
    (s.vmemMember op x d b).1, (s.vmemMember op x d b).2, .store op d.toNat b.toNat x.slot x.wm x.els)

theorem vmemRun_cases (h : s.vmemAccess op d a b = .ok (x, t)) :
    s.vmemRun op d a b = if op.isLoad = true then loadRun op x d b t else storeRun op x d b t := by
  unfold State.vmemRun
  exact bind_ok h rfl

theorem vmemRun_load (hop : op.isLoad = true) (h : s.vmemAccess op d a b = .ok (x, t)) : s.vmemRun op d a b = loadRun op x d b t :=
  (vmemRun_cases h).trans (if_pos hop)

theorem vmemRun_store (hop : op.isLoad = false) (h : s.vmemAccess op d a b = .ok (x, t)) : s.vmemRun op d a b = storeRun op x d b t :=
  (vmemRun_cases h).trans (if_neg (by rw [hop]; exact Bool.false_ne_true))
end access

/-! ## The context after an access -/

/-- Two contexts that differ in vector registers, tags, masks, scale registers and checks to come alone. -/
def LoadOnly (c d : Ctx) : Prop := ∃ v tags m k checks, d = { c with v := v, tags := tags, m := m, k := k, checks := checks }

theorem LoadOnly.refl (c : Ctx) : LoadOnly c c := ⟨_, _, _, _, _, rfl⟩

theorem LoadOnly.keeps {c d : Ctx} (h : LoadOnly c d) {α : Type} (g : Ctx → α)
    (hg : ∀ (c : Ctx) v tags m k checks, g { c with v := v, tags := tags, m := m, k := k, checks := checks } = g c) : g d = g c := by
  obtain ⟨_, _, _, _, _, rfl⟩ := h
  exact hg _ _ _ _ _ _

theorem VecOnly.loadOnly {c d : Ctx} (h : VecOnly c d) (l : List FaceCheck) : LoadOnly c { d with checks := l } := by
  obtain ⟨_, _, _, _, rfl⟩ := h
  exact ⟨_, _, _, _, _, rfl⟩

theorem vecOnly_loadBlocks (c : Ctx) (d : Nat) (p : Pip) (l : List (Nat × Nat)) : VecOnly c (c.loadBlocks d p l) :=
  VecOnly.foldl (fun _ _ => (vecOnly_setElems ..).trans (vecOnly_setKByte ..)) l c

theorem vecOnly_loaded (c : Ctx) (op : VMOp) (d code tag slot wm : Nat) (vals : List (Nat × Nat)) : VecOnly c (c.loaded op d code tag slot wm vals) := by
  unfold Ctx.loaded
  split
  · exact VecOnly.refl c
  · dsimp only
    split
    · exact (vecOnly_loadBlocks ..).trans (vecOnly_setTags ..)
    · exact (vecOnly_setElems ..).trans (vecOnly_setTags ..)
    · exact (vecOnly_setElems ..).trans (vecOnly_setTags ..)

section done
variable {s t u : State} {op : VMOp} {d b : Reg} {x : VMAcc} {m : VMember} {st : List Nat} {wk : VWork}

theorem loadDone_leaves (h : Looked s u) (checks : List FaceCheck) (doubt : Bool) :
    LoadOnly s.cur (loadDone op x d b s checks doubt u).cur ∧ SameMemory s (loadDone op x d b s checks doubt u)
      ∧ (loadDone op x d b s checks doubt u).focusCore = s.focusCore := by
  have hloaded := h.trans (looked_loadElems u (startOf s op x d b) x)
  unfold loadDone
  dsimp only
  refine ⟨?_, sameMemory_trans hloaded.memory (onlyFocus_sameMemory (onlyFocus_mod (onlyFocus_setCur ..) _)), hloaded.focusCore⟩
  rw [State.addChecks, cur_modCur, cur_setCur]
  exact (vecOnly_loaded ..).loadOnly _

/-- A load looks at the scratchpad and leaves its slots in the vector registers (R127, R135). -/
theorem loadRun_leaves (h : loadRun op x d b s = .ok (t, m, st, wk)) :
    m.dstReg = none ∧ LoadOnly s.cur t.cur ∧ SameMemory s t ∧ t.focusCore = s.focusCore := by
  obtain ⟨⟨checks, doubt⟩, -, h⟩ := ok_of_bind h
  dsimp only at h
  split at h
  · cases h
    exact ⟨rfl, loadDone_leaves (Looked.refl s) ..⟩
  · obtain ⟨u, hrace, h⟩ := ok_of_bind h
    cases h
    exact ⟨rfl, loadDone_leaves (looked_raceSectors _ hrace) ..⟩

/-- A store writes its elements and leaves the context as it is (R127, R135). -/
theorem storeRun_leaves (h : storeRun op x d b s = .ok (t, m, st, wk)) : m.dstReg = none ∧ ∃ u cycle val, Looked s u
    ∧ t = storeEach cycle (fun q : (Nat × Nat) × Nat => q.1.2) val u.focusCore x.wm (timed op x) u := by
  obtain ⟨_, -, h⟩ := ok_of_bind h
  obtain ⟨u, hrace, h⟩ := ok_of_bind h
  have hlook := looked_raceSectors _ hrace
  cases h
  exact ⟨rfl, u, _, _, hlook, by rw [hlook.focusCore]⟩
end done

end Sys2Proof.Proofs
end

section
/-! The VMEM words complete (R128, R133 to R136, R140): once an access is done its convoy is on the schedule. -/

namespace Sys2Proof.Proofs

open Sys2Proof Sys2Proof.Machine Sys2Proof.Safety Sys2Proof.Claims Sys2Proof.Laws

/-- What a VMEM word does. -/
def vmemBody (op : VMOp) (d a b : Reg) (s : State) : Except Stop State := do
  s.queueRoom
  let (t, m, st, w) ← s.vmemRun op d a b
  t.pushConvoy s.cur [m] 0 (some st) w

section word
variable {i : Instr} {op : VMOp} {d a b : Reg} {s t s1 s2 s3 : State} {v : Cv} {x : VMAcc} {m : VMember} {st : List Nat} {wk : VWork}

theorem exec_vmemBody (h : i.vmem = some (op, d, a, b)) (s : State) : exec i s = issue i s fun _ s => vmemBody op d a b s := by
  unfold Instr.vmem at h
  split at h <;> cases h <;> rfl

/-- A VMEM word whose access is done pushes its convoy and leaves the scalar registers as they are. -/
theorem vmem_completes (hvmem : i.vmem = some (op, d, a, b)) (h : Issues i s v s1) (hspan : s.cur.span = none) (hroom : s1.queueRoom = .ok ())
    (hrun : s1.vmemRun op d a b = .ok (s3, m, st, wk)) (hkeep : LoadOnly s1.cur s3.cur) (hdst : m.dstReg = none) :
    ∃ cv t q, exec i s = .next (closed t cv (following s v s.cur.loops (s.cur.pc + 32)).1 (nextPc s v)) ∧ Pushed s3 [m] t q
      ∧ KeepsRegs s (closed t cv (following s v s.cur.loops (s.cur.pc + 32)).1 (nextPc s v)) := by
  obtain ⟨htaken, hgoes⟩ := h
  have f := taken_fronted htaken
  have hcv := hkeep.keeps Ctx.cv fun _ _ _ _ _ _ => rfl
  have hspan3 := hkeep.keeps Ctx.span fun _ _ _ _ _ _ => rfl
  obtain ⟨t, q, hpush, hpushed, -⟩ := pushConvoy_pushed (hcv.trans f.cv) (hspan3.trans (f.span.trans hspan)) s1.cur [m] 0 (some st) wk []
  have hreads {α : Type} (g : Ctx → α) (hg : ∀ (c : Ctx) vvalid vread mrdy mland laneFree land vq smpl writes,
      g { c with vvalid := vvalid, vread := vread, mrdy := mrdy, mland := mland, laneFree := laneFree, land := land
                 vq := vq, smpl := smpl, writes := writes } = g c)
      (hl : ∀ (c : Ctx) v tags m k checks, g { c with v := v, tags := tags, m := m, k := k, checks := checks } = g c) : g t.cur = g s1.cur :=
    (hpushed.keeps g hg).trans (hkeep.keeps g hl)
  obtain ⟨cv, hissue⟩ := completes_on htaken hgoes (body := fun _ s => vmemBody op d a b s) (bind_ok hroom (bind_ok hrun hpush))
    (hreads Ctx.loops (fun _ _ _ _ _ _ _ _ _ _ => rfl) fun _ _ _ _ _ _ => rfl) (hreads Ctx.pc (fun _ _ _ _ _ _ _ _ _ _ => rfl) fun _ _ _ _ _ _ => rfl)
  refine ⟨cv, t, q, (exec_vmemBody hvmem s).trans hissue, hpushed, keepsRegs_closed f ?_ ?_ ?_ ?_ _ _ _⟩
  · exact hreads Ctx.regs (fun _ _ _ _ _ _ _ _ _ _ => rfl) fun _ _ _ _ _ _ => rfl
  · obtain ⟨start, hland⟩ := hpushed.land m rfl
    have hnone : memberLand s3.cur m start = [] := by rw [memberLand, hdst]
    rw [hland, hnone, List.append_nil]
    exact hkeep.keeps Ctx.land fun _ _ _ _ _ _ => rfl
  · exact hreads Ctx.flg (fun _ _ _ _ _ _ _ _ _ _ => rfl) fun _ _ _ _ _ _ => rfl
  · exact hreads Ctx.wb (fun _ _ _ _ _ _ _ _ _ _ => rfl) fun _ _ _ _ _ _ => rfl

/-! ## What the word leaves -/

theorem closed_pushed_spaceAt {ms : List VMember} {t : State} {q : VConvoy} (h : Pushed s3 ms t q) (cv : Option Cv) (l : List LoopEnt) (pc : Nat)
    (p : Place) : (closed t cv l pc).spaceAt p = s3.spaceAt p := (closed_spaceAt ..).trans (h.spaceAt p)

theorem load_leaves (hop : op.isLoad = true) (hacc : s.vmemAccess op d a b = .ok (x, s2)) (hrun : s.vmemRun op d a b = .ok (s3, m, st, wk)) :
    m.dstReg = none ∧ LoadOnly s.cur s3.cur ∧ SameMemory s s3 := by
  have hlook := looked_vmemAccess hacc
  rw [vmemRun_load hop hacc] at hrun
  obtain ⟨hdst, hkeep, hmem, -⟩ := loadRun_leaves hrun
  exact ⟨hdst, hlook.cur ▸ hkeep, sameMemory_trans hlook.memory hmem⟩

theorem store_leaves (hop : op.isLoad = false) (hacc : s.vmemAccess op d a b = .ok (x, s2)) (hrun : s.vmemRun op d a b = .ok (s3, m, st, wk)) :
    m.dstReg = none ∧ ∃ u cycle val, Looked s u ∧ s3 = storeEach cycle (fun q : (Nat × Nat) × Nat => q.1.2) val u.focusCore x.wm (timed op x) u := by
  have hlook := looked_vmemAccess hacc
  rw [vmemRun_store hop hacc] at hrun
  obtain ⟨hdst, u, cycle, val, hrace, hs3⟩ := storeRun_leaves hrun
  exact ⟨hdst, u, cycle, val, hlook.trans hrace, hs3⟩

/-- Where no word needs correction, stores change no byte outside their elements. -/
theorem storeEach_byte {α : Type} {cycle addr val : α → Nat} {n c : Nat} (l : List α) : ∀ {s : State}, BanksFree s → s.curCore.loc.syn = [] →
    (∀ q, q ∈ l → 8 * c + 8 ≤ addr q ∨ addr q + n ≤ 8 * c) →
    (storeEach cycle addr val s.focusCore n l s).curCore.loc.bytes.byte c = s.curCore.loc.bytes.byte c := by
  induction l with
  | nil => exact fun _ _ _ => rfl
  | cons q r ih =>
    intro s hquiet hsyn hout
    have hone := locOnly_storeFrom hquiet (cycle q) (addr q) n (val q)
    obtain ⟨-, hloc, -⟩ := storeFrom_quiet hsyn hquiet (cycle q) (addr q) n (val q)
    have hsyn2 : (s.storeFrom (cycle q) s.focusCore (addr q) n (val q)).curCore.loc.syn = [] := by
      rw [hloc]
      exact (syn_goOutAts ..).trans hsyn
    have hrest := ih (hone.banksFree hquiet) hsyn2 fun p hp => hout p (List.mem_cons_of_mem _ hp)
    rw [hone.focusCore, hloc] at hrest
    exact hrest.trans (byte_setBits_out _ _ _ _ _ (hout q List.mem_cons_self))

/-- What the stores of an access leave. -/
theorem timed_mem {q : (Nat × Nat) × Nat} (h : q ∈ timed op x) : q.1 ∈ x.els := (List.of_mem_zip (show (q.1, q.2) ∈ timed op x from h)).1

/-- What a VMEM word leaves once its access is done (R128, R135). -/
structure VmemDone (i : Instr) (s : State) (v : Cv) (s3 t : State) : Prop where
  next : exec i s = .next t
  vregs : t.cur.v = s3.cur.v
  tags : t.cur.tags = s3.cur.tags
  scales : t.cur.k = s3.cur.k
  grant : t.cur.grant = s3.cur.grant
  memories : ∀ p, t.spaceAt p = s3.spaceAt p
  own : t.curCore.loc = s3.curCore.loc
  convoys : t.cur.vq.length = s.cur.vq.length + 1
  regs : KeepsRegs s t
  pc : t.cur.pc = nextPc s v

theorem vmem_done (hvmem : i.vmem = some (op, d, a, b)) (h : Issues i s v s1) (hspan : s.cur.span = none) (hroom : s1.queueRoom = .ok ())
    (hrun : s1.vmemRun op d a b = .ok (s3, m, st, wk)) (hkeep : LoadOnly s1.cur s3.cur) (hdst : m.dstReg = none) :
    ∃ t, VmemDone i s v s3 t := by
  have f := taken_fronted h.1
  obtain ⟨cv, t, q, hexec, hpushed, hregs⟩ := vmem_completes hvmem h hspan hroom hrun hkeep hdst
  have hvq : s3.cur.vq = s.cur.vq := (hkeep.keeps Ctx.vq fun _ _ _ _ _ _ => rfl).trans f.vq
  refine ⟨_, hexec, ?_, ?_, ?_, ?_, closed_pushed_spaceAt hpushed _ _ _, ?_, ?_, hregs, by rw [cur_closed]⟩
  · rw [cur_closed]
    exact hpushed.keeps Ctx.v fun _ _ _ _ _ _ _ _ _ _ => rfl
  · rw [cur_closed]
    exact hpushed.keeps Ctx.tags fun _ _ _ _ _ _ _ _ _ _ => rfl
  · rw [cur_closed]
    exact hpushed.keeps Ctx.k fun _ _ _ _ _ _ _ _ _ _ => rfl
  · rw [cur_closed]
    exact hpushed.keeps Ctx.grant fun _ _ _ _ _ _ _ _ _ _ => rfl
  · exact (closed_pushed_spaceAt hpushed _ _ _ (.loc t.focusCore)).trans (congrArg (fun c => (s3.core c).loc) hpushed.focusCore)
  · rw [cur_closed]
    change t.cur.vq.length = _
    rw [hpushed.vq, hvq, List.length_append]
    rfl

theorem VmemDone.load (h : VmemDone i s v s3 t) (f : Fronted s v s1) (hmem : SameMemory s1 s3) : SameMemory s t := fun p a => by
  rw [h.memories, hmem, f.spaceAt]

/-- A load word (R135). -/
theorem load_done (hop : op.isLoad = true) (hvmem : i.vmem = some (op, d, a, b)) (h : Issues i s v s1) (hspan : s.cur.span = none)
    (hroom : s1.queueRoom = .ok ()) (hacc : s1.vmemAccess op d a b = .ok (x, s2)) (hrun : s1.vmemRun op d a b = .ok (s3, m, st, wk)) :
    ∃ t, VmemDone i s v s3 t ∧ SameMemory s t := by
  obtain ⟨hdst, hkeep, hmem⟩ := load_leaves hop hacc hrun
  obtain ⟨t, hdone⟩ := vmem_done hvmem h hspan hroom hrun hkeep hdst
  exact ⟨t, hdone, hdone.load (taken_fronted h.1) hmem⟩

/-- A store word: no vector register changes, nor any memory but the own scratchpad, nor there a byte outside its elements (R128, R135). -/
theorem store_done (hop : op.isLoad = false) (hvmem : i.vmem = some (op, d, a, b)) (h : Issues i s v s1) (hspan : s.cur.span = none)
    (hbanks : BanksFree s) (hroom : s1.queueRoom = .ok ()) (hacc : s1.vmemAccess op d a b = .ok (x, s2))
    (hrun : s1.vmemRun op d a b = .ok (s3, m, st, wk)) :
    ∃ t, VmemDone i s v s3 t ∧ t.cur.v = s.cur.v ∧ t.cur.tags = s.cur.tags ∧ (∀ p, p ≠ Place.loc s.focusCore → t.spaceAt p = s.spaceAt p)
      ∧ (s.curCore.loc.syn = [] → ∀ c, (∀ e, e ∈ x.els → 8 * c + 8 ≤ e.2 ∨ e.2 + x.wm ≤ 8 * c) →
        t.curCore.loc.bytes.byte c = s.curCore.loc.bytes.byte c) := by
  have f := taken_fronted h.1
  obtain ⟨hdst, u, cycle, val, hlook, hs3⟩ := store_leaves hop hacc hrun
  have hquiet := hlook.toLocOnly.banksFree (banksFree_fronted f hbanks)
  have hall : LocOnly s1 s3 := by
    rw [hs3]
    exact hlook.toLocOnly.trans (locOnly_storeEach _ hquiet)
  obtain ⟨t, hdone⟩ := vmem_done hvmem h hspan hroom hrun (hall.cur ▸ LoadOnly.refl s1.cur) hdst
  refine ⟨t, hdone, ?_, ?_, fun p hp => ?_, fun hsyn c hout => ?_⟩
  · exact hdone.vregs.trans ((congrArg Ctx.v hall.cur).trans (keeps_fronted f Ctx.v fun _ => rfl))
  · exact hdone.tags.trans ((congrArg Ctx.tags hall.cur).trans (keeps_fronted f Ctx.tags fun _ => rfl))
  · rw [hdone.memories, hall.other p (f.focusCore ▸ hp), f.spaceAt]
  · have hbyte : s3.curCore.loc.bytes.byte c = u.curCore.loc.bytes.byte c := by
      rw [hs3]
      exact storeEach_byte _ hquiet (hlook.syn (by rw [f.loc, hsyn])) fun q hq => hout _ (timed_mem hq)
    rw [hdone.own, hbyte, hlook.bytes, f.loc]
end word

end Sys2Proof.Proofs
end

section
/-! Vector stores (R128, R135): the elements of a store, one after another, in the scratchpad. -/

namespace Sys2Proof.Proofs

open Sys2Proof Sys2Proof.Machine Sys2Proof.Safety Sys2Proof.Claims Sys2Proof.Laws

/-! ## Bits of a memory after a list of writes (R22, R23) -/

section bits
variable {α : Type} {addr val : α → Nat} {n : Nat}

theorem testBit_bits (m : Memory) (a n k : Nat) : (m.bits a n).testBit k = (decide (k < n) && bitAt m (a + k)) := by
  rw [Memory.bits, Nat.testBit_mod_two_pow, Nat.testBit_shiftRight]
  by_cases hk : k < n
  · have hbyte := testBit_bytes (byteSpan a n) m (firstByte a) ((a % 8 + k) / 8) ((a % 8 + k) % 8) (by rw [byteSpan]; omega) (by omega)
    rw [Nat.div_add_mod] at hbyte
    have hplace : firstByte a + (a % 8 + k) / 8 = (a + k) / 8 := by rw [firstByte]; omega
    have hin : (a % 8 + k) % 8 = (a + k) % 8 := by omega
    rw [hbyte, hplace, hin]
    rfl
  · simp [hk]

/-- Bits outside a write keep their value. -/
theorem bits_setBits_apart (m : Memory) (a n x b k : Nat) (h : b + k ≤ a ∨ a + n ≤ b) : (m.setBits a n x).bits b k = m.bits b k := by
  refine Nat.eq_of_testBit_eq fun j => ?_
  rw [testBit_bits, testBit_bits]
  by_cases hj : j < k
  · have hbit : bitAt (m.setBits a n x) (b + j) = bitAt m (b + j) := bit_setBits_out m a n x (b + j) (by omega)
    rw [hbit]
  · simp [hj]

/-- A memory after the writes of a list of elements, one after another. -/
def writeEach (addr val : α → Nat) (n : Nat) (l : List α) (m : Memory) : Memory := l.foldl (fun m q => m.setBits (addr q) n (val q)) m

theorem writeEach_bit (l : List α) {q : Nat} (hout : ∀ e, e ∈ l → q < addr e ∨ addr e + n ≤ q) : ∀ m : Memory,
    bitAt (writeEach addr val n l m) q = bitAt m q := by
  induction l with
  | nil => exact fun _ => rfl
  | cons e r ih =>
    exact fun m => (ih (fun j hj => hout j (List.mem_cons_of_mem _ hj)) _).trans (bit_setBits_out _ _ _ _ _ (hout e List.mem_cons_self))

theorem writeEach_apart (l : List α) {b k : Nat} (hout : ∀ e, e ∈ l → b + k ≤ addr e ∨ addr e + n ≤ b) : ∀ m : Memory,
    (writeEach addr val n l m).bits b k = m.bits b k := by
  induction l with
  | nil => exact fun _ => rfl
  | cons e r ih =>
    exact fun m => (ih (fun j hj => hout j (List.mem_cons_of_mem _ hj)) _).trans (bits_setBits_apart _ _ _ _ _ _ (hout e List.mem_cons_self))

/-- An element that no later one overlaps is read back. -/
theorem writeEach_bits {addr val : Nat → Nat} {l : List Nat} (hsorted : l.Pairwise (· < ·)) {e : Nat} (he : e ∈ l)
    (hapart : ∀ j, j ∈ l → e < j → addr j + n ≤ addr e ∨ addr e + n ≤ addr j) (m : Memory) :
    (writeEach addr val n l m).bits (addr e) n = val e % 2 ^ n := by
  induction l generalizing m with
  | nil => cases he
  | cons x r ih =>
    obtain ⟨hx, hr⟩ := List.pairwise_cons.1 hsorted
    rcases List.mem_cons.1 he with rfl | he
    · refine (writeEach_apart r (fun j hj => ?_) (m.setBits (addr e) n (val e))).trans (bits_setBits ..)
      exact (hapart j (List.mem_cons_of_mem _ hj) (hx j hj)).symm
    · exact ih hr he (fun j hj => hapart j (List.mem_cons_of_mem _ hj)) (m.setBits (addr x) n (val x))

theorem writeEach_map {β : Type} {addr' val' : β → Nat} (f : α → β) (l : List α) (ha : ∀ e, e ∈ l → addr' (f e) = addr e)
    (hv : ∀ e, e ∈ l → val' (f e) = val e) : ∀ m : Memory, writeEach addr' val' n (l.map f) m = writeEach addr val n l m := by
  induction l with
  | nil => exact fun _ => rfl
  | cons e r ih =>
    intro m
    change writeEach addr' val' n (r.map f) (m.setBits (addr' (f e)) n (val' (f e))) = writeEach addr val n r (m.setBits (addr e) n (val e))
    rw [ha e List.mem_cons_self, hv e List.mem_cons_self]
    exact ih (fun j hj => ha j (List.mem_cons_of_mem _ hj)) (fun j hj => hv j (List.mem_cons_of_mem _ hj)) _
end bits

/-! ## The stores of a list of elements -/

section stores
variable {α : Type} {cycle addr val : α → Nat} {n : Nat}

/-- Where no word needs correction each element is written in turn. -/
theorem storeEach_bytes (l : List α) : ∀ {s : State}, BanksFree s → s.curCore.loc.syn = [] →
    (storeEach cycle addr val s.focusCore n l s).curCore.loc.bytes = writeEach addr val n l s.curCore.loc.bytes := by
  induction l with
  | nil => exact fun _ _ => rfl
  | cons q r ih =>
    intro s hquiet hsyn
    have hone := locOnly_storeFrom hquiet (cycle q) (addr q) n (val q)
    obtain ⟨-, hloc, -⟩ := storeFrom_quiet hsyn hquiet (cycle q) (addr q) n (val q)
    have hsyn2 : (s.storeFrom (cycle q) s.focusCore (addr q) n (val q)).curCore.loc.syn = [] := by
      rw [hloc]
      exact (syn_goOutAts ..).trans hsyn
    have hrest := ih (hone.banksFree hquiet) hsyn2
    rw [hone.focusCore, hloc] at hrest
    exact hrest

theorem LocOnly.isSync {s t : State} (h : LocOnly s t) (sec : Nat) : t.isSync sec = s.isSync sec := by
  rw [State.isSync, State.isSync, State.localSync, State.localSync, h.lr]

theorem LocOnly.inPool {s t : State} (h : LocOnly s t) (a : Nat) : t.inPool a = s.inPool a := by rw [State.inPool, State.inPool, h.lr]

/-- A sector that is OUT stays OUT, and every ordinary sector of an element is (R155). -/
theorem storeEach_isOut (l : List α) {sec : Nat} : ∀ {s : State}, BanksFree s → s.curCore.loc.syn = [] →
    (s.curCore.loc.isOut sec = true ∨ (s.isSync sec = false ∧ s.inPool (512 * sec) = false ∧ ∃ q, q ∈ l ∧ sec ∈ sectorsOf (addr q) n)) →
    (storeEach cycle addr val s.focusCore n l s).curCore.loc.isOut sec = true := by
  induction l with
  | nil =>
    intro s _ _ h
    rcases h with h | ⟨-, -, q, hq, -⟩
    · exact h
    · cases hq
  | cons q r ih =>
    intro s hquiet hsyn h
    have hone := locOnly_storeFrom hquiet (cycle q) (addr q) n (val q)
    obtain ⟨-, hloc, -⟩ := storeFrom_quiet hsyn hquiet (cycle q) (addr q) n (val q)
    have hsyn2 : (s.storeFrom (cycle q) s.focusCore (addr q) n (val q)).curCore.loc.syn = [] := by
      rw [hloc]
      exact (syn_goOutAts ..).trans hsyn
    have hrest := ih (hone.banksFree hquiet) hsyn2
    rw [hone.focusCore, hone.isSync, hone.inPool, hloc] at hrest
    refine hrest ?_
    rcases h with h | ⟨hsync, hpool, p, hp, hsec⟩
    · refine .inl ((isOut_goOutAts s.now (patchOf s.focusCtx s.now (cycle q) (addr q) n (val q)) sec _ s.curCore.loc).trans ?_)
      rw [h, Bool.or_true]
    · rcases List.mem_cons.1 hp with rfl | hp
      · exact .inl (isOut_wroteLast hsec hsync hpool _ _)
      · exact .inr ⟨hsync, hpool, p, hp, hsec⟩
end stores

end Sys2Proof.Proofs
end

section
/-! A vector store whose elements pass their checks (R127, R128, R135) stores them all. -/

namespace Sys2Proof.Proofs

open Sys2Proof Sys2Proof.Machine Sys2Proof.Safety Sys2Proof.Claims Sys2Proof.Laws

/-! ## The elements of an access and their cycles (R130) -/

theorem length_reqCycles (l : List (Nat × List (Nat × Nat))) : ∀ (r : ReqState) (last : Option (Nat × Nat)), (reqCycles r last l).1.length = l.length := by
  induction l with
  | nil => exact fun _ _ => rfl
  | cons p l ih => exact fun r last => congrArg (· + 1) (ih _ _)

theorem length_holdRuns (wm : Nat) (store : Bool) (l : List (Nat × Nat)) : ∀ last, (holdRuns wm store last l).length = l.length := by
  induction l with
  | nil => exact fun _ => rfl
  | cons p l ih => exact fun last => congrArg (· + 1) (ih _)

theorem timed_fst (op : VMOp) (x : VMAcc) : (timed op x).map Prod.fst = x.els := by
  refine List.map_fst_zip ?_
  rw [List.length_map, VMAcc.requests, length_reqCycles, length_holdRuns]

theorem Looked.inPlace {s t : State} {a n : Nat} (h : Looked s t) (hp : InPlace s a n) : InPlace t a n := by
  obtain ⟨hend, hsync, hpool, hrace⟩ := hp
  have hisSync : t.isSync = s.isSync := funext h.isSync
  rw [InPlace, State.touchesSync, State.touchesPool, hisSync, h.inPool, h.inPool, h.lr]
  exact ⟨hend, hsync, hpool, hrace⟩

theorem Looked.idle {s t : State} (h : Looked s t) (hp : engineIdle s) : engineIdle t := by
  rw [engineIdle, h.focusCtx, h.lr, h.me]
  exact hp

theorem Looked.writable {s t : State} {a n : Nat} (h : Looked s t) (hw : Writable s a n) : Writable t a n := by
  obtain ⟨hplace, hsyn, hturns, hidle, hbanks⟩ := hw
  exact ⟨h.inPlace hplace, h.syn hsyn, by rw [h.cur, hturns], h.idle hidle, h.toLocOnly.banksFree hbanks⟩

theorem raceSectors_elems {s : State} {els : List (Nat × Nat)} {wm : Nat} (h : ∀ e, e ∈ els → InPlace s e.2 wm) (core head : Nat) (g : Shadow)
    (w : Bool) : s.raceSectors core head g w ((els.flatMap fun p => sectorsOf p.2 wm).eraseDups) = .ok s := by
  cases els with
  | nil => rfl
  | cons e r => exact raceSectors_off (h e List.mem_cons_self).2.2.2 ..

section run
variable {i : Instr} {op : VMOp} {d a b : Reg} {s s1 s2 : State} {v : Cv} {x : VMAcc}

/-- The stores of an access that has passed its checks. -/
theorem storeRun_ok (hn : 0 < x.wm) (hwrite : ∀ e, e ∈ x.els → Writable s e.2 x.wm) : ∃ cycle m st wk, m.dstReg = none ∧
    storeRun op x d b s = .ok (storeEach cycle (fun q : (Nat × Nat) × Nat => q.1.2) (fun q => s.cur.stored op d.toNat b.toNat x.slot q.1.1) s.focusCore x.wm
      (timed op x) s, m, st, wk) := by
  refine ⟨_, _, _, _, rfl, bind_ok (forM_ok fun q hq => ?_) (bind_ok (raceSectors_elems (fun e he => (hwrite e he).1) ..) rfl)⟩
  rw [checkWrite_ok hn (hwrite _ (timed_mem hq))]
  rfl

/-- The word of such a store, whose elements are given by a list of indices. -/
theorem store_stores (hop : op.isLoad = false) (hvmem : i.vmem = some (op, d, a, b)) (h : Issues i s v s1) (hspan : s.cur.span = none)
    (hbanks : BanksFree s) (hroom : s1.queueRoom = .ok ()) (hacc : s1.vmemAccess op d a b = .ok (x, s2))
    {es : List Nat} {key at0 val : Nat → Nat} {n : Nat} (hels : x.els = es.map fun e => (key e, at0 e)) (hwm : x.wm = n) (hn : 0 < n)
    (hsorted : es.Pairwise (· < ·)) (hwrite : ∀ e, e ∈ es → Writable s (at0 e) n)
    (hval : ∀ e, e ∈ es → s1.cur.stored op d.toNat b.toNat x.slot (key e) = val e) :
    ∃ t, exec i s = .next t ∧ KeepsRegs s t ∧ StoredAll s t es at0 n val := by
  have f := taken_fronted h.1
  have hlook := looked_vmemAccess hacc
  have hwrite2 : ∀ e, e ∈ x.els → Writable s2 e.2 x.wm := by
    rw [hels, hwm]
    intro p hp
    obtain ⟨e, he, rfl⟩ := List.mem_map.1 hp
    exact hlook.writable (writable_fronted f (hwrite e he))
  obtain ⟨cycle, m, st, wk, hdst, hrun⟩ := storeRun_ok (op := op) (d := d) (b := b) (hwm ▸ hn) hwrite2
  have hquiet := hlook.toLocOnly.banksFree (banksFree_fronted f hbanks)
  generalize hs3 : storeEach cycle (fun q : (Nat × Nat) × Nat => q.1.2) (fun q => s2.cur.stored op d.toNat b.toNat x.slot q.1.1) s2.focusCore x.wm
    (timed op x) s2 = s3 at hrun
  have hall : LocOnly s1 s3 := hs3 ▸ hlook.toLocOnly.trans (locOnly_storeEach _ hquiet)
  obtain ⟨t, hdone⟩ := vmem_done hvmem h hspan hroom ((vmemRun_store hop hacc).trans hrun) (hall.cur ▸ LoadOnly.refl s1.cur) hdst
  have hbytes : t.curCore.loc.bytes = writeEach at0 val n es s.curCore.loc.bytes := by
    rw [hdone.own, ← f.loc, ← hlook.bytes, ← hs3]
    cases hes : es with
    | nil =>
      rw [hes] at hels
      have hnone : timed op x = [] := by rw [timed, hels]; rfl
      rw [hnone]
      rfl
    | cons e0 r =>
      have hsyn : s2.curCore.loc.syn = [] := (hlook.writable (writable_fronted f (hwrite e0 (by rw [hes]; exact List.mem_cons_self)))).2.1
      rw [storeEach_bytes _ hquiet hsyn, ← hes, hwm]
      have hfst := writeEach_map (addr := fun q : (Nat × Nat) × Nat => q.1.2) (val := fun q => s2.cur.stored op d.toNat b.toNat x.slot q.1.1) (n := n)
        (addr' := Prod.snd) (val' := fun e : Nat × Nat => s2.cur.stored op d.toNat b.toNat x.slot e.1) Prod.fst (timed op x) (fun _ _ => rfl)
        (fun _ _ => rfl) s2.curCore.loc.bytes
      rw [← hfst, timed_fst, hels]
      exact writeEach_map (addr := at0) (val := val) (fun e => (key e, at0 e)) es (fun _ _ => rfl) (fun e he => by rw [hlook.cur]; exact hval e he) _
  refine ⟨t, hdone.next, hdone.regs, fun e he hapart => ?_, fun q hout => ?_, fun p hp => ?_, fun e sec he hsec hsync hpool => ?_⟩
  · rw [hbytes]
    exact writeEach_bits hsorted he hapart _
  · rw [hbytes]
    exact writeEach_bit es hout _
  · rw [hdone.memories, hall.other p (f.focusCore ▸ hp), f.spaceAt]
  · obtain ⟨-, hsyn, -⟩ := hlook.writable (writable_fronted f (hwrite e he))
    rw [hdone.own, ← hs3]
    have hmem : (key e, at0 e) ∈ (timed op x).map Prod.fst := by
      rw [timed_fst, hels]
      exact List.mem_map.2 ⟨e, he, rfl⟩
    obtain ⟨q, hq, hqe⟩ := List.mem_map.1 hmem
    have hlocal : s2.isSync sec = false ∧ s2.inPool (512 * sec) = false := by
      rw [hlook.isSync, hlook.inPool, State.isSync, State.localSync, State.inPool, f.lr]
      exact ⟨hsync, hpool⟩
    refine storeEach_isOut _ hquiet hsyn (.inr ⟨hlocal.1, hlocal.2, q, hq, ?_⟩)
    rw [hqe, hwm]
    exact hsec
end run

end Sys2Proof.Proofs
end

section
/-! The accesses of the eight VMEM words (R133 to R136, R140), and what VST, VSTX, VSTT and VSTB store. -/

namespace Sys2Proof.Proofs

open Sys2Proof Sys2Proof.Machine Sys2Proof.Safety Sys2Proof.Claims Sys2Proof.Laws

/-! ## Active elements and blocks (R136, R177) -/

theorem rangeFrom_sorted (n : Nat) : ∀ a, (rangeFrom a n).Pairwise (· < ·) := by
  induction n with
  | zero => exact fun _ => List.Pairwise.nil
  | succ n ih => exact fun a => List.pairwise_cons.2 ⟨fun x hx => ((mem_rangeFrom n (a + 1) x).1 hx).1, ih (a + 1)⟩

theorem activeElems_sorted (c : Ctx) : c.activeElems.Pairwise (· < ·) := (rangeFrom_sorted _ _).filter _

theorem activeBlocks_sorted (c : Ctx) : (activeBlocks c).Pairwise (· < ·) := (rangeFrom_sorted _ _).filter _

theorem memWidth_pos {code w : Nat} (h : memWidth code = some w) : 0 < w := by
  unfold memWidth at h
  split at h
  · split at h
    · cases h
      decide
    · split at h
      · cases h
      · unfold slotWidth at h
        split at h <;> cases h <;> decide
  · split at h
    · cases h
      omega
    · cases h

theorem bs_pos (p : Pip) : 0 < p.bs := by cases p <;> decide

theorem needTag_ok {g : Except Nat Nat} {ok : Nat → Bool} {t : Nat} (h : g = .ok t) (hok : ok t = true) : needTag g ok = .ok t := by
  rw [h]
  exact if_pos hok

/-- Addresses of elements that lie in the scratchpad are as they are. -/
theorem map_addresses {es : List Nat} {key at0 : Nat → Nat} (h : ∀ e, e ∈ es → at0 e < 2 ^ 64) :
    (es.map fun e => (key e, at0 e % 2 ^ 64)) = es.map fun e => (key e, at0 e) :=
  List.map_congr_left fun e he => by rw [Nat.mod_eq_of_lt (h e he)]

theorem lteAddrs_ok {l : BitVec 256} {wm : Nat} {start : Word} (idx : Nat) {es : List Nat} (h : ∀ e, e ∈ es → ∃ x, tensorAt l start wm e = some x) :
    lteAddrs l idx wm start es = .ok (es.map fun e => (e, (tensorAt l start wm e).getD 0)) := by
  induction es with
  | nil => rfl
  | cons e r ih =>
    obtain ⟨x, hx⟩ := h e List.mem_cons_self
    obtain ⟨c, hc, -⟩ := Option.map_eq_some_iff.1 hx
    rw [lteAddrs, hc]
    refine bind_ok (ih fun j hj => h j (List.mem_cons_of_mem _ hj)) ?_
    rw [List.map_cons, tensorAt, hc]
    rfl

/-- The access of the active elements of a tensor (R140). -/
def tensorElems (c : Ctx) (l : BitVec 256) (start : Word) (w : Nat) (hit : Bool) : VMAcc :=
  { els := c.activeElems.map fun e => (e, (tensorAt l start w e).getD 0), wm := w, tag := loadTag (lteFmt l)
    slot := (slotWidth (loadTag (lteFmt l))).getD 8, lookup := if hit then 2 else 8, stride := 3 }

section access
variable {s s1 : State} {v : Cv} {d a b : Reg} {w g : Nat}

theorem tensorAccess_ok {c : Ctx} {l : BitVec 256} {start : Word} {need : Except Stop Nat} (idx : Nat) (hit : Bool) (u : State)
    (hw : memWidth (lteFmt l) = some w) (hcap : c.capOk ((slotWidth (loadTag (lteFmt l))).getD 8) = true) (hneed : need = .ok g)
    (hbad : lteBad l = false) (hstart : startBeyond l start = false) (hspace : spaceOf (lteBase l) = 0)
    (haddr : ∀ e, e ∈ c.activeElems → ∃ x, tensorAt l start w e = some x) :
    tensorAccess c l idx hit start need u = .ok (tensorElems c l start w hit, u) := by
  rw [tensorAccess, hw]
  refine bind_ok (failIf_false (by rw [hcap]; rfl) _) (bind_ok hneed (bind_ok (failIf_false hbad _) (bind_ok (failIf_false hstart _)
    (bind_ok (failIf_false (by rw [hspace]; rfl) _) (bind_ok (lteAddrs_ok idx haddr) rfl)))))

/-- The entry of a tensor access that no write has left in doubt (R142). -/
theorem entry_settled (hsyn : s.curCore.loc.syn = []) (hstale : s.curCore.stale = []) (a : Reg) :
    s.checkEntry s.focusCore (s.reg a).toNat = .ok () ∧ s.useEntry s.focusCore (s.reg a).toNat = (entryOf s (s.reg a).toNat, fetched s a) := by
  have hdoubt : SMap.get [] (s.core s.focusCore).stale (s.reg a).toNat = [] := by rw [show (s.core s.focusCore).stale = [] from hstale]; rfl
  exact ⟨checkEntry_ok hsyn _, useEntry_settled hsyn _ hdoubt⟩
end access

/-- The address of an element of an indexed access (R134). -/
theorem indexed_eq (s : State) (a b : Reg) (tb e : Nat) : unsigned 64 (((s.reg a).toNat : Int) + s.cur.offset b.toNat tb e) = indexed s a b tb e := by
  have hslot : s.cur.elem b.toNat ((slotWidth tb).getD 32) e % 2 ^ (slotWidth tb).getD 32 = s.cur.elem b.toNat ((slotWidth tb).getD 32) e := Nat.mod_mod _ _
  rw [Ctx.offset, slotInt, hslot]
  rfl

theorem indexed_fronted {s s1 : State} {v : Cv} (f : Fronted s v s1) (a b : Reg) (tb e : Nat) : indexed s1 a b tb e = indexed s a b tb e := by
  have helem : s1.cur.elem b.toNat ((slotWidth tb).getD 32) e = s.cur.elem b.toNat ((slotWidth tb).getD 32) e :=
    keeps_fronted f (fun c => c.elem b.toNat ((slotWidth tb).getD 32) e) fun _ => rfl
  rw [Claims.indexed, Claims.indexed, helem, f.reg]

section stores
variable {s s1 : State} {v : Cv} {d a b : Reg}

/-- VST (R135). -/
theorem vst_stores {w g : Nat} (h : Issues (.vst d a b) s v s1) (hspan : s.cur.span = none) (hbanks : BanksFree s) (hroom : s1.queueRoom = .ok ())
    (hw : memWidth b.toNat = some w) (htag : s.cur.groupTag d.toNat = .ok g) (hg : g = loadTag b.toNat ∨ g = 0)
    (hwrite : ∀ j, s.cur.active j = true → Writable s ((s.reg a).toNat + j * w) w) :
    ∃ t, exec (.vst d a b) s = .next t ∧ KeepsRegs s t
      ∧ StoredAll s t s.cur.activeElems (fun e => (s.reg a).toNat + e * w) w (s.cur.elem d.toNat ((slotWidth (loadTag b.toNat)).getD 8)) := by
  have f := taken_fronted h.1
  have hactive : s1.cur.activeElems = s.cur.activeElems := keeps_fronted f Ctx.activeElems fun _ => rfl
  have htag1 : s1.cur.groupTag d.toNat = .ok g := (keeps_fronted f (fun c => c.groupTag d.toNat) fun _ => rfl).trans htag
  have hneed : needTag (s1.cur.groupTag d.toNat) (fun x => x == loadTag b.toNat || x == 0) = .ok g :=
    needTag_ok htag1 (by rcases hg with rfl | rfl <;> simp)
  have hin : ∀ e, e ∈ s.cur.activeElems → Writable s ((s.reg a).toNat + e * w) w := fun e he => hwrite e ((mem_activeElems _ _).1 he)
  have hels := map_addresses (key := id) fun e he => show (s.reg a).toNat + e * w < 2 ^ 64 by have := (hin e he).1.1; omega
  refine store_stores (op := .st) rfl rfl h hspan hbanks hroom (bind_ok hneed rfl) (key := id) ?_ (by rw [hw]; rfl) (memWidth_pos hw)
    (activeElems_sorted _) hin fun e _ => ?_
  · change (s1.cur.activeElems.map fun e => (e, ((s1.reg a).toNat + e * (memWidth b.toNat).getD 8) % 2 ^ 64)) = _
    rw [hactive, f.reg, hw]
    exact hels
  · exact keeps_fronted f (fun c => c.elem d.toNat ((slotWidth (loadTag b.toNat)).getD 8) e) fun _ => rfl

/-- VSTX (R134, R135). -/
theorem vstx_stores {w g tb : Nat} (h : Issues (.vstx d a b) s v s1) (hspan : s.cur.span = none) (hbanks : BanksFree s) (hroom : s1.queueRoom = .ok ())
    (htag : s.cur.groupTag d.toNat = .ok g) (hg : (isB1 g || isInt g || isFlt g) = true) (hw : memWidth g = some w)
    (hindex : s.cur.groupTag b.toNat = .ok tb) (hlo : 6 ≤ tb) (hhi : tb ≤ 9) (hwrite : ∀ j, s.cur.active j = true → Writable s (indexed s a b tb j) w) :
    ∃ t, exec (.vstx d a b) s = .next t ∧ KeepsRegs s t
      ∧ StoredAll s t s.cur.activeElems (indexed s a b tb) w (s.cur.elem d.toNat ((slotWidth g).getD 8)) := by
  have f := taken_fronted h.1
  have hactive : s1.cur.activeElems = s.cur.activeElems := keeps_fronted f Ctx.activeElems fun _ => rfl
  have hneed : needTag (s1.cur.groupTag d.toNat) (fun t => isB1 t || isInt t || isFlt t) = .ok g :=
    needTag_ok ((keeps_fronted f (fun c => c.groupTag d.toNat) fun _ => rfl).trans htag) hg
  have hneedB : needTag (s1.cur.groupTag b.toNat) (fun t => 6 ≤ t && t ≤ 9) = .ok tb :=
    needTag_ok ((keeps_fronted f (fun c => c.groupTag b.toNat) fun _ => rfl).trans hindex) (by simp [hlo, hhi])
  refine store_stores (op := .stx) rfl rfl h hspan hbanks hroom (bind_ok hneed (bind_ok hneedB rfl)) (key := id) ?_ (by rw [hw]; rfl) (memWidth_pos hw)
    (activeElems_sorted _) (fun e he => hwrite e ((mem_activeElems _ _).1 he)) fun e _ => ?_
  · change (s1.cur.activeElems.map fun e => (e, unsigned 64 (((s1.reg a).toNat : Int) + s1.cur.offset b.toNat tb e))) = _
    rw [hactive]
    exact List.map_congr_left fun e _ => by rw [indexed_eq, indexed_fronted f]; rfl
  · exact keeps_fronted f (fun c => c.elem d.toNat ((slotWidth g).getD 8) e) fun _ => rfl

/-- VSTT (R140). -/
theorem vstt_stores {w g : Nat} {l : BitVec 256} (hl : l = entryOf s (s.reg a).toNat) (h : Issues (.vstt d a b) s v s1) (hspan : s.cur.span = none)
    (hbanks : BanksFree s) (hroom : s1.queueRoom = .ok ()) (hstale : s.curCore.stale = []) (hsyn : s.curCore.loc.syn = [])
    (hw : memWidth (lteFmt l) = some w) (hcap : s.cur.capOk ((slotWidth (loadTag (lteFmt l))).getD 8) = true)
    (htag : s.cur.groupTag d.toNat = .ok g) (hg : g = loadTag (lteFmt l) ∨ g = 0) (hbad : lteBad l = false) (hstart : startBeyond l (s.reg b) = false)
    (hspace : spaceOf (lteBase l) = 0) (hwrite : ∀ j, s.cur.active j = true → ∃ x, tensorAt l (s.reg b) w j = some x ∧ Writable s x w) :
    ∃ t, exec (.vstt d a b) s = .next t ∧ KeepsRegs s t
      ∧ StoredAll s t s.cur.activeElems (fun e => (tensorAt l (s.reg b) w e).getD 0) w (s.cur.elem d.toNat ((slotWidth (loadTag (lteFmt l))).getD 8)) := by
  have f := taken_fronted h.1
  have hactive : s1.cur.activeElems = s.cur.activeElems := keeps_fronted f Ctx.activeElems fun _ => rfl
  obtain ⟨hcheck, huse⟩ := entry_settled (s := s1) (by rw [f.loc, hsyn]) ((f.core (·.stale) fun _ _ _ => rfl).trans hstale) a
  have hentry : entryOf s1 (s1.reg a).toNat = l := by rw [entryOf_fronted f, f.reg, hl]
  rw [hentry] at huse
  have hcap1 : s1.cur.capOk ((slotWidth (loadTag (lteFmt l))).getD 8) = true :=
    (keeps_fronted f (fun c => c.capOk ((slotWidth (loadTag (lteFmt l))).getD 8)) fun _ => rfl).trans hcap
  have hneed : needTag (s1.cur.groupTag d.toNat) (fun x => x == loadTag (lteFmt l) || x == 0) = .ok g :=
    needTag_ok ((keeps_fronted f (fun c => c.groupTag d.toNat) fun _ => rfl).trans htag) (by rcases hg with rfl | rfl <;> simp)
  have haddr : ∀ e, e ∈ s1.cur.activeElems → ∃ x, tensorAt l (s1.reg b) w e = some x := by
    rw [hactive, f.reg]
    intro e he
    obtain ⟨x, hx, -⟩ := hwrite e ((mem_activeElems _ _).1 he)
    exact ⟨x, hx⟩
  have hacc : s1.vmemAccess .stt d a b = .ok (tensorElems s1.cur l (s1.reg b) w (s1.curCore.lcHit (s1.reg a).toNat), fetched s1 a) := by
    rw [vmemAccess_stt, huse]
    exact bind_ok hcheck (tensorAccess_ok _ _ _ hw hcap1 hneed hbad (by rw [f.reg, hstart]) hspace haddr)
  refine store_stores (op := .stt) rfl rfl h hspan hbanks hroom hacc (key := id) ?_ rfl (memWidth_pos hw)
    (activeElems_sorted _) (fun e he => ?_) fun e _ => ?_
  · rw [tensorElems, hactive, f.reg]
    rfl
  · obtain ⟨x, hx, hwr⟩ := hwrite e ((mem_activeElems _ _).1 he)
    rw [hx]
    exact hwr
  · exact keeps_fronted f (fun c => c.elem d.toNat ((slotWidth (loadTag (lteFmt l))).getD 8) e) fun _ => rfl

/-- The block that VSTB stores (R136). -/
theorem stored_block (c : Ctx) {code : Nat} {p : Pip} (hp : Pip.ofCode code = some p) (d k : Nat) : c.stored .stb d code 16 (16 * k) = PBlock.bits p
    { e := c.kByte d (16 * k), mu := (rangeFrom 0 8).map fun i => c.elem d 16 (16 * k + 2 * i) / 2 ^ 14 % 2
      el := (rangeFrom 0 16).map fun j => slotElem p (c.elem d 16 (16 * k + j)) } := by
  have hmu (x : Nat) : field x 14 14 = x / 2 ^ 14 % 2 := congrArg (· % 2) (Nat.shiftRight_eq_div_pow x 14)
  rw [Ctx.stored, if_pos rfl, hp, Option.getD_some, Ctx.storeBlock]
  simp only [hmu]

/-- VSTB (R136). -/
theorem vstb_stores {p : Pip} (h : Issues (.vstb d a b) s v s1) (hspan : s.cur.span = none) (hbanks : BanksFree s) (hroom : s1.queueRoom = .ok ())
    (hp : Pip.ofCode b.toNat = some p) (htag : s.cur.groupTag d.toNat = .ok b.toNat)
    (hwrite : ∀ k, k ∈ activeBlocks s.cur → Writable s ((s.reg a).toNat + k * p.bs) p.bs) :
    ∃ t, exec (.vstb d a b) s = .next t ∧ KeepsRegs s t
      ∧ StoredAll s t (activeBlocks s.cur) (fun k => (s.reg a).toNat + k * p.bs) p.bs fun k => PBlock.bits p
          { e := s.cur.kByte d.toNat (16 * k), mu := (rangeFrom 0 8).map fun i => s.cur.elem d.toNat 16 (16 * k + 2 * i) / 2 ^ 14 % 2
            el := (rangeFrom 0 16).map fun j => slotElem p (s.cur.elem d.toNat 16 (16 * k + j)) } := by
  have f := taken_fronted h.1
  have hactive : activeBlocks s1.cur = activeBlocks s.cur := keeps_fronted f activeBlocks fun _ => rfl
  have hneed : needTag (s1.cur.groupTag d.toNat) (fun t => t == b.toNat) = .ok b.toNat :=
    needTag_ok ((keeps_fronted f (fun c => c.groupTag d.toNat) fun _ => rfl).trans htag) (by simp)
  have hels := map_addresses (key := fun k => 16 * k) fun k hk => show (s.reg a).toNat + k * p.bs < 2 ^ 64 by have := (hwrite k hk).1.1; omega
  refine store_stores (op := .stb) rfl rfl h hspan hbanks hroom (bind_ok hneed rfl) (key := fun k => 16 * k) ?_ (by rw [hp]; rfl) (bs_pos p)
    (activeBlocks_sorted _) hwrite fun k _ => ?_
  · change ((activeBlocks s1.cur).map fun k => (16 * k, ((s1.reg a).toNat + k * ((Pip.ofCode b.toNat).getD .p3).bs) % 2 ^ 64)) = _
    rw [hactive, f.reg, hp]
    exact hels
  · exact (keeps_fronted f (fun c => c.stored .stb d.toNat b.toNat 16 (16 * k)) fun _ => rfl).trans (stored_block s.cur hp d.toNat k)
end stores

/-- Settles O22: a VMEM word whose access is done has its convoy on the schedule, and a store writes its elements alone. -/
theorem vectorMemory : Obligations.VectorMemory := by
  unfold Obligations.VectorMemory
  refine ⟨?_, ?_⟩
  · intro i op d a b s s1 s2 s3 v x m st wk hvmem h hspan hbanks hroom hacc hrun
    cases hop : op.isLoad with
    | true =>
      obtain ⟨t, hdone, hmem⟩ := load_done hop hvmem h hspan hroom hacc hrun
      exact ⟨t, hdone.next, hdone.vregs, hdone.tags, hdone.scales, hdone.memories, hdone.convoys, hdone.regs, hdone.pc, fun _ => hmem, nofun⟩
    | false =>
      obtain ⟨t, hdone, hv, htags, hother, hbytes⟩ := store_done hop hvmem h hspan hbanks hroom hacc hrun
      exact ⟨t, hdone.next, hdone.vregs, hdone.tags, hdone.scales, hdone.memories, hdone.convoys, hdone.regs, hdone.pc, nofun,
        fun _ => ⟨hv, htags, hother, hbytes⟩⟩
  · intro d a b s s1 v hspan hbanks hroom _ r
    refine ⟨fun w g h hw htag hg hwrite => vst_stores h hspan hbanks hroom hw htag hg hwrite,
      fun w g tb h htag hg hw hindex hlo hhi hwrite => vstx_stores h hspan hbanks hroom htag hg hw hindex hlo hhi hwrite, ?_,
      fun p h hp htag _ hwrite => vstb_stores h hspan hbanks hroom hp htag hwrite⟩
    intro w g l slot h hstale hsyn hw hcap htag hg hbad hstart hspace hwrite
    exact vstt_stores rfl h hspan hbanks hroom hstale hsyn hw hcap htag hg hbad hstart hspace hwrite

end Sys2Proof.Proofs
end

section
/-! A vector load whose elements pass their checks (R127, R130, R135, R167) finds what the scratchpad holds. -/

namespace Sys2Proof.Proofs

open Sys2Proof Sys2Proof.Machine Sys2Proof.Safety Sys2Proof.Claims Sys2Proof.Laws

/-! ## The checks of a load (R127, R167) -/

/-- A load whose every element may be read has nothing in doubt. -/
theorem vmemChecks_ok {s : State} {wm : Nat} (hn : 0 < wm) (elem : Nat → Nat) (l : List ((Nat × Nat) × Nat)) (h : ∀ q, q ∈ l → Readable s q.1.2 wm) :
    ∀ checks, ∃ checks', s.vmemChecks elem wm none checks l = .ok (checks', false) := by
  induction l with
  | nil => exact fun checks => ⟨checks, rfl⟩
  | cons q r ih =>
    intro checks
    obtain ⟨⟨e, a⟩, t⟩ := q
    obtain ⟨hplace, hsyn, -, hturns, -, hin⟩ := h _ List.mem_cons_self
    unfold State.vmemChecks
    dsimp only
    rw [checkPlace_ok hn hplace]
    dsimp only
    rw [checkTurned_ok hturns hin]
    dsimp only
    rw [facingFails_none hin, anyBad_clean hsyn]
    exact ih (fun p hp => h p (List.mem_cons_of_mem _ hp)) _

/-! ## What it reads (R130, R164) -/

/-- Requests so far of a load from a memory that shows what it stores. -/
def Plain (m : Space) (r : ReadState) : Prop := r.mem = m ∧ ∀ q, r.last = some q → q.2 = none

section plain
variable {s : State} {m : Space} {r : ReadState}

theorem askFor_plain (hhist : m.hist = []) (h : Plain m r) (sec : Nat) : Plain m (s.askFor r sec).1 ∧ (s.askFor r sec).2 = none := by
  obtain ⟨hmem, hlast⟩ := h
  have hask (t free : Nat) (flip : Option TurnRec) : r.mem.ask .v 0 t flip sec free = (none, r.mem, free) := by
    rw [Space.ask, hmem, viewSector_fresh hhist]
  unfold State.askFor
  split
  · rename_i x hx
    split at hx
    · rename_i q hq
      split at hx
      · cases hx
        exact ⟨⟨hmem, hlast⟩, hlast q hq⟩
      · cases hx
    · cases hx
  · dsimp only
    rw [hask]
    refine ⟨⟨hmem, fun q hq => ?_⟩, rfl⟩
    cases hq
    rfl

theorem askSectors_plain (hhist : m.hist = []) (secs : List Nat) : ∀ {r : ReadState} (k : Space), Plain m r →
    Plain m (askSectors s r k secs).2 ∧ (askSectors s r k secs).1 = k := by
  induction secs with
  | nil => exact fun k h => ⟨h, rfl⟩
  | cons sec l ih =>
    intro r k h
    obtain ⟨hplain, hnone⟩ := askFor_plain (s := s) hhist h sec
    have hrest := ih k hplain
    have hstep : askSectors s r k (sec :: l) = askSectors s (s.askFor r sec).1 k l := by
      rw [askSectors, List.foldl_cons]
      dsimp only
      rw [hnone]
      rfl
    rw [hstep]
    exact hrest

theorem plain_first (m : Space) (free : Nat) (cycles : List Nat) : Plain m { mem := m, free := free, cycles := cycles } :=
  ⟨rfl, fun _ h => absurd h (Option.some_ne_none _).symm⟩

/-- Every element is read as the scratchpad holds it. -/
theorem readElems_plain (hhist : s.curCore.loc.hist = []) (hsyn : s.curCore.loc.syn = []) (wm : Nat) (l : List (Nat × Nat)) : ∀ {r : ReadState},
    Plain s.curCore.loc r → (s.readElems wm r l).1 = l.map fun q => (q.1, s.curCore.loc.bytes.bits q.2 wm) := by
  induction l with
  | nil => exact fun _ => rfl
  | cons q l ih =>
    intro r h
    obtain ⟨⟨hmem, hlast⟩, hsame⟩ := askSectors_plain (s := s) hhist (sectorsOf q.2 wm) s.curCore.loc h
    rw [readElems_cons]
    dsimp only
    rw [hsame, readBits_clean hsyn, List.map_cons]
    refine congrArg _ (ih ⟨?_, hlast⟩)
    dsimp only
    rw [hmem, countRead_clean hsyn]
end plain

section run
variable {i : Instr} {op : VMOp} {d a b : Reg} {s t s1 s2 : State} {v : Cv} {x : VMAcc}

theorem loadElems_fst (s : State) (t0 : Nat) (x : VMAcc) : (s.loadElems t0 x).1 = (s.readElems x.wm
    { mem := s.curCore.loc, free := s.free, cycles := (x.requests false).2.log.reverse.map fun q => t0 + q.2.1 } x.els).1 := rfl

theorem loadElems_plain (h : ∀ e, e ∈ x.els → Readable s e.2 x.wm) (t0 : Nat) :
    (s.loadElems t0 x).1 = x.els.map fun q => (q.1, s.curCore.loc.bytes.bits q.2 x.wm) := by
  cases hels : x.els with
  | nil =>
    rw [loadElems_fst, hels]
    rfl
  | cons e r =>
    obtain ⟨-, hsyn, hhist, -⟩ := h e (by rw [hels]; exact List.mem_cons_self)
    rw [loadElems_fst, hels]
    exact readElems_plain hhist hsyn x.wm (e :: r) (plain_first ..)

/-- The load of an access that has passed its checks. -/
theorem loadRun_ok (hn : 0 < x.wm) (hread : ∀ e, e ∈ x.els → Readable s e.2 x.wm) : ∃ checks m st wk, m.dstReg = none ∧
    loadRun op x d b s = .ok (loadDone op x d b s checks false s, m, st, wk) := by
  obtain ⟨checks, hchecks⟩ := vmemChecks_ok hn (faultElem op s.cur) ((timed op x).map fun q => (q.1, startOf s op x d b + q.2)) (fun q hq => by
    obtain ⟨p, hp, rfl⟩ := List.mem_map.1 hq
    exact hread p.1 (timed_mem hp)) []
  exact ⟨checks, _, _, _, rfl, bind_ok hchecks (bind_ok (raceSectors_elems (fun e he => (hread e he).1) ..) rfl)⟩

theorem Looked.readable {n p : Nat} (h : Looked s t) (hloc : t.curCore.loc = s.curCore.loc) (hr : Readable s p n) : Readable t p n := by
  obtain ⟨hplace, hsyn, hhist, hturns, hbanks, hin⟩ := hr
  rw [Readable, hloc, h.cur]
  exact ⟨h.inPlace hplace, hsyn, hhist, hturns.imp_right h.idle, h.toLocOnly.banksFree hbanks, hin⟩

/-- The word of such a load, whose elements are given by a list of indices. -/
theorem load_loads (hop : op.isLoad = true) (hvmem : i.vmem = some (op, d, a, b)) (h : Issues i s v s1) (hspan : s.cur.span = none)
    (hroom : s1.queueRoom = .ok ()) (hacc : s1.vmemAccess op d a b = .ok (x, s2)) (hloc : s2.curCore.loc = s1.curCore.loc)
    {es : List Nat} {key at0 : Nat → Nat} {n : Nat} (hels : x.els = es.map fun e => (key e, at0 e)) (hwm : x.wm = n) (hn : 0 < n)
    (hread : ∀ e, e ∈ es → Readable s (at0 e) n) : ∃ t c, exec i s = .next t ∧ KeepsRegs s t ∧ SameMemory s t ∧ t.cur.grant = s.cur.grant
      ∧ c = s1.cur.loaded op d.toNat (if op = .ldx then x.tag else b.toNat) x.tag x.slot n
          (es.map fun e => (key e, s.curCore.loc.bytes.bits (at0 e) n)) ∧ t.cur.v = c.v ∧ t.cur.k = c.k := by
  have f := taken_fronted h.1
  have hlook := looked_vmemAccess hacc
  have hread2 : ∀ e, e ∈ x.els → Readable s2 e.2 x.wm := by
    rw [hels, hwm]
    intro p hp
    obtain ⟨e, he, rfl⟩ := List.mem_map.1 hp
    exact hlook.readable hloc (readable_fronted f (hread e he))
  obtain ⟨checks, m, st, wk, hdst, hrun⟩ := loadRun_ok (op := op) (d := d) (b := b) (hwm ▸ hn) hread2
  have hrun1 := (vmemRun_load hop hacc).trans hrun
  obtain ⟨-, hkeep, hmem⟩ := load_leaves hop hacc hrun1
  obtain ⟨t, hdone⟩ := vmem_done hvmem h hspan hroom hrun1 hkeep hdst
  have hvals : (s2.loadElems (startOf s2 op x d b) x).1 = es.map fun e => (key e, s.curCore.loc.bytes.bits (at0 e) n) := by
    rw [loadElems_plain hread2, hels, hwm, hloc, f.loc, List.map_map]
    rfl
  generalize hc : s1.cur.loaded op d.toNat (if op = .ldx then x.tag else b.toNat) x.tag x.slot n
    (es.map fun e => (key e, s.curCore.loc.bytes.bits (at0 e) n)) = c
  have hcur : ∃ l, (loadDone op x d b s2 checks false s2).cur = { c with checks := l } := by
    unfold loadDone
    dsimp only
    rw [hvals, State.addChecks, cur_modCur, cur_setCur, hlook.cur, hwm, hc]
    exact ⟨_, rfl⟩
  obtain ⟨l, hcur⟩ := hcur
  refine ⟨t, c, hdone.next, hdone.regs, hdone.load f hmem, ?_, rfl, ?_, ?_⟩
  · exact hdone.grant.trans ((hkeep.keeps Ctx.grant fun _ _ _ _ _ _ => rfl).trans f.grant)
  · exact hdone.vregs.trans ((congrArg Ctx.v hcur).trans rfl)
  · exact hdone.scales.trans ((congrArg Ctx.k hcur).trans rfl)
end run

end Sys2Proof.Proofs
end

section
/-! What VLD, VLDX, VLDT and VLDB leave in the vector registers (R134 to R136, R140). -/

namespace Sys2Proof.Proofs

open Sys2Proof Sys2Proof.Machine Sys2Proof.Safety Sys2Proof.Claims Sys2Proof.Laws

/-! ## Slots after a load (R135) -/

theorem unsigned_signed (n x : Nat) : unsigned n (signed n x) = x % 2 ^ n := by
  have hlt := Nat.mod_lt x (Nat.two_pow_pos n)
  have hmod : ((x % 2 ^ n : Nat) : Int) % ((2 ^ n : Nat) : Int) = ((x % 2 ^ n : Nat) : Int) := Int.emod_eq_of_lt (by omega) (by omega)
  unfold unsigned signed
  dsimp only
  split
  · rw [hmod]
    rfl
  · rw [Int.sub_emod_right, hmod]
    rfl

/-- The sign of a format code is that of its tag (R65). -/
theorem isSignedTag_loadTag (code : Nat) : isSignedTag (loadTag code) = loadSigned code := by
  unfold loadTag loadSigned
  split
  · rfl
  · rcases Nat.mod_two_eq_zero_or_one code with h | h
    · rw [h]
      rfl
    · rw [h]
      rfl

/-- A signed tag is as wide in memory as in a slot. -/
theorem signed_width {g w : Nat} (hg : (isB1 g || isInt g || isFlt g) = true) (hs : loadSigned g = true) (hw : memWidth g = some w) :
    slotWidth g = some w := by
  have hlt : g < 0x40 := by
    simp only [isB1, isInt, isFlt, Bool.or_eq_true, Bool.and_eq_true, decide_eq_true_eq, beq_iff_eq] at hg
    omega
  rw [loadSigned, if_pos hlt] at hs
  simp only [isSignedTag, Bool.or_eq_true, beq_iff_eq] at hs
  rcases hs with ((rfl | rfl) | rfl) | rfl <;> exact hw

/-- An element of the width of its slot is loaded as it is (R134). -/
theorem extendTo_tag {g w : Nat} (hg : (isB1 g || isInt g || isFlt g) = true) (hw : memWidth g = some w) (x : Nat) :
    extendTo g w ((slotWidth g).getD 8) x % 2 ^ (slotWidth g).getD 8 = x % 2 ^ (slotWidth g).getD 8 := by
  unfold extendTo
  cases hs : loadSigned g with
  | false => rfl
  | true =>
    rw [signed_width hg hs hw, if_pos rfl, Option.getD_some, unsigned_signed, Nat.mod_mod]

section slots
variable {c : Ctx} {d slot : Nat}

theorem slot_fits {e : Nat} (hcap : c.vl ≤ c.vspan * c.slots slot) (he : e < c.vl) : slot ≤ c.grant * 32 := by
  have hpos : 0 < c.slots slot := Nat.pos_of_ne_zero fun h => by rw [h, Nat.mul_zero] at hcap; omega
  exact Nat.le_of_not_lt fun h => by rw [Ctx.slots, Nat.div_eq_of_lt h] at hpos; omega

/-- An element after the elements of a list have been written. -/
theorem elem_setElems_map (es : List Nat) (val : Nat → Nat) (e : Nat) (hs : 0 < slot) (hg : c.grant ≤ 64) (hq : slot ≤ c.grant * 32) :
    (c.setElems d slot (es.map fun i => (i, val i))).elem d slot e = if e ∈ es then val e % 2 ^ slot else c.elem d slot e := by
  rw [elem_setElems _ _ _ _ _ hs hg hq, lastOf_map]
  by_cases h : e ∈ es
  · rw [if_pos h, if_pos h]
  · rw [if_neg h, if_neg h]

/-- A load of elements extends each to its slot. -/
theorem loaded_eq {op : VMOp} (hop : op ≠ .ldb) {code tag : Nat} (hsign : op = .ldt → isSignedTag tag = loadSigned code) (hvl : c.vl ≠ 0) (wm : Nat)
    (vals : List (Nat × Nat)) : c.loaded op d code tag slot wm vals
      = (c.setElems d slot (vals.map fun q => (q.1, extendTo code wm slot q.2))).setTags d tag c.vspan := by
  unfold Ctx.loaded
  rw [if_neg hvl]
  cases op with
  | ldb => exact absurd rfl hop
  | ldt =>
    dsimp only
    rw [hsign rfl]
    rfl
  | ld | st | ldx | stx | stt | stb => rfl

/-- The slots after a load of elements. -/
theorem elem_loaded {op : VMOp} (hop : op ≠ .ldb) {code tag : Nat} (hsign : op = .ldt → isSignedTag tag = loadSigned code) (wm : Nat) (bits : Nat → Nat)
    {e : Nat} (hs : 0 < slot) (hg : c.grant ≤ 64) (hcap : c.vl ≤ c.vspan * c.slots slot) (he : e < c.vl) :
    (c.loaded op d code tag slot wm (c.activeElems.map fun e => (e, bits e))).elem d slot e
      = if c.active e = true then extendTo code wm slot (bits e) % 2 ^ slot else c.elem d slot e := by
  have hset := elem_setElems_map (d := d) c.activeElems (fun e => extendTo code wm slot (bits e)) e hs hg (slot_fits hcap he)
  simp only [mem_activeElems] at hset
  rw [loaded_eq hop hsign (by omega), elem_setTags, List.map_map]
  exact hset

theorem elem_of_vregs {c c' : Ctx} (hv : c'.v = c.v) (hg : c'.grant = c.grant) (d slot e : Nat) : c'.elem d slot e = c.elem d slot e := by
  rw [Ctx.elem, Ctx.elem, Ctx.slots, Ctx.slots, Ctx.vreg, Ctx.vreg, hv, hg]

theorem kByte_of_scales {c c' : Ctx} (hk : c'.k = c.k) (hg : c'.grant = c.grant) (d e : Nat) : c'.kByte d e = c.kByte d e := by
  rw [Ctx.kByte, Ctx.kByte, Ctx.slots, Ctx.slots, Ctx.kreg, Ctx.kreg, hk, hg]
end slots

end Sys2Proof.Proofs
end

section
/-! VLD, VLDX and VLDT write the elements of memory to every active slot and no other (R134, R135, R140). -/

namespace Sys2Proof.Proofs

open Sys2Proof Sys2Proof.Machine Sys2Proof.Safety Sys2Proof.Claims Sys2Proof.Laws

section loads
variable {i : Instr} {op : VMOp} {s s1 s2 : State} {v : Cv} {d a b : Reg} {x : VMAcc}

theorem slotWidth_pos (t : Nat) : 0 < (slotWidth t).getD 8 := by
  unfold slotWidth
  split <;> decide

/-- The extension of a tensor's elements goes by its own format (R140). -/
theorem loaded_code {c : Ctx} {code code' tag slot wm : Nat} (h : op ≠ .ldt → code = code') {d : Nat} {vals : List (Nat × Nat)} :
    c.loaded op d code tag slot wm vals = c.loaded op d code' tag slot wm vals := by
  by_cases hop : op = .ldt
  · rw [hop]
    rfl
  · rw [h hop]

/-- The word of a load of elements that may be read: every active slot holds its element, extended, and every other keeps its value. -/
theorem elements_load (hop : op.isLoad = true) (hblock : op ≠ .ldb) (hvmem : i.vmem = some (op, d, a, b)) (h : Issues i s v s1) (hspan : s.cur.span = none)
    (hroom : s1.queueRoom = .ok ()) (hacc : s1.vmemAccess op d a b = .ok (x, s2)) (hloc : s2.curCore.loc = s1.curCore.loc)
    (hgrant : s.cur.grant ≤ 64) {at0 : Nat → Nat} {n slot code : Nat} (hels : x.els = s.cur.activeElems.map fun e => (e, at0 e)) (hwm : x.wm = n)
    (hn : 0 < n) (hread : ∀ e, s.cur.active e = true → Readable s (at0 e) n) (hcode : op ≠ .ldt → (if op = .ldx then x.tag else b.toNat) = code)
    (hsign : op = .ldt → isSignedTag x.tag = loadSigned code) (hslot : x.slot = slot) (hpos : 0 < slot) (hcap : s.cur.vl ≤ s.cur.vspan * s.cur.slots slot) :
    ∃ t, exec i s = .next t ∧ KeepsRegs s t ∧ SameMemory s t
      ∧ Loaded s t d.toNat slot fun e => extendTo code n slot (s.curCore.loc.bytes.bits (at0 e) n) := by
  have f := taken_fronted h.1
  obtain ⟨t, c, hexec, hregs, hmem, hgr, hc, hv, -⟩ := load_loads hop hvmem h hspan hroom hacc hloc (key := id) hels hwm hn
    fun e he => hread e ((mem_activeElems _ _).1 he)
  refine ⟨t, hexec, hregs, hmem, fun e he => ?_⟩
  have hactive : s1.cur.activeElems = s.cur.activeElems := keeps_fronted f Ctx.activeElems fun _ => rfl
  have hact : s1.cur.active e = s.cur.active e := keeps_fronted f (fun c => c.active e) fun _ => rfl
  have hold : s1.cur.elem d.toNat slot e = s.cur.elem d.toNat slot e := keeps_fronted f (fun c => c.elem d.toNat slot e) fun _ => rfl
  have hcapacity : s1.cur.vl ≤ s1.cur.vspan * s1.cur.slots slot := by
    have hslots : s1.cur.slots slot = s.cur.slots slot := keeps_fronted f (fun c => c.slots slot) fun _ => rfl
    have hvspan : s1.cur.vspan = s.cur.vspan := keeps_fronted f Ctx.vspan fun _ => rfl
    rw [f.vl, hslots, hvspan]
    exact hcap
  have hloaded := elem_loaded (c := s1.cur) (d := d.toNat) (tag := x.tag) hblock hsign n (fun e => s.curCore.loc.bytes.bits (at0 e) n) hpos
    (f.grant ▸ hgrant) hcapacity (f.vl ▸ he)
  rw [hactive, hact, hold] at hloaded
  rw [loaded_code hcode, hslot] at hc
  have hcgrant : c.grant = s1.cur.grant := by
    rw [hc]
    exact (vecOnly_loaded ..).keeps Ctx.grant fun _ _ _ _ _ => rfl
  rw [elem_of_vregs hv (hgr.trans (f.grant.symm.trans hcgrant.symm)), hc]
  exact hloaded

/-- VLD (R135). -/
theorem vld_loads {w : Nat} (h : Issues (.vld d a b) s v s1) (hspan : s.cur.span = none) (hroom : s1.queueRoom = .ok ())
    (hw : memWidth b.toNat = some w) (hread : ∀ j, s.cur.active j = true → Readable s ((s.reg a).toNat + j * w) w) (hgrant : s.cur.grant ≤ 64)
    (hcap : s.cur.vl ≤ s.cur.vspan * s.cur.slots ((slotWidth (loadTag b.toNat)).getD 8)) :
    ∃ t, exec (.vld d a b) s = .next t ∧ KeepsRegs s t ∧ SameMemory s t ∧ Loaded s t d.toNat ((slotWidth (loadTag b.toNat)).getD 8) fun e =>
      extendTo b.toNat w ((slotWidth (loadTag b.toNat)).getD 8) (s.curCore.loc.bytes.bits ((s.reg a).toNat + e * w) w) := by
  have f := taken_fronted h.1
  have hactive : s1.cur.activeElems = s.cur.activeElems := keeps_fronted f Ctx.activeElems fun _ => rfl
  have hels := map_addresses (es := s.cur.activeElems) (key := id) fun e he => show (s.reg a).toNat + e * w < 2 ^ 64 by
    have := (hread e ((mem_activeElems _ _).1 he)).1.1
    omega
  refine elements_load (op := .ld) rfl nofun rfl h hspan hroom rfl rfl hgrant ?_ (by rw [hw]; rfl) (memWidth_pos hw) hread (fun _ => rfl) nofun rfl
    (slotWidth_pos _) hcap
  change (s1.cur.activeElems.map fun e => (e, ((s1.reg a).toNat + e * (memWidth b.toNat).getD 8) % 2 ^ 64)) = _
  rw [hactive, f.reg, hw]
  exact hels

/-- VLDX (R134, R135). -/
theorem vldx_loads {w g tb : Nat} (h : Issues (.vldx d a b) s v s1) (hspan : s.cur.span = none) (hroom : s1.queueRoom = .ok ())
    (htag : s.cur.groupTag d.toNat = .ok g) (hg : (isB1 g || isInt g || isFlt g) = true) (hw : memWidth g = some w)
    (hindex : s.cur.groupTag b.toNat = .ok tb) (hlo : 6 ≤ tb) (hhi : tb ≤ 9) (hgrant : s.cur.grant ≤ 64)
    (hcap : s.cur.vl ≤ s.cur.vspan * s.cur.slots ((slotWidth g).getD 8))
    (hread : ∀ j, s.cur.active j = true → Readable s (Claims.indexed s a b tb j) w) :
    ∃ t, exec (.vldx d a b) s = .next t ∧ KeepsRegs s t ∧ SameMemory s t
      ∧ Loaded s t d.toNat ((slotWidth g).getD 8) fun e => s.curCore.loc.bytes.bits (Claims.indexed s a b tb e) w := by
  have f := taken_fronted h.1
  have hactive : s1.cur.activeElems = s.cur.activeElems := keeps_fronted f Ctx.activeElems fun _ => rfl
  have hneed : needTag (s1.cur.groupTag d.toNat) (fun t => isB1 t || isInt t || isFlt t) = .ok g :=
    needTag_ok ((keeps_fronted f (fun c => c.groupTag d.toNat) fun _ => rfl).trans htag) hg
  have hneedB : needTag (s1.cur.groupTag b.toNat) (fun t => 6 ≤ t && t ≤ 9) = .ok tb :=
    needTag_ok ((keeps_fronted f (fun c => c.groupTag b.toNat) fun _ => rfl).trans hindex) (by simp [hlo, hhi])
  have hels : (s1.cur.activeElems.map fun e => (e, unsigned 64 (((s1.reg a).toNat : Int) + s1.cur.offset b.toNat tb e)))
      = s.cur.activeElems.map fun e => (e, Claims.indexed s a b tb e) := by
    rw [hactive]
    exact List.map_congr_left fun e _ => by rw [indexed_eq, indexed_fronted f]
  obtain ⟨t, hexec, hregs, hmem, hloaded⟩ := elements_load (op := .ldx) rfl nofun rfl h hspan hroom (bind_ok hneed (bind_ok hneedB rfl)) rfl hgrant hels
    (by rw [hw]; rfl) (memWidth_pos hw) hread (fun _ => if_pos rfl) nofun rfl (slotWidth_pos g) hcap
  refine ⟨t, hexec, hregs, hmem, fun e he => (hloaded e he).trans ?_⟩
  simp only [extendTo_tag hg hw]

/-- VLDT (R140). -/
theorem vldt_loads {w : Nat} {l : BitVec 256} (hl : l = entryOf s (s.reg a).toNat) (h : Issues (.vldt d a b) s v s1) (hspan : s.cur.span = none)
    (hroom : s1.queueRoom = .ok ()) (hstale : s.curCore.stale = []) (hsyn : s.curCore.loc.syn = []) (hw : memWidth (lteFmt l) = some w)
    (hcapOk : s.cur.capOk ((slotWidth (loadTag (lteFmt l))).getD 8) = true) (hbad : lteBad l = false) (hstart : startBeyond l (s.reg b) = false)
    (hspace : spaceOf (lteBase l) = 0) (hgrant : s.cur.grant ≤ 64)
    (hcap : s.cur.vl ≤ s.cur.vspan * s.cur.slots ((slotWidth (loadTag (lteFmt l))).getD 8))
    (hread : ∀ j, s.cur.active j = true → ∃ x, tensorAt l (s.reg b) w j = some x ∧ Readable s x w) :
    ∃ t, exec (.vldt d a b) s = .next t ∧ KeepsRegs s t ∧ SameMemory s t ∧ Loaded s t d.toNat ((slotWidth (loadTag (lteFmt l))).getD 8) fun e =>
      extendTo (lteFmt l) w ((slotWidth (loadTag (lteFmt l))).getD 8) (s.curCore.loc.bytes.bits ((tensorAt l (s.reg b) w e).getD 0) w) := by
  have f := taken_fronted h.1
  have hactive : s1.cur.activeElems = s.cur.activeElems := keeps_fronted f Ctx.activeElems fun _ => rfl
  obtain ⟨hcheck, huse⟩ := entry_settled (s := s1) (by rw [f.loc, hsyn]) ((f.core (·.stale) fun _ _ _ => rfl).trans hstale) a
  have hentry : entryOf s1 (s1.reg a).toNat = l := by rw [entryOf_fronted f, f.reg, hl]
  rw [hentry] at huse
  have hcap1 : s1.cur.capOk ((slotWidth (loadTag (lteFmt l))).getD 8) = true :=
    (keeps_fronted f (fun c => c.capOk ((slotWidth (loadTag (lteFmt l))).getD 8)) fun _ => rfl).trans hcapOk
  have haddr : ∀ e, e ∈ s1.cur.activeElems → ∃ x, tensorAt l (s1.reg b) w e = some x := by
    rw [hactive, f.reg]
    intro e he
    obtain ⟨x, hx, -⟩ := hread e ((mem_activeElems _ _).1 he)
    exact ⟨x, hx⟩
  have hacc : s1.vmemAccess .ldt d a b = .ok (tensorElems s1.cur l (s1.reg b) w (s1.curCore.lcHit (s1.reg a).toNat), fetched s1 a) := by
    rw [vmemAccess_ldt, huse]
    exact bind_ok hcheck (tensorAccess_ok _ _ _ hw hcap1 rfl hbad (by rw [f.reg, hstart]) hspace haddr)
  have hloc : (fetched s1 a).curCore.loc = s1.curCore.loc := (congrArg Core.loc (curCore_fetched s1 a)).trans rfl
  refine elements_load (op := .ldt) rfl nofun rfl h hspan hroom hacc hloc hgrant (at0 := fun e => (tensorAt l (s.reg b) w e).getD 0) ?_ rfl (memWidth_pos hw)
    (fun e he => ?_) (fun hne => absurd rfl hne) (fun _ => isSignedTag_loadTag _) rfl (slotWidth_pos _) hcap
  · rw [tensorElems, hactive, f.reg]
  · obtain ⟨x, hx, hrd⟩ := hread e he
    rw [hx]
    exact hrd
end loads

end Sys2Proof.Proofs
end

section
/-! VLDB writes the elements, micro-exponents and exponent of every block with an active element (R136). -/

namespace Sys2Proof.Proofs

open Sys2Proof Sys2Proof.Machine Sys2Proof.Safety Sys2Proof.Claims Sys2Proof.Laws

section blocks
variable {c k : Ctx} {d : Nat}

theorem elem_setKByte (k : Ctx) (d base e x slot i : Nat) : (k.setKByte base e x).elem d slot i = k.elem d slot i := rfl

/-- The slots of a block, as its element list gives them. -/
theorem block_slots (c : Ctx) (blk : PBlock) (n : Nat) :
    (((rangeFrom 0 16).filter fun j => c.active (16 * n + j)).map fun j => (16 * n + j, pipSlot (blk.el.getD j (false, 0)) (blk.mu.getD (j / 2) 0)))
      = (((rangeFrom 0 16).filter fun j => c.active (16 * n + j)).map (16 * n + ·)).map fun e => (e, blockSlot blk e) := by
  rw [List.map_map]
  refine List.map_congr_left fun j hj => ?_
  have hlt := ((mem_rangeFrom _ _ _).1 (List.mem_filter.1 hj).1).2
  have hmod : (16 * n + j) % 16 = j := by omega
  rw [Function.comp_apply, blockSlot, hmod]

theorem mem_block_slots (c : Ctx) (n e : Nat) :
    e ∈ ((rangeFrom 0 16).filter fun j => c.active (16 * n + j)).map (16 * n + ·) ↔ e / 16 = n ∧ c.active e = true := by
  rw [List.mem_map]
  constructor
  · rintro ⟨j, hj, rfl⟩
    obtain ⟨hj, hact⟩ := List.mem_filter.1 hj
    have hlt := ((mem_rangeFrom _ _ _).1 hj).2
    exact ⟨by omega, hact⟩
  · rintro ⟨hn, hact⟩
    have he : 16 * n + e % 16 = e := by omega
    exact ⟨e % 16, List.mem_filter.2 ⟨(mem_rangeFrom _ _ _).2 ⟨by omega, by omega⟩, by rw [he]; exact hact⟩, he⟩

/-- A block of VLDB, loaded into the context k; what is active goes by the context c. -/
def loadBlock (c : Ctx) (d : Nat) (p : Pip) (k : Ctx) (q : Nat × Nat) : Ctx :=
  let blk := PBlock.ofBits p q.2
  let slots := ((rangeFrom 0 16).filter fun j => c.active (q.1 + j)).map fun j =>
    (q.1 + j, pipSlot (blk.el.getD j (false, 0)) (blk.mu.getD (j / 2) 0))
  (k.setElems d 16 slots).setKByte d q.1 blk.e

theorem loadBlocks_foldl (c : Ctx) (d : Nat) (p : Pip) (l : List (Nat × Nat)) : c.loadBlocks d p l = l.foldl (loadBlock c d p) c := rfl

theorem vecOnly_loadBlock (c : Ctx) (d : Nat) (p : Pip) (k : Ctx) (q : Nat × Nat) : VecOnly k (loadBlock c d p k q) :=
  (vecOnly_setElems ..).trans (vecOnly_setKByte ..)

theorem grant_loadBlock (c : Ctx) (d : Nat) (p : Pip) (k : Ctx) (q : Nat × Nat) : (loadBlock c d p k q).grant = k.grant :=
  (vecOnly_loadBlock c d p k q).keeps Ctx.grant fun _ _ _ _ _ => rfl

/-- One block: its active slots hold its elements, and every other slot keeps its value. -/
theorem elem_loadBlock (c : Ctx) (p : Pip) (n x e : Nat) (hg : k.grant ≤ 64) (hq : 16 ≤ k.grant * 32) : (loadBlock c d p k (16 * n, x)).elem d 16 e
    = if e / 16 = n ∧ c.active e = true then blockSlot (PBlock.ofBits p x) e % 2 ^ 16 else k.elem d 16 e := by
  have hset := elem_setElems_map (c := k) (d := d) (((rangeFrom 0 16).filter fun j => c.active (16 * n + j)).map (16 * n + ·))
    (blockSlot (PBlock.ofBits p x)) e (by decide) hg hq
  rw [loadBlock]
  dsimp only
  rw [elem_setKByte, block_slots, hset]
  simp only [mem_block_slots]

theorem elem_loadBlocks (c : Ctx) (p : Pip) (bits : Nat → Nat) (e : Nat) (ns : List Nat) : ∀ k : Ctx, k.grant ≤ 64 → 16 ≤ k.grant * 32 →
    ((ns.map fun n => (16 * n, bits n)).foldl (loadBlock c d p) k).elem d 16 e
      = if e / 16 ∈ ns ∧ c.active e = true then blockSlot (PBlock.ofBits p (bits (e / 16))) e % 2 ^ 16 else k.elem d 16 e := by
  induction ns with
  | nil => exact fun k _ _ => by simp
  | cons n r ih =>
    intro k hg hq
    rw [List.map_cons, List.foldl_cons, ih _ (by rw [grant_loadBlock]; exact hg) (by rw [grant_loadBlock]; exact hq), elem_loadBlock c p n (bits n) e hg hq]
    by_cases hact : c.active e = true
    · by_cases hn : e / 16 = n
      · subst hn
        simp [hact]
      · simp [hact, hn]
    · simp [hact]

/-! ## Exponent bytes (R61, R136) -/

/-- Where the exponent byte of a block stands, as a register and a bit of it. -/
def bytePlace (c : Ctx) (d e : Nat) : Nat × Nat :=
  let q := c.slots 16
  ((d + e / q) / 8, 8 * (8 * ((d + e / q) % 8) + e % q / 16))

theorem kByte_eq (c : Ctx) (d e : Nat) : c.kByte d e = ((c.kreg (bytePlace c d e).1).toNat >>> (bytePlace c d e).2) % 2 ^ 8 := by
  have hwidth (p : Nat) : p + 7 + 1 - p = 8 := by omega
  rw [Ctx.kByte, field, hwidth]
  rfl

theorem setKByte_eq (c : Ctx) (d e x : Nat) : c.setKByte d e x = c.setKreg (bytePlace c d e).1
    (BitVec.ofNat 512 (setField (c.kreg (bytePlace c d e).1).toNat (bytePlace c d e).2 8 x)) := rfl

theorem kreg_setKreg_self (c : Ctx) (n : Nat) (x : BitVec 512) : (c.setKreg n x).kreg n = x := get_set_self ..

theorem kreg_setKreg_ne (c : Ctx) {n m : Nat} (x : BitVec 512) (h : m ≠ n) : (c.setKreg n x).kreg m = c.kreg m := get_set_ne _ _ _ h

/-- The exponent bytes of different blocks stand in different places. -/
theorem bytePlace_inj {m n n' : Nat} (hm : c.slots 16 = 16 * m) (hpos : 0 < m) (hle : m ≤ 8) (h : n' ≠ n) :
    (bytePlace c d (16 * n)).2 + 8 ≤ 512 ∧ ((bytePlace c d (16 * n')).1 ≠ (bytePlace c d (16 * n)).1
      ∨ (bytePlace c d (16 * n')).2 + 8 ≤ (bytePlace c d (16 * n)).2 ∨ (bytePlace c d (16 * n)).2 + 8 ≤ (bytePlace c d (16 * n')).2) := by
  have hdiv (x : Nat) : 16 * x / (16 * m) = x / m := Nat.mul_div_mul_left x m (by decide)
  have hmod (x : Nat) : 16 * x % (16 * m) / 16 = x % m := by rw [Nat.mul_mod_mul_left, Nat.mul_div_cancel_left _ (by decide)]
  have hn := Nat.div_add_mod n m
  have hn' := Nat.div_add_mod n' m
  have hlt := Nat.mod_lt n hpos
  have hlt' := Nat.mod_lt n' hpos
  have hdiff : n' / m ≠ n / m ∨ n' % m ≠ n % m := by
    by_contra hcon
    simp only [not_or, not_not] at hcon
    rw [hcon.1, hcon.2] at hn'
    exact h (hn'.symm.trans hn)
  simp only [bytePlace, hm, hdiv, hmod]
  omega

theorem kByte_setKByte {m n n' : Nat} (hm : k.slots 16 = 16 * m) (hpos : 0 < m) (hle : m ≤ 8) (x : Nat) :
    (k.setKByte d (16 * n) x).kByte d (16 * n') = if n' = n then x % 2 ^ 8 else k.kByte d (16 * n') := by
  have hplace (e : Nat) : bytePlace (k.setKByte d (16 * n) x) d e = bytePlace k d e := rfl
  have hfits : (bytePlace k d (16 * n)).2 + 8 ≤ 512 := (bytePlace_inj hm hpos hle (Nat.succ_ne_self n)).1
  have hwhole : (BitVec.ofNat 512 (setField (k.kreg (bytePlace k d (16 * n)).1).toNat (bytePlace k d (16 * n)).2 8 x)).toNat
      = setField (k.kreg (bytePlace k d (16 * n)).1).toNat (bytePlace k d (16 * n)).2 8 x := by
    rw [BitVec.toNat_ofNat, Nat.mod_eq_of_lt (setField_lt _ _ _ _ _ (BitVec.isLt _) hfits)]
  rw [kByte_eq, hplace, setKByte_eq]
  by_cases h : n' = n
  · rw [h, if_pos rfl, kreg_setKreg_self, hwhole, setField_field]
  · rw [if_neg h, kByte_eq]
    obtain ⟨-, hreg | hbits⟩ := bytePlace_inj (d := d) hm hpos hle h
    · rw [kreg_setKreg_ne _ _ hreg]
    · by_cases hreg : (bytePlace k d (16 * n')).1 = (bytePlace k d (16 * n)).1
      · rw [hreg, kreg_setKreg_self, hwhole, field_setField_ne _ _ _ _ _ _ hbits]
      · rw [kreg_setKreg_ne _ _ hreg]

theorem setElems_scales (base slot : Nat) (l : List (Nat × Nat)) : ∀ k : Ctx, (k.setElems base slot l).k = k.k :=
  foldl_keeps (g := Ctx.k) (f := fun (k : Ctx) (p : Nat × Nat) => k.setElem base slot p.1 p.2) (fun _ _ => rfl) l

/-- One block: its exponent byte is written, and that of every other block keeps its value. -/
theorem kByte_loadBlock {p : Pip} {m x n n' : Nat} (hm : k.slots 16 = 16 * m) (hpos : 0 < m) (hle : m ≤ 8) :
    (loadBlock c d p k (16 * n, x)).kByte d (16 * n') = if n' = n then (PBlock.ofBits p x).e else k.kByte d (16 * n') := by
  have hbyte : (PBlock.ofBits p x).e % 2 ^ 8 = (PBlock.ofBits p x).e := Nat.mod_mod _ _
  rw [loadBlock]
  dsimp only
  rw [kByte_setKByte (m := m) (by rw [Ctx.slots, setElems_grant, ← hm]; rfl) hpos hle, hbyte, kByte_of_scales (setElems_scales ..) (setElems_grant ..)]

theorem kByte_loadBlocks {p : Pip} {m : Nat} (bits : Nat → Nat) (n' : Nat) (hpos : 0 < m) (hle : m ≤ 8) (ns : List Nat) : ∀ k : Ctx,
    k.slots 16 = 16 * m → ((ns.map fun n => (16 * n, bits n)).foldl (loadBlock c d p) k).kByte d (16 * n')
      = if n' ∈ ns then (PBlock.ofBits p (bits n')).e else k.kByte d (16 * n') := by
  induction ns with
  | nil => exact fun k _ => by simp
  | cons n r ih =>
    intro k hm
    rw [List.map_cons, List.foldl_cons, ih _ (by rw [Ctx.slots, grant_loadBlock, ← hm]; rfl), kByte_loadBlock hm hpos hle]
    by_cases hn : n' = n
    · subst hn
      simp
    · simp [hn]
end blocks

end Sys2Proof.Proofs
end

section
/-! The vector loads (R134 to R136, R140), VLDB with its blocks. -/

namespace Sys2Proof.Proofs

open Sys2Proof Sys2Proof.Machine Sys2Proof.Safety Sys2Proof.Claims Sys2Proof.Laws

/-- With whole blocks below VL an active element lies in a block that has one. -/
theorem mem_activeBlocks {c : Ctx} (hvl : c.vl % 16 = 0) {e : Nat} (h : c.active e = true) : e / 16 ∈ activeBlocks c := by
  have hlt : e < c.vl := of_decide_eq_true (Bool.and_eq_true_iff.1 h).1
  refine List.mem_filter.2 ⟨(mem_rangeFrom _ _ _).2 ⟨Nat.zero_le _, by omega⟩, List.any_eq_true.2 ⟨e, (mem_rangeFrom _ _ _).2 ⟨by omega, by omega⟩, h⟩⟩

theorem activeBlocks_below {c : Ctx} {n : Nat} (h : n ∈ activeBlocks c) : n < c.vl / 16 := by
  have hlt := ((mem_rangeFrom _ _ _).1 (List.mem_filter.1 h).1).2
  rwa [Nat.zero_add] at hlt

theorem setTags_scales (c : Ctx) (base t n : Nat) : (c.setTags base t n).k = c.k :=
  foldl_keeps (g := Ctx.k) (f := fun (c : Ctx) r => c.setTag r t) (fun _ _ => rfl) _ c

theorem setTags_grant (c : Ctx) (base t n : Nat) : (c.setTags base t n).grant = c.grant :=
  (vecOnly_setTags c base t n).keeps Ctx.grant fun _ _ _ _ _ => rfl

/-- The context after the blocks of VLDB. -/
theorem loaded_blocks {c : Ctx} {p : Pip} {code : Nat} (hp : Pip.ofCode code = some p) (hvl : c.vl ≠ 0) (d tag slot wm : Nat) (vals : List (Nat × Nat)) :
    c.loaded .ldb d code tag slot wm vals = (vals.foldl (loadBlock c d p) c).setTags d tag c.vspan := by
  rw [Ctx.loaded, if_neg hvl, hp]
  rfl

section word
variable {s s1 : State} {v : Cv} {d a b : Reg}

/-- VLDB (R136). -/
theorem vldb_loads {p : Pip} (h : Issues (.vldb d a b) s v s1) (hspan : s.cur.span = none) (hroom : s1.queueRoom = .ok ())
    (hp : Pip.ofCode b.toNat = some p) (hlanes : s.cur.grant % 8 = 0) (hvl : s.cur.vl % 16 = 0) (hgrant : s.cur.grant ≤ 64)
    (hcap : s.cur.vl ≤ s.cur.vspan * s.cur.slots 16)
    (hread : ∀ k, k ∈ activeBlocks s.cur → Readable s ((s.reg a).toNat + k * p.bs) p.bs) :
    ∃ t, exec (.vldb d a b) s = .next t ∧ KeepsRegs s t ∧ SameMemory s t
      ∧ Loaded s t d.toNat 16 (fun e => blockSlot (PBlock.ofBits p (s.curCore.loc.bytes.bits ((s.reg a).toNat + e / 16 * p.bs) p.bs)) e)
      ∧ ∀ k, k ∈ activeBlocks s.cur → t.cur.kByte d.toNat (16 * k) = (PBlock.ofBits p (s.curCore.loc.bytes.bits ((s.reg a).toNat + k * p.bs) p.bs)).e := by
  have f := taken_fronted h.1
  have hactive : activeBlocks s1.cur = activeBlocks s.cur := keeps_fronted f activeBlocks fun _ => rfl
  have hels : ((activeBlocks s1.cur).map fun k => (16 * k, ((s1.reg a).toNat + k * ((Pip.ofCode b.toNat).getD .p3).bs) % 2 ^ 64))
      = (activeBlocks s.cur).map fun k => (16 * k, (s.reg a).toNat + k * p.bs) := by
    rw [hactive, f.reg, hp]
    exact map_addresses (key := fun k => 16 * k) fun k hk => show (s.reg a).toNat + k * p.bs < 2 ^ 64 by have := (hread k hk).1.1; omega
  obtain ⟨t, c, hexec, hregs, hmem, hgr, hc, hv, hk⟩ := load_loads (op := .ldb) rfl rfl h hspan hroom rfl rfl hels (by rw [hp]; rfl) (bs_pos p) hread
  have hcgrant : c.grant = s.cur.grant := by
    rw [hc]
    exact ((vecOnly_loaded ..).keeps Ctx.grant fun _ _ _ _ _ => rfl).trans f.grant
  have hbl (hne : s.cur.vl ≠ 0) : c = (((activeBlocks s.cur).map fun k => (16 * k, s.curCore.loc.bytes.bits ((s.reg a).toNat + k * p.bs) p.bs)).foldl
      (loadBlock s1.cur d.toNat p) s1.cur).setTags d.toNat b.toNat s1.cur.vspan := hc.trans (loaded_blocks hp (f.vl ▸ hne) ..)
  refine ⟨t, hexec, hregs, hmem, fun e he => ?_, fun n hn => ?_⟩
  · have hq := slot_fits hcap he
    have hblocks := elem_loadBlocks (d := d.toNat) s1.cur p (fun k => s.curCore.loc.bytes.bits ((s.reg a).toNat + k * p.bs) p.bs) e (activeBlocks s.cur)
      s1.cur (f.grant ▸ hgrant) (f.grant ▸ hq)
    have hact : s1.cur.active e = s.cur.active e := keeps_fronted f (fun c => c.active e) fun _ => rfl
    have hold : s1.cur.elem d.toNat 16 e = s.cur.elem d.toNat 16 e := keeps_fronted f (fun c => c.elem d.toNat 16 e) fun _ => rfl
    have hin : (e / 16 ∈ activeBlocks s.cur ∧ s.cur.active e = true) ↔ s.cur.active e = true := ⟨And.right, fun hact => ⟨mem_activeBlocks hvl hact, hact⟩⟩
    rw [hact, hold] at hblocks
    simp only [hin] at hblocks
    rw [elem_of_vregs hv (hgr.trans hcgrant.symm), hbl (by omega), elem_setTags]
    exact hblocks
  · have hpos : 0 < s.cur.vl := by have := activeBlocks_below hn; omega
    have hq := slot_fits hcap hpos
    have hslots : s1.cur.slots 16 = 16 * (s.cur.grant / 8) := by
      rw [Ctx.slots, f.grant]
      omega
    have hblocks := kByte_loadBlocks (c := s1.cur) (d := d.toNat) (p := p) (fun k => s.curCore.loc.bytes.bits ((s.reg a).toNat + k * p.bs) p.bs) n
      (by omega) (by omega) (activeBlocks s.cur) s1.cur hslots
    rw [if_pos hn] at hblocks
    rw [kByte_of_scales hk (hgr.trans hcgrant.symm), hbl (by omega), kByte_of_scales (setTags_scales ..) (setTags_grant ..)]
    exact hblocks
end word

/-- Settles O23: the vector loads write the elements of memory to every active slot and no other. -/
theorem vectorLoad : Obligations.VectorLoad := by
  unfold Obligations.VectorLoad
  refine ⟨?_, ?_⟩
  · intro d a b s s1 v w e h hspan _ hroom hw hread hgrant hcap he slot
    obtain ⟨t, hexec, -, -, hloaded⟩ := vld_loads h hspan hroom hw hread hgrant hcap
    exact ⟨t, hexec, hloaded e he⟩
  · intro d a b s s1 v hspan _ hroom hgrant r bits
    refine ⟨?_, ?_, ?_⟩
    · intro w g tb slot h htag hg hw hindex hlo hhi hcap hread
      exact vldx_loads h hspan hroom htag hg hw hindex hlo hhi hgrant hcap hread
    · intro w l slot h hstale hsyn hw hcapOk hbad hstart hspace hcap hread
      exact vldt_loads rfl h hspan hroom hstale hsyn hw hcapOk hbad hstart hspace hgrant hcap hread
    · intro p h hp hlanes hvl hcap hread block
      exact vldb_loads h hspan hroom hp hlanes hvl hgrant hcap hread

end Sys2Proof.Proofs
end

section
/-! The canonical form of every memory (log 3): what the updates of memories, cores and the state keep of it. -/

namespace Sys2Proof.Proofs

open Sys2Proof Sys2Proof.Machine Sys2Proof.Safety Sys2Proof.Claims Sys2Proof.Laws

/-! ## Memories -/

/-- A memory in canonical form. -/
abbrev Canon (m : Space) : Prop := m.bytes.wf = true

section memories
variable {m : Space}

theorem wf_foldl {α : Type} {f : Memory → α → Memory} (hf : ∀ b a, b.wf = true → (f b a).wf = true) (l : List α) : ∀ b : Memory,
    b.wf = true → (l.foldl f b).wf = true := by
  induction l with
  | nil => exact fun _ h => h
  | cons a r ih => exact fun b h => ih _ (hf b a h)

theorem canon_foldl {α : Type} {f : Space → α → Space} (hf : ∀ m a, Canon m → Canon (f m a)) (l : List α) : ∀ m, Canon m → Canon (l.foldl f m) := by
  induction l with
  | nil => exact fun _ h => h
  | cons a r ih => exact fun m h => ih _ (hf m a h)

theorem wf_walked (h : Canon m) : m.walked.wf = true := by
  refine wf_foldl (fun b p hb => ?_) _ _ h
  split
  · exact wf_setBytes _ hb _ _
  · exact wf_setBytes _ hb _ _
  · exact hb

theorem canon_countRead (h : Canon m) (ws : List Nat) : Canon (m.countRead ws) := (congrArg Memory.wf (countRead_bytes m ws)).trans h

theorem canon_goOut (h : Canon m) (sec : Nat) : Canon (m.goOut sec) := (congrArg Memory.wf (goOut_bytes m sec)).trans h

theorem canon_mark (h : Canon m) (sec : Nat) (paths : BitVec 4) (level : Nat) : Canon (m.mark sec paths level) :=
  (congrArg Memory.wf (mark_bytes m sec paths level)).trans h

theorem canon_store (h : Canon m) (a n x : Nat) : Canon (m.store a n x) := wf_writeRaw (canon_foldl (fun _ sec h => canon_goOut h sec) _ _ h) a n x

theorem canon_goOutNow (h : Canon m) (now : Nat) (p : Patch) (sec : Nat) : Canon (m.goOutNow now p sec) := by
  unfold Space.goOutNow
  split
  · exact h
  · exact canon_goOut h sec

theorem canon_writeBack (h : Canon m) (sec x : Nat) (l : List Patch) : Canon (m.writeBack sec x l) := wf_foldl (fun _ _ hb => wf_setBits hb _ _ _) l _ h

theorem canon_remark (h : Canon m) (x : Nat) (q : Nat × BitVec 8) : Canon (m.remark x q) := by
  unfold Canon Space.remark
  dsimp only
  split
  · exact wf_setBits h _ _ _
  · exact h

theorem canon_dropSector (h : Canon m) (now sec : Nat) (x : Hist) : Canon (m.dropSector now sec x) := by
  unfold Space.dropSector
  dsimp only
  split
  · exact h
  · split
    · exact canon_foldl (fun _ q hm => canon_remark hm _ q) _ _ (canon_writeBack h _ _ _)
    · exact canon_foldl (fun _ q hm => canon_remark hm _ q) _ _ (canon_writeBack h _ _ _)

theorem canon_dropLate (h : Canon m) (now : Nat) : Canon (m.dropLate now) := canon_foldl (fun _ q hm => canon_dropSector hm now q.1 q.2) m.hist m h

theorem canon_putOffWrite (h : Canon m) (sec ctx issued t d : Nat) : Canon (m.putOffWrite sec ctx issued t d) := by
  unfold Space.putOffWrite
  split
  · exact h
  · dsimp only
    split
    · exact h
    · exact h

theorem canon_ite {m k : Space} {c : Prop} [Decidable c] (hm : Canon m) (hk : Canon k) : Canon (if c then m else k) := by
  split
  · exact hm
  · exact hk
end memories

/-! ## Cores -/

/-- A core with its scratchpad in canonical form. -/
abbrev CoreOk (k : Core) : Prop := Canon k.loc

section cores
variable {k : Core}

theorem coreOk_foldl {α : Type} {f : Core → α → Core} (hf : ∀ k a, CoreOk k → CoreOk (f k a)) (l : List α) : ∀ k, CoreOk k → CoreOk (l.foldl f k) := by
  induction l with
  | nil => exact fun _ h => h
  | cons a r ih => exact fun k h => ih _ (hf k a h)

theorem loc_reorder (k : Core) (sec : Nat) (a : SectorNow) (old new : List Patch) : (k.reorder sec a old new).loc = k.loc := by
  unfold Core.reorder
  split
  · rfl
  · rfl

theorem coreOk_settle (h : CoreOk k) (sec : Nat) : CoreOk (k.settle sec) := by
  unfold Core.settle
  split
  · exact h
  · dsimp only
    refine coreOk_foldl (fun k q hk => ?_) _ _ ?_
    · split
      · exact hk
      · exact hk
    · rw [CoreOk, loc_reorder]
      exact canon_writeBack h _ _ _

theorem coreOk_settleAll (h : CoreOk k) (now : Nat) (secs : List Nat) : CoreOk (k.settleAll now secs) := coreOk_foldl (fun _ sec hk => coreOk_settle hk sec) _ _ h

theorem coreOk_dropLate (h : CoreOk k) (now : Nat) : CoreOk (k.dropLate now) := canon_dropLate h now

theorem loc_unpop (k : Core) : k.unpop.loc = k.loc := by
  refine foldl_keeps (g := Core.loc) (fun k p => ?_) _ k
  dsimp only
  split
  · rfl
  · rfl

theorem coreOk_abort (h : CoreOk k) (now : Nat) : CoreOk (k.abort now) := by
  refine coreOk_dropLate (k := (k.unpush now).unpop) ?_ now
  rw [CoreOk, loc_unpop]
  exact h
end cores

end Sys2Proof.Proofs
end

section
/-! The canonical form of every memory (log 3): the operations on the state that every step goes through. -/

namespace Sys2Proof.Proofs

open Sys2Proof Sys2Proof.Machine Sys2Proof.Safety Sys2Proof.Claims Sys2Proof.Laws

/-- Every memory of the device is in canonical form. -/
abbrev Canonical (s : State) : Prop := MemoryOk s

/-- What of a state holds memories. -/
def memories (s : State) : SMap Core × Memory × Memory × Memory × Memory × Memory × Memory × Option Memory :=
  (s.cores, s.phys.bytes, s.host.bytes, s.peer.bytes, s.nvme, s.sec.buf, s.sysTables, s.slice.map (·.tables))

section state
variable {s t : State}

/-- A state with the same memories. -/
theorem Canonical.same (h : Canonical s) (e : memories t = memories s) : Canonical t := by
  simp only [memories, Prod.mk.injEq] at e
  obtain ⟨hcores, hphys, hhost, hpeer, hnvme, hbuf, htables, hslice⟩ := e
  refine ⟨by rw [hcores]; exact h.loc, by rw [hphys]; exact h.phys, by rw [hhost]; exact h.host, by rw [hpeer]; exact h.peer, by rw [hnvme]; exact h.nvme,
    by rw [hbuf]; exact h.buf, by rw [htables]; exact h.tables, fun r hr => ?_⟩
  rw [hr] at hslice
  obtain ⟨r', hr', hsame⟩ := Option.map_eq_some_iff.1 hslice.symm
  exact (congrArg Memory.wf hsame).symm.trans (h.latched r' hr')

theorem canonical_ite {c : Prop} [Decidable c] (hs : Canonical s) (ht : Canonical t) : Canonical (if c then s else t) := by
  split
  · exact hs
  · exact ht

theorem mem_put {α : Type} {m : SMap α} {n : Nat} {x : α} {p : Nat × α} (h : p ∈ m.put n x) : p = (n, x) ∨ p ∈ m := by
  induction m with
  | nil => exact .inl (List.mem_singleton.1 h)
  | cons q r ih =>
    unfold SMap.put at h
    split at h
    · exact (List.mem_cons.1 h).imp_right id
    · split at h
      · exact (List.mem_cons.1 h).imp_right fun h => List.mem_cons_of_mem _ h
      · rcases List.mem_cons.1 h with rfl | h
        · exact .inr List.mem_cons_self
        · exact (ih h).imp_right fun h => List.mem_cons_of_mem _ h

theorem get_mem {α : Type} (d : α) (m : SMap α) (n : Nat) : SMap.get d m n = d ∨ (n, SMap.get d m n) ∈ m := by
  induction m with
  | nil => exact .inl rfl
  | cons q r ih =>
    unfold SMap.get
    split
    · rename_i hk
      subst hk
      exact .inr List.mem_cons_self
    · exact ih.imp_right fun h => List.mem_cons_of_mem _ h

theorem Canonical.core (h : Canonical s) (c : Nat) : CoreOk (s.core c) := by
  rcases get_mem {} s.cores c with hd | hm
  · rw [CoreOk, State.core, hd]
    rfl
  · exact h.loc _ hm

theorem Canonical.setCore (h : Canonical s) {k : Core} (hk : CoreOk k) (c : Nat) : Canonical (s.setCore c k) := by
  refine ⟨fun p hp => ?_, h.phys, h.host, h.peer, h.nvme, h.buf, h.tables, h.latched⟩
  rcases mem_put hp with rfl | hp
  · exact hk
  · exact h.loc p hp

/-- An update of a core that keeps the bytes of its scratchpad. -/
theorem Canonical.modCore (h : Canonical s) {f : Core → Core} (c : Nat) (hf : (f (s.core c)).loc.bytes = (s.core c).loc.bytes) : Canonical (s.modCore c f) :=
  h.setCore ((congrArg Memory.wf hf).trans (h.core c)) c

theorem Canonical.setCurCore (h : Canonical s) {k : Core} (hk : CoreOk k) : Canonical (s.setCurCore k) := h.setCore hk _

theorem Canonical.modCurCore (h : Canonical s) {f : Core → Core} (hf : (f s.curCore).loc.bytes = s.curCore.loc.bytes) : Canonical (s.modCurCore f) :=
  h.modCore _ hf

/-- An update of a core that keeps the form of its scratchpad. -/
theorem Canonical.modCoreOk (h : Canonical s) {f : Core → Core} (c : Nat) (hf : CoreOk (f (s.core c))) : Canonical (s.modCore c f) := h.setCore hf c

theorem Canonical.modCurCoreOk (h : Canonical s) {f : Core → Core} (hf : CoreOk (f s.curCore)) : Canonical (s.modCurCore f) := h.setCore hf _

theorem Canonical.setCtx (h : Canonical s) (c x : Nat) (t : Ctx) : Canonical (s.setCtx c x t) :=
  h.setCore (k := (s.core c).setCtx x t) (h.core c) c

theorem Canonical.modCtx (h : Canonical s) (c x : Nat) (f : Ctx → Ctx) : Canonical (s.modCtx c x f) := h.setCtx ..

theorem Canonical.setCur (h : Canonical s) (t : Ctx) : Canonical (s.setCur t) := h.setCtx ..

theorem Canonical.modCur (h : Canonical s) (f : Ctx → Ctx) : Canonical (s.modCur f) := h.setCur _

theorem Canonical.result (h : Canonical s) (d : Reg) (v : Word) (lat : Nat) (fl : BitVec 7) (load : Bool) : Canonical (s.result d v lat fl load) := h.setCur _

theorem Canonical.drawBool (h : Canonical s) : Canonical s.drawBool.2 := h.same rfl

theorem Canonical.drawNat (h : Canonical s) : Canonical s.drawNat.2 := h.same rfl

theorem Canonical.drawWord (h : Canonical s) : Canonical s.drawWord.2 := h.same rfl

theorem Canonical.countPoison (h : Canonical s) (n : Nat) : Canonical (s.countPoison n) := h.same rfl

theorem Canonical.spaceAt (h : Canonical s) (p : Place) : Canon (s.spaceAt p) :=
  match p with
  | .loc c => h.core c
  | .phys => h.phys
  | .host => h.host
  | .peer => h.peer

theorem Canonical.setSpace (h : Canonical s) (p : Place) {m : Space} (hm : Canon m) : Canonical (s.setSpace p m) :=
  match p with
  | .loc c => h.setCore (k := { s.core c with loc := m }) hm c
  | .phys => ⟨h.loc, hm, h.host, h.peer, h.nvme, h.buf, h.tables, h.latched⟩
  | .host => ⟨h.loc, h.phys, hm, h.peer, h.nvme, h.buf, h.tables, h.latched⟩
  | .peer => ⟨h.loc, h.phys, h.host, hm, h.nvme, h.buf, h.tables, h.latched⟩

theorem Canonical.modSpace (h : Canonical s) (p : Place) {f : Space → Space} (hf : Canon (f (s.spaceAt p))) : Canonical (s.modSpace p f) := h.setSpace p hf

/-- A fold over states. -/
theorem canonical_foldl {α : Type} {f : State → α → State} (hf : ∀ s a, Canonical s → Canonical (f s a)) (l : List α) : ∀ s, Canonical s →
    Canonical (l.foldl f s) := by
  induction l with
  | nil => exact fun _ h => h
  | cons a r ih => exact fun s h => ih _ (hf s a h)

theorem Canonical.markBad (h : Canonical s) (p : Place) (w : Nat) : Canonical (s.markBad p w) := by
  unfold State.markBad
  split
  · exact (h.modSpace p (f := fun m => m.poison w) (h.spaceAt p)).countPoison 1
  · exact h

theorem Canonical.copied (h : Canonical s) (p : Place) (ws : List Nat) : Canonical (s.copied p ws) := by
  unfold State.copied
  split
  · exact h
  · exact canonical_foldl (fun _ w h => h.markBad p w) _ _ (h.modSpace p (canon_countRead (h.spaceAt p) ws))

theorem Canonical.setPhys (h : Canonical s) {m : Space} (hm : Canon m) : Canonical { s with phys := m } :=
  ⟨h.loc, hm, h.host, h.peer, h.nvme, h.buf, h.tables, h.latched⟩

/-! ## Records, system memory and the ready queue -/

theorem Canonical.sendRecord (h : Canonical s) (r : Record) : Canonical (s.sendRecord r) := h.same rfl

theorem Canonical.askWake (h : Canonical s) : Canonical s.askWake := by
  unfold State.askWake
  split
  · exact h
  · exact h.same rfl

theorem Canonical.sysEvent (h : Canonical s) (b : BitVec 2) : Canonical (s.sysEvent b) := h.modCore _ rfl

theorem Canonical.wake (h : Canonical s) (c : Nat) : Canonical (s.wake c) := h.modCore _ rfl

theorem Canonical.putSystemBy (h : Canonical s) {write : Space → Nat → Nat → Nat → Space} (hw : ∀ m a n x, Canon m → Canon (write m a n x)) (va n x : Nat) :
    Canonical (s.putSystemBy write va n x) := by
  have hall (l : List (Nat × Nat)) : ∀ acc : Space × Nat, Canon acc.1 → Canon (l.foldl (fun (acc : Space × Nat) p =>
      (match Machine.translate s.sysTables s.bar.sysroot.toNat (p.1 % 2 ^ 57) true with
      | some pa => write acc.1 pa p.2 ((x >>> acc.2) % 2 ^ p.2)
      | none => acc.1, acc.2 + p.2)) acc).1 := by
    induction l with
    | nil => exact fun _ h => h
    | cons p r ih =>
      intro acc hacc
      refine ih _ ?_
      dsimp only
      split
      · exact hw _ _ _ _ hacc
      · exact hacc
  exact h.setPhys (hall _ _ h.phys)

theorem Canonical.putSystem (h : Canonical s) (va n x : Nat) : Canonical (s.putSystem va n x) := h.putSystemBy (fun _ _ _ _ hm => canon_store hm _ _ _) va n x

theorem Canonical.putReady (h : Canonical s) (b : Ready) (valid : Bool) : Canonical (s.putReady b valid) := h.putSystem ..

theorem Canonical.pushReady (h : Canonical s) (b : Ready) : Canonical (s.pushReady b) := by
  unfold State.pushReady
  refine Canonical.putReady ?_ _ _
  exact h.same rfl

theorem Canonical.popReady (h : Canonical s) (sliceid : Nat) : Canonical (s.popReady sliceid) :=
  canonical_foldl (fun _ b h => h.putReady b false) _ _ (h.same rfl)

theorem Canonical.linkReady (h : Canonical s) : Canonical s.linkReady := (h.setPhys (canon_store h.phys _ _ _)).same rfl

theorem Canonical.roomReady (h : Canonical s) : Canonical s.roomReady := by
  unfold State.roomReady
  split
  · exact h.linkReady
  · exact h

theorem Canonical.pick (h : Canonical s) : Canonical s.pick := by
  unfold State.pick
  split
  · exact h
  · split
    · exact h
    · exact (h.drawNat.popReady _).same rfl

theorem Canonical.requeue (h : Canonical s) (b : Ready) : Canonical (s.requeue b) := by
  unfold State.requeue
  split
  · exact (h.roomReady.pushReady b).pick
  · split
    · split
      · exact h.pick.pushReady b
      · exact h.drawNat.same rfl
    · exact h.pushReady b

theorem Canonical.walkEnds (h : Canonical s) (w : Option Nat) (completed : Bool) : Canonical (s.walkEnds w completed) := by
  unfold State.walkEnds
  split
  · exact h
  · split
    · exact h
    · exact h.same rfl

/-! ## The end of a slice, faults and traps -/

/-- An update of every core that keeps the form of its scratchpad. -/
theorem mapVals_ok (h : Canonical s) {f : Nat → Core → Core} (hf : ∀ c k, CoreOk k → CoreOk (f c k)) : ∀ p, p ∈ s.cores.mapVals f → p.2.loc.bytes.wf = true := by
  intro p hp
  obtain ⟨q, hq, rfl⟩ := List.mem_map.1 hp
  exact hf q.1 q.2 (h.loc q hq)

theorem Canonical.mapCores (h : Canonical s) {f : Nat → Core → Core} (hf : ∀ c k, CoreOk k → CoreOk (f c k)) :
    Canonical { s with cores := s.cores.mapVals f } :=
  ⟨mapVals_ok h hf, h.phys, h.host, h.peer, h.nvme, h.buf, h.tables, h.latched⟩

theorem Canonical.endSlice (h : Canonical s) (completed : Bool) : Canonical (s.endSlice completed) := by
  unfold State.endSlice
  split
  · exact h
  · refine Canonical.pick (Canonical.sysEvent (Canonical.walkEnds ?_ _ _) 2)
    refine ⟨?_, h.phys, h.host, h.peer, h.nvme, h.buf, h.tables, fun r hr => by cases hr⟩
    dsimp only
    refine mapVals_ok h fun c k hk => ?_
    split
    · split
      · exact hk
      · exact coreOk_abort hk s.now
    · exact hk

theorem Canonical.logRace (h : Canonical s) (r : RaceEnt) : Canonical (s.logRace r) := by
  unfold State.logRace
  split
  · exact h.same rfl
  · exact h.same rfl

theorem Canonical.putRaceLog (h : Canonical s) : Canonical s.putRaceLog := h.putSystem ..

theorem Canonical.panicHalts (h : Canonical s) : Canonical s.panicHalts := by
  refine h.mapCores fun c k hk => ?_
  split
  · exact hk
  · split
    · exact hk
    · exact hk

/-- A fault, its bad word marked (R300, R323). -/
def faultRaised (o : Origin) (e : Exc) (s : State) : State :=
  if 1024 ≤ o.core then
    let s := s.modCore o.core fun k => { k with sysRun := false }
    if s.dbg.panic.isSome then s
    else { s with dbg := { s.dbg with panic := some { s.mkRecord o e 1 with core := o.core - 1024, sliceid := 0, hosttag := 0 }
                                      panicAt := s.now, frozen := false } }.panicHalts
  else
    match s.slice with
    | none => s
    | some r =>
      let rec0 := s.mkRecord o e 1
      let s := match e.race with | some x => (if s.lr.racem = 3 then s.logRace x else s).putRaceLog | none => s
      (s.sendRecord { rec0 with info := rec0.info ||| s.missed r }).endSlice false

theorem raiseFault_eq (s : State) (o : Origin) (e : Exc) : s.raiseFault o e = faultRaised (e.origin.getD o) e
    (match e.word with | some w => s.markBad (e.place.getD (.loc (e.origin.getD o).core)) w | none => s) := rfl

theorem canonical_faultRaised (h : Canonical s) (o : Origin) (e : Exc) : Canonical (faultRaised o e s) := by
  unfold faultRaised
  split
  · have hstop := h.modCore (f := fun k => { k with sysRun := false }) o.core rfl
    dsimp only
    split
    · exact hstop
    · exact Canonical.panicHalts (hstop.same rfl)
  · split
    · exact h
    · refine Canonical.endSlice (Canonical.sendRecord ?_ _) false
      split
      · split
        · exact (h.logRace _).putRaceLog
        · exact h.putRaceLog
      · exact h

theorem Canonical.raiseFault (h : Canonical s) (o : Origin) (e : Exc) : Canonical (s.raiseFault o e) := by
  rw [raiseFault_eq]
  refine canonical_faultRaised ?_ _ e
  split
  · exact h.markBad _ _
  · exact h

theorem Canonical.raiseTrap (h : Canonical s) (o : Origin) (cause addr info : Nat) (stops : Bool) : Canonical (s.raiseTrap o cause addr info stops) := by
  unfold State.raiseTrap
  dsimp only
  split
  · refine Canonical.modCtx ?_ _ _ _
    exact (h.modCtx _ _ _).same rfl
  · exact h.same rfl

theorem Canonical.trace (h : Canonical s) (r : TraceRec) : Canonical (s.trace r) := by
  unfold State.trace
  split
  · exact h.same rfl
  · exact h

theorem Canonical.takeBank (h : Canonical s) (core sec : Nat) (write : Bool) : Canonical (s.takeBank core sec write) := h.modCore _ rfl
end state

end Sys2Proof.Proofs
end

section
/-! The canonical form of every memory (log 3): reads, stores, checks and the issue of a word. -/

namespace Sys2Proof.Proofs

open Sys2Proof Sys2Proof.Machine Sys2Proof.Safety Sys2Proof.Claims Sys2Proof.Laws

/-! ## What holds of an answer -/

/-- An answer, where there is one, has a property. -/
structure Holds {ε α : Type} (P : α → Prop) (x : Except ε α) : Prop where
  of : ∀ a, x = .ok a → P a

section holds
variable {ε α β : Type} {P : α → Prop} {Q : β → Prop}

theorem holds_ok {a : α} (h : P a) : Holds P (.ok a : Except ε α) := ⟨fun b hb => by
  cases hb
  exact h⟩

theorem holds_error (e : ε) : Holds P (.error e : Except ε α) := ⟨fun _ h => by cases h⟩

theorem holds_fail (e : Exc) : Holds P (fail e) := ⟨fun _ h => by cases h⟩

theorem holds_bind {x : Except ε β} {f : β → Except ε α} (hx : Holds Q x) (hf : ∀ b, Q b → Holds P (f b)) : Holds P (x >>= f) := by
  refine ⟨fun a ha => ?_⟩
  cases x with
  | error e => cases ha
  | ok b => exact (hf b (hx.of b rfl)).of a ha

/-- Whatever comes first. -/
theorem holds_any {x : Except ε β} {f : β → Except ε α} (hf : ∀ b, Holds P (f b)) : Holds P (x >>= f) :=
  holds_bind (Q := fun _ => True) ⟨fun _ _ => trivial⟩ fun b _ => hf b

theorem holds_ite {c : Prop} [Decidable c] {x y : Except ε α} (hx : Holds P x) (hy : Holds P y) : Holds P (if c then x else y) := by
  split
  · exact hx
  · exact hy

theorem holds_map {f : β → α} {x : Except ε β} (hf : ∀ b, P (f b)) : Holds P (x.map f) := by
  cases x with
  | error e => exact holds_error e
  | ok b => exact holds_ok (hf b)

theorem holds_foldlM {f : β → α → Except ε β} (hf : ∀ b a, Q b → Holds Q (f b a)) (l : List α) : ∀ b, Q b → Holds Q (l.foldlM f b) := by
  induction l with
  | nil => exact fun b hb => holds_ok hb
  | cons a r ih => exact fun b hb => holds_bind (hf b a hb) ih
end holds

section access
variable {s t : State}

theorem Canonical.onlyFocus (h : Canonical s) (ho : OnlyFocus s t) : Canonical t := by
  obtain ⟨c, vc, rfl⟩ := ho
  exact h.setCore (k := { s.curCore with ctxs := SMap.put s.curCore.ctxs s.focusCtx c, vcyc := vc }) (h.core _) _

theorem Canonical.claim (h : Canonical s) (core : Nat) (us : List BankUse) : Holds Canonical (s.claim core us) := by
  unfold State.claim
  split
  · exact holds_ok h
  · exact holds_ok (h.setCore (k := { s.core core with banks := (s.core core).held s.now ++ us }) (h.core core) core)

theorem Canonical.addChecks (h : Canonical s) (l : List FaceCheck) : Canonical (s.addChecks l) := h.modCur _

/-! ## Reads -/

theorem SameContent.canon {m k : Space} (h : SameContent m k) (hm : Canon m) : Canon k := (congrArg Memory.wf h.1).trans hm

theorem sameContent_readVia (m : Space) (p : Path) (need t : Nat) (flip : Nat → Option TurnRec) (a n free : Nat) :
    SameContent m (m.readVia p need t flip a n free).2.1 := by
  have hcount (k : Space) (ws : List Nat) : SameContent k (k.countRead ws) := ⟨countRead_bytes .., fun h => syn_countRead h _⟩
  unfold Space.readVia
  split
  · exact hcount _ _
  · have hall (l : List Nat) : ∀ acc : Space × Space × Nat, SameContent acc.2.1 (l.foldl (fun (acc : Space × Space × Nat) sec =>
        let q := acc.2.1.ask p need t (flip sec) sec acc.2.2
        ((match q.1 with | some x => acc.1.patch sec x | none => acc.1), q.2)) acc).2.1 := by
      induction l with
      | nil => exact fun acc => SameContent.refl _
      | cons sec r ih => exact fun acc => (sameContent_ask ..).trans (ih _)
    exact (hall _ (m, m, free)).trans (hcount _ _)

theorem Canonical.readLocal (h : Canonical s) (core : Nat) (p : Path) (a n t : Nat) : Canonical (s.readLocal core p a n t).2 :=
  (h.modCore (f := fun k => { k with loc := ((s.core core).loc.readVia p 0 t (s.flipOf core t) a n s.free).2.1 }) core
    (sameContent_readVia ..).1).same rfl

theorem Canonical.loadElems (h : Canonical s) (t0 : Nat) (x : VMAcc) : Canonical (s.loadElems t0 x).2 :=
  (h.modCurCore (f := fun k => { k with loc := (s.readElems x.wm { mem := s.curCore.loc, free := s.free
                                                                   cycles := (x.requests false).2.log.reverse.map fun q => t0 + q.2.1 } x.els).2.1 })
    (sameContent_readElems s x.wm x.els _).1).same rfl

theorem Canonical.useEntry (h : Canonical s) (core n : Nat) : Canonical (s.useEntry core n).2 := by
  have hcached := h.modCore (f := fun k => { k with lcache := k.lcache.put (n % 64) n, loc := k.loc.countRead (wordsOf (s.lr.ltbase + 256 * n) 256) }) core
    (countRead_bytes ..)
  unfold State.useEntry
  dsimp only
  split
  · exact hcached
  · exact hcached.drawNat

/-! ## The race detector -/

theorem Canonical.race (h : Canonical s) (sec head : Nat) (w a : Shadow) (write : Bool) : Holds Canonical (s.race sec head w a write) := by
  unfold State.race
  dsimp only
  split
  · exact holds_ok h
  · exact holds_ok (h.logRace _)
  · exact holds_fail _

theorem Canonical.shadowed (h : Canonical s) (core sec : Nat) (a : Shadow) (write : Bool) :
    Canonical (if write then s.modCore core fun k => { k with shadow := k.shadow.put sec a } else s) := by
  split
  · exact h.modCore core rfl
  · exact h

theorem Canonical.raceLocal (h : Canonical s) (core sec head : Nat) (a : Shadow) (write : Bool) : Holds Canonical (s.raceLocal core sec head a write) := by
  unfold State.raceLocal
  split
  · exact holds_ok h
  · dsimp only
    split
    · split
      · exact holds_bind (h.race ..) fun _ ht => holds_ok (ht.shadowed ..)
      · exact holds_ok (h.shadowed ..)
    · exact holds_ok (h.shadowed ..)

theorem Canonical.raceSectors (h : Canonical s) (core head : Nat) (a : Shadow) (write : Bool) (secs : List Nat) :
    Holds Canonical (s.raceSectors core head a write secs) := holds_foldlM (fun _ sec hs => hs.raceLocal core sec head a write) secs s h

theorem Canonical.runCheck (h : Canonical s) (core ctx : Nat) (k : FaceCheck) : Holds Canonical (s.runCheck core ctx k) := by
  have hdone := h.modCtx core ctx fun c => { c with checks := c.checks.erase k }
  unfold State.runCheck
  dsimp only
  split
  · exact holds_fail _
  · split
    · exact holds_fail _
    · split
      · exact holds_fail _
      · split
        · exact hdone.raceSectors ..
        · exact holds_ok hdone

/-! ## Stores -/

theorem Canonical.noteLanding (h : Canonical s) (more core : Nat) (f : TurnRec → Bool) : Canonical (s.noteLanding more core f) := h.modCore core rfl

theorem Canonical.storeWith (h : Canonical s) {out : Space → Nat → Space} (hout : ∀ m sec, Canon m → Canon (out m sec)) (core a n x : Nat) :
    Canonical (s.storeWith out core a n x) :=
  h.setCore (coreOk_settleAll (k := { s.core core with
    loc := (((sectorsOf a n).filter fun sec => !s.isSync sec && !s.inPool (512 * sec)).foldl out (s.core core).loc).writeRaw a n x
    stale := (s.staleEntries core a n).foldl keepStale (s.core core).stale }) (wf_writeRaw (canon_foldl hout _ _ (h.core core)) a n x) _ _) core

theorem Canonical.storeLocal (h : Canonical s) (core a n x : Nat) : Canonical (s.storeLocal core a n x) :=
  h.storeWith (fun _ sec hm => canon_goOutNow hm _ _ sec) core a n x

theorem Canonical.storeFrom (h : Canonical s) (t core a n x : Nat) : Canonical (s.storeFrom t core a n x) := 
  h.storeWith (out := fun m sec => m.goOutAt s.now (patchOf s.focusCtx s.now t a n x sec) sec) (fun _ _ hm => hm) core a n x

theorem Canonical.storeEach {α : Type} (h : Canonical s) (cycle addr val : α → Nat) (core n : Nat) (l : List α) :
    Canonical (storeEach cycle addr val core n l s) := canonical_foldl (fun _ _ hs => hs.storeFrom ..) l s h

theorem Canonical.drainedAt (h : Canonical s) (core : Nat) (p : Place) (a n : Nat) : Canonical (s.drainedAt core p a n) := h.noteLanding ..

theorem Canonical.storeAt (h : Canonical s) (p : Place) (a n x : Nat) : Canonical (s.storeAt p a n x) := by
  unfold State.storeAt
  split
  · exact h.storeLocal ..
  · exact h.modSpace _ (wf_writeRaw (canon_foldl (fun _ sec hm => canon_goOut hm sec) _ _ (h.spaceAt _)) a n x)

/-! ## Vector loads and stores -/

theorem Canonical.vmemAccess (h : Canonical s) (op : VMOp) (d a b : Reg) : Holds (fun p => Canonical p.2) (s.vmemAccess op d a b) := by
  refine ⟨fun p hp => ?_⟩
  rcases vmemAccess_state hp with e | e
  · exact e ▸ h
  · exact e ▸ h.useEntry _ _

theorem canonical_loadRun (h : Canonical s) (op : VMOp) (x : VMAcc) (d b : Reg) : Holds (fun p => Canonical p.1) (loadRun op x d b s) := by
  unfold loadRun
  refine holds_any fun p => ?_
  dsimp only
  split
  · exact holds_ok (Canonical.addChecks ((h.loadElems _ _).setCur _) _)
  · exact holds_bind (h.raceSectors ..) fun u hu => holds_ok (Canonical.addChecks ((hu.loadElems _ _).setCur _) _)

theorem canonical_storeRun (h : Canonical s) (op : VMOp) (x : VMAcc) (d b : Reg) : Holds (fun p => Canonical p.1) (storeRun op x d b s) := by
  unfold storeRun
  exact holds_any fun _ => holds_bind (h.raceSectors ..) fun u hu => holds_ok (hu.storeEach ..)

theorem Canonical.vmemRun (h : Canonical s) (op : VMOp) (d a b : Reg) : Holds (fun p => Canonical p.1) (s.vmemRun op d a b) := by
  cases hacc : s.vmemAccess op d a b with
  | error e =>
    have herr : s.vmemRun op d a b = .error e := by
      unfold State.vmemRun
      rw [hacc]
      rfl
    rw [herr]
    exact holds_error e
  | ok p =>
    have hp := (h.vmemAccess op d a b).of p hacc
    rw [vmemRun_cases hacc]
    split
    · exact canonical_loadRun hp ..
    · exact canonical_storeRun hp ..

/-! ## The issue of a word -/

theorem Canonical.foundBy (h : Canonical s) (k : Nat) : Canonical (s.foundBy k) := by
  unfold State.foundBy
  dsimp only
  split
  · exact h
  · exact h.setCur _

theorem Canonical.fixVcyc (h : Canonical s) (core : Nat) : Canonical (s.fixVcyc core) := h.modCore core rfl

theorem Canonical.front (h : Canonical s) (i : Instr) : Holds (fun p => Canonical p.2) (s.front i) := ⟨fun _ hp => h.onlyFocus (front_ok hp).only⟩

theorem Canonical.breakAt (h : Canonical s) (m : BitVec 4) (o : Origin) : Canonical (s.breakAt m o) := by
  unfold State.breakAt
  dsimp only
  split
  · refine Canonical.modCur ?_ _
    split
    · exact (h.modCur _).raiseTrap ..
    · exact h.modCur _
  · split
    · exact (h.modCur _).raiseTrap ..
    · exact h.modCur _

theorem Canonical.stopWith (h : Canonical s) (st : Stop) (n midx : Nat) : Canonical (s.stopWith st n midx) := by
  unfold State.stopWith
  dsimp only
  split
  · exact h.raiseFault ..
  · split
    · exact (h.modCur _).modCur _
    · exact (h.modCur _).raiseTrap ..
  · exact h.modCur _
  · exact h.modCur _
  · exact (h.modCur _).fixVcyc _
  · exact h.breakAt ..

theorem Canonical.retire (h : Canonical s) (v : Cv) (here : Nat) : Holds Canonical (s.retire v here) := by
  unfold State.retire
  dsimp only
  split
  · exact holds_ok (h.setCur _)
  · split
    · exact holds_ok (h.setCur _)
    · exact holds_error _
end access

end Sys2Proof.Proofs
end

section
/-! The canonical form of every memory (log 3): the words of the scalar, atomic and control groups, and the vector words. -/

namespace Sys2Proof.Proofs

open Sys2Proof Sys2Proof.Machine Sys2Proof.Safety Sys2Proof.Claims Sys2Proof.Laws

/-! ## What an instruction leads to -/

/-- Every next state of an outcome has its memories in canonical form. -/
structure Leads (o : Host.Outcome State Fault Refusal) : Prop where
  of : ∀ t, o = .next t → Canonical t

theorem leads_next {t : State} (h : Canonical t) : Leads (.next t) := ⟨fun u hu => by
  cases hu
  exact h⟩

theorem leads_fault (f : Fault) : Leads (.fault f) := ⟨fun _ h => by cases h⟩

theorem leads_ite {c : Prop} [Decidable c] {o p : Host.Outcome State Fault Refusal} (ho : Leads o) (hp : Leads p) : Leads (if c then o else p) := by
  split
  · exact ho
  · exact hp

section words
variable {s : State}

theorem Canonical.stepped (h : Canonical s) (o : Origin) {x : Except Stop State} (hx : Holds Canonical x) : Leads (s.stepped o x) := by
  unfold State.stepped
  split
  · exact leads_next (hx.of _ rfl)
  · exact leads_next (h.raiseFault ..)
  · exact leads_fault _

/-- An instruction keeps the form when what it does in a context keeps it. -/
theorem Canonical.issue (h : Canonical s) (i : Instr) {body : Nat → Body} (hbody : ∀ here t, Canonical t → Holds Canonical (body here t)) :
    Leads (issue i s body) := by
  unfold Machine.issue
  split
  · exact leads_fault _
  · split
    · exact leads_next (h.stopWith ..)
    · next v t hfront =>
      have ht : Canonical t := (h.front i).of _ hfront
      have hdone : Holds Canonical (if v.failed then .ok t else body s.cur.pc t) := by
        split
        · exact holds_ok ht
        · exact hbody _ _ ht
      dsimp only
      split
      · exact leads_next (h.stopWith ..)
      · next u hu =>
        have hu := hdone.of u hu
        split
        · exact leads_next (h.stopWith ..)
        · next w hw => exact leads_next ((hu.retire v s.cur.pc).of w hw)

/-- An instruction that always has a next state. -/
theorem Canonical.issueOk (h : Canonical s) (i : Instr) {f : Nat → State → State} (hf : ∀ here t, Canonical t → Canonical (f here t)) :
    Leads (Machine.issue i s fun here t => .ok (f here t)) := h.issue i fun here t ht => holds_ok (hf here t ht)

/-! ## Scalar words -/

theorem Canonical.scalarResult (h : Canonical s) (i : Instr) (d : Reg) (lat : Nat) (f : State → Word) : Leads (scalarResult i d lat f s) :=
  h.issueOk i fun _ _ ht => ht.result ..

theorem Canonical.iterResult (h : Canonical s) (i : Instr) (unit : Nat) (d : Reg) (lat : Nat) (f : State → Word × BitVec 7) :
    Leads (iterResult i unit d lat f s) := h.issueOk i fun _ _ ht => (ht.modCur _).result ..

theorem Canonical.fpResult (h : Canonical s) (i : Instr) (f64 : Bool) (d : Reg) (f : Fmt → RC → State → Nat × BitVec 7) :
    Leads (fpResult i f64 d f s) := h.issueOk i fun _ _ ht => ht.result ..

theorem Canonical.execPdiff (h : Canonical s) (d a b : Reg) (w : BitVec 4) : Leads (execPdiff d a b w s) := by
  refine h.issue _ fun _ t ht => ?_
  dsimp only
  split
  · exact holds_fail _
  · exact holds_ok (ht.result ..)

/-! ## Atomics -/

theorem canon_lateRaw {m : Space} (hm : Canon m) (now : Nat) (rels : List Nat × List Nat) (p : Patch) (sec : Nat) : Canon (m.lateRaw now rels p sec) := hm

theorem Canonical.atomLand (h : Canonical s) (op : AtomOp) (fl : BitVec 2) (dr : BitVec 5) (a lat : Nat) (flags : BitVec 7) (old : Nat) :
    Canonical (s.atomLand op fl dr a lat flags old) := by
  unfold State.atomLand
  dsimp only
  split
  · exact (h.modCur _).modCur _
  · split
    · split
      · exact (h.modCur _).modCur _
      · exact (h.modCur _).modCur _
    · exact (h.modCur _).result ..

theorem Canonical.atomDraw (h : Canonical s) : Canonical (if s.onSys then s.drawNat else (0, s)).2 := by
  split
  · exact h.drawNat
  · exact h

theorem Canonical.ordered (h : Canonical s) (word : Nat) (acq rel wrote : Bool) : Canonical (s.modCurCore fun k => k.ordered word acq rel wrote) :=
  h.modCurCore rfl

theorem Canonical.writeCur (h : Canonical s) (wrote : Bool) (a n x : Nat) :
    Canonical (s.modCurCore fun k => { k with loc := if wrote then k.loc.writeRaw a n x else k.loc }) :=
  h.modCurCoreOk (canon_ite (wf_writeRaw (h.core _) a n x) (h.core _))

theorem Canonical.settleCur (h : Canonical s) (now : Nat) (secs : List Nat) : Canonical (s.modCurCore fun k => k.settleAll now secs) :=
  h.modCurCoreOk (coreOk_settleAll (h.core _) now secs)

theorem canonical_linkIf (h : Canonical s) (c : Prop) [Decidable c] : Canonical (if c then { s with disp := { s.disp with segs := s.disp.segs + 1 } } else s) :=
  canonical_ite (h.same rfl) h

theorem Canonical.atomRun (h : Canonical s) (op : AtomOp) (w32 : Bool) (fl : BitVec 2) (dr : BitVec 5) (a : Nat) (p : Place) (at0 x c : Nat) :
    Holds Canonical (s.atomRun op w32 fl dr a p at0 x c) := by
  have hdraw := h.atomDraw
  have hm : Canon (if op.reads || w32 then (s.spaceAt p).repair (at0 / 64) else s.spaceAt p) := canon_ite (wf_repair (h.spaceAt p) _) (h.spaceAt p)
  unfold State.atomRun
  refine holds_any fun _ => ?_
  dsimp only
  generalize (if (op.reads || w32) = true then (s.spaceAt p).repair (at0 / 64) else s.spaceAt p) = m at hm ⊢
  generalize (if s.onSys = true then s.drawNat else (0, s)) = q at hdraw ⊢
  split
  · have hput := fun (wrote : Bool) n x => hdraw.setSpace p (canon_ite (c := wrote = true) (wf_writeRaw hm at0 n x) hm)
    exact holds_ok (Canonical.atomLand (canonical_linkIf (hput _ _ _) _) ..)
  · exact Canonical.claim (Canonical.settleCur (Canonical.atomLand (Canonical.ordered (Canonical.writeCur (hdraw.modCurCoreOk hm) _ _ _ _) ..) ..) ..) ..

theorem Canonical.addInput (h : Canonical s) (i : Instr) : Canonical (s.addInput i) := h.same rfl

theorem Canonical.mailWrite (h : Canonical s) (k x : Nat) : Canonical (s.mailWrite k x) := by
  unfold State.mailWrite
  split
  · exact h.addInput _
  · split
    · exact h
    · exact ⟨h.loc, h.phys, h.host, h.peer, h.nvme, wf_setBytes _ h.buf _ _, h.tables, h.latched⟩

theorem Canonical.mailRun (h : Canonical s) (op : AtomOp) (w32 : Bool) (fl : BitVec 2) (dr : BitVec 5) (a k x c : Nat) :
    Canonical (s.mailRun op w32 fl dr a k x c) := by
  unfold State.mailRun
  dsimp only
  refine Canonical.atomLand ?_ ..
  split
  · exact h.drawNat.mailWrite ..
  · exact h.drawNat

theorem Canonical.atomBody (h : Canonical s) (op : AtomOp) (w32 : Bool) (fl : BitVec 2) (dr : BitVec 5) (a b : Reg) :
    Holds Canonical (s.atomBody op w32 fl dr a b) := by
  unfold State.atomBody
  dsimp only
  split
  · refine holds_any fun _ => ?_
    split
    · exact holds_any fun _ => holds_any fun _ => holds_ok (h.mailRun ..)
    · exact holds_any fun _ => holds_ok (h.mailRun ..)
  · refine holds_any fun _ => holds_any fun _ => holds_any fun _ => ?_
    split
    · exact holds_any fun _ => holds_any fun _ => h.atomRun ..
    · exact holds_any fun _ => h.atomRun ..

theorem Canonical.atomic (h : Canonical s) (i : Instr) (op : AtomOp) (w32 : Bool) (fl : BitVec 2) (dr : BitVec 5) (a b : Reg) :
    Leads (atomic i op w32 fl dr a b s) := h.issue i fun _ _ ht => ht.atomBody ..

/-! ## Control -/

theorem Canonical.jump (h : Canonical s) (here target : Nat) (leaves : Bool) : Canonical (s.jump here target leaves) := h.modCur _

theorem Canonical.jumpIf (h : Canonical s) (c : Prop) [Decidable c] (here target : Nat) : Canonical (if c then s.jump here target true else s) := by
  split
  · exact h.jump ..
  · exact h

theorem Canonical.execLoop (h : Canonical s) (d : Reg) (o : BitVec 18) : Leads (execLoop d o s) := by
  refine h.issue _ fun _ t ht => ?_
  dsimp only
  split
  · exact holds_fail _
  · split
    · exact holds_ok (ht.jump ..)
    · exact holds_ok (ht.modCur _)

theorem Canonical.execSetl (h : Canonical s) (d a b : Reg) : Leads (execSetl d a b s) := by
  refine h.issue _ fun _ t ht => ?_
  dsimp only
  split
  · exact holds_error _
  · exact holds_ok ((ht.setCur _).result ..)

theorem Canonical.execVrel (h : Canonical s) : Leads (execVrel s) := by
  refine h.issue _ fun _ t ht => ?_
  split
  · exact holds_error _
  · exact holds_ok (ht.modCur _)

/-! ## Special registers -/

theorem Canonical.amaxPrefix (h : Canonical s) : Canonical s.amaxPrefix := by
  unfold State.amaxPrefix
  split
  · exact h.drawNat.modCurCore rfl
  · exact h

theorem Canonical.execMfs (h : Canonical s) (d : Reg) (n : BitVec 11) : Leads (execMfs d n s) := by
  refine h.issue _ fun _ t ht => ?_
  have hread : Canonical (if n.toNat = 0x18 then t.amaxPrefix else t) := by
    split
    · exact ht.amaxPrefix
    · exact ht
  dsimp only
  split
  · exact holds_any fun _ => holds_ok (hread.result ..)
  · exact holds_ok (hread.result ..)

theorem Canonical.execMts (h : Canonical s) (d : Reg) (n : BitVec 11) : Leads (execMts d n s) := by
  refine h.issue _ fun _ t ht => ?_
  split
  · exact holds_any fun _ => holds_ok (ht.setCur _)
  · exact holds_ok (ht.setCur _)

/-! ## Vector words -/

theorem Canonical.pushConvoy (h : Canonical s) (old : Ctx) (ms : List VMember) (fl : BitVec 7) (stats : Option (List Nat)) (work : VWork)
    (pops : List (Nat × Nat)) : Holds Canonical (s.pushConvoy old ms fl stats work pops) := by
  unfold State.pushConvoy
  split
  · exact holds_ok h
  · split
    · exact (h.setCur _).claim ..
    · exact holds_fail _

theorem Canonical.pushRun (h : Canonical s) (n : Nat) (run : List (Nat × VWord)) : Holds Canonical (s.pushRun n run) := by
  unfold State.pushRun
  dsimp only
  split
  · exact holds_error _
  · refine holds_any fun _ => ?_
    split
    · exact holds_fail _
    · exact holds_fail _
    · exact (h.setCur _).pushConvoy ..

theorem Canonical.vecWord (h : Canonical s) (i : Instr) (op : Nat) (w : VWord) : Leads (vecWord i op w s) := by
  refine h.issue i fun _ t ht => ?_
  split
  · exact holds_ok ht
  · split
    · exact holds_ok (ht.modCur _)
    · exact ht.pushRun ..

theorem Canonical.vmemWord (h : Canonical s) (i : Instr) (op : VMOp) (d a b : Reg) : Leads (vmemWord i op d a b s) :=
  h.issue i fun _ _ ht => holds_any fun _ => holds_bind (ht.vmemRun op d a b) fun _ hp => hp.pushConvoy ..
end words

end Sys2Proof.Proofs
end

section
/-! The canonical form of every memory (log 3): the optical ports, the decoupling queues and the words of a turnaround. -/

namespace Sys2Proof.Proofs

open Sys2Proof Sys2Proof.Machine Sys2Proof.Safety Sys2Proof.Claims Sys2Proof.Laws

section units
variable {s : State}

/-! ## Folds that poison, read and write -/

theorem canon_poisons {m : Space} (hm : Canon m) {α : Type} (word : α → Nat) (l : List α) : Canon (l.foldl (fun (m : Space) a => m.poison (word a)) m) :=
  canon_foldl (fun _ _ h => wf_poison h _) l m hm

theorem Canonical.setPeer (h : Canonical s) {m : Space} (hm : Canon m) : Canonical { s with peer := m } :=
  ⟨h.loc, h.phys, h.host, hm, h.nvme, h.buf, h.tables, h.latched⟩

/-! ## Flits -/

theorem Canonical.sendFlit (h : Canonical s) (m cls : Nat) (body : BitVec 576) : Canonical (s.sendFlit m cls body) := h.same rfl

theorem Canonical.drawSector (h : Canonical s) : Canonical s.drawSector.2 := by
  have hall (l : List Nat) : ∀ acc : Nat × State, Canonical acc.2 → Canonical (l.foldl (fun (acc : Nat × State) i =>
      let (x, s) := acc.2.drawWord; (acc.1 + 2 ^ (64 * i) * x.toNat, s)) acc).2 := by
    induction l with
    | nil => exact fun _ h => h
    | cons _ _ ih => exact fun _ h => ih _ h.drawWord
  exact hall _ _ h

theorem Canonical.askPeer (h : Canonical s) (core seq a n : Nat) : Canonical (s.askPeer core seq a n) := h.drawSector.same rfl

theorem Canonical.decodeFlit (h : Canonical s) (body : Nat) : Canonical (s.decodeFlit body).2.2 := h.same rfl

theorem Canonical.hear (h : Canonical s) (f : FlitName) (x : Nat) (bad : List Bool) : Canonical (s.hear f x bad).2.2 := by
  unfold State.hear
  split
  · exact h
  · next q _ =>
    have hheard := h.decodeFlit (Nat.xor (flitBody x bad).toNat q.flips.toNat)
    dsimp only
    generalize s.decodeFlit (Nat.xor (flitBody x bad).toNat q.flips.toNat) = r at hheard ⊢
    exact hheard.same rfl

theorem Canonical.peerWrite (h : Canonical s) (body : Nat) : Canonical (s.peerWrite body) := by
  have hput := (h.drawWord.decodeFlit body).putSystemBy (write := Space.writeRaw) (fun _ _ _ _ hm => wf_writeRaw hm _ _ _) (s.drawWord.1.toNat % 2 ^ 48 * 512) 512
    (s.drawWord.2.decodeFlit body).1
  refine hput.setPhys ?_
  split
  · exact canon_poisons hput.phys _ _
  · exact hput.phys

theorem Canonical.answerPeer (h : Canonical s) (m : Nat) : Canonical (s.answerPeer m) := by
  unfold State.answerPeer
  dsimp only
  split
  · exact (h.drawWord.copied ..).sendFlit ..
  · exact h.drawWord.drawSector.sendFlit ..

theorem Canonical.takeResponse (h : Canonical s) (m body : Nat) : Canonical (s.takeResponse m body) := by
  unfold State.takeResponse
  split
  · exact h
  · next q _ =>
    have hheard := h.decodeFlit body
    dsimp only
    generalize s.decodeFlit body = r at hheard ⊢
    have hpeer : Canonical { r.2.2 with
        peer := r.2.1.foldl (fun (p : Space) i => p.poison (8 * q.sector + i)) (r.2.2.peer.writeRaw (512 * q.sector) 512 r.1) } :=
      hheard.setPeer (canon_poisons (wf_writeRaw hheard.peer _ _ _) _ _)
    split
    · refine Canonical.wake ?_ _
      exact hpeer.same rfl
    · exact hpeer.same rfl

theorem Canonical.execSlotTableWrite (h : Canonical s) (port entry : Nat) (v : Word) : Leads (execSlotTableWrite port entry v s) := by
  unfold Machine.execSlotTableWrite
  split
  · exact leads_next (h.same rfl)
  · exact leads_fault _

theorem Canonical.execRotationBoundary (h : Canonical s) : Leads (execRotationBoundary s) := by
  unfold Machine.execRotationBoundary
  split
  · exact leads_next (h.same rfl)
  · exact leads_fault _

theorem Canonical.execSlotBoundary (h : Canonical s) : Leads (execSlotBoundary s) := by
  unfold Machine.execSlotBoundary
  split
  · exact leads_next (h.same rfl)
  · exact leads_fault _

theorem Canonical.execFlitTransmit (h : Canonical s) (port : Nat) : Leads (execFlitTransmit port s) := by
  unfold Machine.execFlitTransmit
  split
  · exact leads_fault _
  · exact leads_next (h.drawBool.same rfl)

theorem Canonical.execFlitReceive (h : Canonical s) (port : Nat) (flit : BitVec 640) : Leads (execFlitReceive port flit s) := by
  unfold Machine.execFlitReceive
  split
  · exact leads_fault _
  · dsimp only
    generalize (match slotRx (s.ports.entry port s.slot) with
      | some m =>
        if !inGuard s.dtime.toNat && field flit.toNat 635 624 == m && BitVec.ofNat 32 (field flit.toNat 607 576) == crcBits (flit.toNat % 2 ^ 576) 576 0
            && field flit.toNat 623 611 == SMap.get 0 s.ports.rxseq m then some m else none
      | none => none) = keep
    split
    · have hkept := fun p => Canonical.same (t := { s with ports := p }) h rfl
      refine leads_next ?_
      split
      · exact (hkept _).answerPeer _
      · exact (hkept _).peerWrite _
      · exact (hkept _).takeResponse _ _
      · exact hkept _
    · exact leads_next h

/-! ## Queues -/

theorem canon_linkRing {m : Space} (hm : Canon m) (segs : List Nat) : Canon (linkRing m segs) := canon_foldl (fun _ _ h => wf_writeRaw h _ _ _) _ m hm

theorem coreOk_linkSegment {k : Core} (hk : CoreOk k) (n seg : Nat) : CoreOk (k.linkSegment n seg) :=
  canon_linkRing (canon_foldl (fun _ _ hm => canon_foldl (fun _ _ hm => canon_ite (wf_poison hm _) hm) _ _ (wf_writeRaw hm _ _ _)) _ _ hk) _

theorem coreOk_putEntries {k : Core} (hk : CoreOk k) (q : Queue) (at0 n x : Nat) : CoreOk (k.putEntries q at0 n x) :=
  canon_foldl (fun _ _ hm => wf_writeRaw hm _ _ _) _ _ hk

theorem coreOk_lateEntries {k : Core} (hk : CoreOk k) (us : List BankUse) (now : Nat) (q : Queue) (at0 n x : Nat) :
    CoreOk (k.lateEntries us now q at0 n x) := by
  refine canon_foldl (fun m e hm => ?_) _ _ hk
  dsimp only
  split
  · exact hm
  · exact canon_lateRaw hm ..

theorem Canonical.qpop (h : Canonical s) (d a q : Reg) : Holds Canonical (s.qpop d a q) := by
  unfold State.qpop
  refine holds_any fun _ => holds_any fun _ => holds_any fun _ => ?_
  split
  · exact holds_fail _
  · refine holds_bind (h.raceSectors ..) fun t ht => ?_
    refine Canonical.pushConvoy (Canonical.modCur (Canonical.setCurCore ht ?_) _) ..
    exact canon_countRead (ht.core _) _

theorem Canonical.qpush (h : Canonical s) (d a q : Reg) : Holds Canonical (s.qpush d a q) := by
  unfold State.qpush
  refine holds_any fun _ => holds_any fun _ => holds_any fun _ => ?_
  dsimp only
  split
  · split
    · exact holds_ok (h.modCur _)
    · exact holds_error _
  · refine holds_bind (h.raceSectors ..) fun t ht => ?_
    refine Canonical.pushConvoy (Canonical.askWake (Canonical.setCurCore ht ?_)) ..
    exact coreOk_putEntries (coreOk_lateEntries (ht.core _) ..) ..

theorem Canonical.qwait (h : Canonical s) (waited : Bool) (a q : Reg) : Holds Canonical (s.qwait waited a q) := by
  unfold State.qwait
  dsimp only
  split
  · split
    · exact holds_ok ((h.setCurCore (k := s.curCore.setQueue _ _) (h.core _)).modCur _)
    · exact holds_error _
  · split
    · exact holds_ok (h.modCur _)
    · exact holds_error _
  · exact holds_fail _

/-! ## The words of a turnaround -/

theorem Canonical.queueTurn (h : Canonical s) (level : Nat) (paths : BitVec 4) (a n : Nat) : Holds Canonical (s.queueTurn level paths a n) := by
  unfold State.queueTurn
  refine holds_any fun _ => ?_
  dsimp only
  split
  · split
    · exact holds_fail _
    · exact holds_error _
  · exact holds_ok (h.setCur _)

theorem Canonical.turnt (h : Canonical s) (lvl : BitVec 3) (paths : BitVec 4) (a : Reg) : Holds Canonical (s.turnt lvl paths a) := by
  unfold State.turnt
  refine holds_any fun _ => ?_
  dsimp only
  split
  · exact holds_fail _
  · exact holds_any fun _ => (h.useEntry _ _).queueTurn ..

theorem Canonical.execTwait (h : Canonical s) : Leads (execTwait s) := by
  refine h.issue _ fun _ t ht => ?_
  split
  · exact holds_ok ht
  · exact holds_error _
end units

end Sys2Proof.Proofs
end

section
/-! The canonical form of every memory (log 3): the exchange words and the steps of timed descriptors. -/

namespace Sys2Proof.Proofs

open Sys2Proof Sys2Proof.Machine Sys2Proof.Safety Sys2Proof.Claims Sys2Proof.Laws

section exchange
variable {s : State}

/-! ## The exchange words -/

theorem holds_atDesc {α : Type} {P : α → Prop} (d : Desc) {x : Except Stop α} (hx : Holds P x) : Holds P (atDesc d x) := by
  unfold atDesc
  split
  · exact holds_error _
  · exact hx

theorem Canonical.translator (h : Canonical s) : Holds Canonical s.translator := by
  unfold State.translator
  split
  · exact holds_ok h
  · dsimp only
    split
    · exact holds_fail _
    · exact holds_ok h.drawBool

theorem Canonical.translatorIf (h : Canonical s) (c : Prop) [Decidable c] (d : Desc) :
    Holds (fun p : Desc × State => Canonical p.2) (if c then s.translator >>= fun t => .ok (d, t) else .ok s >>= fun t => .ok (d, t)) := by
  split
  · exact holds_bind h.translator fun _ ht => holds_ok ht
  · exact holds_ok h

theorem Canonical.endsOf (h : Canonical s) (d : Desc) : Holds (fun p => Canonical p.2) (s.endsOf d) := by
  unfold State.endsOf
  refine holds_any fun _ => holds_any fun _ => holds_any fun _ => holds_any fun _ => holds_any fun _ => holds_any fun _ => holds_any fun _ => ?_
  dsimp only
  split
  · refine holds_any fun _ => holds_any fun _ => ?_
    split
    · exact holds_fail _
    · refine holds_any fun _ => holds_any fun _ => holds_any fun _ => ?_
      split
      · exact holds_fail _
      · split
        all_goals exact holds_any fun _ => holds_any fun _ => holds_bind (h.useEntry _ _).translator fun _ ht => holds_ok ht
  · split
    all_goals
      refine holds_any fun _ => ?_
      split
      all_goals exact holds_any fun _ => h.translatorIf _ _

theorem Canonical.checkDesc (h : Canonical s) (d : Desc) : Holds (fun p => Canonical p.2) (s.checkDesc d) :=
  holds_atDesc d (holds_any fun _ => holds_any fun _ => holds_bind (h.endsOf d) fun _ hp => holds_any fun _ => holds_ok hp)

theorem Canonical.checkDescs (ds : List Desc) : ∀ {s : State}, Canonical s → Holds (fun p => Canonical p.2) (s.checkDescs ds) := by
  induction ds with
  | nil => exact fun h => holds_ok h
  | cons d r ih => exact fun h => holds_bind (h.checkDesc d) fun _ hp => holds_bind (ih hp) fun _ hq => holds_ok hq

theorem Canonical.clashes (h : Canonical s) (d : Desc) : Canonical (s.clashes d).1 := by
  unfold State.clashes
  have hall (mine : List (Resource × Nat)) (cores : List Nat) (l : List Desc) : ∀ acc : State × Desc, Canonical acc.1 →
      Canonical (l.foldl (fun (acc : State × Desc) o =>
        match firstClash mine (o.claims cores) with
        | none => acc
        | some t =>
          if acc.2.losesTo o then (acc.1, { acc.2 with clash := minCycle acc.2.clash (some t) })
          else (acc.1.modCore o.origin.core fun k => { k with slots := k.slots.mapVals fun _ x =>
                  if x.seq = o.seq then { x with clash := minCycle x.clash (some t) } else x }, acc.2)) acc).1 := by
    induction l with
    | nil => exact fun _ h => h
    | cons o r ih =>
      refine fun acc hacc => ih _ ?_
      dsimp only
      split
      · exact hacc
      · split
        · exact hacc
        · dsimp only
          exact hacc.modCore _ rfl
  exact hall _ _ _ _ h

theorem Canonical.took (h : Canonical s) (core n : Nat) {f : Core → Core} (hf : ∀ k, (f k).loc = k.loc) : Canonical { s.modCore core f with descSeq := n } :=
  (h.modCore core (congrArg Space.bytes (hf _))).same rfl

theorem Canonical.accept (ds : List Desc) : ∀ {s : State}, Canonical s → Canonical (s.accept ds).1 := by
  induction ds with
  | nil => exact fun h => h
  | cons d r ih =>
    intro s h
    unfold State.accept
    dsimp only
    split
    · exact ih h
    · have hclash (c : Prop) [Decidable c] (d : Desc) : Canonical (if c then (s, d) else s.clashes d).1 := by
        split
        · exact h
        · exact h.clashes d
      exact ih (Canonical.took (hclash _ _) _ _ fun _ => rfl)

theorem Canonical.exchDescs (h : Canonical s) (k : DKind) (d a : Reg) : Holds Canonical (s.exchDescs k d a) := by
  unfold State.exchDescs
  dsimp only
  split
  · exact holds_fail _
  · split
    · split
      · exact holds_fail _
      · exact holds_error _
    · exact holds_bind (h.checkDescs _) fun p hp => holds_ok ((Canonical.accept p.1 hp).modCur _)

theorem Canonical.exchWord (h : Canonical s) (i : Instr) (k : DKind) (d a : Reg) : Leads (exchWord i k d a s) := h.issue i fun _ _ ht => ht.exchDescs ..

/-! ## Reads and writes of a beat -/

theorem Canonical.setShadow (h : Canonical s) (p : Place) (sec : Nat) (a : Shadow) : Canonical (s.setShadow p sec a) := by
  unfold State.setShadow
  split
  · exact h.modCore _ rfl
  · exact canonical_ite (h.same rfl) h
  · exact h

theorem Canonical.raceAt (h : Canonical s) (p : Place) (sec name head : Nat) (a : Shadow) (write : Bool) : Holds Canonical (s.raceAt p sec name head a write) := by
  unfold State.raceAt
  split
  · exact holds_ok h
  · have hset (u : State) (hu : Canonical u) : Holds Canonical (.ok (if write then u.setShadow p sec a else u) : Except Stop State) :=
      holds_ok (canonical_ite (hu.setShadow ..) hu)
    dsimp only
    split
    · exact holds_ite (holds_bind (h.race _ _ _ _ _) hset) (hset s h)
    · exact hset s h

theorem Canonical.setFree (h : Canonical s) (n : Nat) : Canonical { s with free := n } := h.same rfl

theorem Canonical.readSrc (h : Canonical s) (d : Desc) (lo hi : Nat) : Holds (fun p => Canonical p.2) (s.readSrc d lo hi) := by
  refine holds_foldlM (Q := fun p : Nat × State => Canonical p.2) (fun acc q hacc => ?_) _ _ h
  dsimp only
  split
  · exact holds_fail _
  · split
    · exact holds_fail _
    · refine holds_bind (holds_foldlM (fun _ _ ht => ht.raceAt ..) _ _ hacc) fun t ht => holds_ok ?_
      exact Canonical.setFree (ht.setSpace _ (SameContent.canon (sameContent_readVia ..) (hacc.spaceAt _))) _

theorem Canonical.writePieces (h : Canonical s) (d : Desc) (ps : List (Nat × Place × Nat × Nat)) (lo x : Nat) : Holds Canonical (s.writePieces d ps lo x) := by
  refine holds_foldlM (fun t q ht => ?_) ps s h
  dsimp only
  split
  · exact holds_fail _
  · exact holds_bind (holds_foldlM (fun _ _ ht => ht.raceAt ..) _ _ ht) fun _ hu => holds_ok (hu.storeAt ..)

theorem canon_poisonBits {m : Space} (hm : Canon m) (a off n : Nat) (bad : List (Nat × Nat)) : Canon (m.poisonBits a off n bad) :=
  canon_foldl (fun _ _ h => canon_ite (wf_poison h _) h) _ m hm

theorem Canonical.poisonCut (h : Canonical s) (ps : List (Nat × Place × Nat × Nat)) (bad : List (Nat × Nat)) : Canonical (s.poisonCut ps bad) :=
  canonical_ite h (canonical_foldl (fun _ _ ht => ht.modSpace _ (canon_poisonBits (ht.spaceAt _) ..)) ps s h)

theorem canon_goIn {m : Space} (hm : Canon m) (sec : Nat) (paths : BitVec 4) (level : Nat) : Canon (m.goIn sec paths level) := hm

theorem canon_arrive {m : Space} (hm : Canon m) (sec level : Nat) : Canon (m.arrive sec level) := hm

theorem Canonical.turnIn (h : Canonical s) (p : Place) (a n level : Nat) : Canonical (s.turnIn p a n level) :=
  h.modSpace p (f := fun m => (sectorsOf a n).foldl (fun m sec => m.goIn sec 15 level) m) (canon_foldl (fun _ _ hm => canon_goIn hm ..) _ _ (h.spaceAt p))

theorem Canonical.addTerm (h : Canonical s) (d : Desc) (pa name term : Nat) : Canonical (s.addTerm d pa name term) := by
  unfold State.addTerm
  split
  · exact h.same rfl
  · exact h.same rfl

theorem Canonical.addBeat (h : Canonical s) (d : Desc) (j x : Nat) : Canonical (s.addBeat d j x) := by
  unfold State.addBeat
  split
  · exact h
  · refine canonical_foldl (fun t i ht => ?_) _ s h
    split
    · exact ht.addTerm ..
    · exact ht

theorem Canonical.setSlot (h : Canonical s) (core n : Nat) (d : Desc) : Canonical (s.setSlot core n d) := h.modCore core rfl

theorem Canonical.holdBanks (h : Canonical s) (l : List (Resource × Nat)) : Canonical (s.holdBanks l) := h.same rfl

theorem Canonical.bindGroup (h : Canonical s) (d : Desc) : Holds Canonical (s.bindGroup d) := by
  unfold State.bindGroup
  split
  · exact holds_ok h
  · split
    · split
      · exact holds_fail _
      · exact holds_ok h
    · split
      · exact holds_fail _
      · exact holds_ok (h.same rfl)

/-! ## The steps of a descriptor -/

theorem canonical_arrive (h : Canonical s) (ps : List (Nat × Place × Nat × Nat)) (level : Place → Nat) :
    Canonical (ps.foldl (fun s q => s.modSpace q.2.1 fun m => (sectorsOf q.2.2.1 q.2.2.2).foldl (fun m sec => m.arrive sec (level q.2.1)) m) s) :=
  canonical_foldl (fun _ _ ht => ht.modSpace _ (canon_foldl (fun _ _ hm => canon_arrive hm ..) _ _ (ht.spaceAt _))) ps s h

theorem canonical_drained (h : Canonical s) (core : Nat) (ps : List (Nat × Place × Nat × Nat)) :
    Canonical (ps.foldl (fun s q => s.drainedAt core q.2.1 q.2.2.1 q.2.2.2) s) := canonical_foldl (fun _ _ ht => ht.drainedAt ..) ps s h

theorem Canonical.act (h : Canonical s) (core slot : Nat) (d : Desc) : Holds Canonical (s.act core slot d) := by
  refine holds_atDesc d ?_
  split
  · exact holds_fail _
  · next a _ =>
    refine holds_ite (holds_fail _) (holds_ite ?_ ?_)
    · have hheard := h.hear (.beat d.seq a.beat) (SMap.get 0 d.buf a.beat) []
      have hdone (u : State) (hu : Canonical u) : Holds Canonical (.ok ((u.setSlot core slot { d with
          acts := d.acts.erase a, buf := if (d.acts.erase a).any (·.beat == a.beat) then d.buf else d.buf.del a.beat }).wake core) : Except Stop State) :=
        holds_ok ((hu.setSlot ..).wake core)
      refine holds_ite (holds_bind (holds_map fun _ => hheard.addBeat ..) hdone) (holds_bind ?_ hdone)
      refine holds_foldlM (fun t e ht => holds_bind (ht.writePieces ..) fun u hu => holds_ok ?_) _ _ hheard
      exact canonical_drained (canonical_arrive ((hu.poisonCut ..).holdBanks _) _ _) core _
    · exact holds_bind (h.readSrc ..) fun p hp => holds_ok ((hp.holdBanks _).setSlot ..)

theorem Canonical.execDescriptorStart (h : Canonical s) (core slot : Nat) : Leads (execDescriptorStart core slot s) := by
  unfold Machine.execDescriptorStart
  split
  · exact leads_fault _
  · split
    · exact h.stepped _ (holds_bind (h.bindGroup _) fun _ ht => holds_ok (ht.setSlot ..))
    · exact leads_fault _

theorem Canonical.execDescriptorBeat (h : Canonical s) (core slot : Nat) : Leads (execDescriptorBeat core slot s) := by
  unfold Machine.execDescriptorBeat
  split
  · exact leads_fault _
  · split
    · exact h.stepped _ (h.act ..)
    · exact leads_fault _

theorem Canonical.execDescriptorLanded (h : Canonical s) (core slot : Nat) : Leads (execDescriptorLanded core slot s) := by
  unfold Machine.execDescriptorLanded
  split
  · exact leads_fault _
  · split
    · exact leads_next ((h.setSlot ..).wake core)
    · exact leads_fault _
end exchange

end Sys2Proof.Proofs
end

section
/-! The canonical form of every memory (log 3): the matrix engine. -/

namespace Sys2Proof.Proofs

open Sys2Proof Sys2Proof.Machine Sys2Proof.Safety Sys2Proof.Claims Sys2Proof.Laws

section engine
variable {s : State}

/-- An update of the matrix engine of a core. -/
theorem Canonical.modEngine (h : Canonical s) (core : Nat) (f : Core → Mat) : Canonical (s.modCore core fun k => { k with me := f k }) := h.modCore core rfl

/-! ## Commands -/

theorem Canonical.startCommand (h : Canonical s) (core : Nat) (m : MCmd) : Holds Canonical (s.startCommand core m) := by
  unfold State.startCommand
  dsimp only
  split
  · exact holds_ok (h.modEngine ..)
  · exact holds_ok (h.modEngine ..)
  · exact holds_ok (h.modEngine ..)
  · exact Canonical.claim (h.modEngine ..) ..

theorem Canonical.sendCommand (h : Canonical s) (m : MCmd) : Holds Canonical (s.sendCommand m) := by
  unfold State.sendCommand
  dsimp only
  split
  · split
    · exact holds_ite (h.startCommand ..) (holds_fail _)
    · exact holds_fail _
  · exact holds_ok (h.modCurCore rfl)

theorem Canonical.tensor (h : Canonical s) (n : Reg) : Holds (fun p => Canonical p.2) (s.tensor n) := holds_any fun _ => holds_ok (h.useEntry _ _)

theorem Canonical.setTagsOf (h : Canonical s) (f : Mat → Mat) : Canonical (s.setTagsOf f) := h.modCurCore rfl

theorem Canonical.loadWeights (h : Canonical s) (a : Reg) (bundles : Bool) : Holds Canonical (s.loadWeights a bundles) := by
  have hrest (m : MCmd) (p : MOperand × State) (hp : Canonical p.2) (f idx cols rows : Nat) : Holds Canonical (do
      p.1.check idx f bundles cols rows
      let s ← p.2.sendCommand { m with a := p.1, fmt := BitVec.ofNat 7 f }
      .ok (s.setTagsOf fun e => { e with ptsh := BitVec.ofNat 7 f, pspsh := bundles })) :=
    holds_any fun _ => holds_bind (hp.sendCommand _) fun _ ht => holds_ok (ht.setTagsOf _)
  unfold State.loadWeights
  refine holds_any fun _ => holds_bind (h.tensor a) fun p hp => ?_
  exact holds_ite (holds_any fun _ => hrest _ p hp _ _ _ _) (holds_any fun _ => hrest _ p hp _ _ _ _)

theorem Canonical.streamRows (h : Canonical s) (a : Reg) (kind : MKind) : Holds Canonical (s.streamRows a kind) :=
  holds_any fun _ => holds_bind (h.tensor a) fun _ hp => holds_any fun _ => holds_any fun _ => holds_any fun _ => holds_any fun _ => hp.sendCommand _

theorem Canonical.mswap (h : Canonical s) : Holds Canonical s.mswap := holds_any fun _ => holds_bind (h.sendCommand _) fun _ ht => holds_ok (ht.setTagsOf _)

theorem Canonical.mgrd (h : Canonical s) (a b : Reg) : Holds Canonical (s.mgrd a b) :=
  holds_any fun _ => holds_bind (h.tensor a) fun _ hp => holds_bind (hp.tensor b) fun _ hq =>
    holds_any fun _ => holds_any fun _ => holds_any fun _ => holds_any fun _ => holds_any fun _ => hq.sendCommand _

theorem Canonical.mdrain (h : Canonical s) (a b : Reg) : Holds Canonical (s.mdrain a b) :=
  holds_any fun _ => holds_bind (h.tensor a) fun _ hp => holds_any fun _ => holds_any fun _ => holds_any fun _ => hp.sendCommand _

theorem Canonical.mzero (h : Canonical s) (b : Reg) : Holds Canonical (s.mzero b) := holds_any fun _ => h.sendCommand _

theorem Canonical.execMamax (h : Canonical s) (d : Reg) : Leads (execMamax d s) := by
  refine h.issue _ fun _ t ht => ?_
  exact holds_ite (holds_fail _) (holds_ite (holds_error _) (holds_ok ((ht.setTagsOf _).result ..)))

theorem Canonical.execMwait (h : Canonical s) : Leads (execMwait s) := h.issue _ fun _ _ ht => holds_ite (holds_ok ht) (holds_error _)

/-! ## Reads -/

theorem Canonical.readSector (h : Canonical s) (core : Nat) (m : MCmd) (i sec : Nat) : Holds (fun p => Canonical p.2) (s.readSector core m i sec) :=
  holds_any fun _ => holds_any fun _ => holds_any fun _ => holds_bind (h.raceSectors ..) fun _ ht => holds_ok (ht.readLocal ..)

theorem Canonical.delayReads (h : Canonical s) (core : Nat) (m : MCmd) : Holds Canonical (s.delayReads core m) := by
  refine Canonical.claim (Canonical.setCore h ?_ core) _ _
  exact h.core core

theorem Canonical.readNext (core : Nat) (rs : List MReq) : ∀ {s : State} (m : MCmd), Canonical s → Holds Canonical (s.readNext core m rs) := by
  induction rs with
  | nil => exact fun _ h => holds_ok (h.modEngine ..)
  | cons r rest ih =>
    intro s m h
    unfold State.readNext
    refine holds_ite (holds_ok h) ?_
    split
    · exact h.delayReads ..
    · exact holds_error _
    · next x t hread => exact holds_any fun _ => ih _ (((h.readSector core m r.i r.sec).of _ hread).modEngine ..)

/-! ## Drains -/

theorem Canonical.drainWrite (h : Canonical s) (core : Nat) (m : MCmd) (row sec : Nat) : Holds Canonical (s.drainWrite core m row sec) := by
  unfold State.drainWrite
  dsimp only
  refine holds_ite (holds_ite (holds_fail _) (holds_ok (h.modEngine ..))) ?_
  split
  · exact holds_fail _
  · refine holds_bind (h.raceLocal ..) fun t ht => ?_
    have hstored := canonical_foldl (f := fun u p => u.storeLocal core p.1 p.2.1 (keepParts (u.core core).loc ((t.core core).laterParts m sec t.now) p))
      (fun _ _ hu => hu.storeLocal ..) (piecesIn sec (m.drainRow row).1) t ht
    exact Canonical.claim (Canonical.wake (Canonical.modEngine (hstored.noteLanding ..) core _) core) _ _

/-! ## Steps -/

theorem Canonical.execMatrixCommandStart (h : Canonical s) (core : Nat) : Leads (execMatrixCommandStart core s) := by
  unfold Machine.execMatrixCommandStart
  split
  · exact leads_fault _
  · split
    · exact h.stepped _ (Canonical.readNext core _ _ h)
    · split
      · exact leads_fault _
      · split
        · exact h.stepped _ (holds_bind (h.startCommand ..) fun _ ht => holds_ok ((ht.modEngine ..).wake core))
        · exact leads_fault _

theorem Canonical.execDrainSectorWrite (h : Canonical s) (core : Nat) : Leads (execDrainSectorWrite core s) := by
  unfold Machine.execDrainSectorWrite
  split
  · exact leads_fault _
  · split
    · exact leads_fault _
    · split
      · split
        · exact leads_next (h.raiseFault ..)
        · exact leads_next (h.modEngine ..)
      · exact h.stepped _ (h.drainWrite ..)

theorem Canonical.execMatrixCommandComplete (h : Canonical s) (core : Nat) : Leads (execMatrixCommandComplete core s) := by
  unfold Machine.execMatrixCommandComplete
  split
  · exact leads_fault _
  · split
    · exact leads_next (((h.modEngine ..).modCtx _ _ _).wake core)
    · exact leads_fault _
end engine

end Sys2Proof.Proofs
end

section
/-! The canonical form of every memory (log 3): the far engine and the steps of a turnaround. -/

namespace Sys2Proof.Proofs

open Sys2Proof Sys2Proof.Machine Sys2Proof.Safety Sys2Proof.Claims Sys2Proof.Laws

section far
variable {s : State}

/-! ## The far engine -/

theorem Canonical.later (h : Canonical s) : Canonical s.later.2 := h.drawNat

theorem Canonical.hostFails (h : Canonical s) (d : Desc) : Canonical (s.hostFails d).2 := by
  unfold State.hostFails
  split
  · exact h
  · exact h.drawNat.countPoison _

theorem Canonical.hearFill (h : Canonical s) (d : Desc) (x : Nat) : Canonical (s.hearFill d x).2.2 := by
  have hall (l : List Nat) : ∀ acc : Nat × List (Nat × Nat) × State, Canonical acc.2.2 →
      Canonical (l.foldl (fun (acc : Nat × List (Nat × Nat) × State) k =>
        if acc.2.2.noise.isEmpty then acc
        else
          let q := acc.2.2.hear (.beat d.seq k) ((x >>> (512 * k)) % 2 ^ 512) []
          (setField acc.1 (512 * k) 512 q.1, acc.2.1 ++ q.2.1.map fun i => (512 * k + 64 * i, 64), q.2.2)) acc).2.2 := by
    induction l with
    | nil => exact fun _ h => h
    | cons k r ih =>
      refine fun acc hacc => ih _ ?_
      dsimp only
      split
      · exact hacc
      · exact hacc.hear ..
  exact hall _ _ h

theorem Canonical.drawAt (l : List Nat) : ∀ {s : State}, Canonical s → Canonical (s.drawAt l).2 := by
  induction l with
  | nil => exact fun h => h
  | cons _ _ ih => exact fun h => ih h.drawWord

theorem Canonical.expand (fmt size block n : Nat) : ∀ {s : State} (x : Nat), Canonical s → Canonical (s.expand fmt size block x n).2 := by
  induction n with
  | zero => exact fun _ h => h
  | succ n ih => exact fun _ h => ih _ (Canonical.drawAt _ h)

theorem Canonical.fillBits (h : Canonical s) (d : Desc) (x : Nat) : Canonical (s.fillBits d x).2 := by
  unfold State.fillBits
  split
  · split
    · exact Canonical.expand _ _ _ _ _ h
    · exact h
  · exact h

theorem Canonical.poisonPieces (h : Canonical s) (dst : List (Place × Nat × Nat)) (bad : List (Nat × Nat)) : Canonical (s.poisonPieces dst bad) := by
  have hall (l : List (Place × Nat × Nat)) : ∀ acc : State × Nat, Canonical acc.1 → Canonical (l.foldl (fun (acc : State × Nat) p =>
      (acc.1.modSpace p.1 fun m => m.poisonBits p.2.1 acc.2 p.2.2 bad, acc.2 + p.2.2)) acc).1 := by
    induction l with
    | nil => exact fun _ h => h
    | cons p r ih =>
      refine fun acc hacc => ih _ ?_
      exact hacc.modSpace p.1 (f := fun m => m.poisonBits p.2.1 acc.2 p.2.2 bad) (canon_poisonBits (hacc.spaceAt _) ..)
  exact hall _ _ h

theorem Canonical.fillEntry (h : Canonical s) (core : Nat) (f : Fill) (q : Nat) : Holds Canonical (s.fillEntry core f q) := by
  unfold State.fillEntry
  refine holds_ite (holds_ok (Canonical.raiseTrap (Canonical.setCore h ?_ core) ..)) (holds_bind (h.raceLocal ..) fun t ht => holds_ok ?_)
  · exact h.core core
  · refine Canonical.wake (Canonical.setCore (Canonical.later (ht.takeBank ..)) ?_ core) core
    have hput : Canon ((((t.takeBank core ((s.core core).fillSector q) true).core core).putEntries ((s.core core).queue q) ((s.core core).queue q).avail 1
        ((f.data.getD 0 >>> (512 * f.pos)) % 2 ^ 512)).loc.poisonBits (((s.core core).queue q).entry ((s.core core).queue q).avail) (512 * f.pos) 512 f.bad) :=
      canon_poisonBits (coreOk_putEntries ((ht.takeBank ..).core core) ..) ..
    split
    · exact hput
    · exact hput

theorem canonical_setQueue (h : Canonical s) (core n : Nat) (q : Queue) : Canonical (s.setCore core ((s.core core).setQueue n q)) :=
  h.setCore (k := (s.core core).setQueue n q) (h.core core) core

theorem Canonical.drainEntry (h : Canonical s) (core queue : Nat) : Holds Canonical (s.drainEntry core queue) := by
  unfold State.drainEntry
  refine holds_any fun pa => holds_ok (Canonical.wake ?_ core)
  refine canonical_setQueue (Canonical.later (canonical_ite (Canonical.sendFlit ?_ ..) ?_)) core queue _
  all_goals
    refine Canonical.drainedAt (Canonical.turnIn (Canonical.copied (Canonical.modSpace (Canonical.storeAt (Canonical.takeBank (h.hear ..) ..) ..) _ ?_) ..) ..) ..
    exact canon_foldl (fun _ _ hm => canon_ite (wf_poison hm _) hm) _ _ (Canonical.spaceAt (Canonical.storeAt (Canonical.takeBank (h.hear ..) ..) ..) _)

theorem Canonical.execXfarHandoff (h : Canonical s) (core slot : Nat) : Leads (execXfarHandoff core slot s) := by
  unfold Machine.execXfarHandoff
  split
  · exact leads_fault _
  · next d _ =>
    have hset := h.setSlot core slot { d with landed := some s.now }
    dsimp only
    split
    · exact leads_next (hset.wake core)
    · split
      · exact h.stepped _ (holds_atDesc _ (holds_fail _))
      · refine leads_next (Canonical.wake (Canonical.modCore (Canonical.later ?_) core rfl) core)
        split
        · exact hset.askPeer ..
        · exact hset

theorem Canonical.execFarSourceRead (h : Canonical s) (core slot : Nat) : Leads (execFarSourceRead core slot s) := by
  unfold Machine.execFarSourceRead
  split
  · exact leads_fault _
  · split
    · refine h.stepped _ (holds_atDesc _ (holds_bind (h.readSrc ..) fun p hp => holds_ok ?_))
      exact Canonical.modCore (Canonical.later ((hp.hostFails _).hearFill ..)) core rfl
    · exact leads_fault _

theorem Canonical.execFillLand (h : Canonical s) (core slot : Nat) : Leads (execFillLand core slot s) := by
  unfold Machine.execFillLand
  split
  · exact leads_fault _
  · next f _ =>
    split
    · exact leads_fault _
    · split
      · exact h.stepped _ (holds_atDesc _ (h.fillEntry ..))
      · refine h.stepped _ (holds_atDesc _ (holds_bind ((h.fillBits ..).writePieces ..) fun t ht => holds_ok ?_))
        have hbad := ht.poisonPieces f.desc.dst (f.desc.badBits f.bad)
        refine Canonical.wake (Canonical.modCore ?_ core rfl) core
        split
        · exact canonical_foldl (fun _ _ hu => hu.turnIn ..) _ _ hbad
        · exact canonical_foldl (fun _ _ hu => hu.drainedAt ..) _ _ hbad

theorem Canonical.execQueueDrainEntry (h : Canonical s) (core queue : Nat) : Leads (execQueueDrainEntry core queue s) := by
  unfold Machine.execQueueDrainEntry
  split
  · exact h.stepped _ (h.drainEntry ..)
  · exact leads_fault _

/-! ## The steps of a turnaround -/

theorem canon_joinTurn {m : Space} (hm : Canon m) (sec : Nat) (paths : BitVec 4) (level : Nat) : Canon (m.joinTurn sec paths level) := hm

theorem canon_goInUntil {m : Space} (hm : Canon m) (sec : Nat) (paths : BitVec 4) (level now w : Nat) : Canon (m.goInUntil sec paths level now w) := hm

theorem Canonical.invalidate (h : Canonical s) (core : Nat) (u : TurnRec) : Canonical (s.invalidate core u) := by
  refine canonical_foldl (fun t i ht => ?_) _ s h
  split
  · exact ht.modSpace _ (canon_ite (canon_joinTurn (ht.spaceAt _) ..) (ht.spaceAt _))
  · exact ht

theorem Canonical.flipSector (h : Canonical s) (core : Nat) (u : TurnRec) (i : Nat) : Canonical (s.flipSector core u i) := by
  unfold State.flipSector
  split
  · exact h
  · next p a _ =>
    have hm := h.spaceAt p
    refine canonical_ite h (h.modSpace p (canon_ite (canon_joinTurn hm ..) ?_))
    split
    · exact canon_ite (canon_mark hm ..) (canon_goIn hm ..)
    · exact canon_ite hm (canon_goInUntil hm ..)

theorem Canonical.execTurnStart (h : Canonical s) (core ctx : Nat) : Leads (execTurnStart core ctx s) := by
  unfold Machine.execTurnStart
  split
  · exact leads_fault _
  · next u _ =>
    split
    · exact leads_fault _
    · have hdraw : Canonical (if u.level = 4 then s.drawNat else (turnX u.level, s)).2 := by
        split
        · exact h.drawNat
        · exact h
      exact leads_next ((hdraw.invalidate ..).modCtx ..)

theorem Canonical.execTurnGroupFlip (h : Canonical s) (core ctx : Nat) : Leads (execTurnGroupFlip core ctx s) := by
  unfold Machine.execTurnGroupFlip
  split
  · exact leads_fault _
  · split
    · exact leads_fault _
    · split
      · exact leads_next ((Canonical.modCtx (canonical_foldl (fun _ _ ht => ht.flipSector ..) _ s h) ..).wake core)
      · exact leads_fault _

theorem Canonical.execTurnComplete (h : Canonical s) (core ctx : Nat) : Leads (execTurnComplete core ctx s) := by
  unfold Machine.execTurnComplete
  split
  · exact leads_fault _
  · split
    · exact leads_fault _
    · split
      · exact leads_next ((h.modCtx ..).wake core)
      · exact leads_fault _

theorem Canonical.execTstat (h : Canonical s) (d a : Reg) : Leads (execTstat d a s) :=
  h.issue _ fun _ _ ht => holds_ite (holds_fail _) (holds_ok (ht.result ..))
end far

end Sys2Proof.Proofs
end

section
/-! The canonical form of every memory (log 3): the steps of a context, saved slices, supersteps and phase changes. -/

namespace Sys2Proof.Proofs

open Sys2Proof Sys2Proof.Machine Sys2Proof.Safety Sys2Proof.Claims Sys2Proof.Laws

section phases
variable {s t : State}

/-- A state whose running slice is another, with the same latched tables. -/
theorem Canonical.sliceMap (h : Canonical s) {f : SliceRun → SliceRun} (e : memories t = memories { s with slice := s.slice.map f })
    (hf : ∀ r, (f r).tables = r.tables) : Canonical t := by
  refine h.same (e.trans ?_)
  have htables : (s.slice.map f).map (·.tables) = s.slice.map (·.tables) := by
    rw [Option.map_map]
    exact congrFun (congrArg Option.map (funext hf)) s.slice
  simp only [memories, htables]

/-- A fold of updates of cores that keep the bytes of their scratchpads. -/
theorem canonical_modCores (h : Canonical s) {f : Nat → Core → Core} (hf : ∀ c k, (f c k).loc.bytes = k.loc.bytes) (cs : List Nat) :
    Canonical (cs.foldl (fun s c => s.modCore c (f c)) s) := canonical_foldl (fun _ c ht => ht.modCore c (hf c _)) cs s h

/-! ## Results, vector convoys, exits and spans -/

theorem Canonical.execResultLanding (h : Canonical s) (core ctx : Nat) : Leads (execResultLanding core ctx s) := by
  unfold Machine.execResultLanding
  split
  · exact leads_next ((h.modCtx ..).wake core)
  · exact leads_fault _

theorem Canonical.execVectorConvoyStart (h : Canonical s) (core ctx : Nat) : Leads (execVectorConvoyStart core ctx s) := by
  unfold Machine.execVectorConvoyStart
  dsimp only
  split
  · exact leads_next ((h.setCtx ..).wake core)
  · exact leads_fault _

theorem Canonical.execVectorMemberStart (h : Canonical s) (core ctx : Nat) : Leads (execVectorMemberStart core ctx s) := by
  unfold Machine.execVectorMemberStart
  dsimp only
  split
  · exact leads_next ((h.setCtx ..).wake core)
  · exact leads_fault _

theorem Canonical.sampleRecord (h : Canonical s) (core ctx : Nat) (q : VConvoy) (st : List Nat) (kind : Nat) :
    Canonical (s.sampleRecord core ctx q st kind).2 := by
  unfold State.sampleRecord
  dsimp only
  split
  · exact h.drawNat
  · exact h

theorem Canonical.sampleConvoy (h : Canonical s) (core ctx : Nat) (q : VConvoy) : Canonical (s.sampleConvoy core ctx q) := by
  unfold State.sampleConvoy
  split
  · exact h
  · dsimp only
    split
    · exact h.modCtx ..
    · have hrecord := (h.modCtx core ctx fun c => { c with vmemCount := c.vmemCount + 1 }).sampleRecord core ctx q
      exact canonical_ite ((hrecord _ _).modCtx ..) ((hrecord _ _).trace _)

theorem Canonical.execVectorConvoyRetire (h : Canonical s) (core ctx : Nat) : Leads (execVectorConvoyRetire core ctx s) := by
  unfold Machine.execVectorConvoyRetire
  dsimp only
  split
  · exact leads_next (((h.setCtx ..).sampleConvoy ..).wake core)
  · exact leads_fault _

theorem Canonical.execExitComplete (h : Canonical s) (core ctx : Nat) : Leads (execExitComplete core ctx s) := by
  unfold Machine.execExitComplete
  split
  · exact leads_next (Canonical.wake (Canonical.modCore (h.modCtx ..) core rfl) core)
  · exact leads_fault _

theorem Canonical.afterSpan (h : Canonical s) (core ctx : Nat) : Canonical (s.afterSpan core ctx) :=
  canonical_foldl (fun _ _ ht => ht.raiseTrap ..) _ _ (canonical_foldl (fun _ _ ht => ht.trace _) _ _ ((h.modCtx ..).modCtx ..))

theorem Canonical.execSpanClose (h : Canonical s) (core ctx : Nat) : Leads (execSpanClose core ctx s) := by
  unfold Machine.execSpanClose
  split
  · exact leads_next ((h.modCtx ..).afterSpan ..)
  · exact leads_fault _

theorem Canonical.execSpanOverrun (h : Canonical s) (core ctx : Nat) : Leads (execSpanOverrun core ctx s) := by
  unfold Machine.execSpanOverrun
  split
  · exact leads_next (h.raiseFault ..)
  · exact leads_fault _

/-! ## The save area of a slice -/

theorem loc_setWordAt (k : Core) (w x : Nat) : (k.setWordAt w x).loc = k.loc := by
  unfold Core.setWordAt
  dsimp only
  split
  · rfl
  · split
    · split <;> rfl
    · split_ifs <;> rfl

theorem canon_poisonIf {m : Space} (hm : Canon m) (bad : List Bool) (a : Nat) (l : List Nat) :
    Canon (l.foldl (fun (m : Space) i => if bad.getD i false then m.poison (a + i) else m) m) :=
  canon_foldl (fun _ _ h => canon_ite (wf_poison h _) h) l m hm

theorem Canonical.putSector (h : Canonical s) (p : Place) (a x : Nat) (bad : List Bool) : Canonical (s.putSector p a x bad) :=
  (h.storeAt p a 512 x).modSpace p (canon_poisonIf ((h.storeAt p a 512 x).spaceAt p) bad (a / 64) _)

theorem Canonical.putDevice (h : Canonical s) (va x : Nat) (bad : List Bool) : Canonical (s.putDevice va x bad) := by
  unfold State.putDevice
  split
  · exact h.putSector ..
  · exact h

theorem Canonical.saveCore (h : Canonical s) (r : LaunchRec) (core : Nat) : Canonical (s.saveCore r core) := by
  have hblock := canonical_foldl (f := fun t i => if i < 2560 && (s.ctx core (i / 640)).st == .absent then t
    else t.putDevice (r.state + 512 * (1 + (s.core core).index * r.blockSectors) + 512 * i) (sectorOf fun j => s.savedWord core (8 * i + j)) [])
    (fun _ _ ht => canonical_ite ht (ht.putDevice ..)) (rangeFrom 0 4160) s h
  exact canonical_foldl (fun _ _ ht => (ht.copied ..).putDevice ..) _ _ hblock

theorem Canonical.saveSlice (h : Canonical s) (r : SliceRun) (budget deadline : Nat) : Canonical (s.saveSlice r budget deadline) :=
  canonical_ite h (Canonical.putDevice (canonical_foldl (fun _ _ ht => ht.saveCore ..) _ s h) ..)

/-! ## Arrivals and barriers -/

theorem Canonical.execParr (h : Canonical s) : Leads (execParr s) := h.issue _ fun _ _ ht => holds_ite (holds_ok ht) (holds_ok (ht.modCur _))

theorem Canonical.execPwait (h : Canonical s) : Leads (execPwait s) := by
  refine h.issue _ fun _ t ht => holds_ite (holds_ok ht) ?_
  split
  · exact holds_ok (ht.modCur _)
  · exact holds_ok (ht.modCur _)

theorem Canonical.cbarr (h : Canonical s) (a b : Reg) : Holds Canonical (s.cbarr a b) := holds_ok (h.modCurCore rfl)

theorem Canonical.execCbwait (h : Canonical s) (b : Reg) : Leads (execCbwait b s) := h.issue _ fun _ _ ht => holds_ite (holds_error _) (holds_ok ht)

theorem Canonical.execYield (h : Canonical s) : Leads (execYield s) :=
  h.issueOk _ fun _ _ ht => canonical_ite ht (ht.sliceMap rfl fun _ => rfl)

theorem Canonical.execParrTakesEffect (h : Canonical s) (core ctx : Nat) : Leads (execParrTakesEffect core ctx s) := by
  unfold Machine.execParrTakesEffect
  split
  · exact leads_next ((h.modCtx ..).wake core)
  · exact leads_fault _

theorem Canonical.execCoreArrived (h : Canonical s) (core : Nat) : Leads (execCoreArrived core s) := by
  unfold Machine.execCoreArrived
  split
  · exact leads_fault _
  · refine leads_next (Canonical.sliceMap (Canonical.modCore h (f := fun k => { k with arrived := true, arrivedAt := s.now }) core rfl) rfl fun r => ?_)
    dsimp only
    split
    · split <;> rfl
    · split <;> rfl

theorem Canonical.execCbArrivalEffect (h : Canonical s) (core ctx bar : Nat) : Leads (execCbArrivalEffect core ctx bar s) := by
  unfold Machine.execCbArrivalEffect
  split
  · exact leads_next (h.modCore core rfl)
  · exact leads_fault _

theorem Canonical.execCbGenerationComplete (h : Canonical s) (core bar : Nat) : Leads (execCbGenerationComplete core bar s) := by
  unfold Machine.execCbGenerationComplete
  dsimp only
  split
  · refine leads_next (Canonical.wake (Canonical.setCore h ?_ core) core)
    exact h.core core
  · exact leads_fault _

/-! ## Pending reductions and latched translations -/

theorem Canonical.writeResult (h : Canonical s) (x : SauEnt) : Holds Canonical (s.writeResult x) := by
  unfold State.writeResult
  refine holds_any fun _ => holds_bind (Q := Canonical) ?_ fun t ht => holds_ok ?_
  · dsimp only
    split
    · exact holds_error _
    · exact h.raceAt ..
  · have hput := ht.storeAt .phys x.addr x.value.2 x.value.1
    split
    · exact canonical_ite hput (hput.turnIn ..)
    · exact hput

theorem Canonical.writeResults (l : List SauEnt) : ∀ {s : State}, Canonical s → Holds Canonical (s.writeResults l) := by
  induction l with
  | nil => exact fun h => holds_ok h
  | cons x r ih =>
    intro s h
    unfold State.writeResults
    split
    · exact holds_error _
    · next hx => exact ih ((h.writeResult x).of _ hx)

theorem wf_copyEntry {m : Memory} (hm : m.wf = true) (from_ : Memory) (a : Nat) : (copyEntry m from_ a).wf = true := wf_setBits hm _ _ _

theorem wf_relatchPage {m : Memory} (hm : m.wf = true) (now : Memory) (root va : Nat) : (relatchPage m now root va).wf = true := by
  unfold relatchPage
  have htop := wf_copyEntry hm now (root + 64 * field va 56 42)
  dsimp only
  split
  · exact htop
  · split
    · exact wf_copyEntry htop ..
    · exact wf_copyEntry (wf_copyEntry htop ..) ..

theorem Canonical.latchReads (h : Canonical s) : Canonical s.latchReads := by
  refine canonical_foldl (fun t p ht => canonical_ite ?_ ht) _ s h
  exact canonical_ite (ht.drawBool.copied ..) ht.drawBool

theorem Canonical.applyTlbi (h : Canonical s) : Canonical s.applyTlbi := by
  unfold State.applyTlbi
  have hread : Canonical (if s.tlbiAll || !s.tlbi.isEmpty then s.latchReads else s) := canonical_ite h.latchReads h
  dsimp only
  generalize (if (s.tlbiAll || !s.tlbi.isEmpty) = true then s.latchReads else s) = u at hread ⊢
  have hnow : u.phys.walked.wf = true := wf_walked hread.phys
  have hpage (m : Memory) (root : Nat) (hm : m.wf = true) :
      (if u.tlbiAll then u.phys.walked else u.tlbi.foldl (fun t va => relatchPage t u.phys.walked root va) m).wf = true := by
    split
    · exact hnow
    · exact wf_foldl (fun _ _ ht => wf_relatchPage ht ..) _ m hm
  refine ⟨hread.loc, hread.phys, hread.host, hread.peer, hread.nvme, hread.buf, hpage _ _ hread.tables, fun r hr => ?_⟩
  obtain ⟨r', hr', rfl⟩ := Option.map_eq_some_iff.1 hr
  exact hpage _ _ (hread.latched r' hr')

theorem Canonical.latch (h : Canonical s) {r : SliceRun} (hr : r.tables.wf = true) : Canonical { s with slice := some r } :=
  ⟨h.loc, h.phys, h.host, h.peer, h.nvme, h.buf, h.tables, fun r' hr' => by
    cases hr'
    exact hr⟩

theorem Canonical.latchTables (h : Canonical s) : Canonical s.latchTables := by
  unfold State.latchTables
  dsimp only
  split
  · exact h.applyTlbi
  · refine canonical_ite h.applyTlbi (canonical_ite (Canonical.latch h.applyTlbi.drawBool.latchReads ?_) h.applyTlbi.drawBool)
    exact wf_walked h.applyTlbi.phys

/-! ## Phase changes -/

theorem canon_applyPending {m : Space} (hm : Canon m) : Canon m.applyPending := (congrArg Memory.wf (applyPending_bytes m)).trans hm

theorem Canonical.closeSuperstep (h : Canonical s) (r : SliceRun) : Canonical (s.closeSuperstep r) := by
  refine Canonical.latchTables (canonical_modCores (f := fun c k => { k.lcFlush with bars := [], slots := [], ctxs := k.ctxs.mapVals fun _ x => { x with xacc := 0, xaccLate := [], stalled := false } }) ?_ (fun _ _ => rfl) _)
  refine ⟨?_, canon_applyPending h.phys, canon_applyPending h.host, canon_applyPending h.peer, h.nvme, h.buf,
    h.tables, h.latched⟩
  dsimp only
  exact mapVals_ok h fun c k hk => canon_applyPending hk

theorem Canonical.openSuperstep (h : Canonical s) (r : SliceRun) (preempt : Bool) : Canonical (s.openSuperstep r preempt) := by
  have hphc : Canonical { s with phc := s.phc + 1 } := h.same rfl
  have hcores := canonical_foldl (f := fun u c => u.modCore c fun k => { k with
    arrived := false, entrySet := none, vcyc := Clock.start u.now, ctxs := k.ctxs.mapVals fun _ x => x.newSuperstep u.now (s.phc + 1)
    queues := k.queues.mapVals fun _ q => { q with due := if q.dir = 2 then q.avail else 0 } }) (fun _ c hu => hu.modCore c rfl) r.cores _ hphc
  exact canonical_ite (Canonical.askWake (hcores.sliceMap rfl fun _ => rfl)) (hcores.sliceMap rfl fun _ => rfl)

theorem Canonical.execPhaseChange (h : Canonical s) : Leads (execPhaseChange s) := by
  unfold Machine.execPhaseChange
  split
  · exact leads_fault _
  · next r hr =>
    split
    · exact leads_fault _
    · dsimp only
      split
      · exact leads_next (h.latch (h.latched r hr))
      · split
        · exact h.stepped _ (holds_error _)
        · next hdone =>
          have hclose := ((Canonical.writeResults _ h).of _ hdone).closeSuperstep r
          split
          · exact leads_next (hclose.sliceMap rfl fun _ => rfl)
          · exact leads_next (hclose.openSuperstep ..)

theorem Canonical.execStraggler (h : Canonical s) : Leads (execStraggler s) := by
  unfold Machine.execStraggler
  split
  · exact leads_fault _
  · split
    · exact leads_fault _
    · dsimp only
      generalize hu : State.putSystem _ _ _ _ = u
      have hu : Canonical u := by
        rw [← hu]
        refine Canonical.putSystem ?_ ..
        exact h.same rfl
      split
      · exact leads_next (hu.raiseFault ..)
      · refine leads_next (Canonical.sliceMap (s := u.raiseTrap _ _ _ _ _) ?_ rfl fun _ => rfl)
        exact hu.raiseTrap ..

theorem Canonical.execBudgetExhausted (h : Canonical s) : Leads (execBudgetExhausted s) := by
  unfold Machine.execBudgetExhausted
  split
  · exact leads_next (h.sliceMap rfl fun _ => rfl)
  · exact leads_fault _

/-- A slice that has left the device. -/
theorem Canonical.left (h : Canonical s) {f : Nat → Core → Core} (hf : ∀ c k, CoreOk k → CoreOk (f c k)) (d : Disp) :
    Canonical { s with cores := s.cores.mapVals f, slice := none, disp := d } :=
  ⟨mapVals_ok h hf, h.phys, h.host, h.peer, h.nvme, h.buf, h.tables, fun _ hr => by cases hr⟩

theorem Canonical.execPreemption (h : Canonical s) : Leads (execPreemption s) := by
  unfold Machine.execPreemption
  split
  · exact leads_fault _
  · next r _ =>
    split
    · exact leads_fault _
    · refine leads_next (Canonical.requeue (Canonical.left (Canonical.saveSlice (canonical_ite (h.raiseTrap ..) h) ..) (fun c k hk => ?_) _) _)
      split
      · exact hk
      · exact hk

theorem Canonical.execPhotonicWakeup (h : Canonical s) : Leads (execPhotonicWakeup s) := by
  unfold Machine.execPhotonicWakeup
  split
  · split
    · exact leads_next (h.same rfl)
    · exact leads_fault _
  · exact leads_fault _
end phases

end Sys2Proof.Proofs
end

section
/-! The canonical form of every memory (log 3): slices that begin, the dispatcher and the walks of graphs. -/

namespace Sys2Proof.Proofs

open Sys2Proof Sys2Proof.Machine Sys2Proof.Safety Sys2Proof.Claims Sys2Proof.Laws

section jobs
variable {s : State}

/-- The dispatcher's own part of a state. -/
theorem Canonical.setDisp (h : Canonical s) (d : Disp) : Canonical { s with disp := d } := h.same rfl

/-! ## Launch records -/

theorem Canonical.walks (h : Canonical s) (root : Nat) (l : List (Nat × Nat)) : Canonical (s.walks root l) := canonical_ite h (h.copied ..)

theorem Canonical.loads (h : Canonical s) (root : Nat) (l : List (Nat × Nat)) : Canonical (s.loads root l) := (h.walks root l).copied ..

theorem Canonical.rejectSlice (h : Canonical s) (r : LaunchRec) (deadline sub : Nat) : Canonical (s.rejectSlice r deadline sub) := (h.sendRecord _).sysEvent 2

theorem Canonical.rejectUnread (h : Canonical s) (addr sub tag vec : Nat) : Canonical (s.rejectUnread addr sub tag vec) := (h.sendRecord _).sysEvent 2

theorem Canonical.queueRecord (h : Canonical s) (addr : Nat) (walk : Option Nat) (pred : List Nat) : Canonical (s.queueRecord addr walk pred).2 := by
  unfold State.queueRecord
  split
  · exact (h.loads ..).rejectUnread ..
  · next r live q unread _ =>
    have hread := ((h.loads s.sysroot [(addr, 2048)]).loads r.ttroot r.maps).walks r.ttroot (checkedRanges r)
    have hsaved : Canonical (if r.fromsave then (((s.loads s.sysroot [(addr, 2048)]).loads r.ttroot r.maps).walks r.ttroot (checkedRanges r)).loads
        r.ttroot [(r.state, 64)] else ((s.loads s.sysroot [(addr, 2048)]).loads r.ttroot r.maps).walks r.ttroot (checkedRanges r)) :=
      canonical_ite (hread.loads ..) hread
    dsimp only
    generalize (if r.fromsave = true then (((s.loads s.sysroot [(addr, 2048)]).loads r.ttroot r.maps).walks r.ttroot (checkedRanges r)).loads
        r.ttroot [(r.state, 64)] else ((s.loads s.sysroot [(addr, 2048)]).loads r.ttroot r.maps).walks r.ttroot (checkedRanges r)) = t at hsaved ⊢
    split
    · split
      · exact hsaved
      · split
        · exact hsaved
        · exact (hsaved.pushReady _).pick
    · exact hsaved.rejectSlice ..

theorem Canonical.enqueue (h : Canonical s) (addr : Nat) (walk : Option Nat) (pred : List Nat) : Canonical (s.enqueue addr walk pred).2 := by
  unfold State.enqueue
  split
  · exact h.roomReady.queueRecord ..
  · exact h.queueRecord ..

/-! ## Kills -/

theorem Canonical.dropReady (h : Canonical s) (b : Ready) (cause flags : Nat) : Canonical (s.dropReady b cause flags) :=
  (Canonical.sysEvent (Canonical.walkEnds (Canonical.sendRecord ((h.popReady _).setDisp _) _) _ _) 2).pick

theorem Canonical.killRunning (h : Canonical s) (r : SliceRun) (cause flags : Nat) : Canonical (s.killRunning r cause flags) := (h.sendRecord _).endSlice false

theorem Canonical.killWaiting (h : Canonical s) (sid cause : Nat) : Canonical (s.killWaiting sid cause).2 := by
  unfold State.killWaiting
  split
  · exact h.dropReady ..
  · exact h

theorem Canonical.kill (h : Canonical s) (sid cause : Nat) : Canonical (s.kill sid cause).2 := by
  unfold State.kill
  split
  · split
    · exact h.killRunning ..
    · exact h.killWaiting ..
  · exact h.killWaiting ..

/-! ## Slices that begin -/

theorem canon_empty (fixed : Nat) : Canon ({ fixed := fixed } : Space) := wf_nil

theorem canon_place {m : Space} (hm : Canon m) (sec : Nat) (x : Nat × List Bool) : Canon (m.place sec x) := canon_poisonIf (wf_writeRaw hm _ _ _) x.2 (8 * sec) _

theorem canon_loadLive (s : State) (r : LaunchRec) (i : Nat) : Canon (s.loadLive r i) :=
  canon_foldl (fun _ _ hm => canon_foldl (fun _ _ hm => canon_place hm ..) _ _ hm) _ _ wf_nil

theorem coreOk_freshCore (s : State) (r : LaunchRec) (c i : Nat) : CoreOk (s.freshCore r c i) := by
  have hqueues (l : SMap Queue) : Canon (l.foldl (fun m p => linkRing m p.2.segs) (s.loadLive r i)) :=
    canon_foldl (fun _ _ hm => canon_linkRing hm _) l _ (canon_loadLive s r i)
  exact hqueues _

theorem coreOk_setQueue {k : Core} (hk : CoreOk k) (n : Nat) (q : Queue) : CoreOk (k.setQueue n q) := hk

theorem coreOk_setWordAt {k : Core} (hk : CoreOk k) (w x : Nat) : CoreOk (k.setWordAt w x) := by
  rw [CoreOk, loc_setWordAt]
  exact hk

theorem coreOk_restored {k : Core} (hk : CoreOk k) (words seen : List Nat) (ctxs : SMap Ctx) (pool : List Nat) :
    CoreOk { k with relWords := words, relSeen := seen, ctxs := ctxs, pool := pool } := hk

theorem coreOk_restoreCore (s : State) (r : LaunchRec) (c i : Nat) : CoreOk (s.restoreCore r c i) := by
  unfold State.restoreCore
  refine coreOk_restored (coreOk_foldl (fun k sec hk => ?_) _ _ ?_) _ _ _ _
  · dsimp only
    split
    · exact hk
    · split
      · exact coreOk_foldl (fun _ _ hk => coreOk_setQueue hk ..) _ k hk
      · exact coreOk_foldl (fun _ _ hk => coreOk_setWordAt hk ..) _ k hk
  · exact canon_foldl (fun _ _ hm => canon_place hm ..) _ _ (canon_empty _)

theorem Canonical.runSlice (h : Canonical s) (b : Ready) (p : BitVec 64) (deadline budget : Nat) : Canonical (s.runSlice b p deadline budget) :=
  ((h.latchReads.latch (r := { lr := b.lr, cores := b.lr.cores, deadline := deadline, budget := budget, spent := Clock.start s.latchReads.now
                               tables := s.latchReads.phys.walked, walk := b.walk }) (wf_walked h.latchReads.phys))).same rfl

theorem Canonical.rejectPicked (h : Canonical s) (b : Ready) : Canonical (s.rejectPicked b) :=
  (Canonical.walkEnds (Canonical.rejectSlice (h.setDisp _) ..) _ false).pick

theorem Canonical.execSliceStart (h : Canonical s) : Leads (execSliceStart s) := by
  unfold Machine.execSliceStart
  split
  · exact leads_fault _
  · next b _ =>
    split
    · exact leads_fault _
    · split
      · exact leads_next (h.rejectPicked b)
      · refine leads_next (canonical_foldl (fun t p ht => ht.setCore ?_ p.1) _ _ ?_)
        · exact coreOk_freshCore ..
        · exact ((h.loads b.lr.ttroot (b.lr.imageRanges false)).runSlice b 0 b.lr.deadline b.lr.budget).same rfl

theorem Canonical.drainedBefore (h : Canonical s) (id core n : Nat) : Canonical (s.drainedBefore id core n).2 := by
  unfold State.drainedBefore
  split
  · exact h
  · exact h.drawNat

theorem Canonical.resumeDrains (h : Canonical s) (id core : Nat) : Canonical (s.resumeDrains id core) :=
  canonical_foldl (fun _ p ht => canonical_ite ht ((ht.drainedBefore id core p.1).modCore core rfl)) _ s h

theorem Canonical.execSliceResume (h : Canonical s) : Leads (execSliceResume s) := by
  unfold Machine.execSliceResume
  split
  · exact leads_fault _
  · split
    · exact leads_fault _
    · split
      · exact leads_next (h.rejectPicked _)
      · exact leads_next (canonical_foldl (fun _ p ht => (ht.setCore (coreOk_restoreCore ..) p.1).resumeDrains ..) _ _ ((h.loads ..).runSlice ..))

theorem Canonical.execSliceCompletion (h : Canonical s) : Leads (execSliceCompletion s) := by
  unfold Machine.execSliceCompletion
  split
  · exact leads_fault _
  · split
    · exact leads_fault _
    · dsimp only
      split
      · exact leads_next ((h.sendRecord _).endSlice false)
      · exact leads_next (Canonical.endSlice (Canonical.sendRecord (canonical_foldl (fun _ _ ht => (ht.copied ..).putDevice ..) _ s h) _) true)

/-! ## The rings -/

theorem Canonical.acceptSub (h : Canonical s) (v : BitVec 32) : Canonical (s.acceptSub v) := Canonical.sysEvent (canonical_ite (h.setDisp _) (h.sendRecord _)) 1

theorem Canonical.acceptCmp (h : Canonical s) (v : BitVec 32) : Canonical (s.acceptCmp v) := canonical_ite (h.setDisp _) h

theorem Canonical.execMboxSubWrite (h : Canonical s) (v : BitVec 32) : Leads (execMboxSubWrite v s) := leads_next (canonical_ite (h.acceptSub v) (h.setDisp _))

theorem Canonical.setHost (h : Canonical s) {m : Space} (hm : Canon m) : Canonical { s with host := m } :=
  ⟨h.loc, h.phys, hm, h.peer, h.nvme, h.buf, h.tables, h.latched⟩

theorem Canonical.execRecordWrite (h : Canonical s) : Leads (execRecordWrite s) := by
  unfold Machine.execRecordWrite
  split
  · exact leads_fault _
  · next r _ _ =>
    split
    · exact leads_fault _
    · have hput := fun a => h.setHost (wf_writeRaw (canon_goOut h.host (a / 512)) a 512 r.bits)
      exact leads_next ((hput _).same rfl)

theorem Canonical.takeEntry (h : Canonical s) : Canonical s.takeEntry := h.setDisp _

theorem Canonical.execSubmitSlice (h : Canonical s) : Leads (execSubmitSlice s) := by
  unfold Machine.execSubmitSlice
  split
  · split
    · exact leads_next (h.takeEntry.enqueue ..)
    · exact leads_fault _
  · exact leads_fault _

theorem Canonical.execSubmitKill (h : Canonical s) : Leads (execSubmitKill s) := by
  unfold Machine.execSubmitKill
  split
  · exact leads_next (h.takeEntry.kill ..)
  · exact leads_fault _

theorem Canonical.execSubmitIgnored (h : Canonical s) : Leads (execSubmitIgnored s) := by
  unfold Machine.execSubmitIgnored
  split
  · split
    · exact leads_fault _
    · exact leads_next h.takeEntry
  · exact leads_fault _

/-! ## Graphs -/

theorem Canonical.execSubmitGraph (h : Canonical s) : Leads (execSubmitGraph s) := by
  unfold Machine.execSubmitGraph
  split
  · dsimp only
    split
    · exact leads_next ((h.takeEntry.loads ..).rejectUnread ..)
    · split
      · exact leads_next ((h.takeEntry.loads ..).rejectUnread ..)
      · split
        · exact leads_next ((h.takeEntry.loads ..).rejectUnread ..)
        · exact leads_next ((h.takeEntry.loads ..).setDisp _)
  · exact leads_fault _

theorem Canonical.endWalk (h : Canonical s) (k : Nat) (w : Walk) (last cause addr : Nat) (failed : Bool) : Canonical (s.endWalk k w last cause addr failed) :=
  ((h.setDisp _).sendRecord _).sysEvent 2

theorem Canonical.goNode (h : Canonical s) (k : Nat) (w : Walk) (n next : Nat) : Canonical (s.goNode k w n next) := by
  unfold State.goNode
  split
  · exact h.setDisp _
  · split
    · exact h.setDisp _
    · exact h.endWalk ..

theorem Canonical.readPredicate (h : Canonical s) (a : Nat) : Canonical (s.readPredicate a) := h.loads ..

theorem Canonical.execGraphSliceNode (h : Canonical s) (walk : Nat) : Leads (execGraphSliceNode walk s) := by
  unfold Machine.execGraphSliceNode
  split
  · exact leads_fault _
  · next w x _ =>
    split
    · exact leads_next (h.goNode ..)
    · exact leads_next (h.endWalk ..)
    · have hqueue := (h.setDisp { s.disp with walks := s.disp.walks.put walk { w with waiting := true } }).enqueue (nodeRef x) (some walk) w.preds
      dsimp only
      generalize State.enqueue _ _ _ _ = q at hqueue ⊢
      split
      · exact leads_next hqueue
      · exact leads_next (Canonical.endWalk hqueue ..)
      · exact leads_fault _

theorem Canonical.execGraphCondNode (h : Canonical s) (walk : Nat) : Leads (execGraphCondNode walk s) := by
  unfold Machine.execGraphCondNode
  split
  · exact leads_fault _
  · split
    · exact leads_next (h.endWalk ..)
    · exact leads_next ((h.readPredicate _).goNode ..)

theorem Canonical.execGraphLoopNode (h : Canonical s) (walk : Nat) : Leads (execGraphLoopNode walk s) := by
  unfold Machine.execGraphLoopNode
  split
  · exact leads_fault _
  · dsimp only
    split
    · exact leads_next (h.endWalk ..)
    · exact leads_ite (leads_next ((h.readPredicate _).goNode ..)) (leads_next ((h.readPredicate _).goNode ..))
end jobs

end Sys2Proof.Proofs
end

section
/-! The canonical form of every memory (log 3): the words of the system, halts and the debug window. -/

namespace Sys2Proof.Proofs

open Sys2Proof Sys2Proof.Machine Sys2Proof.Safety Sys2Proof.Claims Sys2Proof.Laws

section system
variable {s : State}

/-! ## Words of the system -/

theorem Canonical.execTrap (h : Canonical s) (b : Reg) : Leads (execTrap b s) :=
  h.issue _ fun _ _ ht => holds_ite (holds_ok (ht.modCur _)) (holds_ok (ht.raiseTrap ..))

theorem Canonical.execTlbi (h : Canonical s) (a b : Reg) : Leads (execTlbi a b s) := by
  refine h.issueOk _ fun _ t ht => ?_
  have hmarked : Canonical (if b = 0 then { t with tlbiAll := true } else { t with tlbi := t.tlbi ++ [(t.reg a).toNat % 2 ^ 57] }) :=
    canonical_ite (ht.same rfl) (ht.same rfl)
  exact canonical_ite hmarked hmarked.applyTlbi

theorem Canonical.execWfe (h : Canonical s) (d : Reg) : Leads (execWfe d s) :=
  h.issue _ fun _ _ ht => holds_ite (holds_error _) (holds_ok (Canonical.result (ht.modCurCore rfl) ..))

theorem Canonical.spawnWord (h : Canonical s) (d a : Reg) : Holds Canonical (s.spawnWord d a) := by
  have hqueue := h.queueRecord (s.reg a).toNat none []
  unfold State.spawnWord
  generalize s.queueRecord (s.reg a).toNat none [] = q at hqueue ⊢
  split
  · exact holds_ok (Canonical.result hqueue ..)
  · exact holds_ok (Canonical.result hqueue ..)
  · exact holds_ok (Canonical.result hqueue ..)
  · exact holds_error _

theorem Canonical.execSlkill (h : Canonical s) (d a b : Reg) : Leads (execSlkill d a b s) := h.issueOk _ fun _ _ ht => (ht.kill ..).result ..

theorem Canonical.fixClocks (h : Canonical s) : Canonical s.fixClocks := by
  unfold State.fixClocks
  split
  · exact h
  · next r hr => exact canonical_foldl (fun _ c ht => ht.fixVcyc c) _ _ (h.latch (h.latched r hr))

theorem Canonical.unhalt (h : Canonical s) (core ctx : Nat) : Canonical (s.unhalt core ctx) := by
  have hgo := fun f => (h.modCtx core ctx f).fixClocks
  refine canonical_ite (hgo _) (Canonical.sliceMap (hgo _) rfl ?_)
  exact fun _ => rfl

theorem Canonical.dropTraps (h : Canonical s) (f : Record → Bool) : Canonical (s.dropTraps f) := h.setDisp _

theorem Canonical.resumeCtx (h : Canonical s) (core ctx : Nat) : Canonical (s.resumeCtx core ctx) := by
  have hdrop := fun f => h.dropTraps f
  exact canonical_ite h (canonical_ite (Canonical.modCtx (canonical_ite ((hdrop _).unhalt core ctx) (hdrop _)) ..)
    (canonical_ite ((hdrop _).unhalt core ctx) (hdrop _)))

theorem Canonical.resumeWord (h : Canonical s) (a b : Reg) : Holds Canonical (s.resumeWord a b) := by
  refine holds_ite (holds_ok h) (holds_any fun _ => ?_)
  have hlinked : Canonical (if (s.reg b).toNat = 0 then s else
      (s.copied (.loc (field (s.reg a).toNat 9 0)) ((s.core (field (s.reg a).toNat 9 0)).movedWords (field (s.reg a).toNat 19 16))).modCore
        (field (s.reg a).toNat 9 0) fun k => k.linkSegment (field (s.reg a).toNat 19 16) (s.reg b).toNat) := by
    refine canonical_ite h (Canonical.modCoreOk (h.copied ..) _ ?_)
    exact coreOk_linkSegment ((h.copied ..).core _) ..
  exact holds_ite (holds_ok (Canonical.dropTraps (Canonical.wake (Canonical.modCore hlinked _ rfl) _) _)) (holds_ok ((hlinked.resumeCtx ..).wake _))

theorem Canonical.putTrap (h : Canonical s) (r : Record) : Canonical (s.putTrap r) := (h.setDisp _).putSystem ..

theorem Canonical.abortExhausted (h : Canonical s) (r : Record) : Canonical (s.abortExhausted r) := by
  unfold State.abortExhausted
  split
  · exact canonical_ite (h.killRunning ..) h
  · exact h

theorem Canonical.execTrapRecordEnqueue (h : Canonical s) : Leads (execTrapRecordEnqueue s) := by
  unfold Machine.execTrapRecordEnqueue
  split
  · split
    · exact leads_next (((h.setDisp _).putTrap _).abortExhausted _)
    · exact leads_fault _
  · exact leads_fault _

theorem Canonical.execSystemTrapEntry (h : Canonical s) (sys : Nat) : Leads (execSystemTrapEntry sys s) := by
  unfold Machine.execSystemTrapEntry
  split
  · exact leads_fault _
  · split
    · exact leads_fault _
    · exact leads_next (canonical_ite (h.modCtx ..) ((h.modCtx ..).setDisp _))

/-! ## Breakpoints, samples and halts -/

theorem Canonical.execBrk (h : Canonical s) (b : Reg) : Leads (execBrk b s) :=
  h.issue _ fun _ _ ht => holds_ite (holds_ok (ht.modCur _)) (holds_ite (holds_ok (canonical_ite (ht.modCur _) ht)) (holds_ok (ht.raiseTrap ..)))

theorem Canonical.execDmark (h : Canonical s) (a : Reg) : Leads (execDmark a s) := h.issueOk _ fun _ _ ht => canonical_ite (ht.modCur _) (ht.trace _)

theorem Canonical.requestHalt (h : Canonical s) (core ctx : Nat) (src : HaltSrc) : Canonical (s.requestHalt core ctx src) := canonical_ite (h.modCtx ..) h

theorem Canonical.release (h : Canonical s) (core ctx : Nat) : Canonical (s.release core ctx) := canonical_ite ((h.unhalt ..).wake core) (h.modCtx ..)

theorem Canonical.focused (h : Canonical s) (core ctx : Nat) : Canonical { s with focusCore := core, focusCtx := ctx } := h.same rfl

theorem Canonical.headBreaks (h : Canonical s) (o : Origin) : Canonical (s.headBreaks o) :=
  canonical_ite h (Canonical.focused ((h.focused o.core o.ctx).breakAt _ o) s.focusCore s.focusCtx)

theorem canonical_haltAll (h : Canonical s) (cores : List Nat) :
    Canonical (cores.foldl (fun s k => (rangeFrom 0 4).foldl (fun s x => s.requestHalt k x .allstop) s) s) :=
  canonical_foldl (fun _ _ ht => canonical_foldl (fun _ _ hu => hu.requestHalt ..) _ _ ht) cores s h

theorem Canonical.execHaltLanding (h : Canonical s) (core ctx : Nat) : Leads (execHaltLanding core ctx s) := by
  unfold Machine.execHaltLanding
  refine leads_ite (leads_fault _) (leads_next (Canonical.fixClocks ?_))
  have hlanded := fun o f r => (((h.headBreaks o).modCtx core ctx f).raiseTrap o 0x25 (o.head) ((s.ctx core ctx).haltReq.getD .hctl).info false).trace r
  exact canonical_ite (canonical_haltAll (hlanded _ _ _) _) (hlanded _ _ _)

/-! ## The debug window -/

theorem Canonical.view (h : Canonical s) (core w : Nat) : Canonical (s.view core w).2 := by
  unfold State.view
  dsimp only
  split
  · split
    · exact h.drawWord
    · exact h
  · split
    · split
      · exact h.copied ..
      · exact h
    · split
      · exact h
      · exact h.drawWord

theorem canon_setFacing {m : Space} (hm : Canon m) (now first x : Nat) : Canon (m.setFacing now first x) := by
  refine canon_foldl (fun m j hm => canon_ite (canon_goOut hm _) (canon_ite hm ?_)) _ m hm
  split
  · exact canon_goInUntil hm ..
  · exact canon_goIn hm ..

theorem coreOk_setBars {k : Core} (hk : CoreOk k) (x v : Nat) : CoreOk (k.setBars x v) := coreOk_foldl (fun _ _ hk => by exact hk) _ k hk

theorem Canonical.setView (h : Canonical s) (core w x : Nat) : Canonical (s.setView core w x) := by
  have hk := h.core core
  have hset {k : Core} (hk : CoreOk k) : Canonical (s.setCore core k) := h.setCore hk core
  have hword := hset (coreOk_setWordAt hk w x)
  have hcells : Canonical (s.setCore core (let k := (s.core core).setWordAt w x
      let k : Core :=
        if w / 8 < 3585 then k
        else if w / 8 < 3841 then { k with me := k.me.keepCells 0 s.now (2 * (w - 3585 * 8)) }
        else { k with me := k.me.keepCells 1 s.now (2 * (w - 3841 * 8)) }
      { k with me := { k.me with known := if k.me.undef then NSet.add k.me.known w else [] } })) := by
    have hk' := coreOk_setWordAt hk w x
    refine hset ?_
    dsimp only
    split
    · exact hk'
    · split
      · exact hk'
      · exact hk'
  refine canonical_ite (canonical_ite h (canonical_ite ?_ (canonical_ite ?_ (canonical_ite hcells hword)))) (canonical_ite ?_ (canonical_ite ?_ h))
  · refine canonical_ite h (canonical_ite (hset (coreOk_setBars hk ..)) (canonical_ite ?_ (canonical_ite (canonical_ite ?_ ?_) hword)))
    · exact hset (k := (s.core core).setArrival x) hk
    · exact h.sliceMap rfl fun _ => rfl
    · exact hset (k := { s.core core with hgLeft := x }) hk
  · exact hset (k := { s.core core with loc := (s.core core).loc.setFacing s.now (64 * (w - 4097 * 8)) x }) (canon_setFacing hk ..)
  · refine canonical_ite ?_ h
    exact hset (k := { s.core core with loc := (s.core core).loc.writeRaw (64 * (w - viewBlock)) 64 x }) (wf_writeRaw hk ..)
  · refine hset ?_
    exact hk

theorem Canonical.stepView (h : Canonical s) (core : Nat) : Canonical (s.stepView core) := h.modCore core rfl

theorem Canonical.setDbg (h : Canonical s) (d : Debug) : Canonical { s with dbg := d } := h.same rfl

theorem Canonical.execSvdataRead (h : Canonical s) (core : Nat) : Leads (execSvdataRead core s) := leads_next (((h.view ..).setDbg _).stepView core)

theorem Canonical.execSvdataWrite (h : Canonical s) (core : Nat) (v : Word) : Leads (execSvdataWrite core v s) := leads_next ((h.setView ..).stepView core)

theorem Canonical.putTrace (h : Canonical s) (r : TraceRec) : Canonical (s.putTrace r) := by
  have hput := fun a => h.setPhys (wf_writeRaw h.phys a 256 r.toNat)
  exact canonical_ite (h.setDbg _) ((hput _).same rfl)

theorem Canonical.execTraceRecord (h : Canonical s) : Leads (execTraceRecord s) := by
  unfold Machine.execTraceRecord
  split
  · exact leads_fault _
  · exact leads_next (h.putTrace _)
end system

end Sys2Proof.Proofs
end

section
/-! The canonical form of every memory (log 3): the dump, bring-up, the security core and the host's accesses. -/

namespace Sys2Proof.Proofs

open Sys2Proof Sys2Proof.Machine Sys2Proof.Safety Sys2Proof.Claims Sys2Proof.Laws

section device
variable {s : State}

/-! ## The panic and its dump -/

theorem Canonical.setNvme (h : Canonical s) {m : Memory} (hm : m.wf = true) : Canonical { s with nvme := m } :=
  ⟨h.loc, h.phys, h.host, h.peer, hm, h.buf, h.tables, h.latched⟩

theorem Canonical.dumpWord (h : Canonical s) (w x : Nat) : Canonical (s.dumpWord w x) := h.setNvme (wf_setBytes _ h.nvme _ _)

theorem Canonical.dumpWords (h : Canonical s) (block n : Nat) (f : Nat → Nat) : Canonical (s.dumpWords block n f) :=
  canonical_foldl (fun _ _ ht => ht.dumpWord ..) _ s h

theorem Canonical.dumpCore (h : Canonical s) (block core : Nat) : Canonical (s.dumpCore block core) :=
  canonical_foldl (fun _ i ht => (ht.view core i).dumpWord ..) _ s h

theorem Canonical.dump (h : Canonical s) : Canonical s.dump := by
  have hsys := canonical_foldl (f := fun t k => t.dumpWords (1 + 2 * k) (2 * blockWords) fun w => if w < 560 then s.ctxWord (sysCore k) 0 w else 0)
    (fun _ _ ht => ht.dumpWords ..) (rangeFrom 0 8) s h
  exact Canonical.dumpWords (canonical_foldl (fun _ _ ht => ht.dumpCore ..) _ _ ((((hsys.dumpWords ..).dumpWords ..).dumpWords ..).dumpWords ..)) ..

theorem Canonical.writeDump (h : Canonical s) : Canonical s.writeDump := by
  unfold State.writeDump
  refine ⟨h.loc, h.phys, h.host, h.peer, ?_, h.buf, h.tables, h.latched⟩
  dsimp only
  split
  · exact h.dump.nvme
  · exact h.nvme

theorem coreOk_freeze {k : Core} (hk : CoreOk k) (now : Nat) : CoreOk (k.freeze now) := by
  have hstopped : CoreOk ((k.unpush now).unpop.dropLate now) := coreOk_dropLate (k := (k.unpush now).unpop) ((congrArg Canon (loc_unpop (k.unpush now))).mpr hk) now
  unfold Core.freeze
  dsimp only
  split
  · exact hstopped
  · exact hk

theorem Canonical.settleRecords (h : Canonical s) : Canonical s.settleRecords := by
  refine canonical_foldl (fun t _ ht => ?_) _ _ (canonical_foldl (fun t _ ht => ?_) _ s h)
  · split
    · exact ht.putTrace _
    · exact ht
  · split
    · exact canonical_ite ((ht.setDisp _).putTrap _) ht
    · exact ht

theorem Canonical.execPanicFreeze (h : Canonical s) : Leads (execPanicFreeze s) := by
  unfold Machine.execPanicFreeze
  refine leads_ite (leads_fault _) (leads_next (Canonical.modCore (Canonical.writeDump (Canonical.settleRecords ?_)) _ rfl))
  refine ⟨?_, h.phys, h.host, h.peer, h.nvme, h.buf, h.tables, h.latched⟩
  dsimp only
  refine mapVals_ok h fun c k hk => ?_
  split
  · exact hk
  · exact coreOk_freeze hk _

theorem Canonical.execNotAnInstruction (h : Canonical s) (w : IWord) : Leads (execNotAnInstruction w s) := h.issue _ fun _ _ _ => holds_fail _

/-! ## The security core -/

theorem Canonical.setSec (h : Canonical s) {x : Sec} (hx : x.buf.wf = true) : Canonical { s with sec := x } :=
  ⟨h.loc, h.phys, h.host, h.peer, h.nvme, hx, h.tables, h.latched⟩

theorem Canonical.signal (h : Canonical s) (n : Nat) : Canonical (s.signal n) := h.setDisp _

theorem Canonical.scStart (h : Canonical s) (cmd : Word) (err len result : Nat) {f : Sec → Sec} (hf : ∀ x, (f x).buf = x.buf) :
    Canonical (s.scStart cmd err len result f) := by
  unfold State.scStart
  refine canonical_ite (h.setSec h.buf) (h.drawNat.setSec ?_)
  rw [hf]
  exact h.drawNat.buf

theorem Canonical.execScReadPublicKey (h : Canonical s) : Leads (execScReadPublicKey s) := leads_next (h.scStart _ _ _ _ fun _ => rfl)

theorem Canonical.execScReadSignatureIndex (h : Canonical s) : Leads (execScReadSignatureIndex s) := leads_next (h.scStart _ _ _ _ fun _ => rfl)

theorem Canonical.execScAttest (h : Canonical s) : Leads (execScAttest s) :=
  leads_ite (leads_next (h.scStart _ _ _ _ fun _ => rfl)) (leads_next (h.scStart _ _ _ _ fun _ => rfl))

theorem Canonical.execScUnknownCommand (h : Canonical s) (v : Word) : Leads (execScUnknownCommand v s) := leads_next (h.scStart _ _ _ _ fun _ => rfl)

theorem Canonical.execScCommandDone (h : Canonical s) : Leads (execScCommandDone s) :=
  leads_ite (leads_next (Canonical.signal (h.setSec (wf_setBytes _ h.buf _ _)) 0)) (leads_fault _)

theorem Canonical.scCommand (h : Canonical s) (v : Word) : Leads (s.scCommand v) := by
  unfold State.scCommand
  dsimp only
  split
  · exact h.execScReadPublicKey
  · exact h.execScAttest
  · exact h.execScReadSignatureIndex
  · exact h.execScUnknownCommand _

/-! ## Bring-up -/

theorem Canonical.setBar (h : Canonical s) (b : Bar0) : Canonical { s with bar := b } := h.same rfl

theorem Canonical.toStage (h : Canonical s) (n : Nat) : Canonical (s.toStage n) := (h.setBar _).signal 0

theorem Canonical.bootStop (h : Canonical s) (bit : Nat) : Canonical (s.bootStop bit) := h.setBar _

theorem Canonical.bootErr (h : Canonical s) (b : Bool) (bit : Nat) : Canonical (s.bootErr b bit) := canonical_ite (h.setBar _) h

theorem Canonical.execPowerGood (h : Canonical s) : Leads (execPowerGood s) := by
  refine leads_ite (leads_next (canonical_ite (Canonical.toStage ?_ 1) (h.setBar _))) (leads_fault _)
  exact h.same rfl

theorem Canonical.execFirmwareVerify (h : Canonical s) : Leads (execFirmwareVerify s) :=
  leads_ite (leads_next (canonical_ite (h.toStage 2) (h.bootStop 0))) (leads_fault _)

theorem Canonical.execMemoryTraining (h : Canonical s) : Leads (execMemoryTraining s) := by
  refine leads_ite (leads_next (canonical_ite (Canonical.toStage ?_ 3) (h.bootStop 1))) (leads_fault _)
  exact (h.setPhys (m := {}) wf_nil).same rfl

theorem Canonical.execPortTraining (h : Canonical s) : Leads (execPortTraining s) := by
  refine leads_ite (leads_next (Canonical.bootErr (Canonical.toStage ?_ 4) _ 2)) (leads_fault _)
  exact h.same rfl

theorem canon_placeKernel {m : Space} (hm : Canon m) : Canon m.placeKernel := canon_foldl (fun _ _ hm => wf_writeRaw hm _ _ _) _ m hm

theorem Canonical.execScerathLoad (h : Canonical s) : Leads (execScerathLoad s) := by
  refine leads_ite (leads_next (Canonical.bootErr (Canonical.toStage (canonical_foldl (fun t k ht => ht.setCore ?_ _) _ _ ?_) 5) _ 3)) (leads_fault _)
  · exact wf_nil
  · exact h.setPhys (canon_placeKernel h.phys)

theorem Canonical.execBootGo (h : Canonical s) : Leads (execBootGo s) := by
  unfold Machine.execBootGo
  refine leads_ite (leads_next ?_) (leads_fault _)
  have hroots : Canonical { s.latchReads with dtoff := s.latchReads.dtoff + s.latchReads.bar.dtadj, sysTables := s.latchReads.phys.walked } :=
    ⟨h.latchReads.loc, h.latchReads.phys, h.latchReads.host, h.latchReads.peer, h.latchReads.nvme, h.latchReads.buf, wf_walked h.latchReads.phys,
      h.latchReads.latched⟩
  dsimp only
  split
  · exact Canonical.acceptSub ((hroots.toStage 6).setDisp _) _
  · exact (hroots.toStage 6).setDisp _

theorem Canonical.execModuleReset (h : Canonical s) : Leads (execModuleReset s) := by
  have hreset : Canonical State.reset := resetMemoryOk
  exact leads_next ⟨hreset.loc, hreset.phys, h.host, h.peer, h.nvme, hreset.buf, hreset.tables, hreset.latched⟩

/-! ## The host's accesses -/

theorem Canonical.setConfig (h : Canonical s) (f : Bar0 → Bar0) : Canonical (s.setConfig f) := canonical_ite h (h.setBar _)

theorem Canonical.execEcccntWrite (h : Canonical s) (v : Word) : Leads (execEcccntWrite v s) := leads_next (h.setBar _)

theorem Canonical.writeBar0 (h : Canonical s) (off : Nat) (v : Word) : Leads (s.writeBar0 off v) := by
  unfold State.writeBar0
  split
  · exact (h.acceptCmp _).execMboxSubWrite _
  · exact leads_next (h.setConfig _)
  · exact leads_next (h.setConfig _)
  · exact leads_next (h.setConfig _)
  · exact leads_next (h.setConfig _)
  · exact leads_next (h.setConfig _)
  · exact leads_next (h.setConfig _)
  · exact leads_next (h.setConfig _)
  · exact leads_next (h.setConfig _)
  · exact leads_ite h.execBootGo (leads_next h)
  · exact h.execEcccntWrite v
  · exact h.scCommand v
  · exact leads_ite (h.execSlotTableWrite ..) (leads_ite (leads_next (h.setSec (wf_setBytes _ h.buf _ _))) (leads_next h))

theorem Canonical.writeHctl (h : Canonical s) (core : Nat) (v : Word) : Canonical (s.writeHctl core v) :=
  canonical_foldl (fun _ _ ht => canonical_ite (canonical_ite (ht.requestHalt ..) ht) (canonical_ite (ht.release ..) ht)) _ s h

theorem Canonical.execTbwpWrite (h : Canonical s) : Leads (execTbwpWrite s) := leads_next (h.setDbg _)

theorem Canonical.writeBar2 (h : Canonical s) (off : Nat) (v : Word) : Leads (s.writeBar2 off v) := by
  unfold State.writeBar2
  refine leads_ite ?_ (leads_ite (leads_next h) (leads_ite (leads_next (h.writeHctl ..)) (leads_ite (leads_next (h.modCore _ rfl))
    (leads_ite (leads_next (h.modCore _ rfl)) (leads_ite (h.execSvdataWrite ..) (leads_next h))))))
  split
  · exact leads_next (h.setDbg _)
  · exact leads_next (h.setDbg _)
  · exact leads_next (h.setDbg _)
  · exact leads_ite h.execTbwpWrite (leads_next h)
  · exact leads_next (h.setDbg _)
  · exact leads_next h

theorem Canonical.execRegisterWrite (h : Canonical s) (bar off : Nat) (v : Word) : Leads (execRegisterWrite bar off v s) := by
  unfold Machine.execRegisterWrite
  split
  · exact h.writeBar0 ..
  · exact h.writeBar2 ..
  · exact leads_next h

theorem Canonical.setHostRead (h : Canonical s) (r : HostRead) : Canonical { s with hostRead := r } := h.same rfl

theorem Canonical.execHostWindowRead (h : Canonical s) (off len : Nat) : Leads (execHostWindowRead off len s) :=
  leads_next (canonical_ite ((h.copied ..).setHostRead _) (h.setHostRead _))

theorem Canonical.execHostWindowWrite (h : Canonical s) (off len v : Nat) : Leads (execHostWindowWrite off len v s) :=
  leads_ite (leads_next h) (leads_next (Canonical.countPoison (h.setPhys
    (canon_foldl (fun _ _ hm => canon_ite (wf_poison hm _) (wf_writeRaw hm _ _ _)) _ _ h.phys)) _))

theorem canon_scrub {m : Space} (hm : Canon m) (w : Nat) : Canon (m.scrub w).1 := by
  unfold Space.scrub
  split
  · exact hm
  · split
    · exact hm
    · exact wf_poison hm w
  · exact wf_repair hm w

theorem canon_scrubs (l : List Nat) : ∀ acc : Space × Nat, Canon acc.1 → Canon (l.foldl (fun (acc : Space × Nat) w =>
    let x := acc.1.scrub w
    (x.1, acc.2 + x.2)) acc).1 := by
  induction l with
  | nil => exact fun _ hm => hm
  | cons w r ih => exact fun _ hm => ih _ (canon_scrub hm w)

theorem Canonical.execPatrolScrub (h : Canonical s) (sector : Nat) : Leads (execPatrolScrub sector s) := by
  refine leads_ite (leads_next (Canonical.countPoison ?_ _)) (leads_fault _)
  exact (h.setPhys (canon_scrubs (rangeFrom (8 * sector) 8) (s.phys, 0) h.phys)).same rfl

/-! ## Power -/

theorem Canonical.measure (h : Canonical s) (power temp : Nat) : Canonical (s.measure power temp) := by
  refine canonical_ite ?_ (Canonical.signal ?_ 0)
  all_goals exact h.same rfl

theorem Canonical.killAll (h : Canonical s) : Canonical s.killAll := by
  unfold State.killAll
  refine canonical_foldl (fun _ _ ht => ((ht.sendRecord _).walkEnds ..).sysEvent 2) _ _ ?_
  have hpopped := fun d => Canonical.setDisp (canonical_foldl (fun _ b ht => ht.popReady b.lr.sliceid) (s.disp.picked.toList ++ s.disp.ready) s h) d
  split
  · exact (hpopped _).killRunning ..
  · exact hpopped _

theorem Canonical.tripNow (h : Canonical s) (power temp : Nat) : Canonical (s.tripNow power temp) := by
  have hkill := (h.measure power temp).killAll
  refine Canonical.signal ?_ 0
  exact ⟨fun p hp => hkill.loc p (List.mem_filter.1 hp).1, hkill.phys, hkill.host, hkill.peer, hkill.nvme, hkill.buf, hkill.tables, hkill.latched⟩

theorem Canonical.execPowerTrip (h : Canonical s) (power temp : Nat) : Leads (execPowerTrip power temp s) := leads_ite (leads_fault _) (leads_next (h.tripNow ..))

theorem Canonical.execPowerWarn (h : Canonical s) (power temp : Nat) : Leads (execPowerWarn power temp s) := leads_next (canonical_ite (h.tripNow ..) (h.measure ..))
end device

end Sys2Proof.Proofs
end

section
/-! The canonical form of every memory (log 3): the words of local memory and the bank cycles. -/

namespace Sys2Proof.Proofs

open Sys2Proof Sys2Proof.Machine Sys2Proof.Safety Sys2Proof.Claims Sys2Proof.Laws

section banks
variable {s : State} {k : Core}

/-! ## Loads, stores and the layout table -/

theorem Canonical.scalarRead (h : Canonical s) (a w : Nat) : Holds (fun p => Canonical p.2) (s.scalarRead a w) := by
  refine holds_any fun _ => holds_any fun _ => holds_any fun _ => holds_ite (holds_ok ((h.addChecks _).readLocal ..)) ?_
  split
  · exact holds_fail _
  · exact holds_bind (h.raceSectors ..) fun _ ht => holds_ok (ht.readLocal ..)

theorem Canonical.scalarWrite (h : Canonical s) (a w x : Nat) : Holds Canonical (s.scalarWrite a w x) :=
  holds_any fun _ => holds_any fun _ => holds_bind (h.raceSectors ..) fun _ ht => ((ht.modCur _).storeFrom ..).claim ..

theorem Canonical.loadInto (h : Canonical s) (d : Reg) (sign : Bool) (x a w : Nat) : Holds Canonical (s.loadInto d sign x a w) := (h.result ..).claim ..

theorem Canonical.execLd (h : Canonical s) (d a b : Reg) (w : BitVec 4) : Leads (execLd d a b w s) :=
  h.issue _ fun _ _ ht => holds_bind (ht.scalarRead ..) fun _ hp => hp.loadInto ..

theorem Canonical.execLdn (h : Canonical s) (d a b : Reg) (w : BitVec 4) : Leads (execLdn d a b w s) :=
  h.issue _ fun _ _ ht => holds_bind (ht.scalarRead ..) fun _ hp => hp.loadInto ..

theorem Canonical.execLdo (h : Canonical s) (d a : Reg) (i : BitVec 11) : Leads (execLdo d a i s) :=
  h.issue _ fun _ _ ht => holds_bind (ht.scalarRead ..) fun _ hp => hp.loadInto ..

theorem Canonical.ltset (h : Canonical s) (d a : Reg) : Holds Canonical (s.ltset d a) :=
  holds_any fun _ => holds_bind (h.raceSectors ..) fun _ ht => ((ht.modCur _).storeFrom ..).claim ..

theorem Canonical.ltget (h : Canonical s) (d a : Reg) : Holds Canonical (s.ltget d a) :=
  holds_any fun _ => holds_ok (canonical_foldl (fun _ _ ht => ht.result ..) _ _ (h.useEntry _ _))

theorem Canonical.lfence (h : Canonical s) : Holds Canonical s.lfence := by
  have hflush := fun f => Canonical.modCur (h.modCurCore (f := Core.lcFlush) rfl) f
  refine holds_ite (holds_ite (holds_fail _) (holds_ok (hflush _))) (holds_ite (holds_error _) ?_)
  split
  · exact holds_ite (holds_error _) (holds_ok (hflush _))
  · exact holds_ok (hflush _)

/-! ## Accesses that lose their bank -/

theorem coreOk_modCtx (hk : CoreOk k) (x : Nat) (f : Ctx → Ctx) : CoreOk (k.modCtx x f) := hk

theorem coreOk_delayWrite (hk : CoreOk k) (u : BankUse) (d : Nat) : CoreOk (k.delayWrite u d) := by
  unfold Core.delayWrite
  split
  · exact hk
  · refine coreOk_settle ?_ u.sec
    exact canon_putOffWrite hk ..

theorem coreOk_shiftConvoy (hk : CoreOk k) (ctx push d : Nat) : CoreOk (k.shiftConvoy ctx push d) := by
  unfold Core.shiftConvoy
  split
  · exact hk
  · refine coreOk_modCtx ?_ ctx _
    exact coreOk_foldl (fun _ u hk => coreOk_delayWrite hk u d) _ k hk

theorem coreOk_reschedule (hk : CoreOk k) (ctx delayed now : Nat) : Holds CoreOk (k.reschedule ctx delayed now) := by
  unfold Core.reschedule
  dsimp only
  split
  · exact holds_error _
  · exact holds_ok (coreOk_foldl (fun _ _ hk => coreOk_shiftConvoy hk ..) _ _ (coreOk_modCtx hk ctx _))

theorem coreOk_delayUse (hk : CoreOk k) (u : BankUse) : CoreOk (k.delayUse u) := coreOk_delayWrite (coreOk_modCtx hk _ _) u 1

theorem coreOk_setBarriers (hk : CoreOk k) (b : SMap Bar) : CoreOk { k with bars := b } := hk

theorem coreOk_arbitrate (hk : CoreOk k) (now : Nat) : Holds CoreOk (k.arbitrate now) := by
  have hmoved (l : List BankUse) : CoreOk (l.foldl Core.delayUse k) := coreOk_foldl (fun _ u hk => coreOk_delayUse hk u) l k hk
  unfold Core.arbitrate
  dsimp only
  split
  · exact holds_error _
  · split
    · exact holds_error _
    · next hdone =>
      have hall := holds_foldlM (Q := CoreOk) (f := fun (k : Core) (p : Nat × Nat) => k.reschedule p.1 p.2 now) fun _ _ hk => coreOk_reschedule hk ..
      refine holds_ok (P := CoreOk) ?_
      refine coreOk_setBarriers ((hall _ _ ?_).of _ hdone) _
      exact hmoved _

theorem Canonical.arbitrate (h : Canonical s) (core : Nat) : Holds Canonical (s.arbitrate core) := by
  unfold State.arbitrate
  split
  · next hk => exact holds_ok (h.setCore ((coreOk_arbitrate (h.core core) s.now).of _ hk) core)
  · exact holds_fail _
end banks

end Sys2Proof.Proofs
end

section
/-! Every step keeps every memory in canonical form (O60, log 3). -/

namespace Sys2Proof.Proofs

open Sys2Proof Sys2Proof.Machine Sys2Proof.Safety Sys2Proof.Claims Sys2Proof.Laws

section steps
variable {s : State}

theorem canonical_exec (h : Canonical s) (i : Instr) : Leads (exec i s) :=
  match i with
  | .add .. | .sub .. | .and .. | .or .. | .xor .. | .shl .. | .shr .. | .sar .. | .min .. | .max .. | .minn .. | .maxn .. | .sel .. | .mul .. | .mulh ..
  | .mulhn .. | .cmpeq .. | .cmpne .. | .cmplt .. | .cmpltn .. | .cmple .. | .cmplen .. | .clz .. | .ctz .. | .popc .. | .bext .. | .bins .. | .brev ..
  | .addi .. | .andi .. | .ori .. | .xori .. | .shli .. | .shri .. | .sari .. | .li .. | .lis .. | .padd .. | .psub .. | .paln .. | .pcls .. =>
    h.scalarResult ..
  | .div .. | .divn .. | .rem .. | .remn .. | .fdiv .. | .fsqrt .. => h.iterResult ..
  | .fadd f64 d a b => (h.fpResult .. : Leads (execFadd f64 d a b s))
  | .fsub f64 d a b => (h.fpResult .. : Leads (execFsub f64 d a b s))
  | .fmul f64 d a b => (h.fpResult .. : Leads (execFmul f64 d a b s))
  | .fmin f64 d a b => (h.fpResult .. : Leads (execFmin f64 d a b s))
  | .fmax f64 d a b => (h.fpResult .. : Leads (execFmax f64 d a b s))
  | .fcmpeq f64 d a b => (h.fpResult .. : Leads (execFcmpeq f64 d a b s))
  | .fcmplt f64 d a b => (h.fpResult .. : Leads (execFcmplt f64 d a b s))
  | .fcmple f64 d a b => (h.fpResult .. : Leads (execFcmple f64 d a b s))
  | .fcvtif f64 d a => (h.fpResult .. : Leads (execFcvtif f64 d a s))
  | .fcvtfi f64 d a => (h.fpResult .. : Leads (execFcvtfi f64 d a s))
  | .fma f64 d a b => (h.fpResult .. : Leads (execFma f64 d a b s))
  | .pdiff .. => h.execPdiff ..
  | .mfs .. => h.execMfs ..
  | .mts .. => h.execMts ..
  | .win _ | .exit | .msel _ | .smpl _ | .rft => h.issueOk _ fun _ _ ht => ht.modCur _
  | .span i => (h.issueOk _ fun _ _ ht => ht.modCur _ : Leads (execSpan i s))
  | .vpart a => (h.issueOk _ fun _ _ ht => ht.modCur _ : Leads (execVpart a s))
  | .guardNz a => (h.issueOk _ fun _ _ ht => ht.modCur _ : Leads (execGuardNz a s))
  | .guardZ a => (h.issueOk _ fun _ _ ht => ht.modCur _ : Leads (execGuardZ a s))
  | .nop => h.issueOk _ fun _ _ ht => ht
  | .br _ => h.issueOk _ fun _ _ ht => ht.jump ..
  | .bz d o => (h.issueOk _ fun _ _ ht => ht.jumpIf .. : Leads (execBz d o s))
  | .bnz d o => (h.issueOk _ fun _ _ ht => ht.jumpIf .. : Leads (execBnz d o s))
  | .call d o => (h.issueOk _ fun _ _ ht => (ht.result ..).jump .. : Leads (execCall d o s))
  | .jr d a => (h.issueOk _ fun _ _ ht => (ht.result ..).jump .. : Leads (execJr d a s))
  | .loop .. => h.execLoop ..
  | .setl .. => h.execSetl ..
  | .vrel => h.execVrel
  | .ld .. => h.execLd ..
  | .ldn .. => h.execLdn ..
  | .ldo .. => h.execLdo ..
  | .st d a b w => (h.issue _ fun _ _ ht => ht.scalarWrite .. : Leads (execSt d a b w s))
  | .sto d a i => (h.issue _ fun _ _ ht => ht.scalarWrite .. : Leads (execSto d a i s))
  | .vld .. | .vst .. | .vldx .. | .vstx .. | .vldt .. | .vstt .. | .vldb .. | .vstb .. => h.vmemWord ..
  | .qpop .. => h.issue _ fun _ _ ht => ht.qpop ..
  | .qpush .. => h.issue _ fun _ _ ht => ht.qpush ..
  | .qwait .. => h.issue _ fun _ _ ht => ht.qwait ..
  | .qstat d q => (h.issueOk _ fun _ _ ht => ht.result .. : Leads (execQstat d q s))
  | .xstat b => (h.issueOk _ fun _ _ ht => ht.result .. : Leads (execXstat b s))
  | .ptest d => (h.issueOk _ fun _ _ ht => ht.result .. : Leads (execPtest d s))
  | .mstat d => (h.issueOk _ fun _ _ ht => ht.result .. : Leads (execMstat d s))
  | .ltset .. => h.issue _ fun _ _ ht => ht.ltset ..
  | .ltget .. => h.issue _ fun _ _ ht => ht.ltget ..
  | .lfence => h.issue _ fun _ _ ht => ht.lfence
  | .turn lvl paths a b => (h.issue _ fun _ _ ht => ht.queueTurn .. : Leads (execTurn lvl paths a b s))
  | .turnt .. => h.issue _ fun _ _ ht => ht.turnt ..
  | .twait => h.execTwait
  | .tstat .. => h.execTstat ..
  | .aadd .. | .aand .. | .aor .. | .axor .. | .amin .. | .amax .. | .aminn .. | .amaxn .. | .axchg .. | .acas .. | .afadd .. | .ald .. | .ast .. =>
    h.atomic ..
  | .mshape d a => (h.issueOk _ fun _ _ ht => (ht.setTagsOf _).result .. : Leads (execMshape d a s))
  | .mldw _ | .mldws _ => h.issue _ fun _ _ ht => ht.loadWeights ..
  | .mfwd _ | .mbwd _ => h.issue _ fun _ _ ht => ht.streamRows ..
  | .mswap => h.issue _ fun _ _ ht => ht.mswap
  | .mgrd .. => h.issue _ fun _ _ ht => ht.mgrd ..
  | .mdrain .. => h.issue _ fun _ _ ht => ht.mdrain ..
  | .mzero _ => h.issue _ fun _ _ ht => ht.mzero _
  | .mamax _ => h.execMamax _
  | .mwait => h.execMwait
  | .xfer .. | .halo .. | .xred .. | .xcast .. | .xfar .. => h.exchWord ..
  | .parr => h.execParr
  | .pwait => h.execPwait
  | .cbarr .. => h.issue _ fun _ _ ht => ht.cbarr ..
  | .cbwait _ => h.execCbwait _
  | .yield => h.execYield
  | .trap _ => h.execTrap _
  | .tlbi .. => h.execTlbi ..
  | .wfe _ => h.execWfe _
  | .spawn .. => h.issue _ fun _ _ ht => ht.spawnWord ..
  | .slkill .. => h.execSlkill ..
  | .resume .. => h.issue _ fun _ _ ht => ht.resumeWord ..
  | .brk _ => h.execBrk _
  | .dmark _ => h.execDmark _
  | .vadd _ | .vsub _ | .vmul _ | .vfma _ | .vfms _ | .vfnma _ | .vdiv _ | .vsqrt _ | .vrsqrt _ | .vrcp _ | .vmin _ | .vmax _ | .vabs _ | .vneg _
  | .vexp2 _ | .vlog2 _ | .vand _ | .vor _ | .vxor _ | .vshl _ | .vshr _ | .vsar _ | .vadds _ | .vsubs _ | .vmulh _ | .vpopc _ | .vceq _ | .vcne _
  | .vclt _ | .vcle _ | .vclass _ | .vsel _ | .vmov _ | .vbcst _ | .vcvt _ | .vtag _ | .vround _ | .vscale _ | .vqnt _ | .vdqnt _ | .vrsum _ | .vrmax _
  | .vrmin _ | .vror _ | .vperm _ | .vslup _ | .vsldn _ | .viota _ | .vroll _ | .vmpop _ | .vmfirst _ | .vzip _ | .vunzip _ | .vmand _ | .vmor _
  | .vmxor _ | .vmnot _ => h.vecWord ..
  | .resultLanding .. => h.execResultLanding ..
  | .vectorConvoyStart .. => h.execVectorConvoyStart ..
  | .vectorMemberStart .. => h.execVectorMemberStart ..
  | .vectorConvoyRetire .. => h.execVectorConvoyRetire ..
  | .exitComplete .. => h.execExitComplete ..
  | .spanClose .. => h.execSpanClose ..
  | .spanOverrun .. => h.execSpanOverrun ..
  | .turnStart .. => h.execTurnStart ..
  | .turnGroupFlip .. => h.execTurnGroupFlip ..
  | .turnComplete .. => h.execTurnComplete ..
  | .matrixCommandStart _ => h.execMatrixCommandStart _
  | .drainSectorWrite _ => h.execDrainSectorWrite _
  | .matrixCommandComplete _ => h.execMatrixCommandComplete _
  | .parrTakesEffect .. => h.execParrTakesEffect ..
  | .coreArrived _ => h.execCoreArrived _
  | .cbArrivalEffect .. => h.execCbArrivalEffect ..
  | .cbGenerationComplete .. => h.execCbGenerationComplete ..
  | .descriptorStart .. => h.execDescriptorStart ..
  | .descriptorBeat .. => h.execDescriptorBeat ..
  | .descriptorLanded .. => h.execDescriptorLanded ..
  | .xfarHandoff .. => h.execXfarHandoff ..
  | .farSourceRead .. => h.execFarSourceRead ..
  | .fillLand .. => h.execFillLand ..
  | .queueDrainEntry .. => h.execQueueDrainEntry ..
  | .systemTrapEntry _ => h.execSystemTrapEntry _
  | .mboxSubWrite _ => h.execMboxSubWrite _
  | .mboxCmpWrite _ => leads_next (h.acceptCmp _)
  | .graphSliceNode _ => h.execGraphSliceNode _
  | .graphCondNode _ => h.execGraphCondNode _
  | .graphLoopNode _ => h.execGraphLoopNode _
  | .hctlHaltRequest .. => leads_next (canonical_ite (h.requestHalt ..) h)
  | .hctlRelease .. => leads_next (h.release ..)
  | .haltLanding .. => h.execHaltLanding ..
  | .svdataRead _ => h.execSvdataRead _
  | .svdataWrite .. => h.execSvdataWrite ..
  | .registerWrite .. => h.execRegisterWrite ..
  | .ecccntWrite _ => h.execEcccntWrite _
  | .hostWindowRead .. => h.execHostWindowRead ..
  | .hostWindowWrite .. => h.execHostWindowWrite ..
  | .scUnknownCommand _ => h.execScUnknownCommand _
  | .slotTableWrite .. => h.execSlotTableWrite ..
  | .flitTransmit _ => h.execFlitTransmit _
  | .flitReceive .. => h.execFlitReceive ..
  | .powerWarn .. => h.execPowerWarn ..
  | .powerTrip .. => h.execPowerTrip ..
  | .patrolScrub _ => h.execPatrolScrub _
  | .notAnInstruction _ => h.execNotAnInstruction _
  | .straggler => h.execStraggler
  | .phaseChange => h.execPhaseChange
  | .budgetExhausted => h.execBudgetExhausted
  | .preemption => h.execPreemption
  | .sliceStart => h.execSliceStart
  | .sliceResume => h.execSliceResume
  | .sliceCompletion => h.execSliceCompletion
  | .photonicWakeup => h.execPhotonicWakeup
  | .trapRecordEnqueue => h.execTrapRecordEnqueue
  | .submitSlice => h.execSubmitSlice
  | .submitGraph => h.execSubmitGraph
  | .submitKill => h.execSubmitKill
  | .submitIgnored => h.execSubmitIgnored
  | .recordWrite => h.execRecordWrite
  | .traceRecord => h.execTraceRecord
  | .tbwpWrite => h.execTbwpWrite
  | .panicFreeze => h.execPanicFreeze
  | .moduleReset => h.execModuleReset
  | .powerGood => h.execPowerGood
  | .firmwareVerify => h.execFirmwareVerify
  | .memoryTraining => h.execMemoryTraining
  | .portTraining => h.execPortTraining
  | .scerathLoad => h.execScerathLoad
  | .bootGo => h.execBootGo
  | .scReadPublicKey => h.execScReadPublicKey
  | .scAttest => h.execScAttest
  | .scReadSignatureIndex => h.execScReadSignatureIndex
  | .scCommandDone => h.execScCommandDone
  | .rotationBoundary => h.execRotationBoundary
  | .slotBoundary => h.execSlotBoundary

theorem Canonical.takeInput (h : Canonical s) : Canonical s.takeInput := by
  unfold State.takeInput
  split
  · exact h
  · next i r _ =>
    have hrest : Canonical { s with inbox := r } := h.same rfl
    refine canonical_ite ?_ hrest
    split
    · next hnext => exact (canonical_exec hrest i).of _ hnext
    · exact hrest

theorem Canonical.atCycle (h : Canonical s) (t : Nat) : Canonical (s.at t) := h.same rfl

theorem Canonical.atCtx (h : Canonical s) (t core ctx : Nat) : Canonical (s.atCtx t core ctx) := h.same rfl

theorem canonical_step (h : Canonical s) : Leads (step s) := by
  unfold step
  split
  · exact canonical_exec (h.atCycle _) _
  · exact leads_next (h.atCycle _).takeInput
  · exact (h.atCycle _).stepped _ ((h.atCycle _).arbitrate _)
  · exact (h.atCycle _).stepped _ ((h.atCycle _).runCheck ..)
  · exact canonical_exec (h.atCtx ..) _
  · exact leads_next (h.same rfl)
end steps

/-- Settles O60: each operation on the state keeps every memory in canonical form, then each instruction and each step of the device does. -/
theorem stepKeepsMemoryOk : Obligations.StepKeepsMemoryOk := fun _ t h hstep => (canonical_step h).of t hstep

end Sys2Proof.Proofs
end
